-- ==== Sys2Proof/Word.lean ====
section
/-! DEFINITION. The word types of the model (R12: bit 0 is the least significant bit). Everything that is computed
with them (fields, byte order, sign extension) stands in Machine/Bits.lean. -/

namespace Sys2Proof

/-- One byte of any memory of the device. -/
abbrev Byte := BitVec 8

/-- A word register of a thread (R94). -/
abbrev Word := BitVec 32

/-- A BAR0 register, a register pair or an instruction (R9, R95, R98). -/
abbrev DWord := BitVec 64

/-- The five assemblies of Table 0.1 (R2). -/
inductive Assembly where
  | c12m8x4 | c12m4x4 | c8m8x4 | c8m4x2 | c4m2x1
  deriving DecidableEq, Repr

end Sys2Proof
end

