-- ==== Sys2Proof/Syntax.lean ====
section
/-! DEFINITION. The commands the block takes: one constructor per row of spec/opcode_table.json, in the table's order,
with the row's operands. A tile instruction names the tile by its window index `t = y * 64 + x` (R25), the group slot
and the 64-bit instruction word (R98); a register command names the PCIe function that wrote (`fn`: 0 the PF, v the VF
of partition v - 1, R280); a partition number of 8 is the device queue of R296; an event names the unit it falls on, and
what only the outside world knows (a sensor code, a measured current, a frame's bytes) is its operand. -/

namespace Sys2Proof

/-- How a slice of a retrain or margining run begins or ends (R209, R210). `last` marks the run's last slice and
`eyes` then gives the edges found on pins 0 to 35, in signed steps; a failed run ends with `fails`. -/
inductive RunEvent where
  | begins
  | ends (last : Bool) (eyes : List (Int × Int))
  | fails
  deriving DecidableEq, Repr

/-- How a port's training ends (R274): lock, the HELLO fields received and the equalizer settings of the lanes that it was
reached with, or a failure. -/
inductive TrainResult where
  | locked (peerDev peerPort : Nat) (eq : List (BitVec 8))
  | failed
  deriving DecidableEq, Repr

/-- Why a received frame is discarded (R259, R260, R263): a FEC codeword that is uncorrectable, a CRC or FCS that does not
match, the frame type it carries, or in Ethernet mode its destination address and EtherType. -/
inductive BadFrame where
  | fec
  | crc
  | ty (ty : Nat)
  | eth (dst etype : Nat)
  deriving DecidableEq, Repr

/-- How a BIST slice ends (R344 to R346): passed, stopped at 200 us, a column or a row of the subarray that is broken, with
the row and column of the mismatch, or any other failure with its detail. -/
inductive BistResult where
  | pass
  | over
  | column (row col : Nat)
  | row (row col : Nat)
  | fail (detail : BitVec 32)
  deriving DecidableEq, Repr

/-- A header-switched domain (R307). Tiles are physical: stack, row, column. -/
inductive PowerDomain where
  | tile (stack row col : Nat)
  | slice (stack k : Nat)
  | port (p : Nat)
  | ctrl (c : Nat)
  deriving DecidableEq, Repr

/-- The header-switched domains of a unit (R304): its arrays, its logic, its links and its memory interface. -/
inductive Supply where
  | arrays | logic | links | memIf
  deriving DecidableEq, Repr

/-- What the FEC decoder of a port reports after a second (R275, R277): the codewords that it has corrected, and whether the
pre-FEC symbol error ratio was above 10^-4. -/
structure FecReport where
  port : Nat
  corr : Nat
  high : Bool
  deriving DecidableEq, Repr

/-- The values at which the two counters of a command stand at a strobe (R297, R300). -/
structure Counters where
  cmd  : Nat
  cntA : Nat
  cntB : Nat
  deriving DecidableEq, Repr

/-- The voltages of the five rails in mV: by the monitors, and by the last PMBus reading (R312, R346). -/
structure RailVolts where
  monitor : List Nat
  pmbus   : List Nat
  deriving DecidableEq, Repr

/-- A firmware broadcast (R366): the rectangle as the mailbox has it, and the tiles of which a check of the CRC-32 fails with
the number of their checks that do. -/
structure FwBroadcast where
  rect : BitVec 32
  bad  : List (Nat × Nat)
  deriving DecidableEq, Repr

/-- A reset domain instance of Table 14.6. -/
inductive ResetDomain where
  | tile (t : Nat)
  | stack (s : Nat)
  | part (p : Nat)
  | port (p : Nat)
  | ctrl (c : Nat)
  | ioDie (d : Nat)
  | device
  deriving DecidableEq, Repr

/-- What the hardware finds while a bring-up stage runs (R360, R361, R365, R366): the duration in ms, a PLL that did
not lock (its unit), pseudo-channels that cannot be trained (controller, pseudo-channel), shelf slices that cannot be
repaired (stack, slice), Surf ports that fail training, tiles that fail BIST and tiles whose firmware load fails
(stack, physical row, physical column), the exchanged HELLO of each Surf port that locks (port, device, port), HALT_IN_N at
the end of stage 0 (R364), the breaks that the shelf march locates (stack, slice, set, whether a column, its place), and the
settings of the pseudo-channels and ports that trained in full (key of `trainKey`, settings). -/
structure StageFindings where
  ms        : Nat
  pllFail   : Option Nat
  badPch    : List (Nat × Nat)
  badSlices : List (Nat × Nat)
  badPorts  : List Nat
  hellos    : List (Nat × Nat × Nat)
  failTiles : List (Nat × Nat × Nat)
  fwFails   : List (Nat × Nat × Nat)
  haltInN   : Bool
  marches   : List (Nat × Nat × Nat × Bool × Nat)
  trained   : List (Nat × List (BitVec 8))
  deriving DecidableEq, Repr

/-- The commands of the block, one per row of the table. -/
inductive Instr where
  /-- REGISTER_WRITE (R9): A host write to a register that has no behaviour of its own, applied under the access-width, alignment and access-code rules. -/
  | registerWrite (fn off width : Nat) (v : BitVec 64)
  /-- IADD (R99): Adds two registers modulo 2^32 in each active, guarded thread. -/
  | iadd (t slot : Nat) (w : BitVec 64)
  /-- ISUB (R99): Subtracts two registers modulo 2^32. -/
  | isub (t slot : Nat) (w : BitVec 64)
  /-- IMUL (R99): Writes the low 32 bits of a product. -/
  | imul (t slot : Nat) (w : BitVec 64)
  /-- IMULH (R99): Writes the high 32 bits of a signed or unsigned product. -/
  | imulh (t slot : Nat) (w : BitVec 64)
  /-- IMAD (R99): Integer multiply-add modulo 2^32, register class only. -/
  | imad (t slot : Nat) (w : BitVec 64)
  /-- AND (R99): Bitwise AND. -/
  | andB (t slot : Nat) (w : BitVec 64)
  /-- OR (R99): Bitwise OR. -/
  | orB (t slot : Nat) (w : BitVec 64)
  /-- XOR (R99): Bitwise XOR. -/
  | xorB (t slot : Nat) (w : BitVec 64)
  /-- SHL (R99): Shifts left by wb mod 32. -/
  | shl (t slot : Nat) (w : BitVec 64)
  /-- SHR (R99): Logical shift right by wb mod 32. -/
  | shr (t slot : Nat) (w : BitVec 64)
  /-- SAR (R99): Arithmetic shift right by wb mod 32. -/
  | sar (t slot : Nat) (w : BitVec 64)
  /-- IMIN (R99): Signed or unsigned minimum. -/
  | imin (t slot : Nat) (w : BitVec 64)
  /-- IMAX (R99): Signed or unsigned maximum. -/
  | imax (t slot : Nat) (w : BitVec 64)
  /-- SEL (R99): Selects wa or wb by a predicate. -/
  | sel (t slot : Nat) (w : BitVec 64)
  /-- ISETP (R99): Sets a predicate from an integer compare. -/
  | isetp (t slot : Nat) (w : BitVec 64)
  /-- BITOP (R99): Population count, leading-zero count or bit reversal. -/
  | bitop (t slot : Nat) (w : BitVec 64)
  /-- IADD64 (R99): Adds register pairs modulo 2^64. -/
  | iadd64 (t slot : Nat) (w : BitVec 64)
  /-- FADD (R101): binary32 addition in the selected rounding mode, raising flags under R391. -/
  | fadd (t slot : Nat) (w : BitVec 64)
  /-- FMUL (R101): binary32 multiplication. -/
  | fmul (t slot : Nat) (w : BitVec 64)
  /-- FFMA (R101): binary32 fused multiply-add with one rounding. -/
  | ffma (t slot : Nat) (w : BitVec 64)
  /-- FMIN (R101): IEEE minimumNumber on binary32. -/
  | fmin (t slot : Nat) (w : BitVec 64)
  /-- FMAX (R101): IEEE maximumNumber on binary32. -/
  | fmax (t slot : Nat) (w : BitVec 64)
  /-- FSETP (R391): Sets a predicate from a binary32 compare. -/
  | fsetp (t slot : Nat) (w : BitVec 64)
  /-- FSFU (R102): Special function RCP, SQRT, RSQRT, EXP2 or LOG2. -/
  | fsfu (t slot : Nat) (w : BitVec 64)
  /-- CVT (R102): Converts between the types of Table 4.4 with saturation and NaN rules. -/
  | cvt (t slot : Nat) (w : BitVec 64)
  /-- DADD (R101): binary64 addition on pairs. -/
  | dadd (t slot : Nat) (w : BitVec 64)
  /-- DMUL (R101): binary64 multiplication on pairs. -/
  | dmul (t slot : Nat) (w : BitVec 64)
  /-- DFMA (R101): binary64 fused multiply-add. -/
  | dfma (t slot : Nat) (w : BitVec 64)
  /-- DSETP (R391): Sets a predicate from a binary64 compare. -/
  | dsetp (t slot : Nat) (w : BitVec 64)
  /-- CVTRAW (R103): Converts a raw accumulator record to FP64. -/
  | cvtraw (t slot : Nat) (w : BitVec 64)
  /-- SHFL (R99): Reads wa from another thread of the group. -/
  | shfl (t slot : Nat) (w : BitVec 64)
  /-- BRA (R109): Uniform conditional branch. -/
  | bra (t slot : Nat) (w : BitVec 64)
  /-- IF (R109): Pushes an IF entry and narrows the active mask. -/
  | ifC (t slot : Nat) (w : BitVec 64)
  /-- ELSE (R109): Switches the active mask to the else mask. -/
  | elseC (t slot : Nat) (w : BitVec 64)
  /-- ENDIF (R109): Restores the mask and pops the IF entry. -/
  | endif (t slot : Nat) (w : BitVec 64)
  /-- LOOP (R109): Pushes a LOOP entry. -/
  | loopC (t slot : Nat) (w : BitVec 64)
  /-- BRK (R109): Removes threads from the loop. -/
  | brk (t slot : Nat) (w : BitVec 64)
  /-- ENDLOOP (R109): Branches back, or leaves the loop and pops its entries. -/
  | endloop (t slot : Nat) (w : BitVec 64)
  /-- CALL (R109): Pushes a return address and branches. -/
  | call (t slot : Nat) (w : BitVec 64)
  /-- RET (R109): Pops the return stack and returns. -/
  | ret (t slot : Nat) (w : BitVec 64)
  /-- BAR (R110): Waits at a barrier; the arrival that completes the count releases every waiting group. -/
  | bar (t slot : Nat) (w : BitVec 64)
  /-- END (R128): Ends the group and releases its arrays; the tile reports when all groups of a LAUNCH have ended. -/
  | endC (t slot : Nat) (w : BitVec 64)
  /-- NOP (R109): No effect. -/
  | nop (t slot : Nat) (w : BitVec 64)
  /-- LDT (R111): Loads from tile memory one 64-byte word per cycle. -/
  | ldt (t slot : Nat) (w : BitVec 64)
  /-- STT (R117): Stores to tile memory, with read-modify-write of partial parts. -/
  | stt (t slot : Nat) (w : BitVec 64)
  /-- LDD (R113): Issues per-line load requests to device memory. -/
  | ldd (t slot : Nat) (w : BitVec 64)
  /-- STD (R113): Issues per-line store requests to device memory. -/
  | std (t slot : Nat) (w : BitVec 64)
  /-- MADD (R114): Issues memory-side add requests to local HBM. -/
  | madd (t slot : Nat) (w : BitVec 64)
  /-- FENCE (R116): Makes the group wait until its earlier stores and adds are accepted at their homes. -/
  | fence (t slot : Nat) (w : BitVec 64)
  /-- SEND (R120): Places a message in the send list, sends its reservations and returns a handle. -/
  | send (t slot : Nat) (w : BitVec 64)
  /-- RECV (R124): Delivers the oldest undelivered message of a queue, polls, or waits. -/
  | recv (t slot : Nat) (w : BitVec 64)
  /-- MSTAT (R123): Waits for a message to be final, returns its status and frees the handle. -/
  | mstat (t slot : Nat) (w : BitVec 64)
  /-- MCANCEL (R123): Cancels a message that has not won arbitration. -/
  | mcancel (t slot : Nat) (w : BitVec 64)
  /-- MFREE (R125): Frees ring space of the oldest delivered message, letting held reservations be granted. -/
  | mfree (t slot : Nat) (w : BitVec 64)
  /-- SREAD (R105): Reads a system value, clearing FP flags for selector 0x0E. -/
  | sread (t slot : Nat) (w : BitVec 64)
  /-- ATTN (R132): Queues an attention pipe command and returns its handle. -/
  | attn (t slot : Nat) (w : BitVec 64)
  /-- ATTNW (R132): Waits for an attention command to be final, returns its status and frees the handle. -/
  | attnw (t slot : Nat) (w : BitVec 64)
  /-- AZERO (R72): Opens an empty output block and binds the array to the group. -/
  | azero (t slot : Nat) (w : BitVec 64)
  /-- ALOAD (R82): Loads FP32 values or raw records into a new or owned block. -/
  | aload (t slot : Nat) (w : BitVec 64)
  /-- AMUL (R80): Multiplies A by B into the accumulators under the anchored accumulation procedure. -/
  | amul (t slot : Nat) (w : BitVec 64)
  /-- ADRAIN (R83): Converts and writes the output block, releasing it unless KEEP is set. -/
  | adrain (t slot : Nat) (w : BitVec 64)
  /-- ASTAT (R85): Waits for earlier work on the array and returns its flag word. -/
  | astat (t slot : Nat) (w : BitVec 64)
  /-- CUPPING_SHADOW_DONE (R62): The shadow recomputation of a sampled block ends and its deviation bin is counted. -/
  | cuppingShadowDone (t arr : Nat)
  /-- DEVICE_REPLY (R227): A reply reaches its master's domain edge and is delivered or discarded as stale, returning ledger entries. -/
  | deviceReply (id : Nat)
  /-- TILE_PROGRAM_LOAD (R126): A LAUNCH image arrives at a tile, which places code, data and arguments, configures rings and starts its group slots. -/
  | tileProgramLoad (t part cmd : Nat)
  /-- TILE_REPORT (R128): A tile reports the end of its LAUNCH groups to the dispatcher, which completes the LAUNCH when all have reported. -/
  | tileReport (t part cmd : Nat)
  /-- RESERVATION (R121): A message reservation reaches a destination, which grants it or holds it in arrival order. -/
  | reservation (src h dst : Nat)
  /-- GRANT (R121): A grant reaches the sender; when all destinations have granted, the message becomes eligible. -/
  | grant (src h dst : Nat)
  /-- MESSAGE_INJECT (R121): An eligible message wins arbitration and its payload flits are injected. -/
  | messageInject (src h : Nat)
  /-- MESSAGE_WRITE (R119): A message is written whole into the destination ring, with a skip record if needed, and can be received. -/
  | messageWrite (src h dst : Nat)
  /-- MESSAGE_COMPLETE (R121): Every destination has written the message and its final status is set. -/
  | messageComplete (src h : Nat)
  /-- GRANT_TIMEOUT (R121): 1024 cycles pass without all grants, so the engine releases every grant and backs off. -/
  | grantTimeout (src h : Nat)
  /-- RESERVATION_RETRY (R121): The back-off wait ends and the engine reserves again. -/
  | reservationRetry (src h : Nat)
  /-- GRANT_RELEASE (R121): A grant release reaches a destination, which frees the granted space. -/
  | grantRelease (src h dst : Nat)
  /-- RECV_TIMEOUT (R124): A waiting RECV times out and returns status 1. -/
  | recvTimeout (t slot : Nat)
  /-- SCAN (R139): The pipe runs a SCAN command over its pages with online soft maximum. -/
  | scan (t h : Nat)
  /-- MERGE (R142): The pipe merges two partials. -/
  | merge (t h : Nat)
  /-- SCORE (R147): The pipe updates importance scores and evicts tokens. -/
  | score (t h : Nat)
  /-- COMPACT (R149): The pipe copies valid tokens into destination pages. -/
  | compact (t h : Nat)
  /-- ATTN_COMMAND_FINAL (R133): A pipe command finishes, writes its output or status, and becomes final. -/
  | attnCommandFinal (t h : Nat)
  /-- SCORE_UPDATE (R174): The home slice's update unit applies a score or bitmap update as one read-modify-write. -/
  | scoreUpdate (id : Nat)
  /-- RING_STEP_END (R155): A device ring step ends when its scans are complete and the received block is valid. -/
  | ringStepEnd (part cmd : Nat)
  /-- BLOCK_ABANDON (R156): A block-abandon notice arrives and the ring's sequences complete with code 6. -/
  | blockAbandon (part cmd : Nat)
  /-- SHELF_READ (R165): A read reaches its home slice, hits or allocates and issues fills. -/
  | shelfRead (id : Nat)
  /-- SHELF_WRITE (R166): A write reaches its home slice and writes its bytes without fetching. -/
  | shelfWrite (id : Nat)
  /-- FILL_ARRIVAL (R165): HBM fill data reaches the slice and fills bytes that are not valid. -/
  | fillArrival (id : Nat)
  /-- SHELF_MADD (R173): A MADD reaches its home slice, which flushes and invalidates the sector and forwards the add. -/
  | shelfMadd (id : Nat)
  /-- MERGE_ENTRY_TIMEOUT (R171): A merge-buffer entry reaches 64 shelf cycles and retires. -/
  | mergeEntryTimeout (stack slice word : Nat)
  /-- SLICE_RETIRE_DONE (R180): A retiring slice finishes its flush and waiting requests proceed at the partner. -/
  | sliceRetireDone (stack slice : Nat)
  /-- HBM_READ (R189): An HBM controller accepts and serves a sector read, decoding the symbol code. -/
  | hbmRead (ctrl id : Nat)
  /-- HBM_WRITE (R169): An HBM controller accepts a full sector write-back. -/
  | hbmWrite (ctrl id : Nat)
  /-- HBM_MASKED_WRITE (R198): An HBM controller applies a masked write with indivisible read-merge-writes. -/
  | hbmMaskedWrite (ctrl id : Nat)
  /-- HBM_ADD (R199): An HBM controller applies a memory-side add, including exact-cell conversion. -/
  | hbmAdd (ctrl id : Nat)
  /-- ADD_ENTRY_TIMEOUT (R200): An add-buffer entry idle for 256 controller cycles is written back. -/
  | addEntryTimeout (ctrl cw : Nat)
  /-- REQUEST_PROMOTE (R206): An HBM request that has waited AGE cycles is promoted to level 2. -/
  | requestPromote (ctrl id : Nat)
  /-- REFRESH (R188): The refresh interval elapses and a refresh is issued. -/
  | refresh (ctrl pch : Nat)
  /-- MEM_RETRAIN (R209): MEM_RTN starts a live retrain of a pseudo-channel. -/
  | memRetrain (by_ ctrl pch : Nat)
  /-- READ_TIMING_MARGIN (R210): MEM_RTN starts a read timing margining run. -/
  | readTimingMargin (by_ ctrl pch : Nat)
  /-- READ_VOLTAGE_MARGIN (R210): MEM_RTN starts a read voltage margining run. -/
  | readVoltageMargin (by_ ctrl pch : Nat)
  /-- WRITE_TIMING_MARGIN (R210): MEM_RTN starts a write timing margining run. -/
  | writeTimingMargin (by_ ctrl pch : Nat)
  /-- WRITE_VOLTAGE_MARGIN (R210): MEM_RTN starts a write voltage margining run. -/
  | writeVoltageMargin (by_ ctrl pch : Nat)
  /-- RETRAIN_SLICE (R209): A retrain or margining slice of at most 20 us begins or ends on its pseudo-channel. -/
  | retrainSlice (ctrl : Nat) (ev : RunEvent)
  /-- HBM_CONTROLLER_RESET (R208): An HBM controller resets, completing accepted writes and incrementing its generation. -/
  | hbmControllerReset (ctrl : Nat) (phyOk : Bool)
  /-- HBM_TEMP_SAMPLE (R324): A stack temperature is read every 1 ms, setting refresh rate and throttling. -/
  | hbmTempSample (ctrl : Nat) (degC limit maximum : Int)
  /-- LOW_PROMOTE (R223): A LOW request that has waited AGE cycles at an arbiter is promoted to rank 2. -/
  | lowPromote (id : Nat)
  /-- TG_CFG_WRITE (R235): Headland writes TG_CFG, setting CFGD. -/
  | tgCfgWrite (v : BitVec 64)
  /-- REF_QUALIFIED (R233): REF_IN is qualified after 10 ms within tolerance. -/
  | refQualified
  /-- REF_LOST (R233): REF_IN is declared lost and the state changes. -/
  | refLost
  /-- STEP_IN_EDGE (R234): A STEP_IN edge is accepted or ignored, and its phase is measured and corrected. -/
  | stepInEdge
  /-- STEP_MISSED (R234): An expected boundary window closes without an edge. -/
  | stepMissed
  /-- TIME_HOLD (R243): Reported time reaches tick 4095 and holds. -/
  | timeHold
  /-- SLOTOK_CLEAR (R245): The error bound exceeds GUARD and SLOTOK is cleared. -/
  | slotokClear
  /-- TG_LOAD (R239): A write of TG_LOAD arms a step number for the next accepted edge. -/
  | tgLoad (fn : Nat) (v : BitVec 64)
  /-- TG_NOW_READ (R236): A read of TG_NOW latches TG_FRAC. -/
  | tgNowRead (fn : Nat)
  /-- SLOT_OPEN (R268): A tide entry opens a slot on a Surf port. -/
  | slotOpen (n : Nat)
  /-- SLOT_CLOSE (R268): A tide entry closes a slot on a Surf port. -/
  | slotClose (n : Nat)
  /-- LOAD_NOTICE (R251): A load-notice code is driven LEAD ticks before its firing time. -/
  | loadNotice (n : Nat)
  /-- LOAD_NOTICE_END (R251): The HOLD time of a notice ends and the pins return to 0b0000. -/
  | loadNoticeEnd
  /-- BIST_SLICE (R344): A tide entry starts an in-service BIST slice on one element. -/
  | bistSlice (n : Nat)
  /-- SCRUB_SLICE (R337): A tide entry starts a scrub slice from the range cursor. -/
  | scrubSlice (n : Nat)
  /-- COMMIT_APPLY (R254): Accepted commits apply at a step boundary and the epoch increments, or the application is deferred. -/
  | commitApply
  /-- CUP_OPEN (R58): A tide entry opens partitions' Cupping windows. -/
  | cupOpen (n : Nat)
  /-- CUP_CLOSE (R58): A tide entry closes partitions' Cupping windows. -/
  | cupClose (n : Nat)
  /-- PHASE (R323): A tide entry sets the active region group of named stacks. -/
  | phase (n : Nat)
  /-- IDLE (R263): An IDLE frame is received, carrying an acknowledgement. -/
  | idleF (port dev : Nat) (hdr : BitVec 48) (pay : List (BitVec 8))
  /-- DATA (R266): A DATA frame is received and its sector written once its OPEN has arrived. -/
  | dataF (port dev : Nat) (hdr : BitVec 48) (pay : List (BitVec 8))
  /-- OPEN (R271): An OPEN frame is received and the transfer admitted or refused. -/
  | openF (port dev : Nat) (hdr : BitVec 48) (pay : List (BitVec 8))
  /-- CLOSE (R266): A CLOSE frame is received, completing the transfer when all sectors are accounted for. -/
  | closeF (port dev : Nat) (hdr : BitVec 48) (pay : List (BitVec 8))
  /-- CLOSE_ACK (R266): A CLOSE_ACK is received and the issuing command learns the transfer status. -/
  | closeAck (port dev : Nat) (hdr : BitVec 48) (pay : List (BitVec 8))
  /-- ABANDON (R266): An ABANDON frame is received and the sector counted as a gap. -/
  | abandon (port dev : Nat) (hdr : BitVec 48) (pay : List (BitVec 8))
  /-- NAK (R263): A NAK is received and the named frame resent. -/
  | nak (port dev : Nat) (hdr : BitVec 48) (pay : List (BitVec 8))
  /-- CREDIT (R267): A CREDIT frame returns ingress credits. -/
  | credit (port dev : Nat) (hdr : BitVec 48) (pay : List (BitVec 8))
  /-- HELLO (R273): A HELLO frame is received and checked against the expected peer. -/
  | hello (port dev : Nat) (hdr : BitVec 48) (pay : List (BitVec 8))
  /-- RETRAIN_REQ (R275): The peer asks for a retrain and the port leaves UP. -/
  | retrainReq (port dev : Nat) (hdr : BitVec 48) (pay : List (BitVec 8))
  /-- BAD_FRAME (R263): A frame with an FEC, CRC, FCS or type error is discarded. -/
  | badFrame (port : Nat) (why : BadFrame)
  /-- RTO_EXPIRY (R263): A retry timer expires, resending a NAK or frame, or abandoning it after RETRY resends. -/
  | rtoExpiry (port dev seq : Nat) (nak : Bool)
  /-- HELLO_TIMER (R273): Every 1 ms a port in UP sends HELLO. -/
  | helloTimer (port : Nat)
  /-- FRAME_SEND (R267): A port chooses and sends its next frame under credit or slot scheduling. -/
  | frameSend (port : Nat)
  /-- TRAINING_END (R274): Port training ends in UP, MISWIRED, a retry, or OUT. -/
  | trainingEnd (port : Nat) (res : TrainResult)
  /-- BLOCK_LOCK_LOSS (R275): A lane loses block lock and the port retrains. -/
  | blockLockLoss (port : Nat)
  /-- FEC_ERROR_RATIO (R275): The pre-FEC error ratio exceeds 10^-4 over 1 s and the port retrains. -/
  | fecErrorRatio (rep : FecReport)
  /-- LNK_RETRAIN (R275): A write of LNK_CTL.RETRAIN retrains the port. -/
  | lnkRetrain (fn port : Nat)
  /-- LNK_RESET (R276): A write of LNK_CTL.RESET resets the port. -/
  | lnkReset (fn port : Nat)
  /-- CVU_SCAN (R347): A CVU_SCAN command queues a check-value scan on a channel. -/
  | cvuScan (part sq : Nat)
  /-- CVU_SCAN_DONE (R349): A scan ends, applies the alive-counter rule and writes its result block. -/
  | cvuScanDone (ch : Nat)
  /-- CVU_TRANSFER_CHECK (R352): A channel checks the check value and alive counter of a protected Surf transfer. -/
  | cvuTransferCheck (id : Nat)
  /-- CLRSTRM (R352): A write of CVU_SURF.CLRSTRM clears every Surf stream and send counter. -/
  | clrstrm (fn : Nat)
  /-- SQ_DOORBELL (R289): A new SQ tail is written, or a queue error is raised. -/
  | sqDoorbell (fn part q : Nat) (v : BitVec 64)
  /-- CQ_DOORBELL (R289): A new CQ head frees entries, releasing buffered completions. -/
  | cqDoorbell (fn part q : Nat) (v : BitVec 64)
  /-- SQ_ENTRY_FETCH (R290): A fetched SQ entry reaches the dispatcher. -/
  | sqEntryFetch (part sq : Nat)
  /-- LAUNCH (R126): The dispatcher starts a LAUNCH, validates the image and multicasts it. -/
  | launch (part sq : Nat)
  /-- COPY (R292): The dispatcher starts a copy between address ranges. -/
  | copy (part sq : Nat)
  /-- ATTN_BATCH (R150): The dispatcher runs a batch with buckets, chunks and the merge tree. -/
  | attnBatch (part sq : Nat)
  /-- SCRUB (R336): A SCRUB command reads a range and writes a summary. -/
  | scrub (part sq : Nat)
  /-- FENCE_COMMAND (R293): A queue FENCE holds its SQ until earlier commands of its scope complete. -/
  | fenceCommand (part sq : Nat)
  /-- COMMIT (R253): A COMMIT stages RL values, is sealed and validated, and is accepted or rejected. -/
  | commit (part sq : Nat)
  /-- PIN (R178): PIN fetches and pins each line of a range. -/
  | pin (part sq : Nat)
  /-- UNPIN (R178): UNPIN clears the pinned bits of a range. -/
  | unpin (part sq : Nat)
  /-- NOTE (R290): A NOTE completes at its start. -/
  | note (part sq : Nat)
  /-- COMMAND_TIMEOUT (R297): A command's counters expire together. -/
  | commandTimeout (part : Nat) (cnt : Counters)
  /-- WATCHDOG_TEST (R300): The millisecond comparator test runs, and a self-fault forces T5 mode. -/
  | watchdogTest (part : Nat) (flagged : Bool)
  /-- START (R287): HST_PCTL.START moves a STOPPED partition to RUNNING. -/
  | start (fn part : Nat)
  /-- STOP (R287): HST_PCTL.STOP moves a RUNNING partition to STOPPING. -/
  | stop (fn part : Nat)
  /-- RESUME (R287): HST_PCTL.RESUME moves a REPORTED partition to RUNNING. -/
  | resume (fn part : Nat)
  /-- HANG (R301): HST_KICK.HANG causes an engine fault with cause 2. -/
  | hang (fn part : Nat)
  /-- CANCEL (R302): HST_CANCEL.GO cancels an SQ entry or reports it too late or not found. -/
  | cancel (fn part : Nat) (v : BitVec 64)
  /-- BAR2_READ (R283): A host read through BAR2 is served or answered as a decode error. -/
  | bar2Read (fn off len : Nat)
  /-- BAR2_WRITE (R283): A host write through BAR2 is served or dropped as a decode error. -/
  | bar2Write (fn off : Nat) (bytes : List (BitVec 8))
  /-- VF_FLR (R287): A VF function level reset resets the partition. -/
  | vfFlr (vf : Nat)
  /-- PF_FLR (R370): A PF function level reset resets the device. -/
  | pfFlr
  /-- PERST_N (R384): PERST_N is asserted, causing a device reset unless it is ignored. -/
  | perstN
  /-- VDD_AON_RISE (R360): VDD_AON rises, clearing ST fields and starting Headland and the Flood sequence. -/
  | vddAonRise (stagedN haltInN : Bool)
  /-- POWER_GOOD (R308): A PWRGD input rises and the Flood sequence continues. -/
  | powerGood (rail : Nat)
  /-- FLOOD_TIMEOUT (R308): A Flood step exceeds its limit and the rails go down. -/
  | floodTimeout
  /-- RAIL_FAIL (R310): A rail drops or reaches RST and every rail is disabled without waits. -/
  | railFail (rail : Nat) (belowRst : Bool)
  /-- EBB_STEP (R309): The previous rail falls below 10 % or 2 ms pass, and the next rail is disabled. -/
  | ebbStep
  /-- HEADER_SWITCH_GROUP (R307): A header switch group of a domain closes or opens on its staggered schedule. -/
  | headerSwitchGroup (dom : PowerDomain × Supply) (close : Bool)
  /-- POWER_LOOP (R312): Every 100 us the power duty is adjusted against the limits. -/
  | powerLoop (volts : RailVolts) (amps : List Nat)
  /-- BROWNOUT (R315): A rail falls below WARN and a 10 ms Tamp floor is applied. -/
  | brownout (rail : Nat)
  /-- BROWNOUT_END (R315): The 10 ms brownout floor expires. -/
  | brownoutEnd
  /-- PHASE_SCAN (R316): Every 10 ms Headland scans phase currents and derates on failure. -/
  | phaseScan (amps : List (List Nat)) (faults : List (BitVec 64))
  /-- THERMAL_SAMPLE (R322): A die's sensors are sampled and the Tamp thermal terms move. -/
  | thermalSample (unit : Nat) (codes : List (Option Int))
  /-- SENSOR_RESAMPLE (R319): An out-of-range sensor is resampled 10 us later and may become broken. -/
  | sensorResample (n : Nat) (code : Option Int)
  /-- THM_CLEAR (R326): THM_CTL.CLEAR ends restricted mode or is refused. -/
  | thmClear (fn : Nat)
  /-- BUCKET_LEAK (R334): The leak period passes and every nonzero bucket count falls by 1. -/
  | bucketLeak
  /-- SCRUB_SLICE_END (R337): A scrub slice finishes or stops at 200 us and the cursor advances. -/
  | scrubSliceEnd (engine done : Nat)
  /-- BIST_SLICE_END (R344): A BIST slice completes or stops at 200 us, restores the element and records failures. -/
  | bistSliceEnd (unit : Nat) (res : BistResult)
  /-- BIST_WAIT_TIMEOUT (R344): A BIST firing waits 50 us for a busy element and is skipped. -/
  | bistWaitTimeout (unit : Nat)
  /-- STAGE_COMPLETE (R360): A bring-up stage completes and posts its report, then continues, halts or waits. -/
  | stageComplete (found : StageFindings)
  /-- STAGE_TIMEOUT (R361): A bring-up stage exceeds its limit and the bring-up fails. -/
  | stageTimeout (ms : Nat)
  /-- CONTINUE (R362): HLM_CTL.CONTINUE releases a staged bring-up wait. -/
  | continueCmd (fn : Nat)
  /-- HALT_IN_N_RISE (R364): HALT_IN_N rises and a halted bring-up may continue. -/
  | haltInNRise
  /-- HLMRST (R367): HLM_CTL.HLMRST resets Headland and starts the keeper. -/
  | hlmrst (fn : Nat)
  /-- DEVRST (R370): HLM_CTL.DEVRST resets the device. -/
  | devrst (fn : Nat)
  /-- KEEPOK (R367): Headland writes KEEPOK on its return and the keeper stops. -/
  | keepok
  /-- HEADLAND_WATCHDOG (R367): The 100 ms firmware watchdog expires and Headland resets. -/
  | headlandWatchdog
  /-- KEEPER_EXPIRY (R367): The 500 ms keeper expires and hardware runs the Ebb sequence with cause 7. -/
  | keeperExpiry
  /-- UNIT_POLL (R368): Every 10 ms Headland polls unit status words and adopts hardware values. -/
  | unitPoll (dom : ResetDomain) (agrees : Bool)
  /-- READ_FLASH (R359): Mailbox command 0x01 reads the configuration flash. -/
  | readFlash (off len : Nat)
  /-- WRITE_INACTIVE_FIRMWARE_BANK (R359): Mailbox command 0x02 writes the inactive firmware bank. -/
  | writeInactiveFirmwareBank (off : Nat) (bytes : List (BitVec 8))
  /-- MAKE_PREFERRED (R357): Mailbox command 0x03 authenticates and makes a bank and slot preferred. -/
  | makePreferred (bank slot : Nat)
  /-- WRITE_INACTIVE_RECORD_SLOT (R359): Mailbox command 0x04 writes the inactive record slot. -/
  | writeInactiveRecordSlot (off : Nat) (bytes : List (BitVec 8))
  /-- RETIRE_TILE (R369): Mailbox command 0x05 retires a tile to the spare column. -/
  | retireTile (x y : Nat)
  /-- BROADCAST_TILE_FIRMWARE (R366): Mailbox command 0x06 broadcasts tile firmware to a drained rectangle. -/
  | broadcastTileFirmware (fw : FwBroadcast)
  /-- READ_EVENT_LOG (R326): Mailbox command 0x07 reads THM_REC and the event log. -/
  | readEventLog (idx : Nat)
  /-- ENGINE_FAULT_REPLAY (R372): Headland starts the quarantined replay of a faulted partition's contexts. -/
  | engineFaultReplay (part : Nat)
  /-- REPLAY_CONTEXT_END (R372): A replayed context ends, and the guilty context or the end of replay triggers the report. -/
  | replayContextEnd (part rstat : Nat)
  /-- TILE_RESET (R370): A tile domain resets. -/
  | tileReset (t : Nat)
  /-- STACK_RESET (R370): A stack domain resets. -/
  | stackReset (stack : Nat)
  /-- PARTITION_RESET (R371): A partition domain resets through its ordered steps. -/
  | partitionReset (part : Nat)
  /-- IO_DIE_RESET (R370): An I/O die other than 0 resets. -/
  | ioDieReset (die : Nat)
  /-- DEVICE_RESET (R360): The device resets and bring-up reruns. -/
  | deviceReset
  /-- DOMAIN_RESET_DONE (R371): A domain's flush and clearing complete and it re-enters service. -/
  | domainResetDone (dom : ResetDomain)
  /-- VDD_AON_FALL (R325): VDD_AON falls, releasing THERMTRIP_N, writing the event cells from hold-up capacitance and losing every ST field. -/
  | vddAonFall
  /-- PERST_N_RISE (R383): PERST_N is deasserted and PCIe link training starts within 20 ms, or when stage 0 enables the port. -/
  | perstNRise
  /-- SLOW_CLOCK_FALLBACK (R297): The always-on slow domain loses CLK25_IN and runs on its 32.768 kHz fallback, counting 30 us per edge. -/
  | slowClockFallback
  /-- STEP_BOUNDARY (R245): Reported time reaches tick 0 of a step: STEP_OUT rises, SLOTOK may be set, and slotted Surf ports resume slots. -/
  | stepBoundary
  /-- STEP_OUT_END (R257): Reported time reaches tick 64 of a step and STEP_OUT is driven low. -/
  | stepOutEnd
  /-- NONE (R247): A tide entry with action None fires, decrementing a nonzero COUNT and clearing VALID after its last firing. -/
  | noneFire (n : Nat)
  /-- REFRESH_MANAGEMENT (R188): An HBM stack requests refresh management and the controller issues refresh management commands. -/
  | refreshManagement (ctrl pch : Nat)
  /-- JOURNAL_WRITE (R342): Headland writes pending Shoal overlay entries and event-log records to the configuration flash once R328 permits, clearing PENDING. -/
  | journalWrite
  deriving DecidableEq, Repr

end Sys2Proof
end

