-- ==== Sys2Proof/Decode.lean ====
section
/-! DEFINITION. Decoding. The opcode table gives no row any bits, so no word spells a command for the host; the 64-bit
instruction words that tiles fetch do have an encoding (R98, Tables 4.2, 4.3, 4.7, 4.8), read here. -/

namespace Sys2Proof

/-- The command a word spells by the bits of spec/opcode_table.json: no row of the table has bits. -/
def decodeTableWord (_nbits _w : Nat) : Option Instr := none

/-- Class and opcode of an instruction word as one number (R98, Table 4.2): the class times 32 plus the opcode, the
immediate class read as the register class, whose opcode numbers it shares; `none` where unassigned. -/
def tileKey (w : BitVec 64) : Option Nat :=
  let c := w.toNat / 2 ^ 61
  let o := w.toNat / 2 ^ 56 % 32
  match c with
  | 0 | 1 => if o < 31 then some o else none
  | 2 => if o < 6 then some (64 + o) else none
  | 3 => if o < 12 then some (96 + o) else none
  | 4 => if o < 5 then some (128 + o) else none
  | 5 => if o < 5 then some (160 + o) else none
  | 6 => if o = 0 ∨ o = 16 ∨ o = 17 then some (192 + o) else none
  | _ => none

/-- The command that issues the instruction with a given key (Tables 4.2, 4.3, 4.7, 4.8). -/
def tileCommand (key t slot : Nat) (w : BitVec 64) : Option Instr :=
  match key with
  | 0 => some (.iadd t slot w)
  | 1 => some (.isub t slot w)
  | 2 => some (.imul t slot w)
  | 3 => some (.imulh t slot w)
  | 4 => some (.imad t slot w)
  | 5 => some (.andB t slot w)
  | 6 => some (.orB t slot w)
  | 7 => some (.xorB t slot w)
  | 8 => some (.shl t slot w)
  | 9 => some (.shr t slot w)
  | 10 => some (.sar t slot w)
  | 11 => some (.imin t slot w)
  | 12 => some (.imax t slot w)
  | 13 => some (.sel t slot w)
  | 14 => some (.isetp t slot w)
  | 15 => some (.bitop t slot w)
  | 16 => some (.iadd64 t slot w)
  | 17 => some (.fadd t slot w)
  | 18 => some (.fmul t slot w)
  | 19 => some (.ffma t slot w)
  | 20 => some (.fmin t slot w)
  | 21 => some (.fmax t slot w)
  | 22 => some (.fsetp t slot w)
  | 23 => some (.fsfu t slot w)
  | 24 => some (.cvt t slot w)
  | 25 => some (.dadd t slot w)
  | 26 => some (.dmul t slot w)
  | 27 => some (.dfma t slot w)
  | 28 => some (.dsetp t slot w)
  | 29 => some (.cvtraw t slot w)
  | 30 => some (.shfl t slot w)
  | 64 => some (.ldt t slot w)
  | 65 => some (.stt t slot w)
  | 66 => some (.ldd t slot w)
  | 67 => some (.std t slot w)
  | 68 => some (.madd t slot w)
  | 69 => some (.fence t slot w)
  | 96 => some (.bra t slot w)
  | 97 => some (.ifC t slot w)
  | 98 => some (.elseC t slot w)
  | 99 => some (.endif t slot w)
  | 100 => some (.loopC t slot w)
  | 101 => some (.brk t slot w)
  | 102 => some (.endloop t slot w)
  | 103 => some (.call t slot w)
  | 104 => some (.ret t slot w)
  | 105 => some (.bar t slot w)
  | 106 => some (.endC t slot w)
  | 107 => some (.nop t slot w)
  | 128 => some (.send t slot w)
  | 129 => some (.recv t slot w)
  | 130 => some (.mstat t slot w)
  | 131 => some (.mcancel t slot w)
  | 132 => some (.mfree t slot w)
  | 160 => some (.azero t slot w)
  | 161 => some (.aload t slot w)
  | 162 => some (.amul t slot w)
  | 163 => some (.adrain t slot w)
  | 164 => some (.astat t slot w)
  | 192 => some (.sread t slot w)
  | 208 => some (.attn t slot w)
  | 209 => some (.attnw t slot w)
  | _ => none

/-- The mnemonic of a key. -/
def tileName (key : Nat) : String :=
  match key with
  | 0 => "IADD"
  | 1 => "ISUB"
  | 2 => "IMUL"
  | 3 => "IMULH"
  | 4 => "IMAD"
  | 5 => "AND"
  | 6 => "OR"
  | 7 => "XOR"
  | 8 => "SHL"
  | 9 => "SHR"
  | 10 => "SAR"
  | 11 => "IMIN"
  | 12 => "IMAX"
  | 13 => "SEL"
  | 14 => "ISETP"
  | 15 => "BITOP"
  | 16 => "IADD64"
  | 17 => "FADD"
  | 18 => "FMUL"
  | 19 => "FFMA"
  | 20 => "FMIN"
  | 21 => "FMAX"
  | 22 => "FSETP"
  | 23 => "FSFU"
  | 24 => "CVT"
  | 25 => "DADD"
  | 26 => "DMUL"
  | 27 => "DFMA"
  | 28 => "DSETP"
  | 29 => "CVTRAW"
  | 30 => "SHFL"
  | 64 => "LDT"
  | 65 => "STT"
  | 66 => "LDD"
  | 67 => "STD"
  | 68 => "MADD"
  | 69 => "FENCE"
  | 96 => "BRA"
  | 97 => "IF"
  | 98 => "ELSE"
  | 99 => "ENDIF"
  | 100 => "LOOP"
  | 101 => "BRK"
  | 102 => "ENDLOOP"
  | 103 => "CALL"
  | 104 => "RET"
  | 105 => "BAR"
  | 106 => "END"
  | 107 => "NOP"
  | 128 => "SEND"
  | 129 => "RECV"
  | 130 => "MSTAT"
  | 131 => "MCANCEL"
  | 132 => "MFREE"
  | 160 => "AZERO"
  | 161 => "ALOAD"
  | 162 => "AMUL"
  | 163 => "ADRAIN"
  | 164 => "ASTAT"
  | 192 => "SREAD"
  | 208 => "ATTN"
  | 209 => "ATTNW"
  | _ => ""

/-- The command by which tile t issues a fetched word in a slot: rejected where class or opcode is unassigned. -/
def tileDecode (t slot : Nat) (w : BitVec 64) : Option Instr :=
  match tileKey w with
  | some k => tileCommand k t slot w
  | none => none

end Sys2Proof
end

