-- ==== Sys2Proof/Config.lean ====
section
/-! DEFINITION. What the spec leaves open: uninterpreted constants with no body, so no proof can see a value. Each has
an entry in notes/assumptions. -/

namespace Sys2Proof.Config

/-- The n-th free value: n is `State.fresh`, which every draw advances (notes/assumptions/2.md). -/
opaque freeWord (n : Nat) : BitVec 64

/-- Which of the binary32 values within 1 ulp of the exact result FSFU returns (R102: RSQRT, EXP2 and LOG2 are within
1 ulp and a fixed function of the input): an index into the candidates, for function code f and input x. -/
opaque sfuPick (f : Nat) (x : BitVec 32) : Nat

/-- The master port number of a requester (Table 8.5 gives it 16 bits and no numbering). The argument codes the master. -/
opaque masterPort (m : Nat) : BitVec 15

/-- The anchor that stands in an accumulator when R44 would set it to the value given, which 16 bits do not hold: R42 gives
the anchor 16 bits and no rule says what then becomes of it (notes/assumptions/5.md). -/
opaque wideAnchor (a : Int) : BitVec 16

/-- What the HBM decoder does with an error pattern beyond the bound of R194: `none` reports it uncorrectable, `some p`
miscorrects it so that the pattern p of symbol errors stays in the data (R194 gives only the probability). -/
opaque miscorrect (pattern : List (Nat × BitVec 8)) (erased : Option Nat) (limit : Nat) : Option (List (Nat × BitVec 8))

/-- The order of the symbols of an HBM codeword in the code polynomial, which R192 does not give: within the data symbols and
within the check symbols, the one with the smaller key stands at the lower power. -/
opaque symbolKey (i : Nat) : Nat

/-- The power of the variable that symbol i of an HBM codeword is the coefficient of: the check symbols 64 to 71 are the
powers 0 to 7, the data symbols the powers 8 to 71, so the code is the (255, 247) code shortened to 72 symbols (R192). -/
def symbolPower (i : Nat) : Nat :=
  let below (j : Nat) : Bool := symbolKey j < symbolKey i || (symbolKey j == symbolKey i && decide (j < i))
  if i < 64 then 8 + ((List.range 64).filter below).length
  else (((List.range 8).map (· + 64)).filter below).length

/-- Where the 256-byte header of a signed image holds each of its fields (R356 gives their names and no offsets): 0 the magic
value, 1 the image type, 2 the sequence number, 3 the length, 4 the CRC-32. -/
opaque headerField (field : Nat) : Nat

/-- How many bytes a field of that header has, where R356 does not say: the magic value, the type and the length. -/
opaque headerWidth (field : Nat) : Nat

/-- The magic value of a signed image (R356). -/
opaque imageMagic : Nat

/-- Has the operator fused the hash of an owner key (R356)? -/
opaque ownerKeyFused : Bool

/-- Does the signature of an image verify: under the owner key (`true`) or the Nimaux key, for the header's first 128 bytes
and the body (R356: ECDSA P-384 over SHA-384; neither key is given)? -/
opaque signatureOk (owner : Bool) (header body : List (BitVec 8)) : Bool

/-- The section types (Table 14.2) that the body of a record image holds (R358; their framing is a type and a length). -/
opaque recordSections (body : List (BitVec 8)) : List Nat

/-- The version of the tile firmware that a firmware image carries (R366), from its body. -/
opaque tileFirmware (body : List (BitVec 8)) : Nat

/-- A byte of a boot header copy (R357 names its fields and no layout). -/
opaque headerByte (valid : Bool) (seq bank slot off : Nat) : BitVec 8

/-- A byte of the journal region (R358), from its entries: sequence number, overlay entry or key of a training result, its
settings, whether the CRC is right. -/
opaque journalByte (entries : List (Nat × (BitVec 64 ⊕ Nat) × List (BitVec 8) × Bool)) (off : Nat) : BitVec 8

/-- A byte of the event log region (Table 14.1), from its records. -/
opaque logByte (records : List (BitVec 64)) (off : Nat) : BitVec 8

/-- The port p' of remote device d that d's route table names first for this device (R261): the Ethernet destination address of
a frame for d carries it, and no register of this device holds it. -/
opaque routePort (d : Nat) : BitVec 8

/-- What the sections of a record image load (R358 names the sections; their layouts are not given): partition table
entries (partition, A, B), HST_PCFG values, TG_CFG, further registers (offset, value), and bit 0 of the boot options. -/
opaque recordContent (body : List (BitVec 8)) :
  List (Nat × BitVec 64 × BitVec 64) × List (Nat × BitVec 64) × Option (BitVec 64) × List (Nat × BitVec 64) × Bool

/-- Does the HBM stack of a controller have hard repair resources left for its n-th soft repair (R343)? -/
opaque hardRepairLeft (ctrl n : Nat) : Bool

/-- A byte of the configuration flash that the model does not hold as data (R359, the layouts inside an image). -/
opaque flashByte (off : Nat) : BitVec 8

/-- How many elements a unit has for a BIST kind where Table 13.5 does not say: I/O-die buffers, PLLs and
monitor ADCs. -/
opaque bistElements (unit kind : Nat) : Nat

end Sys2Proof.Config
end

