-- ==== Sys2Proof/Machine/State.lean ====
section
/-! DEFINITION. The state of the T9 as plain data: every piece of state the spec names, unit by unit, the queue of
commands that wait, and `State.reset`. Registers of BAR0 are raw 64-bit words in one sparse map keyed by their BAR0
offset (R29); a word equal to its table's reset value is not listed. Memories list only bytes that differ from zero. -/

namespace Sys2Proof.Machine

/-- A sparse map in one canonical form: keys strictly rising, no entry equal to the map's default. -/
abbrev SMap (α : Type) := List (Nat × α)

/-! ### Tiles (chapters 3 to 5) -/

/-- One accumulator of an array (R42): the integer V, the signed 16-bit anchor exponent A, the NaN marker and the empty
state. -/
structure Acc where
  v     : Int
  a     : BitVec 16
  nan   : Bool
  empty : Bool
  deriving DecidableEq, Repr

/-- A Cupping shadow in progress (R59 to R62): block shape, summed padded length, which operand shadows are INT8
(else E4M3), and the drained block rounded to FP32 (index row * 8 + column). -/
structure Shadow where
  m    : Nat
  n    : Nat
  kTot : Nat
  intA : Bool
  intB : Bool
  c4   : List (BitVec 32)
  deriving DecidableEq, Repr

/-- Who binds an array (R72, R345): a group slot, or a BIST slice of kind 1. -/
inductive Owner where
  | group (slot : Nat)
  | bist
  deriving DecidableEq, Repr

/-- One matrix array (R69 to R72): binding, block shape, the 256 accumulators (index row * 8 + column, default empty),
the block and cumulative flag fields of Table 2.5 (bits INEXACT, SAT, NAN, NANSCALE), what the AMULs of the block used
(R58, R59), the count of eligible blocks and the shadow that is running. -/
structure ArrayUnit where
  owner    : Option Owner
  m        : Nat
  n        : Nat
  accs     : SMap Acc
  blk      : BitVec 4
  cum      : BitVec 4
  amuls    : Nat
  narrow   : Bool
  fmtA     : BitVec 4
  fmtB     : BitVec 4
  kTot     : Nat
  eligible : Nat
  shadow   : Option Shadow
  deriving DecidableEq, Repr

/-- The kind of a mask-stack entry (R109). -/
inductive MaskKind where
  | ifK | loopK
  deriving DecidableEq, Repr

/-- A mask-stack entry (R109). -/
structure MaskEntry where
  kind    : MaskKind
  restore : BitVec 32
  els     : BitVec 32
  deriving DecidableEq, Repr

/-- A return-stack entry (R109): the return address and the mask-stack depth at the CALL. -/
structure RetEntry where
  pc    : BitVec 32
  depth : Nat
  deriving DecidableEq, Repr

/-- The group states of Table 4.12 (codes 0 to 8 in this order). -/
inductive GroupState where
  | free | ready | waitRegs | waitMem | waitMsg | waitArray | atBarrier | ended | faulted
  deriving DecidableEq, Repr

/-- What a group that has issued a waiting instruction waits for. -/
inductive Wait where
  | none
  | fence
  | barrier (b cnt : Nat)
  | mstat (h wd : Nat)
  | attnw (h wd : Nat)
  | recv (q wd limit : Nat)
  deriving DecidableEq, Repr

/-- One outstanding LDD, STD or MADD instruction of a group (R115): its serial number, whether it stores or adds,
how many of its line requests have no reply yet, and its byte offset in the code. -/
structure OutInst where
  serial : Nat
  store  : Bool
  left   : Nat
  pc     : BitVec 32
  deriving DecidableEq, Repr

/-- The LAUNCH a group belongs to (R126, R128): partition, command, tag and rectangle. -/
structure LaunchRef where
  part : Nat
  cmd  : Nat
  tag  : BitVec 32
  rect : BitVec 32
  deriving DecidableEq, Repr

/-- A thread group in its slot (R94 to R97, R104, R109, R115). Word registers are keyed thread * 128 + register,
`regErr` holds the flipped bits of a protected word (R330), predicates p1 to p7 are 32-bit masks over the threads. -/
structure Group where
  st     : GroupState
  pc     : BitVec 32
  active : BitVec 32
  masks  : List MaskEntry
  rets   : List RetEntry
  regs   : SMap (BitVec 32)
  regErr : SMap (BitVec 39)
  preds  : SMap (BitVec 32)
  fp     : BitVec 5
  wait   : Wait
  outst  : List OutInst
  launch : Option LaunchRef
  codeAt  : Nat
  codeLen : Nat
  argAt   : Nat
  deriving DecidableEq, Repr

/-- Where a message of the send list stands (R121, R123). -/
inductive MsgPhase where
  | reserving | backoff | eligible | injected
  | final (status : Nat)
  deriving DecidableEq, Repr

/-- An entry of the send list (R120, R121): handle, issuing slot, payload place, destination rectangle, queue and tag;
the destinations whose reservation is on its way, all of them, those whose grant is on its way, that granted, that
wrote, that refused or were lost to a reset; the payload as read at injection, its damaged flits, its place in the
order of injections. -/
structure Send where
  h        : Nat
  slot     : Nat
  off      : Nat
  len      : Nat
  x0       : Nat
  y0       : Nat
  x1       : Nat
  y1       : Nat
  q        : Nat
  tag      : BitVec 16
  phase    : MsgPhase
  asked    : List Nat
  dests    : List Nat
  grants   : List Nat
  granted  : List Nat
  written  : List Nat
  lost     : List Nat
  damaged  : Bool
  late     : Bool
  payload  : List Byte
  inj      : Nat
  deriving DecidableEq, Repr

/-- The life of a space in a receive ring (R119, R125). -/
inductive RingSt where
  | skip | granted | written | delivered
  deriving DecidableEq, Repr

/-- A space of a receive ring in 64-byte units from BASE, the message it is for, and its place in the order in which
messages were written (0: not yet). -/
structure RingSpace where
  age   : Nat
  start : Nat
  units : Nat
  st    : RingSt
  src   : Nat
  h     : Nat
  info  : BitVec 32
  len   : Nat
  tag   : BitVec 16
  deriving DecidableEq, Repr

/-- A reservation that waits for space (R119, R121). -/
structure Resv where
  src : Nat
  h   : Nat
  len : Nat
  deriving DecidableEq, Repr

/-- A receive queue (R119): ring place and size in 64-byte units, write position in units, spaces oldest first,
reservations held in arrival order, group slots whose RECV waits in issue order (R124). -/
structure Ring where
  base    : Nat
  size    : Nat
  wpos    : Nat
  spaces  : List RingSpace
  held    : List Resv
  waiters : List Nat
  deriving DecidableEq, Repr

/-- The life of an attention command (R131 to R134). -/
inductive AttPhase where
  | queued
  | updating (status : BitVec 32)
  | done (status : BitVec 32)
  | sending (msg : Nat) (status : BitVec 32)
  | final (status : BitVec 32)
  deriving DecidableEq, Repr

/-- The partial of a command with OUT = 1: destination tile, queue, tag, offset and length (R141). -/
structure AttMsg where
  dst : Nat
  q   : Nat
  tag : BitVec 16
  off : Nat
  len : Nat
  deriving DecidableEq, Repr

/-- A command of the attention pipe: handle, the slot that issued it, whether its issuer has ended (R134), the offset of
its block, its phase, the pages it released in order (R147), and what it writes when it ends (R133): tile memory, device
memory, the partial to send, and the FREEOUT offset. -/
structure AttCmd where
  h        : Nat
  slot     : Nat
  orphan   : Bool
  off      : Nat
  phase    : AttPhase
  released : List Nat
  outs     : List (Nat × List Byte)
  devOuts  : List (Nat × List Byte)
  msg      : Option AttMsg
  freeOut  : Nat
  deriving DecidableEq, Repr

/-- A classifier entry (R340): subarray, column, first row, count. -/
structure ClsEntry where
  sub   : Nat
  col   : Nat
  row   : Nat
  count : Nat
  deriving DecidableEq, Repr

/-- A 64-byte word of the instruction buffer (R94, R127, R330): its tile memory word number, its bytes as fetched, and for
each of its 8 instructions whether its parity is wrong. -/
structure IbufWord where
  word  : Nat
  bytes : List Byte
  bad   : BitVec 8
  deriving DecidableEq, Repr

/-- A tile (R94): groups by slot, arrays, tile memory, flipped bits per aligned 8 bytes (R117, R331), receive queues,
send list, attention queue, the scheduler's pointer (R107), the column classifier (R340), its last corrected cells
(R340), a firmware broadcast in progress (R369), the serial number of the next device access or injection, and the
grant releases on their way (handle, destination; R121), the instruction buffer (Table 4.1: 16 KiB, newest word
first), and the version of the tile firmware that a live broadcast loaded last (R366; none: stage 4's). -/
structure Tile where
  groups  : SMap Group
  arrays  : SMap ArrayUnit
  mem     : List Host.Cell
  memErr  : SMap (BitVec 72)
  rings   : SMap Ring
  sends   : List Send
  att     : List AttCmd
  ptr     : Nat
  cls     : List ClsEntry
  cells   : List (Nat × Nat × Nat)
  fwBusy  : Bool
  serial  : Nat
  rels    : List (Nat × Nat)
  ibuf    : List IbufWord
  fw      : Option Nat
  deriving DecidableEq, Repr

/-! ### Shelf (chapter 6) -/

/-- A sector of a shelf line (R159): byte-valid mask, dirty bit, bytes (offset in the sector), flipped bits of each
16-byte ECC word (R170, R331). -/
structure Sector where
  valid : BitVec 256
  dirty : Bool
  bytes : List Host.Cell
  err   : SMap (BitVec 137)
  deriving DecidableEq, Repr

/-- A shelf line (R159): line index (address bits 47:11, from which set and tag follow under R163), pinned bit, the 8
sectors, and the flipped bits of the way's protected tag word (Table 13.1). -/
structure Line where
  lam    : Nat
  pinned : Bool
  secs   : SMap Sector
  tagErr : BitVec 104
  deriving DecidableEq, Repr

/-- A write-back buffer entry (R168): sector number, mask, bytes, poison mark per 16-byte word (R183). -/
structure WbEntry where
  sec    : Nat
  mask   : BitVec 256
  bytes  : List Host.Cell
  poison : BitVec 16
  deriving DecidableEq, Repr

/-- A merge-buffer entry (R170, R171): ECC word number (address / 16), byte mask, bytes (offset in the word). -/
structure MbEntry where
  word  : Nat
  mask  : BitVec 16
  bytes : List Host.Cell
  deriving DecidableEq, Repr

/-- A shelf slice (R158 to R171): lines keyed set * 16 + way (a way with no entry is invalid), the sets' tree
pseudo-LRU bits, write-back buffer, merge buffer, the classifier and last corrected cells (R340), and whether a
retirement is flushing (R180). -/
structure Slice where
  lines    : List (Nat × Line)
  plru     : SMap (BitVec 15)
  wb       : List WbEntry
  mb       : List MbEntry
  cls      : List ClsEntry
  cells    : List (Nat × Nat × Nat)
  retiring : Bool
  deriving DecidableEq, Repr

/-- A fill in flight (R165): identifier, sector number, the stack and slice it is for, the generation it was issued
under, the data with the bad codewords once the controller has served it, and whether its sector still stands in the
slice (`live`): the data of a fill whose line was evicted or whose sector was invalidated meanwhile goes to the reads that
wait for it and is written nowhere. -/
structure Fill where
  id    : Nat
  sec   : Nat
  stack : Nat
  slice : Nat
  gen   : BitVec 4
  data  : Option (List Byte × BitVec 4)
  live  : Bool
  deriving DecidableEq, Repr

/-- A score update or bit clear on its way to its home slice (R148, R174): the pipe command it belongs to, the
descriptor index, the token, the addresses, the increment and the eviction test of R147. -/
structure ScoreUpd where
  id     : Nat
  t      : Nat
  h      : Nat
  n      : Nat
  tok    : Nat
  score  : Nat
  bitmap : Nat
  clear  : Bool
  inc    : Nat
  decay  : Nat
  escore : Nat
  old    : Bool
  part   : Nat
  deriving DecidableEq, Repr

/-! ### HBM (chapter 7) -/

/-- What a controller request does (R189, R198, R199). -/
inductive HbmKind where
  | read
  | write
  | masked
  | add (ty : Nat)
  deriving DecidableEq, Repr

/-- A request in a controller's queues (R205, R207): identifier, granule number (address / 256), kind, byte mask,
bytes (offset in the granule), poison marks, level, promoted under R206, the domain and generation it carries, and the
fill or transaction that waits for it. -/
structure HbmReq where
  id       : Nat
  gran     : Nat
  kind     : HbmKind
  mask     : BitVec 256
  bytes    : List Host.Cell
  poison   : BitVec 16
  level    : Nat
  promoted : Bool
  dom      : ResetDomain
  gen      : BitVec 4
  fill     : Option Nat
  txn      : Option Nat
  deriving DecidableEq, Repr

/-- An add-buffer entry (R200): codeword number (address / 64) and its 64 bytes. -/
structure AddEntry where
  cw    : Nat
  bytes : List Byte
  deriving DecidableEq, Repr

/-- A retrain or margining run (R209, R210). -/
structure MemRun where
  op     : Nat
  pch    : Nat
  slices : Nat
  active : Bool
  deriving DecidableEq, Repr

/-- An HBM controller (R187 to R212): queues, add buffer, running run, lost-write table (R208), corrected-codeword
runs per pin keyed pch * 64 + pin (R195), rows failing and their last corrected codewords (R343), refreshes issued,
refresh management issued, activates at half rate (R324), reset in progress, the row open in each bank plus 1, keyed
pch * 32 + bank (R191, R205), the pseudo-channels whose write queue drains and the partition served last at each level
plus 1, keyed pch * 8 + level (R205). -/
structure Ctrl where
  queue     : List HbmReq
  adds      : List AddEntry
  run       : Option MemRun
  lost      : List Nat
  pinRun    : SMap Nat
  lastCorr  : List Nat
  failRows  : List (Nat × Nat)
  refreshes : SMap Nat
  rfm       : SMap Nat
  halfRate  : Bool
  stopped   : Bool
  rows      : SMap Nat
  drain     : List Nat
  turn      : SMap Nat
  deriving DecidableEq, Repr

/-! ### Fabric (chapter 8) -/

/-- The master port of a transaction (R221, R226): a tile's group, a dispatcher, a function's BAR2, a Surf port, Headland,
the scrub engine or BIST of a shelf (unit 16 + stack) or HBM controller (unit 32 + controller). -/
inductive Master where
  | tile (t slot : Nat)
  | disp (part : Nat)
  | bar2 (fn : Nat)
  | surf (port : Nat)
  | headland
  | scrub (unit : Nat)
  deriving DecidableEq, Repr

/-- What a transaction asks for (R113, R114). -/
inductive TxnKind where
  | load | store
  | madd (ty : Nat)
  deriving DecidableEq, Repr

/-- The status of a reply (R26, R183, R208, R227). -/
inductive ReplySt where
  | ok | uncorr | decode | dropped
  deriving DecidableEq, Repr

/-- Where a transaction stands: on its way to its home, waiting at the slice for fills, waiting for its adds, waiting for the
Surf transfers of a store to a peer window (how many, and the worst status so far), or replied. -/
inductive TxnStage where
  | toHome | atSlice | toCtrl
  | toPeer (left worst : Nat)
  | replied (st : ReplySt)
  deriving DecidableEq, Repr

/-- Where loaded bytes go (R111): thread, first register, device address, size in bytes. -/
structure LoadDest where
  thread : Nat
  reg    : Nat
  addr   : Nat
  size   : Nat
  deriving DecidableEq, Repr

/-- A fabric transaction (R113, R221 to R229, Table 8.5): one 2 KiB line of a group instruction. `dev` is its address as
the group gave it (R26, R28), `ledger` counts the entries the fabric has lent it (R229), `got` holds the bytes that came back
good, `lost` the addresses of those that did not (R183), `awaits` the fills its missing bytes come with (R165), `from_` the
slice that answered it and `rep` the place of its reply among all replies (R219). -/
structure Txn where
  id     : Nat
  src    : Master
  serial : Nat
  cls    : Nat
  part   : Nat
  low    : Bool
  promoted : Bool
  gen    : BitVec 4
  epoch  : BitVec 4
  kind   : TxnKind
  want   : List Nat
  bytes  : List Host.Cell
  adds   : List (Nat × List Byte)
  dests  : List LoadDest
  ledger : Nat
  stage  : TxnStage
  got    : List Host.Cell
  dev    : Nat
  awaits : List Nat
  lost   : List Nat
  from_  : Option (Nat × Nat)
  rep    : Nat
  deriving DecidableEq, Repr

/-! ### Tidegauge (chapter 9) -/

/-- An accepted commit (R253): slot, target step, its records in order, the command that brought it (partition, id)
and the order in which it was sealed. -/
structure Commit where
  slot  : Nat
  step  : Nat
  recs  : List (Nat × DWord)
  part  : Nat
  cmd   : Nat
  order : Nat
  deriving DecidableEq, Repr

/-- The Tidegauge state beside its registers (R233 to R256). The registers (TG_NOW, TG_STAT, TG_ERR ...) are in
`State.bar0`; here stand: the sub-tick fraction, an armed TG_LOAD, the count of missed boundaries, the phases measured at
the last accepted edges in a row, newest first, the phase still to slew in 1/256 tick, the phases of the last edges in a row
beyond GUARD/2, newest first, whether the boundary
now expected has had its edge, a correction that waits for its boundary (forward or hold), whether time was aligned,
per entry the step of its last firing plus 1, the step and tick at which the driven notice ends, accepted commits and
their serial, open Cupping windows (R58), the error held on entry to holdover with the ticks since, and the STEP_OUT pin. -/
structure Tidegauge where
  frac      : BitVec 16
  armed     : Option Nat
  missed    : Nat
  phases    : List Int
  slew      : Int
  beyond    : List Int
  edgeSeen  : Bool
  forward   : Bool
  holdDue   : Bool
  aligned   : Bool
  fired     : SMap Nat
  noticeEnd : Option (Nat × Nat)
  commits   : List Commit
  sealed    : Nat
  cupOpen   : BitVec 8
  errBase   : Nat
  errTicks  : Nat
  stepOut   : Bool
  deriving DecidableEq, Repr

/-! ### Surf (chapter 10) -/

/-- A Surf frame that is queued or kept for resending (R260 to R264): its sequence number (4096: not numbered yet), the
outgoing transfer it belongs to plus 1 (0: none), how often it was resent, whether it waits for its first sending, and the
flipped bits of its copy in the replay buffer (Table 13.1). -/
structure Frame where
  ty      : Nat
  seq     : Nat
  xid     : Nat
  idx     : Nat
  payload : List Byte
  queue   : Nat
  xfer    : Nat
  resends : Nat
  fresh   : Bool
  err     : BitVec 72
  deriving DecidableEq, Repr

/-- A sequence space (R262, R263): the next number to send, the frames sent and not acknowledged, the next number
expected, the numbers received beyond it, and the missing numbers for which a NAK was sent. -/
structure SeqSpace where
  next   : Nat
  replay : List Frame
  expect : Nat
  beyond : List Nat
  naks   : List Nat
  deriving DecidableEq, Repr

/-- The Ethernet head of a frame (R260, R261): destination and source address, the 802.1Q tag control word if there is a tag,
and the EtherType. -/
structure EthHead where
  dst   : Nat
  src   : Nat
  tag   : Option Nat
  etype : Nat
  deriving DecidableEq, Repr

/-- A frame as it was put on the wire (R260): the remote device, the Surf header and payload, its Ethernet head in Ethernet
mode, and the CRC-32 (there the FCS). -/
structure WireFrame where
  dev  : Nat
  head : Nat
  pay  : List Byte
  eth  : Option EthHead
  crc  : BitVec 32
  deriving DecidableEq, Repr

/-- A Surf port (R258 to R277) beside its registers: sequence spaces (key 0 in native mode, the remote device in
Ethernet mode), new frames per transmit queue with the remote device, frames to send first, DATA frames sent and credits
returned (cumulative, keyed device * 8 + queue), ingress entries freed (same keys), frames that wait for their OPEN with
the remote device, failed full trainings in a row, whether the training under way is a full one (R274), the queue served
last with what is left of its weight, the reported tick at which the open slot was opened, and every frame put on the wire. -/
structure Port where
  spaces   : SMap SeqSpace
  txq      : SMap (List (Nat × Frame))
  ctl      : List (Nat × Frame)
  used     : SMap Nat
  back     : SMap Nat
  freed    : SMap Nat
  ingress  : List (Nat × Frame)
  fails    : Nat
  full     : Bool
  rr       : Nat × Nat
  slotAt   : Nat
  sent     : List WireFrame
  deriving DecidableEq, Repr

/-- An outgoing transfer (R265, R266, R270): identifier, XID, destination device, queue, the lower port of its lane set
and whether the set has two ports, source address (a remote one for a pull), destination address, sectors, head and tail
bytes, the partition it reads or writes for, pull, protected with its counter, whether it has started, the command it belongs
to (partition, command), and for a tile's store (R114) its transaction with the bytes it carries in place of a source. -/
structure XferOut where
  id      : Nat
  xid     : Nat
  dev     : Nat
  queue   : Nat
  lower   : Nat
  both    : Bool
  src     : Nat
  dst     : Nat
  nsec    : Nat
  head    : Nat
  tail    : Nat
  part    : Nat
  pull    : Bool
  prot    : Bool
  ctr     : Nat
  started : Bool
  cmd     : Option (Nat × Nat)
  txn     : Option Nat
  data    : List Byte
  deriving DecidableEq, Repr

/-- An incoming transfer (R266, R271): the port of its OPEN, the remote device, what the OPEN said, the partition that
admits it, sectors written and abandoned, the check value of the CLOSE with its port when it has arrived, and whether it
was refused. -/
structure XferIn where
  id      : Nat
  port    : Nat
  dev     : Nat
  xid     : Nat
  dst     : Nat
  nsec    : Nat
  head    : Nat
  tail    : Nat
  queue   : Nat
  part    : Nat
  prot    : Bool
  ctr     : Nat
  done    : List Nat
  gaps    : List Nat
  closed  : Option (BitVec 64 × Nat)
  refused : Bool
  deriving DecidableEq, Repr

/-- The transfers of the device and the shared Surf state (R265, R270, R352): round robin of lane sets keyed
queue * 256 + device, send counters of protected transfers keyed the same way, the block-abandon notices sent (partition,
device; R156). -/
structure Surf where
  outs    : List XferOut
  ins     : List XferIn
  rr      : SMap Nat
  sendCtr : SMap Nat
  notices : List (Nat × Nat)
  deriving DecidableEq, Repr

/-! ### Host interface (chapter 11) -/

/-- A fetched queue entry that has not started (R290): SQ index and its 128 bytes. -/
structure SqEntry where
  idx   : Nat
  bytes : List Byte
  deriving DecidableEq, Repr

/-- A command in flight (R290, R297): start order, queue, index, entry, the device timeout in force with its two
counters, CANCEL_LATE, and per kind: commands a FENCE awaits, tiles a LAUNCH image has not reached and tiles that
have not reported, the image and arguments read once (R126), Surf transfers of a COPY with the worst status, the gap
count and the status with the offset of a byte that failed here, the commit slot, the ring step of a batch, and the status and
DETAIL of a fault whose completion waits for stores (R291). -/
structure Cmd where
  id       : Nat
  sq       : Nat
  idx      : Nat
  entry    : List Byte
  timeout  : Option Nat
  cntA     : Nat
  cntB     : Nat
  late     : Bool
  awaits   : List Nat
  loads    : List Nat
  reports  : List Nat
  image    : List Byte
  args     : List Byte
  xfers    : List Nat
  worst    : Nat
  gaps     : Nat
  fail     : Option (Nat × Nat)
  slot     : Option Nat
  ring     : Option Nat
  fault    : Option (Nat × Nat)
  deriving DecidableEq, Repr

/-- An engine-fault replay (R372, R373): the contexts in start order with the fate found so far, the place of the
context being replayed and how it ended, the cause and time of the fault, the report address at the fault. -/
structure Replay where
  ctxs    : List Cmd
  rstats  : List Nat
  place   : Nat
  running : Bool
  ended   : Option Nat
  cause   : Nat
  at_     : DWord
  report  : DWord
  deriving DecidableEq, Repr

/-- A dispatcher with its queues (R288 to R302), keyed by partition, 8 for the device queue: SQ tails, SQ fetch
places, fetched entries per SQ, commands in flight, CQ heads and passes, completions that wait for their CQ
(CQ, bytes, vector signalled), entries marked by CANCEL, the start serial, the SQ whose turn it is with what is left of its
weight (R290; 0: a new turn), the replay, and quarantine (R373). -/
structure Part where
  tails    : SMap Nat
  fetch    : SMap Nat
  entries  : SMap (List SqEntry)
  cmds     : List Cmd
  heads    : SMap Nat
  pass     : SMap Nat
  waiting  : List (Nat × List Byte × Bool)
  marks    : List (Nat × Nat)
  serial   : Nat
  rr       : Nat × Nat
  replay   : Option Replay
  quarantine : Bool
  deriving DecidableEq, Repr

/-! ### Power and heat (chapter 12) -/

/-- An event cell (R311): the fields of THM_REC. -/
structure EventCell where
  cause : Nat
  src   : Nat
  temp  : BitVec 16
  step  : BitVec 28
  deriving DecidableEq, Repr

/-- Power state beside its registers: VDD_AON up, the Flood step reached (Table 12.2), the Ebb step reached (R309), the rails
0 to 3 that the T9 has enabled over PMBus (R305), header switch groups per domain (R304, R307), phases that departed in the
last scan per rail (R316), the rails whose voltage monitor has failed (R346), the event cells (R311). -/
structure Power where
  aon     : Bool
  flood   : Nat
  ebb     : Nat
  enabled : BitVec 4
  headers : List ((PowerDomain × Supply) × BitVec 4)
  departed : SMap (BitVec 64)
  pmRails : BitVec 5
  cells   : List EventCell
  deriving DecidableEq, Repr

/-- Heat state beside its registers: the thermal term of each sensor in 16ths (R322), sensors whose out-of-range code
awaits the resample (R319). -/
structure Heat where
  terms   : SMap Nat
  suspect : List Nat
  deriving DecidableEq, Repr

/-! ### Integrity (chapter 13) -/

/-- A BIST slice in progress (R344, R345). `waits` while its element is busy; the flipped bits of the words of the unit's
BIST save buffer (Table 13.1). -/
structure BistRun where
  unit  : Nat
  kind  : Nat
  elem  : Nat
  waits : Bool
  saveErr : SMap (BitVec 72)
  deriving DecidableEq, Repr

/-- A stream of the alive-counter rule (R351), with the flipped bits of its word of the stream table (Table 13.1). -/
structure Stream where
  valid  : Bool
  last   : Nat
  lastCv : Option (BitVec 64)
  gaps   : Nat
  err    : BitVec 72
  deriving DecidableEq, Repr

/-- Integrity state beside its registers: scrub slices running (engine, range slot), BIST slices, BIST cursors keyed
unit * 8 + kind, Shoal fuse and overlay entries (R342), scans per CVU channel, the running one first (partition, command), scan streams
keyed channel * 64 + stream, Surf streams keyed source * 8 + queue (R352), and how many column faults were ever classified
(R336, R340). -/
structure Ras where
  scrubs   : List (Nat × Nat)
  bists    : List BistRun
  cursors  : SMap Nat
  fuses    : List (BitVec 64)
  overlay  : List (BitVec 64)
  scans    : SMap (List (Nat × Nat))
  streams  : SMap Stream
  surf     : SMap Stream
  columns  : Nat
  deriving DecidableEq, Repr

/-! ### Headland (chapter 14) -/

/-- A copy of the boot header (R357). -/
structure BootHeader where
  valid : Bool
  seq   : Nat
  bank  : Nat
  slot  : Nat
  deriving DecidableEq, Repr

/-- A configuration record of a slot (R356, R358): accepted under R356, sequence number, the partition table and the
registers it loads (BAR0 offset, value) for sections 0x01 to 0x05, and bit 0 of the boot options. -/
structure Record where
  valid  : Bool
  seq    : Nat
  parts  : List (Nat × DWord × DWord)
  pcfg   : List (Nat × DWord)
  tgCfg  : Option DWord
  regs   : List (Nat × DWord)
  staged : Bool
  deriving DecidableEq, Repr

/-- What an entry of the journal holds (Table 14.2): a Shoal overlay entry, or saved training (key of `trainKey`). -/
inductive JournalBody where
  | overlay (e : DWord)
  | training (key : Nat) (settings : List Byte)
  deriving DecidableEq, Repr

/-- A journal entry (R358): its sequence number, and whether its CRC-32 is right. -/
structure JournalEntry where
  seq   : Nat
  body  : JournalBody
  crcOk : Bool
  deriving DecidableEq, Repr

/-- The configuration flash (R355 to R359): boot header copies, firmware banks (accepted under R356, version) with
the bytes written to them, record slots with the bytes written, the journal, the event log. -/
structure Flash where
  boot     : BootHeader × BootHeader
  banks    : (Bool × Nat) × (Bool × Nat)
  bankRaw  : List Host.Cell × List Host.Cell
  slots    : Record × Record
  slotRaw  : List Host.Cell × List Host.Cell
  journal  : List JournalEntry
  log      : List (BitVec 64)
  recValid : Option EventCell
  deriving DecidableEq, Repr

/-- Headland beside its registers: the bring-up stage runs or failed, a stage report waits for CONTINUE, CONTINUE
written since the report, Headland in reset, a THM_CTL.CLEAR that waits for its return (R326, R367), TG_CFG written in this
bring-up (R235), the disagreement count per polled unit (R368), the owner of the boot
choice (bank, slot), entries of the overlay and the log not yet in flash (R342), counted resets (R377: domain, step),
domains out of service (R378) with the cause, the hidden column found at bring-up per stack (R365), unusable stacks,
replays that wait in fault order (R374), the device held after stage 0 by escalation (R378), the training results in force
(R274, R360; key of `trainKey`), the version of the tile firmware that stage 4 loaded (R366), the flipped bits of Headland's
SRAM (Table 13.1), the flash. -/
structure Headland where
  running  : Bool
  failed   : Bool
  waiting  : Bool
  contSeen : Bool
  held     : Bool
  inReset  : Bool
  clearDue : Bool
  tgSeen   : Bool
  polls    : List (ResetDomain × Nat)
  bank     : Nat
  slot     : Nat
  pendLog  : List (BitVec 64)
  resets   : List (ResetDomain × Nat)
  out      : List (ResetDomain × Nat)
  hidden   : SMap Nat
  unusable : List Nat
  replays  : List Nat
  devOut   : Bool
  training : SMap (List Byte)
  tileFw   : Option Nat
  sramErr  : SMap (BitVec 72)
  flash    : Flash
  deriving DecidableEq, Repr

/-- Pins (Table 15.2): inputs as last driven, outputs as driven. Active-low outputs are given as levels; the clock of
the always-on slow domain runs on its fallback when `slowFallback`. -/
structure Pins where
  perstN    : Bool
  haltInN   : Bool
  stagedN   : Bool
  thermtripN : Bool
  alertN    : Bool
  slowFallback : Bool
  linkTrain : Bool
  portOn    : Bool
  deriving DecidableEq, Repr

/-- The whole machine. `fresh` is the model's own field: it numbers free values (see notes/assumptions/2.md). So is
`stalled`: it is set within a command whose access meets a controller that serves nothing now, and such a command leaves the
state as it was, so between commands it is false (see notes/assumptions/35.md). `prevCfg` holds what the registers that route
requests read in the previous epoch, where it differs (R255). `hostReqs` lists the requests of the device to host memory
with the function whose requester ID they carry, the 47-bit host address and whether they write (R281). `peers` is
what the remote ports give our queues: their LNK_QCFG.CREDITS, keyed port * 2048 + device * 8 + queue, as Table 10.10 resets
it; no command of this device changes it (see notes/assumptions/46.md). -/
structure State where
  asm       : Assembly
  pending   : List Instr
  fresh     : Nat
  bar0      : SMap DWord
  tiles     : SMap Tile
  shelf     : SMap (SMap Slice)
  fills     : List Fill
  upds      : List ScoreUpd
  ctrls     : SMap Ctrl
  dram      : List Host.Cell
  dramErr   : SMap (List (Nat × Byte))
  hostMem   : List Host.Cell
  txns      : List Txn
  nextId    : Nat
  stalled   : Bool
  prevCfg   : SMap DWord
  gens      : List (ResetDomain × BitVec 4)
  resetting : List ResetDomain
  tg        : Tidegauge
  ports     : SMap Port
  surf      : Surf
  peers     : SMap Nat
  parts     : SMap Part
  irqs      : List (Nat × Nat)
  hostReads : List (Nat × List Byte)
  hostReqs  : List (Nat × Nat × Bool)
  power     : Power
  heat      : Heat
  ras       : Ras
  head      : Headland
  pins      : Pins
  deriving DecidableEq, Repr

/-- Why a command could stop with a fault: no command does. Every row of the table has an effect in the spec, and an
event that cannot fall now leaves the state as it is (notes/assumptions/1.md), so the type has no constructor. -/
inductive Fault where
  deriving DecidableEq, Repr

/-- Why the block refuses a command. -/
inductive Refusal where
  /-- Raised by an arm of `exec` that has no meaning yet (none is left). Safe: nothing is claimed of it. -/
  | notModelled (mnemonic : String)
  /-- Raised by a tile-instruction command whose word is the word of ANOTHER instruction of the opcode tables: no such
  command exists, the sender meant another row. Safe: the machine never issues it. -/
  | otherWord (mnemonic : String)
  deriving DecidableEq, Repr

/-! ### Values at reset -/

def Acc.reset : Acc := ⟨0, 0, false, true⟩

def ArrayUnit.reset : ArrayUnit := ⟨none, 0, 0, [], 0, 0, 0, true, 0, 0, 0, 0, none⟩

def Group.reset : Group :=
  ⟨.free, 0, 0, [], [], [], [], [], 0, .none, [], none, 0, 0, 0⟩

def Ring.reset : Ring := ⟨0, 0, 0, [], [], []⟩

def Tile.reset : Tile := ⟨[], [], [], [], [], [], [], 0, [], [], false, 0, [], [], none⟩

def Sector.reset : Sector := ⟨0, false, [], []⟩

def Slice.reset : Slice := ⟨[], [], [], [], [], [], false⟩

def Ctrl.reset : Ctrl := ⟨[], [], none, [], [], [], [], [], [], false, false, [], [], []⟩

def Tidegauge.reset : Tidegauge :=
  ⟨0, none, 0, [], 0, [], false, false, false, false, [], none, [], 0, 0, 0, 0, true⟩

def SeqSpace.reset : SeqSpace := ⟨0, [], 0, [], []⟩

def Port.reset : Port := ⟨[], [], [], [], [], [], [], 0, true, (0, 0), 0, []⟩

def Surf.reset : Surf := ⟨[], [], [], [], []⟩

def Part.reset : Part := ⟨[], [], [], [], [], [], [], [], 0, (0, 0), none, false⟩

def Stream.reset : Stream := ⟨false, 0, none, 0, 0⟩

def Record.blank : Record := ⟨false, 0, [], [], none, [], false⟩

/-- A flash whose bank A and record slot 0 hold accepted images with empty sections (notes/assumptions/4.md). -/
def Flash.reset : Flash :=
  ⟨(⟨true, 0, 0, 0⟩, ⟨false, 0, 0, 0⟩), ((true, 0), (false, 0)), ([], []),
   (⟨true, 0, [], [], none, [], false⟩, Record.blank), ([], []), [], [], none⟩

def Headland.reset : Headland :=
  ⟨true, false, false, false, false, false, false, false, [], 0, 0, [], [], [], [], [], [], false, [], none, [], Flash.reset⟩

def Pins.reset : Pins := ⟨true, true, true, true, true, false, false, false⟩

/-- The machine right after VDD_AON has risen (R360): every register at its reset value, Headland started and bring-up
in stage 0, the Flood sequence at step 2, reported time 0 (R237), no command waiting. -/
def State.reset : State :=
  { asm := .c12m8x4, pending := [], fresh := 0, bar0 := [], tiles := [], shelf := [], fills := [], upds := [],
    ctrls := [], dram := [], dramErr := [], hostMem := [], txns := [], nextId := 0, stalled := false, prevCfg := [], gens := [], resetting := [],
    tg := Tidegauge.reset, ports := [], surf := Surf.reset, peers := [], parts := [], irqs := [], hostReads := [], hostReqs := [],
    power := ⟨true, 2, 0, 2, [], [], 0, []⟩, heat := ⟨[], []⟩,
    ras := ⟨[], [], [], [], [], [], [], [], 0⟩, head := Headland.reset, pins := Pins.reset }

end Sys2Proof.Machine
end

