-- ==== Sys2Proof/Machine/Bits.lean ====
section
/-! DEFINITION. Bit fields, byte order, sparse maps and byte memories: the plain operations every unit of the machine
uses (R12: bit 0 is the least significant bit, multi-byte values are little-endian). -/

namespace Sys2Proof.Machine

/-- Bits [hi:lo] of a number (R12). -/
def bits (v hi lo : Nat) : Nat := (v >>> lo) % 2 ^ (hi + 1 - lo)

/-- Bit `i` of a number. -/
def bit (v i : Nat) : Bool := (v >>> i) % 2 == 1

/-- 1 or 0. -/
def b2n (b : Bool) : Nat := if b then 1 else 0

/-- Field [hi:lo] of a 64-bit register. -/
def fld (v : DWord) (hi lo : Nat) : Nat := bits v.toNat hi lo

/-- The mask of field [hi:lo]. -/
def fmask (hi lo : Nat) : DWord := BitVec.ofNat 64 ((2 ^ (hi + 1 - lo) - 1) * 2 ^ lo)

/-- A 64-bit register with field [hi:lo] replaced by the low bits of `x`. -/
def setFld (v : DWord) (hi lo x : Nat) : DWord :=
  (v &&& ~~~ fmask hi lo) ||| (BitVec.ofNat 64 (x * 2 ^ lo) &&& fmask hi lo)

/-- The value of an n-bit two's-complement code. -/
def sext (n v : Nat) : Int := if v % 2 ^ n < 2 ^ (n - 1) then (v % 2 ^ n : Int) else (v % 2 ^ n : Int) - 2 ^ n

/-- The n-bit two's-complement code of an integer. -/
def twos (n : Nat) (i : Int) : Nat := (i % (2 ^ n : Int)).toNat

/-- The number of set bits below bit n. -/
def popcount : Nat → Nat → Nat
  | 0, _ => 0
  | n + 1, v => b2n (bit v n) + popcount n v

/-- The bits 0 to n - 1 that are set, rising. -/
def setBits (n v : Nat) : List Nat := (List.range n).filter (bit v)

/-- The number whose set bits are listed. -/
def ofBits (l : List Nat) : Nat := l.foldl (fun v i => v ||| 2 ^ i) 0

/-- The XOR of the listed bits of v. -/
def parityOf (v : Nat) (l : List Nat) : Bool := l.foldl (fun p i => xor p (bit v i)) false

/-! ### Byte order (R12) -/

/-- The value of bytes in little-endian order. -/
def leNat : List Byte → Nat
  | [] => 0
  | b :: bs => b.toNat + 256 * leNat bs

/-- The n little-endian bytes of a value. -/
def leBytes : Nat → Nat → List Byte
  | 0, _ => []
  | n + 1, v => BitVec.ofNat 8 v :: leBytes n (v / 256)

/-! ### Sparse maps -/


/-- The value at a key: the map's default where nothing is listed. -/
def SMap.get {α : Type} (d : α) : SMap α → Nat → α
  | [], _ => d
  | (k, v) :: m, i => if k = i then v else get d m i

/-- Insert an entry in key order. -/
def SMap.ins {α : Type} (i : Nat) (v : α) : SMap α → SMap α
  | [] => [(i, v)]
  | (k, w) :: m => if i < k then (i, v) :: (k, w) :: m else (k, w) :: ins i v m

/-- Remove a key. -/
def SMap.del {α : Type} (m : SMap α) (i : Nat) : SMap α := m.filter (fun e => e.1 != i)

/-- Set a key: an entry equal to the default is not listed. -/
def SMap.set {α : Type} [DecidableEq α] (d : α) (m : SMap α) (i : Nat) (v : α) : SMap α :=
  if v = d then del m i else ins i v (del m i)

/-- Change the value at a key. -/
def SMap.upd {α : Type} [DecidableEq α] (d : α) (m : SMap α) (i : Nat) (f : α → α) : SMap α := set d m i (f (get d m i))

/-- Change every listed value. -/
def SMap.mapv {α : Type} [DecidableEq α] (d : α) (m : SMap α) (f : α → α) : SMap α :=
  (m.map (fun e => (e.1, f e.2))).filter (fun e => e.2 != d)

/-- The entry at a key, for maps whose absence means something. -/
def SMap.find {α : Type} : List (Nat × α) → Nat → Option α
  | [], _ => none
  | (k, v) :: m, i => if k = i then some v else find m i

/-- Set a key of a map whose absence means something. -/
def SMap.put {α : Type} (m : List (Nat × α)) (i : Nat) (v : α) : List (Nat × α) := ins i v (del m i)

/-- The canonical form: keys strictly rising, no entry equal to the default. -/
def SMap.wf {α : Type} [DecidableEq α] (d : α) : SMap α → Bool
  | [] => true
  | [(_, v)] => v != d
  | (k, v) :: (k', v') :: m => v != d && k < k' && wf d ((k', v') :: m)


/-! ### Byte memories: sparse maps of bytes that read zero where nothing is listed -/


/-- One byte. -/
def Mem.byte (m : List Host.Cell) (a : Nat) : Byte := SMap.get 0 m a

/-- n bytes from an address. -/
def Mem.read (m : List Host.Cell) (a n : Nat) : List Byte := (List.range n).map (fun i => byte m (a + i))

/-- Write one byte. -/
def Mem.set (m : List Host.Cell) (a : Nat) (b : Byte) : List Host.Cell := SMap.set 0 m a b

/-- Write bytes from an address upward. -/
def Mem.write : List Host.Cell → Nat → List Byte → List Host.Cell
  | m, _, [] => m
  | m, a, b :: bs => write (set m a b) (a + 1) bs

/-- Write listed cells in order, later cells replacing earlier ones. -/
def Mem.cells (m : List Host.Cell) (cs : List Host.Cell) : List Host.Cell := cs.foldl (fun m c => set m c.1 c.2) m

/-- The little-endian value of n bytes. -/
def Mem.nat (m : List Host.Cell) (a n : Nat) : Nat := leNat (read m a n)

/-- Write the n little-endian bytes of a value. -/
def Mem.putNat (m : List Host.Cell) (a n v : Nat) : List Host.Cell := write m a (leBytes n v)

/-- The canonical form of a byte memory: addresses strictly rising, no zero byte listed. -/
def Mem.wf (m : List Host.Cell) : Bool := SMap.wf (0 : Byte) m

/-- The cells of bytes laid from an address. -/
def Mem.lay (a : Nat) (bs : List Byte) : List Host.Cell := (List.range bs.length).zip bs |>.map (fun p => (a + p.1, p.2))


/-! ### Lists -/

/-- Change the elements that satisfy a test. -/
def updWhere {α : Type} (p : α → Bool) (f : α → α) (l : List α) : List α := l.map (fun x => if p x then f x else x)

/-- A list without the first element equal to x. -/
def dropOne {α : Type} [DecidableEq α] (x : α) : List α → List α
  | [] => []
  | y :: l => if x = y then l else y :: dropOne x l

/-- The number of leading values 0, 1, ... n - 1 that a test accepts first, searched rising. -/
def firstBelow (n : Nat) (p : Nat → Bool) : Option Nat := (List.range n).find? p

/-- The elements of a list at most once, first ones kept. -/
def nub : List Nat → List Nat
  | [] => []
  | a :: l => a :: (nub l).filter (fun b => b != a)

/-- Ceiling division. -/
def cdiv (a b : Nat) : Nat := (a + b - 1) / b

end Sys2Proof.Machine
end

