-- ==== Sys2Proof/Machine/Regs.lean ====
section
/-! DEFINITION. The size table (Tables 0.1, 1.1, 1.2), the device address map (Table 1.6) and the registers of BAR0
(Table 1.7 and the register tables of chapters 0 to 14): for each offset the reset value and the fields a write reaches. -/

namespace Sys2Proof.Machine

/-! ### The size table (R1, R2, R17 to R20, R272, R280) -/

/-- Number of crest dies c, which is the number of stacks (R1). -/
def crests : Assembly → Nat
  | .c12m8x4 | .c12m4x4 => 12
  | .c8m8x4 | .c8m4x2 => 8
  | .c4m2x1 => 4

/-- Number of HBM stacks m (R1). -/
def hbms : Assembly → Nat
  | .c12m8x4 | .c8m8x4 => 8
  | .c12m4x4 | .c8m4x2 => 4
  | .c4m2x1 => 2

/-- Number of I/O dies x (R1). -/
def ioDies : Assembly → Nat
  | .c12m8x4 | .c12m4x4 | .c8m8x4 => 4
  | .c8m4x2 => 2
  | .c4m2x1 => 1

/-- Stack grid width W (Table 1.1). -/
def gridW : Assembly → Nat
  | .c4m2x1 => 2
  | _ => 4

/-- Stack grid height H (Table 1.1). -/
def gridH (a : Assembly) : Nat := crests a / gridW a

/-- Logical tile grid width and height (Table 1.2). -/
def tilesX (a : Assembly) : Nat := 16 * gridW a
def tilesY (a : Assembly) : Nat := 12 * gridH a

/-- The populated HBM controller indexes 2d + k in ascending order (Table 1.1, R18, R191). -/
def ctrlList : Assembly → List Nat
  | .c12m8x4 | .c8m8x4 => [0, 1, 2, 3, 4, 5, 6, 7]
  | .c12m4x4 => [0, 2, 4, 6]
  | .c8m4x2 => [0, 1, 2, 3]
  | .c4m2x1 => [0, 1]

/-- log2 of the pseudo-channel count (R190). -/
def pchBits : Assembly → Nat
  | .c12m8x4 | .c8m8x4 => 9
  | .c12m4x4 | .c8m4x2 => 8
  | .c4m2x1 => 7

/-- Fitted HBM in GiB (Table 1.2). -/
def hbmGiB (a : Assembly) : Nat := 32 * hbms a

/-- Surf ports (Table 1.2). -/
def surfPorts (a : Assembly) : Nat := 12 * ioDies a

/-- Package power limit in W (Table 1.2). -/
def powerLimit : Assembly → Nat
  | .c12m8x4 => 2800
  | .c12m4x4 => 2450
  | .c8m8x4 => 2150
  | .c8m4x2 => 1700
  | .c4m2x1 => 900

/-- Enabled check-value channels of each I/O die (R20). -/
def cvuPerDie (a : Assembly) : Nat := if ioDies a = 4 then 8 else 1

/-- TotalVFs (R280). -/
def totalVFs (a : Assembly) : Nat := if crests a ≥ 8 then 8 else crests a

/-- Is there a logical tile with window index t (R24, R25)? -/
def tileFitted (a : Assembly) (t : Nat) : Bool := t % 64 < tilesX a && t / 64 < tilesY a

/-- The stack of a logical tile (R17). -/
def stackOf (a : Assembly) (t : Nat) : Nat := (t / 64 / 12) * gridW a + t % 64 / 16

/-- Is a check-value channel c = 8d + j enabled (R20, R347)? -/
def cvuFitted (a : Assembly) (c : Nat) : Bool := c / 8 < ioDies a && c % 8 < cvuPerDie a

/-- Is unit u of Table 13.2 in the assembly (R333)? -/
def unitFitted (a : Assembly) (u : Nat) : Bool :=
  u < crests a || (16 ≤ u && u < 16 + crests a) || (32 ≤ u && u < 40 && (ctrlList a).contains (u - 32)) ||
  (48 ≤ u && u < 48 + surfPorts a) || (96 ≤ u && u < 96 + ioDies a) || u == 100 || u == 101

/-! ### The device address map (R24 to R28) -/

/-- What a 48-bit device address names. -/
inductive Target where
  | hbm (a : Nat)
  | window (t off : Nat)
  | host (off : Nat)
  | peer (d off : Nat)
  | unmapped
  deriving DecidableEq, Repr

/-- The decode of Table 1.6. HBM beyond the fitted capacity, tile windows outside the grid and gaps are unmapped. -/
def decodeAddr (asm : Assembly) (a : Nat) : Target :=
  if a < hbmGiB asm * 2 ^ 30 then .hbm a
  else if 0x4000_0000_0000 ≤ a && a < 0x4000_0000_0000 + 4096 * 0x10_0000 then
    let t := (a - 0x4000_0000_0000) / 0x10_0000
    if tileFitted asm t then .window t (a % 0x10_0000) else .unmapped
  else if 0x8000_0000_0000 ≤ a && a < 0xC000_0000_0000 then .host (a - 0x8000_0000_0000)
  else if 0xC000_0000_0000 ≤ a && a < 0x1_0000_0000_0000 then
    .peer ((a - 0xC000_0000_0000) / 0x40_0000_0000) (a % 0x40_0000_0000)
  else .unmapped

/-! ### BAR0 offsets (Table 1.7 and the register tables) -/

def hstPage (p : Nat) : Nat := 0x10_0000 + p * 0x1_0000
def oPCFG (p : Nat) : Nat := hstPage p + 0x08
def oPSTAT (p : Nat) : Nat := hstPage p + 0x10
def oCANCEL (p : Nat) : Nat := hstPage p + 0x20
def oWIN (p : Nat) : Nat := hstPage p + 0x28
def oFAULT (p : Nat) : Nat := hstPage p + 0x30
def oRPTADDR (p : Nat) : Nat := hstPage p + 0x40
/-- Queue registers of partition p; p = 8 is the device queue at HST base + 0x9_0000 (R296). -/
def queuePage (p : Nat) : Nat := if p = 8 then 0x19_0000 else hstPage p
def oSQA (p n : Nat) : Nat := queuePage p + 0x1000 + n * 0x10
def oSQB (p n : Nat) : Nat := queuePage p + 0x1008 + n * 0x10
def oCQA (p n : Nat) : Nat := queuePage p + 0x2000 + n * 0x10
def oCQB (p n : Nat) : Nat := queuePage p + 0x2008 + n * 0x10
def oPTABA (p : Nat) : Nat := 0x18_0000 + p * 0x10
def oPTABB (p : Nat) : Nat := 0x18_0008 + p * 0x10
def oPFWIN : Nat := 0x18_0100

def oTGCFG : Nat := 0x20_0000
def oTGNOW : Nat := 0x20_0008
def oTGFRAC : Nat := 0x20_0010
def oTGSTAT : Nat := 0x20_0018
def oTGERR : Nat := 0x20_0020
def oTGLNCFG : Nat := 0x20_0030
def oTGCMT : Nat := 0x20_0038
def oTGEVT : Nat := 0x20_0040
def oCMTST (j : Nat) : Nat := 0x20_0080 + j * 8
def oENTA (n : Nat) : Nat := 0x20_1000 + n * 0x10
def oENTB (n : Nat) : Nat := 0x20_1008 + n * 0x10

def oPWRCFG : Nat := 0x30_0000
def oPWRSTAT : Nat := 0x30_0008
def oPWREVT : Nat := 0x30_0010
def oRAIL (r : Nat) : Nat := 0x30_0100 + r * 8
def oPHFAIL (r : Nat) : Nat := 0x30_0140 + r * 8

def oTHMCFG : Nat := 0x40_0000
def oTHMSTAT : Nat := 0x40_0008
def oTHMREC : Nat := 0x40_0010
def oTHMEVT : Nat := 0x40_0020
def oTHMPHASE : Nat := 0x40_0080
def oDUTY (s : Nat) : Nat := 0x40_0100 + s * 8
def oSENS (n : Nat) : Nat := 0x40_1000 + n * 8

def oRASCFG : Nat := 0x50_0000
def oRASUE : Nat := 0x50_0008
def oRASDECODE : Nat := 0x50_0010
def oCLSEVT : Nat := 0x50_0018
def oBISTSTAT : Nat := 0x50_0020
def oBISTLOG : Nat := 0x50_0028
def oSHOALIDX : Nat := 0x50_0030
def oSHOALDATA : Nat := 0x50_0038
def oSHOALSTAT : Nat := 0x50_0040
def oLB (u : Nat) : Nat := 0x50_1000 + u * 8
def oSCRA (e k : Nat) : Nat := 0x50_2000 + e * 0x40 + k * 0x10
def oSCRB (e k : Nat) : Nat := 0x50_2008 + e * 0x40 + k * 0x10
def oCUPHIST (p n : Nat) : Nat := 0x5F_0000 + p * 0x100 + n * 8
def oCUPEVT (p : Nat) : Nat := 0x5F_0080 + p * 0x100

def oCVCFG (c : Nat) : Nat := 0x60_0000 + c * 0x40
def oCVPOLY (c : Nat) : Nat := 0x60_0008 + c * 0x40
def oCVINIT (c : Nat) : Nat := 0x60_0010 + c * 0x40
def oCVRUN (c : Nat) : Nat := 0x60_0018 + c * 0x40
def oCVSTAT (c : Nat) : Nat := 0x60_0020 + c * 0x40
def oCVEVT (c : Nat) : Nat := 0x60_0028 + c * 0x40
def oCVSURF : Nat := 0x60_1000

def oBWRCFG : Nat := 0x70_0000
def oBWRPRIO : Nat := 0x70_0008
def oBWRSTAT : Nat := 0x70_0010
def oBWREVT : Nat := 0x70_0018
def oBUDGET (p : Nat) : Nat := 0x70_0100 + p * 8
def oBWRCNT (p c : Nat) : Nat := 0x70_0200 + p * 0x40 + c * 8

def memBase (i : Nat) : Nat := 0x80_0000 + i * 0x1_0000
def oMEMCFG (i : Nat) : Nat := memBase i
def oMEMSTAT (i : Nat) : Nat := memBase i + 0x08
def oMEMARB (i : Nat) : Nat := memBase i + 0x10
def oMEMEVT (i : Nat) : Nat := memBase i + 0x18
def oXCLO (i n : Nat) : Nat := memBase i + 0x100 + n * 0x10
def oXCHI (i n : Nat) : Nat := memBase i + 0x108 + n * 0x10
def oXCSTAT (i : Nat) : Nat := memBase i + 0x180
def oMEMERR (i : Nat) : Nat := memBase i + 0x200
def oMEMRTN (i : Nat) : Nat := memBase i + 0x300
def oEYE (i p : Nat) : Nat := memBase i + 0x400 + p * 8
def oPCH (i c : Nat) : Nat := memBase i + 0x1000 + c * 8

def shfBase (s : Nat) : Nat := 0x100_0000 + s * 0x10_0000
def oSHFCFG (s : Nat) : Nat := shfBase s
def oSHFSTAT (s : Nat) : Nat := shfBase s + 0x08
def oSHFEVT (s : Nat) : Nat := shfBase s + 0x10
def oSHFSLICE (s k : Nat) : Nat := shfBase s + 0x100 + k * 8
/-- Counter j of slice k: 0 RHIT, 1 FILL, 2 WBFULL, 3 WBMASK (Table 6.7). -/
def oSHFCNT (s k j : Nat) : Nat := shfBase s + 0x400 + k * 0x20 + j * 8

def lnkBase (p : Nat) : Nat := 0x200_0000 + p * 0x1_0000
def oLNKCFG (p : Nat) : Nat := lnkBase p
def oLNKSTAT (p : Nat) : Nat := lnkBase p + 0x08
def oLNKEVT (p : Nat) : Nat := lnkBase p + 0x18
def oLNKFEC (p : Nat) : Nat := lnkBase p + 0x20
def oQCFG (p q : Nat) : Nat := lnkBase p + 0x100 + q * 8
def oSLOT (p s : Nat) : Nat := lnkBase p + 0x200 + s * 8
def oLNKDEV : Nat := 0x2F0_0000
def oLNKETH : Nat := 0x2F0_0008
def oROUTE (d : Nat) : Nat := 0x2F0_1000 + d * 8

def tilBase (t : Nat) : Nat := 0x300_0000 + t * 0x1000
def oGRPSTAT (t n : Nat) : Nat := tilBase t + 0x100 + n * 8
def oGRPFAULT (t : Nat) : Nat := tilBase t + 0x140
def oMSGRING (t q : Nat) : Nat := tilBase t + 0x200 + q * 8
def oMSGSTAT (t : Nat) : Nat := tilBase t + 0x240
def oARRSTAT (t n : Nat) : Nat := tilBase t + 0x800 + n * 8
def oARRFAULT (t : Nat) : Nat := tilBase t + 0x820
def oATTSTAT (t : Nat) : Nat := tilBase t + 0xA00
def oATTCNT (t : Nat) : Nat := tilBase t + 0xA08
def oCUPCTL (t : Nat) : Nat := tilBase t + 0xC00
def oSHADOWA (t : Nat) : Nat := tilBase t + 0xC08
def oSHADOWB (t : Nat) : Nat := tilBase t + 0xC10
def oTMEMERR (t : Nat) : Nat := tilBase t + 0xD00

def oHLMSTAT : Nat := 0x3F0_0000
def oHLMMBDB : Nat := 0x3F0_0018
def oHLMRCFG : Nat := 0x3F0_0020
def oSREP (i : Nat) : Nat := 0x3F0_0040 + i * 8
def oESCCFG : Nat := 0x3F0_0100
def oESCLOG (n : Nat) : Nat := 0x3F0_0200 + n * 8
def oMBOX (i : Nat) : Nat := 0x3F0_1000 + i * 8
def oRPT (p i : Nat) : Nat := 0x3F0_2000 + p * 0x800 + i * 8

/-! ### Access codes (Table 0.4) and register descriptions -/

/-- How a write reaches a field. RO, WO and ST without a write rule keep what they hold; `rwPf` is a field written
through PF BAR0 only (R303), `stPf` an ST field whose description gives a write rule (Table 14.11). -/
inductive Acc0 where
  | rw | rw1c | rl | rwPf | stPf
  deriving DecidableEq, Repr

/-- A register: its reset value and the fields that a write can reach, [hi:lo] with the access code. -/
structure RegDesc where
  reset  : DWord
  fields : List (Nat × Nat × Acc0)
  deriving DecidableEq, Repr

/-- Four 16-bit counters that are RW. -/
def rw4 : List (Nat × Nat × Acc0) := [(63, 48, .rw), (47, 32, .rw), (31, 16, .rw), (15, 0, .rw)]

/-- A register no write reaches. -/
def roReg (v : DWord) : Option RegDesc := some ⟨v, []⟩

/-- GLB (Tables 0.2, 0.3). -/
def glbDesc (asm : Assembly) (o : Nat) : Option RegDesc :=
  if o = 0 then roReg (BitVec.ofNat 64 (0x4E4D_0009_0000_0000 + crests asm * 2 ^ 24 + hbms asm * 2 ^ 16 + ioDies asm * 2 ^ 8))
  else if o = 8 then roReg 0x0000_0100_A0A0_A000
  else none

/-- A queue page: SQ and CQ registers of Table 11.11; the device queue has one of each, PRIV reading 1 (R296). -/
def queueDesc (dev : Bool) (o : Nat) : Option RegDesc :=
  let n := if dev then 1 else 16
  if 0x1000 ≤ o && o < 0x1000 + n * 16 then
    if o % 16 = 0 then some ⟨0, [(47, 12, .rw)]⟩
    else if o % 16 = 8 then
      if dev then some ⟨0x4001_0000_0000_0001, [(63, 63, .rw), (59, 56, .rw), (51, 48, .rw), (7, 0, .rw)]⟩
      else some ⟨0x0001_0000_0000_0001, [(63, 63, .rw), (62, 62, .rwPf), (59, 56, .rw), (51, 48, .rw), (7, 0, .rw)]⟩
    else none
  else if 0x2000 ≤ o && o < 0x2000 + n * 16 then
    if o % 16 = 0 then some ⟨0, [(47, 12, .rw)]⟩
    else if o % 16 = 8 then some ⟨0x0000_0100_0000_0000, [(63, 63, .rw), (53, 48, .rw), (43, 40, .rw)]⟩
    else none
  else if 0x8000 ≤ o && o < 0x8000 + n * 8 && o % 8 = 0 then roReg 0
  else if 0x8100 ≤ o && o < 0x8100 + n * 8 && o % 8 = 0 then roReg 0
  else none

/-- A partition's HST page (Tables 11.9 to 11.11, 14.11). -/
def hstDesc (o : Nat) : Option RegDesc :=
  match o with
  | 0x00 | 0x18 => roReg 0
  | 0x08 => some ⟨0x0098_9680_0000_0000, [(63, 32, .rw), (17, 17, .rwPf), (16, 16, .rw), (0, 0, .rw)]⟩
  | 0x10 => roReg 0
  | 0x20 => some ⟨0, [(19, 16, .rw), (11, 0, .rw)]⟩
  | 0x28 => some ⟨0, [(47, 30, .rw)]⟩
  | 0x30 => some ⟨0, [(63, 63, .rw1c)]⟩
  | 0x40 => some ⟨0, [(63, 63, .rw), (47, 11, .rw)]⟩
  | _ => queueDesc false o

/-- HST: pages, partition table and device queue (Table 11.12, R296). -/
def hstBlock (asm : Assembly) (o : Nat) : Option RegDesc :=
  if o < 0x8_0000 then (if o / 0x1_0000 < totalVFs asm then hstDesc (o % 0x1_0000) else none)
  else if o < 0x8_0000 + totalVFs asm * 16 then
    if o % 16 = 0 then some ⟨0, [(63, 63, .rl), (11, 0, .rl)]⟩
    else if o % 16 = 8 then some ⟨0, [(40, 32, .rl), (8, 0, .rl)]⟩ else none
  else if o = 0x8_0100 then some ⟨0, [(47, 30, .rw)]⟩
  else if 0x9_0000 ≤ o && o < 0xA_0000 then queueDesc true (o - 0x9_0000)
  else none

/-- TG (Tables 9.3 to 9.12). Entries 248 to 255 are written by the commit path alone (R246). -/
def tgDesc (o : Nat) : Option RegDesc :=
  match o with
  | 0x00 => some ⟨BitVec.ofNat 64 (2 ^ 50 + 0x1F4 * 2 ^ 37 + 2 * 2 ^ 32 + 4 * 2 ^ 28 + 2 ^ 20 + 0x10 * 2 ^ 8 + 0x0A),
      [(50, 50, .rl), (49, 37, .rl), (36, 36, .rl), (35, 32, .rl), (31, 28, .rl), (27, 20, .rl), (19, 8, .rl), (7, 0, .rl)]⟩
  | 0x08 | 0x10 | 0x28 => roReg 0
  | 0x18 => some ⟨0, [(8, 8, .rw1c)]⟩
  | 0x20 => roReg 0x0000_0000_FFFF_FFFF
  | 0x30 => some ⟨0x0000_0000_0040_0020, [(27, 16, .rl), (11, 0, .rl)]⟩
  | 0x38 => some ⟨0, [(47, 32, .rw)]⟩
  | 0x40 => some ⟨0, rw4⟩
  | _ =>
    if 0x80 ≤ o && o < 0xC0 && o % 8 = 0 then roReg 0
    else if 0x1000 ≤ o && o < 0x2000 then
      if 0x1000 + 248 * 16 ≤ o then (if o % 8 = 0 then roReg 0 else none)
      else if o % 16 = 0 then some ⟨0, [(63, 63, .rl), (62, 62, .rl), (59, 56, .rl), (51, 0, .rl)]⟩
      else if o % 16 = 8 then some ⟨0, [(63, 48, .rl), (47, 36, .rl), (35, 24, .rl), (23, 8, .rl), (7, 0, .rl)]⟩
      else none
    else none

/-- The reset value of PWR_RAILr (Tables 12.1, 12.7). -/
def railReset (r : Nat) : DWord :=
  let (ilim, nph, vset) := match r with
    | 0 => (0x960, 40, 0x2BC)
    | 1 => (0x2D0, 12, 0x2EE)
    | 2 => (0x118, 6, 0x352)
    | 3 => (0x0F0, 4, 0x2EE)
    | _ => (0x006, 1, 0x320)
  BitVec.ofNat 64 (ilim * 2 ^ 52 + nph * 2 ^ 44 + 0x5E * 2 ^ 32 + 0x58 * 2 ^ 24 + vset)

/-- PWR (Tables 12.6, 12.7). -/
def pwrDesc (asm : Assembly) (o : Nat) : Option RegDesc :=
  if o = 0 then some ⟨BitVec.ofNat 64 (powerLimit asm * 2 ^ 48 + 0x40 * 2 ^ 40 + 2 * 2 ^ 36 + 8 * 2 ^ 32 + 0xCE4 * 2 ^ 20 + 0x0C * 2 ^ 8 + 4 * 2 ^ 4),
      [(63, 48, .rl), (47, 40, .rl), (39, 36, .rl), (35, 32, .rl), (31, 20, .rl), (15, 8, .rl), (7, 4, .rl)]⟩
  else if o = 8 then roReg 0
  else if o = 0x10 then some ⟨0, [(63, 48, .rw), (47, 40, .rw), (39, 8, .rw)]⟩
  else if 0x100 ≤ o && o < 0x128 && o % 8 = 0 then
    some ⟨railReset ((o - 0x100) / 8), [(63, 52, .rl), (51, 44, .rl), (39, 32, .rl), (31, 24, .rl), (11, 0, .rl)]⟩
  else if 0x140 ≤ o && o < 0x168 && o % 8 = 0 then roReg 0
  else none

/-- Is sensor n of R318 fitted? -/
def sensorFitted (asm : Assembly) (n : Nat) : Bool :=
  n < 16 * crests asm || (192 ≤ n && n < 192 + 8 * crests asm) || (288 ≤ n && n < 288 + 4 * ioDies asm) ||
  (304 ≤ n && n < 312 && (ctrlList asm).contains (n - 304))

/-- THM (Tables 12.8, 12.9). -/
def thmDesc (asm : Assembly) (o : Nat) : Option RegDesc :=
  match o with
  | 0x00 => some ⟨0x0000_0000_0802_7364, [(27, 24, .rl), (20, 20, .rl), (18, 16, .rl), (7, 0, .rl)]⟩
  | 0x08 | 0x10 | 0x18 | 0x80 => roReg 0
  | 0x20 => some ⟨0, [(63, 48, .rw), (47, 32, .rw), (31, 0, .rw)]⟩
  | _ =>
    if 0x100 ≤ o && o < 0x100 + crests asm * 8 && o % 8 = 0 then roReg 0
    else if 0x1000 ≤ o && o < 0x1000 + 312 * 8 && o % 8 = 0 && sensorFitted asm ((o - 0x1000) / 8) then
      some ⟨0, [(47, 32, .rw)]⟩
    else none

/-- RAS (Tables 2.8, 2.9, 13.8 to 13.10). -/
def rasDesc (asm : Assembly) (o : Nat) : Option RegDesc :=
  match o with
  | 0x00 => some ⟨0x0000_0000_0001_0064, [(16, 16, .rl), (15, 0, .rl)]⟩
  | 0x08 | 0x10 | 0x28 => some ⟨0, [(63, 63, .rw1c)]⟩
  | 0x18 => some ⟨0, [(63, 48, .rw), (47, 32, .rw), (31, 16, .rw)]⟩
  | 0x20 => some ⟨0, rw4⟩
  | 0x30 => some ⟨0, [(12, 0, .rw)]⟩
  | 0x38 | 0x40 => roReg 0
  | _ =>
    if 0x1000 ≤ o && o < 0x1400 && o % 8 = 0 then
      if unitFitted asm ((o - 0x1000) / 8) then some ⟨0x0000_0040_0000_0000, [(63, 63, .rw1c), (47, 32, .rw), (31, 16, .rw)]⟩ else none
    else if 0x2000 ≤ o && o < 0x2000 + 128 * 0x40 then
      let u := (o - 0x2000) / 0x40
      if unitFitted asm u && 16 ≤ u && u < 40 then
        if o % 16 = 0 then some ⟨0, [(63, 63, .rl), (39, 0, .rl)]⟩
        else if o % 16 = 8 then some ⟨0x400, [(63, 40, .rl), (15, 0, .rl)]⟩ else none
      else none
    else if 0xF_0000 ≤ o && o < 0xF_0000 + totalVFs asm * 0x100 then
      if o % 0x100 < 0x80 && o % 8 = 0 then some ⟨0, [(31, 0, .rw)]⟩
      else if o % 0x100 = 0x80 then
        some ⟨0xFFFF_FFFF_0000_000C, [(63, 32, .rw), (8, 8, .rw1c), (4, 4, .rw), (3, 0, .rw)]⟩
      else none
    else none

/-- CVU (Table 13.11, R353). -/
def cvuDesc (asm : Assembly) (o : Nat) : Option RegDesc :=
  if o = 0x1000 then some ⟨BitVec.ofNat 64 (0x10 * 2 ^ 48), [(52, 48, .rl)]⟩
  else if o < 0x800 && cvuFitted asm (o / 0x40) then
    match o % 0x40 with
    | 0x00 => some ⟨BitVec.ofNat 64 (0x20 * 2 ^ 57 + 2 ^ 56 + 2 ^ 55 + 2 ^ 54 + 0x10 * 2 ^ 48),
        [(63, 57, .rl), (56, 56, .rl), (55, 55, .rl), (54, 54, .rl), (53, 53, .rl), (52, 48, .rl)]⟩
    | 0x08 => some ⟨0x04C1_1DB7, [(63, 0, .rl)]⟩
    | 0x10 => some ⟨0xFFFF_FFFF, [(63, 0, .rl)]⟩
    | 0x18 => some ⟨0, [(63, 0, .rw)]⟩
    | 0x20 => some ⟨0, [(47, 32, .rw)]⟩
    | 0x28 => some ⟨0, rw4⟩
    | _ => none
  else none

/-- BWR (Tables 8.7 to 8.12). -/
def bwrDesc (o : Nat) : Option RegDesc :=
  match o with
  | 0x00 => some ⟨0x0000_1000_F000_0100, [(47, 32, .rl), (31, 28, .rl), (11, 0, .rl)]⟩
  | 0x08 => some ⟨0x0117_3562, [(26, 24, .rl), (22, 20, .rl), (18, 16, .rl), (14, 12, .rl), (10, 8, .rl), (6, 4, .rl), (2, 0, .rl)]⟩
  | 0x10 => roReg 0
  | 0x18 => some ⟨0, rw4⟩
  | _ =>
    if 0x100 ≤ o && o < 0x148 && o % 8 = 0 then
      some ⟨0x0002_0201_1020_80FF, [(55, 48, .rl), (47, 40, .rl), (39, 32, .rl), (31, 24, .rl), (23, 16, .rl), (15, 8, .rl), (7, 0, .rl)]⟩
    else if 0x200 ≤ o && o < 0x200 + 9 * 0x40 && o % 0x40 < 0x38 && o % 8 = 0 then some ⟨0, [(63, 48, .rw), (39, 20, .rw)]⟩
    else none

/-- MEM block of a populated controller (Tables 7.6 to 7.13). -/
def memDesc (o : Nat) : Option RegDesc :=
  match o with
  | 0x000 => some ⟨0x5522, [(15, 8, .rl), (5, 5, .rl), (4, 4, .rl), (1, 0, .rl)]⟩
  | 0x008 => roReg 0x2
  | 0x010 => some ⟨0x0000_0800_1808_0000, [(47, 32, .rl), (31, 24, .rl), (23, 16, .rl)]⟩
  | 0x018 => some ⟨0, [(63, 48, .rw), (47, 32, .rw), (31, 0, .rw)]⟩
  | 0x180 => some ⟨0, [(15, 8, .rw1c), (7, 0, .rw1c)]⟩
  | 0x200 => some ⟨0, [(63, 63, .rw1c)]⟩
  | 0x300 => some ⟨0, [(40, 38, .rw), (37, 32, .rw)]⟩
  | _ =>
    if 0x100 ≤ o && o < 0x180 then
      if o % 16 = 0 then some ⟨0, [(63, 63, .rl), (54, 48, .rl), (47, 8, .rl)]⟩
      else if o % 16 = 8 then some ⟨0, [(47, 8, .rl)]⟩ else none
    else if 0x400 ≤ o && o < 0x400 + 36 * 8 && o % 8 = 0 then roReg 0
    else if 0x1000 ≤ o && o < 0x1200 && o % 8 = 0 then some ⟨0xFC00, [(63, 48, .rw), (47, 32, .rw), (15, 10, .rw)]⟩
    else none

/-- SHF block of a stack (Tables 6.3 to 6.7). -/
def shfDesc (o : Nat) : Option RegDesc :=
  match o with
  | 0x00 => some ⟨1, [(63, 48, .rl), (11, 8, .rl), (1, 1, .rl), (0, 0, .rl)]⟩
  | 0x08 => roReg 0x10
  | 0x10 => some ⟨0, [(63, 48, .rw), (47, 32, .rw), (31, 16, .rw)]⟩
  | _ =>
    if 0x100 ≤ o && o < 0x180 && o % 8 = 0 then roReg (BitVec.ofNat 64 ((o - 0x100) / 8 * 256))
    else if 0x400 ≤ o && o < 0x600 && o % 8 = 0 then some ⟨0, [(47, 0, .rw)]⟩
    else none

/-- LNK registers of a port (Tables 10.7 to 10.11). -/
def portDesc (o : Nat) : Option RegDesc :=
  match o with
  | 0x00 => some ⟨BitVec.ofNat 64 (4 * 2 ^ 38 + 7 * 2 ^ 32),
      [(63, 56, .rl), (55, 50, .rl), (47, 38, .rl), (34, 32, .rl), (3, 3, .rl), (2, 2, .rl), (1, 0, .rl)]⟩
  | 0x08 | 0x10 => roReg 0
  | 0x18 => some ⟨0, rw4⟩
  | 0x20 => some ⟨0, [(63, 32, .rw), (31, 16, .rw), (15, 0, .rw)]⟩
  | _ =>
    if 0x100 ≤ o && o < 0x140 && o % 8 = 0 then
      some ⟨BitVec.ofNat 64 (0x80 * 2 ^ 32 + 0x100 + (o - 0x100) / 8), [(41, 32, .rl), (15, 8, .rl), (2, 0, .rl)]⟩
    else if 0x200 ≤ o && o < 0x280 && o % 8 = 0 then some ⟨0, [(19, 8, .rl), (7, 0, .rl)]⟩
    else none

/-- LNK (Tables 10.7 to 10.12). -/
def lnkDesc (asm : Assembly) (o : Nat) : Option RegDesc :=
  if o = 0xF0_0000 then some ⟨0, [(15, 8, .rl), (7, 0, .rl)]⟩
  else if o = 0xF0_0008 then some ⟨0x88B5_0000_0000_0000, [(63, 48, .rl), (47, 45, .rl), (44, 44, .rl), (43, 32, .rl)]⟩
  else if 0xF0_1000 ≤ o && o < 0xF0_1800 && o % 8 = 0 then some ⟨0, [(63, 63, .rl), (47, 0, .rl)]⟩
  else if o / 0x1_0000 < surfPorts asm then portDesc (o % 0x1_0000)
  else none

/-- TIL registers of a tile (Tables 2.6, 2.7, 3.11, 3.12, 4.12 to 4.15, 5.10, 5.11, 6.8). -/
def tilDesc (o : Nat) : Option RegDesc :=
  match o with
  | 0x140 | 0x820 | 0xD00 => some ⟨0, [(63, 63, .rw1c)]⟩
  | 0x240 => some ⟨0, [(63, 48, .rw), (47, 32, .rw)]⟩
  | 0xA00 => some ⟨0, [(63, 32, .rw)]⟩
  | 0xA08 => some ⟨0, [(63, 32, .rw), (31, 16, .rw), (15, 0, .rw)]⟩
  | 0xC00 => some ⟨0x000F_0A00, [(19, 16, .rw), (12, 8, .rw), (1, 0, .rw)]⟩
  | 0xC08 | 0xC10 => some ⟨0, [(47, 32, .rw), (19, 0, .rw)]⟩
  | _ =>
    if 0x100 ≤ o && o < 0x140 && o % 8 = 0 then roReg 0
    else if 0x200 ≤ o && o < 0x240 && o % 8 = 0 then roReg 0
    else if 0x800 ≤ o && o < 0x820 && o % 8 = 0 then some ⟨0, [(39, 32, .rw)]⟩
    else none

/-- HLM (Tables 14.10, 14.11). -/
def hlmDesc (asm : Assembly) (o : Nat) : Option RegDesc :=
  match o with
  | 0x00 | 0x08 => roReg 0
  | 0x18 => some ⟨0, [(11, 0, .rw)]⟩
  | 0x20 => some ⟨0x0098_9680, [(31, 0, .rw)]⟩
  | 0x100 => some ⟨0x0000_0003_8400_0003, [(39, 24, .stPf), (7, 0, .stPf)]⟩
  | _ =>
    if 0x40 ≤ o && o < 0x80 && o % 8 = 0 then roReg 0
    else if 0x200 ≤ o && o < 0x300 && o % 8 = 0 then roReg 0
    else if 0x1000 ≤ o && o < 0x2000 && o % 8 = 0 then some ⟨0, [(63, 0, .rw)]⟩
    else if 0x2000 ≤ o && o < 0x2000 + totalVFs asm * 0x800 && o % 8 = 0 then roReg 0
    else none

/-- The register at a BAR0 offset (R29). Instances absent from the assembly have none: they read zero and ignore writes. -/
def regDesc (asm : Assembly) (o : Nat) : Option RegDesc :=
  if o < 0x10_0000 then glbDesc asm o
  else if o < 0x20_0000 then hstBlock asm (o - 0x10_0000)
  else if o < 0x30_0000 then tgDesc (o - 0x20_0000)
  else if o < 0x40_0000 then pwrDesc asm (o - 0x30_0000)
  else if o < 0x50_0000 then thmDesc asm (o - 0x40_0000)
  else if o < 0x60_0000 then rasDesc asm (o - 0x50_0000)
  else if o < 0x70_0000 then cvuDesc asm (o - 0x60_0000)
  else if o < 0x80_0000 then bwrDesc (o - 0x70_0000)
  else if o < 0x100_0000 then
    if (ctrlList asm).contains ((o - 0x80_0000) / 0x1_0000) then memDesc (o % 0x1_0000) else none
  else if o < 0x200_0000 then
    if (o - 0x100_0000) / 0x10_0000 < crests asm then shfDesc (o % 0x10_0000) else none
  else if o < 0x300_0000 then lnkDesc asm (o - 0x200_0000)
  else if o < 0x3F0_0000 then
    if tileFitted asm ((o - 0x300_0000) / 0x1000) then tilDesc (o % 0x1000) else none
  else if o < 0x400_0000 then hlmDesc asm (o - 0x3F0_0000)
  else none

/-- The reset value of the register at an offset; zero where there is none. -/
def regReset (asm : Assembly) (o : Nat) : DWord :=
  match regDesc asm o with
  | some d => d.reset
  | none => 0

/-- Does the register hold RL fields (R11, R295)? -/
def holdsRL (asm : Assembly) (o : Nat) : Bool :=
  match regDesc asm o with
  | some d => d.fields.any (fun f => f.2.2 == .rl)
  | none => false

end Sys2Proof.Machine
end

