-- ==== Sys2Proof/Machine/Ops.lean ====
section
/-! DEFINITION. The named operations over the state that every unit shares: registers of BAR0 and their counters, the
units of the sparse maps, reset-domain generations, interrupts, error capture, free values. -/

namespace Sys2Proof.Machine

/-! ### Registers of BAR0 -/

/-- What the register at a BAR0 offset holds. -/
def reg (s : State) (o : Nat) : DWord := SMap.get (regReset s.asm o) s.bar0 o

/-- The state with a register set. -/
def setReg (s : State) (o : Nat) (v : DWord) : State := { s with bar0 := SMap.set (regReset s.asm o) s.bar0 o v }

/-- Field [hi:lo] of a register. -/
def regF (s : State) (o hi lo : Nat) : Nat := fld (reg s o) hi lo

/-- Bit i of a register. -/
def regB (s : State) (o i : Nat) : Bool := bit (reg s o).toNat i

/-- Set field [hi:lo] of a register. -/
def setF (s : State) (o hi lo x : Nat) : State := setReg s o (setFld (reg s o) hi lo x)

/-- Add n to a counter field that saturates (the tables' "Saturates"). -/
def addSat (s : State) (o hi lo n : Nat) : State :=
  setF s o hi lo (min (2 ^ (hi + 1 - lo) - 1) (regF s o hi lo + n))

/-- Take a register back to its reset value. -/
def clearReg (s : State) (o : Nat) : State := { s with bar0 := SMap.del s.bar0 o }

/-- Take every register of an offset range [lo, hi) that `p` names back to its reset value. -/
def clearRegs (s : State) (lo hi : Nat) (p : Nat → Bool) : State :=
  { s with bar0 := s.bar0.filter (fun e => !(lo ≤ e.1 && e.1 < hi && p e.1)) }

/-! ### Units -/

def tileOf (s : State) (t : Nat) : Tile := SMap.get Tile.reset s.tiles t
def setTile (s : State) (t : Nat) (x : Tile) : State := { s with tiles := SMap.set Tile.reset s.tiles t x }
def updTile (s : State) (t : Nat) (f : Tile → Tile) : State := setTile s t (f (tileOf s t))

def groupOf (x : Tile) (g : Nat) : Group := SMap.get Group.reset x.groups g
def setGrp (x : Tile) (g : Nat) (y : Group) : Tile := { x with groups := SMap.set Group.reset x.groups g y }
/-- Group slot g of tile t. -/
def grp (s : State) (t g : Nat) : Group := groupOf (tileOf s t) g
def setGroup (s : State) (t g : Nat) (y : Group) : State := updTile s t (fun x => setGrp x g y)
def updGroup (s : State) (t g : Nat) (f : Group → Group) : State := setGroup s t g (f (grp s t g))

def arrayOf (x : Tile) (n : Nat) : ArrayUnit := SMap.get ArrayUnit.reset x.arrays n
def setArr (x : Tile) (n : Nat) (y : ArrayUnit) : Tile := { x with arrays := SMap.set ArrayUnit.reset x.arrays n y }
/-- Array n of tile t. -/
def arr (s : State) (t n : Nat) : ArrayUnit := arrayOf (tileOf s t) n
def setArray (s : State) (t n : Nat) (y : ArrayUnit) : State := updTile s t (fun x => setArr x n y)
def updArray (s : State) (t n : Nat) (f : ArrayUnit → ArrayUnit) : State := setArray s t n (f (arr s t n))

def ringOf (x : Tile) (q : Nat) : Ring := SMap.get Ring.reset x.rings q
def setRing (x : Tile) (q : Nat) (r : Ring) : Tile := { x with rings := SMap.set Ring.reset x.rings q r }

/-- Slice k of stack st. -/
def sliceOf (s : State) (st k : Nat) : Slice := SMap.get Slice.reset (SMap.get [] s.shelf st) k
def setSlice (s : State) (st k : Nat) (x : Slice) : State :=
  { s with shelf := SMap.set [] s.shelf st (SMap.set Slice.reset (SMap.get [] s.shelf st) k x) }
def updSlice (s : State) (st k : Nat) (f : Slice → Slice) : State := setSlice s st k (f (sliceOf s st k))

def ctrlOf (s : State) (i : Nat) : Ctrl := SMap.get Ctrl.reset s.ctrls i
def setCtrl (s : State) (i : Nat) (c : Ctrl) : State := { s with ctrls := SMap.set Ctrl.reset s.ctrls i c }
def updCtrl (s : State) (i : Nat) (f : Ctrl → Ctrl) : State := setCtrl s i (f (ctrlOf s i))

def portOf (s : State) (p : Nat) : Port := SMap.get Port.reset s.ports p
def setPort (s : State) (p : Nat) (x : Port) : State := { s with ports := SMap.set Port.reset s.ports p x }
def updPort (s : State) (p : Nat) (f : Port → Port) : State := setPort s p (f (portOf s p))

def partOf (s : State) (p : Nat) : Part := SMap.get Part.reset s.parts p
def setPart (s : State) (p : Nat) (x : Part) : State := { s with parts := SMap.set Part.reset s.parts p x }
def updPart (s : State) (p : Nat) (f : Part → Part) : State := setPart s p (f (partOf s p))

/-! ### Reported time (R236) and free values -/

def nowStep (s : State) : Nat := regF s oTGNOW 63 12
def nowTick (s : State) : Nat := regF s oTGNOW 11 0

/-- Reported time in ticks. -/
def nowTicks (s : State) : Nat := 4096 * nowStep s + nowTick s

def epochNow (s : State) : BitVec 4 := BitVec.ofNat 4 (regF s oTGCMT 51 48)

/-- The next free value and the state that has drawn it. -/
def draw (s : State) : DWord × State := (Config.freeWord s.fresh, { s with fresh := s.fresh + 1 })

/-- One of the numbers below n that pass a test, where the spec does not say which (notes/assumptions/28.md): `none` if
none passes. -/
def pick (s : State) (n : Nat) (p : Nat → Bool) : Option (Nat × State) :=
  match (List.range n).filter p with
  | [] => none
  | a :: l => some ((a :: l).getD ((Config.freeWord s.fresh).toNat % (a :: l).length) a, { s with fresh := s.fresh + 1 })

/-! ### Stacks, partitions and owners (R160, R285) -/

/-- Is the entry of partition p valid? -/
def partValid (s : State) (p : Nat) : Bool := p < totalVFs s.asm && regB s (oPTABA p) 63

/-- Does stack st belong to partition p? -/
def ownsStack (s : State) (p st : Nat) : Bool := partValid s p && regB s (oPTABA p) st && st < 12

/-- The stacks of partition p in ascending order (R162). -/
def stacksOf (s : State) (p : Nat) : List Nat := (List.range (crests s.asm)).filter (ownsStack s p)

/-- The partition that a stack belongs to. -/
def partOfStack (s : State) (st : Nat) : Option Nat := firstBelow 8 (fun p => ownsStack s p st)

/-- The partition of a tile. -/
def partOfTile (s : State) (t : Nat) : Option Nat := partOfStack s (stackOf s.asm t)

/-- Does partition p own HBM address a (R160, R285)? -/
def ownsHbm (s : State) (p a : Nat) : Bool :=
  let base := regF s (oPTABB p) 40 32 * 2 ^ 30
  partValid s p && base ≤ a && a < base + regF s (oPTABB p) 8 0 * 2 ^ 30

/-- The owner of an HBM address (R160). -/
def ownerOf (s : State) (a : Nat) : Option Nat := firstBelow 8 (fun p => ownsHbm s p a)

/-- The tiles of partition p. -/
def tileInPart (s : State) (p t : Nat) : Bool := tileFitted s.asm t && ownsStack s p (stackOf s.asm t)

/-- HST_PSTAT.STATE of a partition (Table 11.4). -/
def pState (s : State) (p : Nat) : Nat := regF s (oPSTAT p) 2 0
def setPState (s : State) (p x : Nat) : State := setF s (oPSTAT p) 2 0 x

/-! ### Power (R309) -/

/-- Does the Ebb sequence run, or have the rails gone down? Array, pipe and thread issue is stopped then. -/
def ebbing (s : State) : Bool := s.power.ebb != 0 || !s.power.aon

/-! ### Generations (R226) -/

/-- The generation of a domain. Those of HBM controllers and Surf ports stand in MEM_STAT.GEN and LNK_STAT.GEN. -/
def genOf (s : State) (d : ResetDomain) : BitVec 4 :=
  match d with
  | .ctrl c => BitVec.ofNat 4 (regF s (oMEMSTAT c) 11 8)
  | .port p => BitVec.ofNat 4 (regF s (oLNKSTAT p) 43 40)
  | d => match s.gens.find? (fun e => e.1 == d) with
    | some e => e.2
    | none => 0

/-- Increment the generation of a domain modulo 16. -/
def bumpGen (s : State) (d : ResetDomain) : State :=
  match d with
  | .ctrl c => setF s (oMEMSTAT c) 11 8 ((genOf s d).toNat + 1)
  | .port p => setF s (oLNKSTAT p) 43 40 ((genOf s d).toNat + 1)
  | d => { s with gens := (d, genOf s d + 1) :: s.gens.filter (fun e => e.1 != d) }

/-- The innermost reset domain of a master (R226). -/
def domainOf : Master → ResetDomain
  | .tile t _ => .tile t
  | .disp p => .part p
  | .bar2 fn => if fn = 0 then .device else .part (fn - 1)
  | .surf p => .port p
  | .headland => .device
  | .scrub u => if u < 32 then .stack (u - 16) else .ctrl (u - 32)

/-- Is a domain instance out of service (R378)? -/
def isOut (s : State) (d : ResetDomain) : Bool := s.head.out.any (fun e => e.1 == d)

/-! ### Interrupts (R284, Table 11.3) -/

/-- The PF signals a vector. -/
def pfIrq (s : State) (v : Nat) : State := { s with irqs := s.irqs ++ [(0, v)] }

/-- Partition p signals its vector k: through its VF, or through PF vector 64 + 64p + k while VIAPF is 1. In quarantine
no vector is signalled (R373). -/
def partIrq (s : State) (p k : Nat) : State :=
  if (partOf s p).quarantine then s
  else if regB s (oPCFG p) 17 then pfIrq s (64 + 64 * p + k)
  else { s with irqs := s.irqs ++ [(p + 1, k)] }

/-! ### Breakwater counts (R222, Tables 8.11, 8.12) -/

/-- A request of class c charged to count p (8: the device) is injected: LOW and LOWERED when the count is at or above
the budget, COUNT and PEAK move. The flag is the LOW mark. -/
def inject (s : State) (p c : Nat) : State × Bool :=
  let o := oBWRCNT p c
  let n := regF s o 19 0
  let low := n ≥ 64 * regF s (oBUDGET p) (8 * c + 7) (8 * c)
  let s := if low then addSat s o 63 48 1 else s
  let s := setF s o 19 0 (n + 1)
  (setF s o 39 20 (max (regF s o 39 20) (n + 1)), low)

/-- The reply of a request reaches its master port: the count falls. -/
def retire (s : State) (p c : Nat) : State := setF s (oBWRCNT p c) 19 0 (regF s (oBWRCNT p c) 19 0 - 1)

/-- A request whose reply comes within the same step. -/
def pass (s : State) (p c : Nat) : State := retire (inject s p c).1 p c

/-- n requests that are outstanding together. -/
def injectN (s : State) (p c n : Nat) : State := (List.range n).foldl (fun s _ => (inject s p c).1) s

/-- Their replies. -/
def retireN (s : State) (p c n : Nat) : State := (List.range n).foldl (fun s _ => retire s p c) s

/-! ### Error capture (R26, R334, R335) -/

/-- The code of a master for `Config.masterPort`. -/
def masterCode : Master → Nat
  | .tile t g => 16 * t + g
  | .disp p => 0x10000 + p
  | .bar2 fn => 0x10100 + fn
  | .surf p => 0x10200 + p
  | .headland => 0x10300
  | .scrub u => 0x10400 + u

/-- A decode error is captured in RAS_DECODE when nothing is captured there (R26, R335). It signals nothing. -/
def decodeError (s : State) (m : Master) (a : Nat) : State :=
  if regB s oRASDECODE 63 then s
  else setReg s oRASDECODE (BitVec.ofNat 64 (2 ^ 63 + (Config.masterPort (masterCode m)).toNat * 2 ^ 48 + a % 2 ^ 48))

/-- An uncorrectable error of unit u (R335, Table 13.8): captured, or counted in MORE, and PF vector 5. -/
def ueEvent (s : State) (u src loc : Nat) : State :=
  let s := if regB s oRASUE 63 then addSat s oRASUE 55 48 1
    else setReg s oRASUE (BitVec.ofNat 64 (2 ^ 63 + u * 2 ^ 56 + src * 2 ^ 44 + loc % 2 ^ 40))
  pfIrq s 5

/-- A correctable error of unit u adds 1 to its bucket (R334). -/
def corrError (s : State) (u : Nat) : State :=
  if unitFitted s.asm u then
    let s := addSat (addSat s (oLB u) 15 0 1) (oLB u) 31 16 1
    if regF s (oLB u) 15 0 > regF s (oLB u) 47 32 && !regB s (oLB u) 63 then pfIrq (setF s (oLB u) 63 63 1) 4 else s
  else s

/-- A column fault is classified (R340), and counted without end beside the register that saturates (R336). -/
def countColumn (s : State) : State := addSat { s with ras := { s.ras with columns := s.ras.columns + 1 } } oCLSEVT 63 48 1

/-- A BIST slice of a unit is run (R344, R345): it is counted, and its traffic is of class 6. -/
def bistRan (s : State) : State := pass (addSat s oBISTSTAT 63 48 1) 8 6

/-- A failed slice is counted, captured in RAS_BIST_LOG, and raises an uncorrectable event (R346). -/
def bistFailed (s : State) (u kind elem detail : Nat) : State :=
  let s := addSat s oBISTSTAT 47 32 1
  let s := if regB s oBISTLOG 63 then s
    else setReg s oBISTLOG (BitVec.ofNat 64 (2 ^ 63 + u * 2 ^ 56 + kind * 2 ^ 48 + elem % 2 ^ 16 * 2 ^ 32 + detail % 2 ^ 32))
  ueEvent s u 3 (if u < 12 && kind = 0 then elem else 0)

/-- ALERT_N is asserted (Table 15.2). -/
def alert (s : State) : State := { s with pins := { s.pins with alertN := false } }

/-- A record is added to the event log, to be written to flash when R328 permits. -/
def logEvent (s : State) (e : DWord) : State := { s with head := { s.head with pendLog := s.head.pendLog ++ [e] } }

end Sys2Proof.Machine
end

