-- ==== Sys2Proof/Machine/Ecc.lean ====
section
/-! DEFINITION. SEC-DED words (R330, R331), the column classifier and repairs from spares (R339 to R342), and tile
memory as every port reads and writes it (R117, R185). Stored words are data plus a mask of flipped bits, so the
syndrome of R331 is a function of the mask alone. -/

namespace Sys2Proof.Machine

/-! ### The code (R331) -/

/-- h for k data bits: the smallest h with 2^h - h - 1 >= k. -/
def secH (k : Nat) : Nat := if k ≤ 26 then 5 else if k ≤ 57 then 6 else if k ≤ 120 then 7 else 8

/-- The h-bit values that are neither zero nor a power of two, rising: value i belongs to data bit i. -/
def secCodes (h : Nat) : List Nat := (List.range (2 ^ h)).filter (fun v => v != 0 && 2 ^ Nat.log2 v != v)

/-- The syndrome of a mask of flipped bits (data bits below k, check bit j at k + j): the low h bits, then the overall
parity in the top bit. -/
def syndrome (k mask : Nat) : Nat :=
  let h := secH k
  let low := ((List.range k).zip (secCodes h)).foldl (fun s p => if bit mask p.1 then s ^^^ p.2 else s)
    (bits mask (k + h - 1) k)
  low + 2 ^ h * (popcount (k + h + 1) mask % 2)

/-- What a read of a word finds. -/
inductive EccRes where
  | clean
  | fixed (pos : Nat)
  | bad
  deriving DecidableEq, Repr

/-- The reading of a syndrome (R331): the position of the bit it names, or uncorrectable. -/
def eccOf (k synd : Nat) : EccRes :=
  let h := secH k
  let low := synd % 2 ^ h
  if synd = 0 then .clean
  else if !bit synd h then .bad
  else if low = 0 then .fixed (k + h)
  else if 2 ^ Nat.log2 low = low then .fixed (k + Nat.log2 low)
  else match (secCodes h).findIdx? (· == low) with
    | some i => if i < k then .fixed i else .bad
    | none => .bad

/-- A read-correct of a stored word: the data as corrected, the mask left in the array, what was found and the
syndrome. What remains after a correction is a code word, so it is data from then on. -/
def eccRead (k data mask : Nat) : Nat × Nat × EccRes × Nat :=
  let sy := syndrome k mask
  match eccOf k sy with
  | .clean => (data ^^^ (mask % 2 ^ k), 0, .clean, sy)
  | .fixed p => (data ^^^ ((mask ^^^ 2 ^ p) % 2 ^ k), 0, .fixed p, sy)
  | .bad => (data, mask, .bad, sy)

/-- The double-bit error pattern of R345 over n bits: two different positions, which the spec does not name, from the
free value n0 (notes/assumptions/6.md). -/
def doubleBit (width n0 : Nat) : Nat :=
  let w := (Config.freeWord n0).toNat
  let p := w % width
  let q := (p + 1 + w / width % (width - 1)) % width
  2 ^ p + 2 ^ q

/-! ### Physical tiles (R13, R365) -/

/-- The hidden physical column of a stack. -/
def hiddenCol (s : State) (st : Nat) : Nat := SMap.get 16 s.head.hidden st

/-- The physical tile number row * 17 + column of logical tile t within its stack. -/
def physTile (s : State) (t : Nat) : Nat :=
  let x := t % 64 % 16
  (t / 64 % 12) * 17 + (if x < hiddenCol s (stackOf s.asm t) then x else x + 1)

/-- Does a BIST slice of kind 1 test the attention pipe of tile t (R345)? Element 5 * tile + 4 is the pipe of a physical
tile, elements 5 * tile + 0 to 3 its arrays (notes/assumptions/19.md). -/
def pipeInBist (s : State) (t : Nat) : Bool :=
  s.ras.bists.any (fun b => b.unit == stackOf s.asm t && b.kind == 1 && !b.waits && b.elem == 5 * physTile s t + 4)

/-- Does a BIST slice of kind 0 test a bank of tile t (R345)? Element 16 * tile + bank is a bank of a physical tile. -/
def bankInBist (s : State) (t : Nat) : Bool :=
  s.ras.bists.any (fun b => b.unit == stackOf s.asm t && b.kind == 0 && !b.waits && b.elem / 16 == physTile s t)

/-! ### Repairs (R339 to R342) -/

/-- A Shoal overlay entry (Table 13.4). -/
def shoalEntry (kind die where_ pos spare : Nat) : DWord :=
  BitVec.ofNat 64 (kind * 2 ^ 60 + 2 ^ 59 + die % 256 * 2 ^ 48 + where_ % 65536 * 2 ^ 32 + pos % 2 ^ 24 * 2 ^ 8 + spare % 256)

/-- A repair enters the overlay at once and is pending until it is in flash (R342). -/
def addOverlay (s : State) (e : DWord) : State :=
  addSat (addSat { s with ras := { s.ras with overlay := s.ras.overlay ++ [e] } } oSHOALSTAT 47 32 1) oSHOALSTAT 31 16 1

/-- The number of spares already used for a kind, die and place. -/
def sparesUsed (s : State) (kind die where_ : Nat) : Nat :=
  ((s.ras.fuses ++ s.ras.overlay).filter
    (fun e => fld e 63 60 == kind && fld e 55 48 == die && fld e 47 32 == where_ % 65536)).length

/-- One step of the classifier (R340): the entries after the error and whether its column is now a column fault. -/
def classify (es : List ClsEntry) (sub col row : Nat) : List ClsEntry × Bool :=
  let hit (e : ClsEntry) : Bool := e.sub == sub && e.col == col && e.row ≤ row && row ≤ e.row + 63
  match es.find? hit with
  | some e =>
    if e.count + 1 ≥ 4 then (dropOne e es, true)
    else (es.map (fun x => if x = e then { x with count := x.count + 1 } else x), false)
  | none => ((if es.length ≥ 16 then es.drop 1 else es) ++ [⟨sub, col, row, 1⟩], false)

/-- Spare a column (R341): an overlay entry while a spare is left. A column without a spare counts
NOSPARE and raises an uncorrectable event naming the unit. -/
def spareColumn (s : State) (kind die where_ col unit : Nat) : State × Bool :=
  let n := sparesUsed s kind die where_
  if n < 2 then (addOverlay s (shoalEntry kind die where_ col n), true)
  else (ueEvent (addSat s oCLSEVT 31 16 1) unit 4 0, false)

/-- A stuck cell's row is spared and counted in STUCK; without a spare it is a repair without a spare
(notes/assumptions/7.md). -/
def spareRow (s : State) (kind die where_ row : Nat) : State × Bool :=
  let n := sparesUsed s kind die where_
  if n < 4 then (addOverlay (addSat s oCLSEVT 47 32 1) (shoalEntry kind die where_ row n), true)
  else (addSat s oCLSEVT 31 16 1, false)

/-! ### Tile memory -/

/-- The SEC-DED part (aligned 8 bytes) p of tile t: its data. -/
def tmPart (x : Tile) (p : Nat) : Nat := Mem.nat x.mem (8 * p) 8

/-- Restore a part of a bank after a march (R345): data corrected with fresh check bits, uncorrectable words with a
double-bit pattern. -/
def restorePart (x : Tile) (p : Nat) (n0 : Nat) : Tile :=
  let m := (SMap.get 0 x.memErr p).toNat
  let r := eccRead 64 (tmPart x p) m
  match r.2.2.1 with
  | .bad => { x with memErr := SMap.set 0 x.memErr p (BitVec.ofNat 72 (doubleBit 72 n0)) }
  | _ => { x with mem := Mem.putNat x.mem (8 * p) 8 r.1, memErr := SMap.set 0 x.memErr p 0 }

/-- Is part p of tile t corrected when it is read? -/
def partFixed (x : Tile) (p : Nat) : Bool :=
  match (eccRead 64 (tmPart x p) (SMap.get 0 x.memErr p).toNat).2.2.1 with
  | .fixed _ => true
  | _ => false

/-- Save and restore of a tile memory bank by a kind 0 slice (R345): each part that the save corrects is a correctable
error (R334). -/
def marchBank (s : State) (t bank : Nat) : State :=
  let ps := ((tileOf s t).memErr.map (·.1)).filter (fun p => p / 8 % 16 == bank)
  ps.foldl (fun s p =>
    let s := if partFixed (tileOf s t) p then corrError s (stackOf s.asm t) else s
    { updTile s t (fun x => restorePart x p s.fresh) with fresh := s.fresh + 1 }) s

/-- What a directed march slice does with a broken column (R341, R345): the slice is counted, a spare is mapped while one is
left, the data restored; without a spare the slice has failed. The row of the break is free. -/
def marched (unit elem col : Nat) (spare : State × Bool) (restore : State → State) : State :=
  let s' := restore (bistRan spare.1)
  if spare.2 then s' else let d := draw s'; bistFailed d.2 unit 0 elem (d.1.toNat % 2 ^ 16 * 2 ^ 16 + col)

/-- Clear the errors of a spared row (R340): the row's words are rewritten in the spare row. -/
def rewriteRow (s : State) (t bank row : Nat) : State :=
  let ps := ((tileOf s t).memErr.map (·.1)).filter (fun p => p / 8 % 16 == bank && p / 128 == row)
  ps.foldl (fun s p => { updTile s t (fun x => restorePart x p s.fresh) with fresh := s.fresh + 1 }) s

/-- The classifier of tile t receives a corrected bit of part p (R339 to R341): column p % 8 * 72 + bit, row p / 128. -/
def tmClassify (s : State) (t p pos : Nat) : State :=
  let x := tileOf s t
  let st := stackOf s.asm t
  let bank := p / 8 % 16
  let row := p / 128
  let col := p % 8 * 72 + pos
  let place := physTile s t * 16 + bank
  let c := classify x.cls bank col row
  let s := updTile s t (fun x => { x with cls := c.1 })
  if c.2 then
    marched st place col (spareColumn (countColumn s) 4 st place col st) (fun s => marchBank s t bank)
  else if x.cells.contains (bank, row, col) then
    let r := spareRow s 3 st place row
    let s := updTile r.1 t (fun x => { x with cells := dropOne (bank, row, col) x.cells })
    if r.2 then rewriteRow s t bank row else s
  else updTile s t (fun x => { x with cells := (bank, row, col) :: x.cells })

/-- Capture in TIL_TMEM_ERR (Table 6.8): an uncorrectable error replaces a captured correctable one. -/
def tmCapture (s : State) (t : Nat) (ue : Bool) (synd src p : Nat) : State :=
  let o := oTMEMERR t
  let s := if ue then s else addSat s o 55 48 1
  if regB s o 63 && (!ue || regB s o 62) then s
  else setF (setF (setF (setF (setF s o 63 63 1) o 62 62 (b2n ue)) o 47 40 synd) o 22 20 src) o 19 3 p

/-- Check part p of tile t on a read by consumer src (R117): corrected in the array and counted, or captured as
uncorrectable. The flag says that the part is uncorrectable. -/
def tmCheck (s : State) (t src p : Nat) : State × Bool :=
  let x := tileOf s t
  let m := (SMap.get 0 x.memErr p).toNat
  if m = 0 then (s, false)
  else
    let r := eccRead 64 (tmPart x p) m
    match r.2.2.1 with
    | .bad =>
      let s := tmCapture s t true r.2.2.2 src p
      (ueEvent s (stackOf s.asm t) 1 (physTile s t * 16 + p / 8 % 16), true)
    | .fixed pos =>
      let s := updTile s t (fun x => { x with mem := Mem.putNat x.mem (8 * p) 8 r.1, memErr := SMap.set 0 x.memErr p 0 })
      let s := corrError (tmCapture s t false r.2.2.2 src p) (stackOf s.asm t)
      (tmClassify s t p pos, false)
    | .clean =>
      (updTile s t (fun x => { x with mem := Mem.putNat x.mem (8 * p) 8 r.1, memErr := SMap.set 0 x.memErr p 0 }), false)

/-- Read the 64-byte word w of tile t as a port does: every part is checked. The uncorrectable parts are listed. -/
def tmWord (s : State) (t src w : Nat) : State × List Nat :=
  (List.range 8).foldl (fun r i =>
    let c := tmCheck r.1 t src (8 * w + i)
    (c.1, if c.2 then r.2 ++ [8 * w + i] else r.2)) (s, [])

/-- The 64-byte words that n bytes from a touch. -/
def wordsOf (a n : Nat) : List Nat := if n = 0 then [] else (List.range ((a + n - 1) / 64 - a / 64 + 1)).map (· + a / 64)

/-- Check several words. -/
def tmWords (s : State) (t src : Nat) (ws : List Nat) : State × List Nat :=
  ws.foldl (fun r w => let c := tmWord r.1 t src w; (c.1, r.2 ++ c.2)) (s, [])

/-- Does a range of n bytes from a want bytes of an uncorrectable part? -/
def wantsBad (bad : List Nat) (a n : Nat) : Bool := bad.any (fun p => p * 8 < a + n && a < p * 8 + 8)

/-- Read n bytes of tile memory from a: the state, the bytes, and whether a wanted part was uncorrectable. -/
def tmRead (s : State) (t src a n : Nat) : State × List Byte × Bool :=
  let r := tmWords s t src (wordsOf a n)
  (r.1, Mem.read (tileOf r.1 t).mem a n, wantsBad r.2 a n)

/-- Does a list of cells cover every byte of part p? -/
def coversPart (cs : List Host.Cell) (p : Nat) : Bool :=
  (List.range 8).all (fun i => cs.any (fun c => c.1 == 8 * p + i))

/-- Write listed bytes to tile memory (R117). A part written only in part is a read-modify-write: its word is read and
checked by consumer src, and a part found uncorrectable keeps what it holds. A part written wholly gets fresh check
bits. -/
def tmWrite (s : State) (t src : Nat) (cs : List Host.Cell) : State :=
  let parts := nub (cs.map (fun c => c.1 / 8))
  let partial_ := parts.filter (fun p => !coversPart cs p)
  let r := tmWords s t src (nub (partial_.map (· / 8)))
  let dead := partial_.filter (fun p => r.2.contains p)
  let cs' := cs.filter (fun c => !dead.contains (c.1 / 8))
  updTile r.1 t (fun x => { x with
    mem := Mem.cells x.mem cs',
    memErr := parts.foldl (fun m p => if partial_.contains p then m else SMap.set 0 m p 0) x.memErr })

/-! ### Word registers (R330, R332) -/

/-- Read-correct word register k (thread * 128 + register) of a group: corrected in the register. -/
def regCheck (g : Group) (k : Nat) : Group × EccRes :=
  let m := (SMap.get 0 g.regErr k).toNat
  if m = 0 then (g, .clean)
  else
    let r := eccRead 32 (SMap.get 0 g.regs k).toNat m
    match r.2.2.1 with
    | .bad => (g, .bad)
    | e => ({ g with regs := SMap.set 0 g.regs k (BitVec.ofNat 32 r.1), regErr := SMap.set 0 g.regErr k 0 }, e)

/-- Word register reg of a thread. -/
def rget (g : Group) (thread r : Nat) : Word := SMap.get 0 g.regs (thread * 128 + r)

/-- Write a word register: fresh check bits. -/
def rset (g : Group) (thread r : Nat) (v : Word) : Group :=
  { g with regs := SMap.set 0 g.regs (thread * 128 + r) v, regErr := SMap.set 0 g.regErr (thread * 128 + r) 0 }

end Sys2Proof.Machine
end

