-- ==== Sys2Proof/Machine/Float.lean ====
section
/-! DEFINITION. Exact binary floating point: the formats the lane block, the arrays, the attention pipe and the
memory-side adds read and write, one rounding from an exact value m * 2^e, and the IEEE 754-2019 operations built on it
(R32 to R34, R101, R102, R391). -/

namespace Sys2Proof.Machine

/-! ### Formats -/

/-- A binary floating format: exponent and significand-field widths, and whether it is E4M3, whose top exponent holds
numbers, whose one NaN is S.1111.111 and which has no infinity (Table 2.1). -/
structure FFmt where
  ew   : Nat
  mw   : Nat
  e4m3 : Bool
  deriving DecidableEq, Repr

def fp64 : FFmt := ⟨11, 52, false⟩
def fp32 : FFmt := ⟨8, 23, false⟩
def fp16 : FFmt := ⟨5, 10, false⟩
def bf16 : FFmt := ⟨8, 7, false⟩
def e5m2 : FFmt := ⟨5, 2, false⟩
def fe4m3 : FFmt := ⟨4, 3, true⟩

/-- The exponent bias. -/
def FFmt.bias (f : FFmt) : Nat := 2 ^ (f.ew - 1) - 1

/-- The total width. -/
def FFmt.width (f : FFmt) : Nat := 1 + f.ew + f.mw

/-- The exponent of the least significant bit of a subnormal. -/
def FFmt.emin (f : FFmt) : Int := 1 - (f.bias : Int) - f.mw

/-- The encoding of the largest finite magnitude. -/
def FFmt.maxFin (f : FFmt) : Nat :=
  if f.e4m3 then 2 ^ (f.ew + f.mw) - 2 else (2 ^ f.ew - 1) * 2 ^ f.mw - 1

/-- The encoding of +infinity (not E4M3). -/
def FFmt.infBits (f : FFmt) : Nat := (2 ^ f.ew - 1) * 2 ^ f.mw

/-- What a code stands for: a NaN (signalling or quiet), an infinity, or a sign with the exact magnitude m * 2^e. -/
inductive FVal where
  | nan (sig : Bool)
  | inf (neg : Bool)
  | fin (neg : Bool) (m : Nat) (e : Int)
  deriving DecidableEq, Repr

/-- Decode a code. E4M3 and E5M2 have no signalling NaN (R391). -/
def FFmt.dec (f : FFmt) (v : Nat) : FVal :=
  let neg := bit v (f.ew + f.mw)
  let ex := bits v (f.ew + f.mw - 1) f.mw
  let mn := v % 2 ^ f.mw
  if f.e4m3 then
    if ex = 15 ∧ mn = 7 then .nan false
    else if ex = 0 then .fin neg mn f.emin else .fin neg (mn + 2 ^ f.mw) (f.emin + ex - 1)
  else if ex = 2 ^ f.ew - 1 then
    if mn = 0 then .inf neg else .nan (f.mw != 2 && !bit v (f.mw - 1))
  else if ex = 0 then .fin neg mn f.emin
  else .fin neg (mn + 2 ^ f.mw) (f.emin + ex - 1)

/-! ### Rounding -/

/-- Rounding directions of Table 4.3: 0 to nearest even, 1 toward zero, 2 toward +infinity, 3 toward -infinity. -/
def roundUp (mode : Nat) (neg : Bool) (q rem half : Nat) : Bool :=
  match mode with
  | 0 => rem > half || (rem = half && half ≠ 0 && q % 2 = 1)
  | 1 => false
  | 2 => !neg && rem != 0
  | _ => neg && rem != 0

/-- Round m * 2^e to an integer multiple of 2^qe: the multiple and whether a nonzero part was discarded. -/
def roundAt (mode : Nat) (neg : Bool) (m : Nat) (e qe : Int) : Nat × Bool :=
  if qe ≤ e then (m * 2 ^ (e - qe).toNat, false)
  else
    let d := (qe - e).toNat
    let q := m / 2 ^ d
    let rem := m % 2 ^ d
    (q + b2n (roundUp mode neg q rem (2 ^ (d - 1))), rem != 0)

/-- Floating-point flags (R104, selector 0x0D of Table 4.5): invalid [4], division by zero [3], overflow [2],
underflow [1], inexact [0]. -/
abbrev FFlags := BitVec 5

def fInvalid : FFlags := 0x10
def fDivZero : FFlags := 0x08
def fOverflow : FFlags := 0x04
def fUnderflow : FFlags := 0x02
def fInexact : FFlags := 0x01

/-- Flags when a test holds. -/
def fIf (b : Bool) (x : FFlags) : FFlags := if b then x else 0

/-- The magnitude code of m * 2^e (m positive) rounded with an unbounded exponent range above, and whether it is
inexact. The code's exponent field grows past the format's when the value overflows. -/
def FFmt.roundMag (f : FFmt) (mode : Nat) (neg : Bool) (m : Nat) (e : Int) : Nat × Bool :=
  let top : Int := Nat.log2 m + e
  let qe := max (top - f.mw) f.emin
  let (q, ix) := roundAt mode neg m e qe
  ((qe - f.emin).toNat * 2 ^ f.mw + q, ix)

/-- Tininess after rounding (R101): the value rounded to the format's precision with an unbounded exponent range lies
below the smallest normal magnitude. -/
def FFmt.tiny (f : FFmt) (mode : Nat) (neg : Bool) (m : Nat) (e : Int) : Bool :=
  let top : Int := Nat.log2 m + e
  let (q, _) := roundAt mode neg m e (top - f.mw)
  let top' : Int := Nat.log2 q + (top - f.mw)
  top' < f.emin + f.mw

/-- A code with its sign. -/
def FFmt.sign (f : FFmt) (neg : Bool) (mag : Nat) : Nat := b2n neg * 2 ^ (f.ew + f.mw) + mag

/-- The one rounding of an exact value (-1)^neg * m * 2^e, with the IEEE 754-2019 exceptions (R101). -/
def FFmt.round (f : FFmt) (mode : Nat) (neg : Bool) (m : Nat) (e : Int) : Nat × FFlags :=
  if m = 0 then (f.sign neg 0, 0)
  else
    let (mag, ix) := f.roundMag mode neg m e
    if mag > f.maxFin then
      let toInf := mode = 0 || (mode = 2 && !neg) || (mode = 3 && neg)
      (f.sign neg (if toInf then f.infBits else f.maxFin), fOverflow ||| fInexact)
    else (f.sign neg mag, fIf ix fInexact ||| fIf (ix && f.tiny mode neg m e) fUnderflow)

/-- The NaN every lane-block result uses (R101, R102): the quiet NaN with a zero sign and payload; 0x7F in E4M3. -/
def FFmt.qnan (f : FFmt) : Nat :=
  if f.e4m3 then 2 ^ (f.ew + f.mw) - 1 else f.infBits + 2 ^ (f.mw - 1)

/-! ### Exact arithmetic -/

/-- The signed significand of a finite value scaled to exponent e0 (at most its own exponent). -/
def scaleTo (neg : Bool) (m : Nat) (e e0 : Int) : Int :=
  (if neg then -(m : Int) else (m : Int)) * 2 ^ (e - e0).toNat

/-- Round a signed exact value i * 2^e; a zero takes the sign given. -/
def FFmt.roundInt (f : FFmt) (mode : Nat) (i : Int) (e : Int) (zneg : Bool) : Nat × FFlags :=
  if i = 0 then (f.sign zneg 0, 0) else f.round mode (i < 0) i.natAbs e

def FVal.isNan : FVal → Bool
  | .nan _ => true
  | _ => false
def FVal.isSig : FVal → Bool
  | .nan b => b
  | _ => false
def FVal.isNeg : FVal → Bool
  | .nan _ => false
  | .inf n => n
  | .fin n _ _ => n
def FVal.isZero : FVal → Bool
  | .fin _ 0 _ => true
  | _ => false

/-- IEEE 754-2019 addition of two decoded values (R101). An exact zero sum of unlike signs is +0, or -0 toward
-infinity. -/
def FFmt.addV (f : FFmt) (mode : Nat) (x y : FVal) : Nat × FFlags :=
  match x, y with
  | .nan _, _ | _, .nan _ => (f.qnan, fIf (x.isSig || y.isSig) fInvalid)
  | .inf a, .inf b => if a = b then (f.sign a f.infBits, 0) else (f.qnan, fInvalid)
  | .inf a, .fin _ _ _ => (f.sign a f.infBits, 0)
  | .fin _ _ _, .inf b => (f.sign b f.infBits, 0)
  | .fin a m e, .fin b n d =>
    let e0 := min e d
    f.roundInt mode (scaleTo a m e e0 + scaleTo b n d e0) e0 (if a = b then a else mode = 3)

/-- The exact product of two decoded values; `none` for an infinity times a zero. -/
def mulV (x y : FVal) : Option FVal :=
  match x, y with
  | .nan a, .nan b => some (.nan (a || b))
  | .nan a, _ | _, .nan a => some (.nan a)
  | .inf a, .inf b => some (.inf (xor a b))
  | .inf a, .fin b m _ | .fin b m _, .inf a => if m = 0 then none else some (.inf (xor a b))
  | .fin a m e, .fin b n d => some (.fin (xor a b) (m * n) (e + d))

/-- IEEE 754-2019 multiplication (R101). -/
def FFmt.mul (f : FFmt) (mode : Nat) (x y : Nat) : Nat × FFlags :=
  match mulV (f.dec x) (f.dec y) with
  | none => (f.qnan, fInvalid)
  | some (.nan s) => (f.qnan, fIf s fInvalid)
  | some (.inf s) => (f.sign s f.infBits, 0)
  | some (.fin s m e) => f.round mode s m e

/-- IEEE 754-2019 addition (R101). -/
def FFmt.add (f : FFmt) (mode : Nat) (x y : Nat) : Nat × FFlags := f.addV mode (f.dec x) (f.dec y)

/-- Fused multiply-add with one rounding (Table 4.3). Infinity times zero is invalid whatever the addend (R391). -/
def FFmt.fma (f : FFmt) (mode : Nat) (x y z : Nat) : Nat × FFlags :=
  match mulV (f.dec x) (f.dec y) with
  | none => (f.qnan, fInvalid)
  | some p => f.addV mode p (f.dec z)

/-- Is the finite or infinite value x below y? -/
def FVal.lt (x y : FVal) : Bool :=
  match x, y with
  | .nan _, _ | _, .nan _ => false
  | .inf a, .inf b => a && !b
  | .inf a, .fin _ _ _ => a
  | .fin _ _ _, .inf b => !b
  | .fin a m e, .fin b n d => decide (scaleTo a m e (min e d) < scaleTo b n d (min e d))

/-- Are two values equal (the zeros are)? -/
def FVal.eq (x y : FVal) : Bool :=
  match x, y with
  | .nan _, _ | _, .nan _ => false
  | _, _ => !FVal.lt x y && !FVal.lt y x

/-- IEEE 754-2019 minimumNumber and maximumNumber (Table 4.3): a NaN operand yields the other one, -0 lies below +0;
only a signalling NaN raises invalid (R391). -/
def FFmt.minmax (f : FFmt) (isMax : Bool) (x y : Nat) : Nat × FFlags :=
  let a := f.dec x
  let b := f.dec y
  let fl := fIf (a.isSig || b.isSig) fInvalid
  if a.isNan then (if b.isNan then f.qnan else y, fl)
  else if b.isNan then (x, fl)
  else
    let less := FVal.lt a b || (FVal.eq a b && a.isNeg && !b.isNeg)
    (if isMax then (if less then y else x) else (if less then x else y), fl)

/-- Compare conditions 0 EQ, 1 NE, 2 LT, 3 LE, 4 GT, 5 GE, 6 UN (Table 4.3) and their invalid flag (R391). -/
def fcmp (cond : Nat) (a b : FVal) : Bool × FFlags :=
  let un := a.isNan || b.isNan
  let r := match cond with
    | 0 => FVal.eq a b
    | 1 => !FVal.eq a b
    | 2 => FVal.lt a b
    | 3 => FVal.lt a b || FVal.eq a b
    | 4 => FVal.lt b a
    | 5 => FVal.lt b a || FVal.eq a b
    | _ => un
  (r, fIf (a.isSig || b.isSig || (un && 2 ≤ cond && cond ≤ 5)) fInvalid)

/-! ### Square root, reciprocal -/

/-- The integer square root of v, built from bit k - 1 down. -/
def isqrtGo : Nat → Nat → Nat → Nat
  | 0, _, r => r
  | k + 1, v, r => isqrtGo k v (if (r + 2 ^ k) * (r + 2 ^ k) ≤ v then r + 2 ^ k else r)
def isqrt (v : Nat) : Nat := isqrtGo (Nat.log2 v / 2 + 1) v 0

/-- sqrt(m * 2^e) as an exact-enough significand: at least 64 bits with a sticky low bit. -/
def sqrtExact (m : Nat) (e : Int) : Nat × Int :=
  let k : Nat := if e % 2 = 0 then 160 else 161
  let v := m * 2 ^ k
  let r := isqrt v
  (2 * r + b2n (r * r != v), (e - k) / 2 - 1)

/-- 1 / (m * 2^e) as a significand of at least 64 bits with a sticky low bit. -/
def recipExact (m : Nat) (e : Int) : Nat × Int :=
  let k := Nat.log2 m + 80
  (2 * (2 ^ k / m) + b2n (2 ^ k % m != 0), -(k : Int) - e - 1)

/-! ### RSQRT, EXP2 and LOG2: the binary32 values within 1 ulp (R102)

The exact value is bracketed as lo * 2^e <= exact <= (lo + 1) * 2^e with many more bits than binary32 holds. The two
neighbouring binary32 values of a value that is not representable lie within 1 ulp of it; of a representable value,
itself and its two neighbours do. `Config.sfuPick` names the one the hardware returns. EXP2 of an integer is the power of
two itself where binary32 holds it: Example 5.1 and the last sentence of R143 need 2^0 = 1 and 2^-2 = 0.25
(notes/assumptions/26.md). -/

/-- Fixed-point precision used for EXP2 and LOG2. -/
def sfuPrec : Nat := 120

/-- 2^(f / 2^n) in fixed point with `sfuPrec` fraction bits, rounded down: the product over the set bits of f, from the
top, of the successive square roots of 2. -/
def exp2Go : Nat → Nat → Nat → Nat → Nat → Nat
  | 0, _, _, _, acc => acc
  | k + 1, n, f, root, acc =>
    let root := isqrt (root * 2 ^ sfuPrec)
    let acc := if bit f (n - 1) then acc * root / 2 ^ sfuPrec else acc
    exp2Go k (n - 1) f root acc

/-- Fraction bits of log2 of a fixed-point x in [1, 2), by repeated squaring. -/
def log2Go : Nat → Nat → Nat → Nat
  | 0, _, acc => acc
  | k + 1, x, acc =>
    let y := x * x / 2 ^ 400
    if y ≥ 2 ^ 401 then log2Go k (y / 2) (2 * acc + 1) else log2Go k y (2 * acc)

/-- The value the hardware returns for a positive exact value m * 2^e (m with a sticky low bit; `ex` when m * 2^e is
exact and representable), function code fc and input x: one of the candidates within 1 ulp, and the flags of R391. -/
def sfuRound (fc : Nat) (x : Word) (neg : Bool) (m : Nat) (e : Int) : Word × FFlags :=
  let lo := (fp32.roundMag 1 neg m e).1
  let ix := (fp32.roundMag 1 neg m e).2
  let cands := if ix then [lo, lo + 1] else [lo, lo + 1, lo - 1]
  let mag := cands.getD (Config.sfuPick fc x % cands.length) lo
  let differs := ix || mag != lo
  let big := lo ≥ fp32.infBits
  let tiny := m != 0 && fp32.tiny 0 neg m e
  if big then (BitVec.ofNat 32 (fp32.sign neg fp32.infBits), fOverflow ||| fInexact)
  else (BitVec.ofNat 32 (fp32.sign neg (min mag fp32.infBits)),
    fIf differs fInexact ||| fIf (differs && tiny) fUnderflow ||| fIf (mag ≥ fp32.infBits) fOverflow)

/-- FSFU (Table 4.3, R102, R391): 0 RCP, 1 SQRT, 2 RSQRT, 3 EXP2, 4 LOG2. -/
def fsfu (fc : Nat) (x : Word) : Word × FFlags :=
  let w (r : Nat × FFlags) : Word × FFlags := (BitVec.ofNat 32 r.1, r.2)
  let q (fl : FFlags) : Word × FFlags := (BitVec.ofNat 32 fp32.qnan, fl)
  let inf (n : Bool) (fl : FFlags) : Word × FFlags := (BitVec.ofNat 32 (fp32.sign n fp32.infBits), fl)
  let zero (n : Bool) : Word × FFlags := (BitVec.ofNat 32 (fp32.sign n 0), 0)
  match fp32.dec x.toNat with
  | .nan s => q (fIf s fInvalid)
  | .inf n =>
    match fc with
    | 0 => zero n
    | 1 => if n then q fInvalid else inf false 0
    | 2 => if n then q fInvalid else zero false
    | 3 => if n then zero false else inf false 0
    | _ => if n then q fInvalid else inf false 0
  | .fin n m e =>
    if m = 0 then
      match fc with
      | 0 => inf n fDivZero
      | 1 => zero n
      | 2 => inf n fDivZero
      | 3 => w (fp32.round 0 false 1 0)
      | _ => inf true fDivZero
    else
      match fc with
      | 0 => let r := recipExact m e; w (fp32.round 0 n r.1 r.2)
      | 1 => if n then q fInvalid else let r := sqrtExact m e; w (fp32.round 0 false r.1 r.2)
      | 2 =>
        if n then q fInvalid
        else
          -- 1 / sqrt(m 2^e): the square root of 2^(2k) / (m 2^e), sticky bits kept at both steps
          let r := recipExact m e
          let v := r.1 * 2 ^ 120
          let d := sqrtExact v (r.2 - 120)
          if 2 ^ Nat.log2 m = m ∧ (Nat.log2 m + e) % 2 = 0 then sfuRound fc x false 1 (-((Nat.log2 m + e) / 2)) else sfuRound fc x false (d.1 ||| 1) d.2
      | 3 =>
        -- 2^x with x = i + f / 2^k, 0 <= f < 2^k
        let sgn : Int := if n then -1 else 1
        if e ≥ 10 || Nat.log2 m + e ≥ 10 then
          if n then sfuRound fc x false 1 (-2000) else inf false (fOverflow ||| fInexact)
        else
          let k := (-e).toNat
          let t : Int := if e ≥ 0 then sgn * m * 2 ^ e.toNat else sgn * m
          let i := if e ≥ 0 then t else t / 2 ^ k
          let f := (if e ≥ 0 then 0 else t % 2 ^ k).toNat
          if f = 0 then (if -149 ≤ i && i < 128 then w (fp32.round 0 false 1 i) else sfuRound fc x false 1 i)
          else
            let g := exp2Go (min k 110) k f (2 ^ (sfuPrec + 1)) (2 ^ sfuPrec)
            sfuRound fc x false (2 * g + 1) (i - sfuPrec - 1)
      | _ =>
        if n then q fInvalid
        else
          let top : Int := Nat.log2 m + e
          if 2 ^ Nat.log2 m = m then
            if top = 0 then zero false
            else sfuRound fc x (top < 0) top.natAbs 0
          else
            let fr := log2Go 100 (m * 2 ^ (400 - Nat.log2 m)) 0
            let v : Int := top * 2 ^ 100 + fr
            -- the exact value lies strictly between v and v + 1 in units of 2^-100
            if v ≥ 0 then sfuRound fc x false (2 * v.natAbs + 1) (-101)
            else sfuRound fc x true (2 * (v + 1).natAbs + 1) (-101)

/-! ### Conversions between the types of Table 4.4 -/

/-- Convert a decoded value to a floating format (R102, R391). E4M3 saturates at 448 and turns infinities into 448;
E5M2 writes a NaN as 0x7E, FP16 as 0x7E00, BF16 as 0x7FC0. With `far` the overflow flag says that the source lies
beyond the largest finite value (R391); without it, between FP32 and FP64, it is that of IEEE 754-2019 (R101). -/
def cvtToFloat (far : Bool) (f : FFmt) (v : FVal) : Nat × FFlags :=
  match v with
  | .nan s => (f.qnan, fIf s fInvalid)
  | .inf n => if f.e4m3 then (f.sign n f.maxFin, fInvalid ||| fInexact) else (f.sign n f.infBits, 0)
  | .fin n m e =>
    if m = 0 then (f.sign n 0, 0)
    else
      -- beyond the largest finite value: a narrow format saturates (E4M3) or gives an infinity (R102, R391)
      let big := match f.dec f.maxFin with
        | .fin _ m' e' => FVal.lt (.fin false m' e') (.fin false m e)
        | _ => false
      if far && big then (f.sign n (if f.e4m3 then f.maxFin else f.infBits), fOverflow ||| fInexact) else f.round 0 n m e

/-- Convert a decoded value to an integer type (R102, R391): toward zero, saturating, NaN to zero. -/
def cvtToInt (lo hi : Int) (v : FVal) : Int × FFlags :=
  match v with
  | .nan _ => (0, fInvalid)
  | .inf n => (if n then lo else hi, fInvalid)
  | .fin n m e =>
    let mag : Nat := if e ≥ 0 then m * 2 ^ e.toNat else m / 2 ^ (-e).toNat
    let frac : Bool := e < 0 && m % 2 ^ (-e).toNat != 0
    let i : Int := if n then -(mag : Int) else mag
    if i < lo then (lo, fInvalid) else if i > hi then (hi, fInvalid) else (i, fIf frac fInexact)

/-- The floating format of a CVT type code (Table 4.4). -/
def cvtFmt : Nat → Option FFmt
  | 2 => some fp32
  | 3 => some fp64
  | 4 => some fp16
  | 5 => some bf16
  | 6 => some fe4m3
  | 7 => some e5m2
  | _ => none

/-- The range of an integer type code (Table 4.4). -/
def cvtRange : Nat → Int × Int
  | 0 => (-2 ^ 31, 2 ^ 31 - 1)
  | 1 => (0, 2 ^ 32 - 1)
  | _ => (-2 ^ 63, 2 ^ 63 - 1)

/-- The width in bits of an integer type code. -/
def cvtIntWidth : Nat → Nat
  | 8 => 64
  | _ => 32

/-- The decoded source of a CVT: integers are exact values with exponent 0. -/
def cvtSource (ty : Nat) (v : Nat) : FVal :=
  match cvtFmt ty with
  | some f => f.dec (v % 2 ^ f.width)
  | none =>
    let i : Int := if ty = 1 then (v % 2 ^ 32 : Nat) else sext (cvtIntWidth ty) v
    .fin (i < 0) i.natAbs 0

/-- CVT (R102, R391): source type, destination type and source bits give the result bits and the flags. The result of
an integer conversion between integer types raises invalid when it saturates and nothing otherwise. -/
def cvt (src dst : Nat) (v : Nat) : Nat × FFlags :=
  let x := cvtSource src v
  match cvtFmt dst with
  | some f => cvtToFloat (!((src = 2 || src = 3) && (dst = 2 || dst = 3))) f x
  | none =>
    let r := cvtToInt (cvtRange dst).1 (cvtRange dst).2 x
    (twos (cvtIntWidth dst) r.1, r.2)

/-- An exact signed value i * 2^e as a decoded value. -/
def FVal.ofInt (i : Int) (e : Int) : FVal := .fin (i < 0) i.natAbs e

end Sys2Proof.Machine
end

