-- ==== Sys2Proof/Machine/Hbm.lean ====
section
/-! DEFINITION. The HBM controllers (chapter 7): the channel hash, the symbol code and what a read of a codeword
reports, masked writes, memory-side adds with exact cells, the add buffer and the lost-write table. -/

namespace Sys2Proof.Machine

/-! ### The channel hash (R190, R191) -/

/-- The pseudo-channel of HBM address a: bit i is the XOR of the address bits 8 + i + j * w up to bit 37. -/
def pchOf (asm : Assembly) (a : Nat) : Nat :=
  let w := pchBits asm
  ofBits ((List.range w).filter (fun i =>
    parityOf a ((List.range 30).map (fun j => 8 + i + j * w) |>.filter (fun n => n ≤ 37))))

/-- The controller index and the pseudo-channel within its stack. -/
def ctrlAt (asm : Assembly) (a : Nat) : Nat × Nat :=
  let c := pchOf asm a
  ((ctrlList asm).getD (c / 64) 0, c % 64)

/-- The granule index G within the pseudo-channel. -/
def granIndex (asm : Assembly) (a : Nat) : Nat := a / 2 ^ (8 + pchBits asm)

/-- The row of an address within its pseudo-channel: granule index without the granule in the row, that is the DRAM row in
the bits from 5 on, the stack ID in bit 4, the bank in bits 3:2 and the bank group in bits 1:0 (R191). -/
def rowPlace (asm : Assembly) (a : Nat) : Nat := granIndex asm a / 4

/-- The bank of a row: stack ID, bank and bank group. -/
def bankOf (place : Nat) : Nat := place % 32

/-- The DRAM row of an address: G[.. : 7] (R191). -/
def dramRow (asm : Assembly) (a : Nat) : Nat := rowPlace asm a / 32

/-! ### The symbol code (R192 to R197) -/

/-- Multiplication in GF(2^8) modulo x^8 + x^4 + x^3 + x^2 + 1 (R192). -/
def gfMul (a b : Nat) : Nat :=
  (List.range 8).foldl (fun r i =>
    let r := r * 2
    let r := if r ≥ 256 then r ^^^ 0x11D else r
    if bit b (7 - i) then r ^^^ a else r) 0

/-- alpha to the n-th power. -/
def gfExp : Nat → Nat
  | 0 => 1
  | n + 1 => gfMul (gfExp n) 2

/-- The syndrome bytes S0 to S7 of a pattern of symbol errors. -/
def rsSyndrome (p : List (Nat × Byte)) : List Nat :=
  (List.range 8).map (fun j => p.foldl (fun s e => s ^^^ gfMul e.2.toNat (gfExp (Config.symbolPower e.1 * j % 255))) 0)

/-- The symbol pair a pin carries (Table 7.3). -/
def pinSymbols (pin : Nat) : List Nat := if pin < 32 then [pin, pin + 32] else if pin < 36 then [pin + 32, pin + 36] else []

/-- The pin that carries a symbol (Table 7.3). -/
def symbolPin (y : Nat) : Nat := if y < 64 then y % 32 else 32 + y % 4

/-- XOR of two error patterns: symbols rising, zero errors left out. -/
def patXor (p q : List (Nat × Byte)) : List (Nat × Byte) :=
  (List.range 72).filterMap (fun i =>
    let e := (SMap.get 0 p i) ^^^ (SMap.get 0 q i)
    if e = 0 then none else some (i, e))

/-- The poison mark: all check bytes XORed with 0xA5 (R197). -/
def poisonPat : List (Nat × Byte) := (List.range 8).map (fun i => (64 + i, 0xA5))

/-- Is a pattern within the bound of R194: 2e + r <= 8 and e <= E, with erased symbols er? -/
def withinBound (p : List (Nat × Byte)) (er : List Nat) (lim : Nat) : Bool :=
  let e := (p.filter (fun x => !er.contains x.1)).length
  2 * e + er.length ≤ 8 && e ≤ lim

/-- Is a pattern of symbol errors a codeword of the symbol code: are its syndromes all zero (R192)? -/
def isCodeword (p : List (Nat × Byte)) : Bool := (rsSyndrome p).all (· == 0)

/-- What the decoder makes of a codeword: clean, corrected (the symbols, and the errors a miscorrection leaves in the
data), poisoned, or uncorrectable. -/
inductive CwRes where
  | clean
  | corrected (syms : List Nat) (left : List (Nat × Byte))
  | poisoned
  | uncorr
  deriving DecidableEq, Repr

/-- Decode an error pattern (R194, R197). A pattern beyond the bound that carries the poison mark within the bound reads
poisoned; any other is miscorrected or reported as `Config.miscorrect` says (notes/assumptions/8.md): a miscorrection
leaves a codeword of the code, and corrects no more than R194 lets the decoder correct. -/
def cwDecode (p : List (Nat × Byte)) (failpin lim : Nat) : CwRes :=
  let er := pinSymbols failpin
  if p = [] then .clean
  else if withinBound p er lim then .corrected (p.map (·.1)) []
  else if withinBound (patXor p poisonPat) er lim then .poisoned
  else match Config.miscorrect p (if failpin < 36 then some failpin else none) lim with
    | some left =>
      if isCodeword left && patXor left [] == left && left != [] && withinBound (patXor p left) er lim then
        .corrected ((patXor p left).map (·.1)) left
      else .uncorr
    | none => .uncorr

/-! ### Codewords in DRAM -/

/-- The error pattern of codeword cw (address / 64). -/
def cwErr (s : State) (cw : Nat) : List (Nat × Byte) := SMap.get [] s.dramErr cw

def setCwErr (s : State) (cw : Nat) (p : List (Nat × Byte)) : State := { s with dramErr := SMap.set [] s.dramErr cw p }

/-- Data bytes with the errors of a pattern in the data symbols. -/
def applyPat (b : List Byte) (p : List (Nat × Byte)) : List Byte :=
  (List.range b.length).zip b |>.map (fun x => x.2 ^^^ SMap.get 0 p x.1)

/-- Write 64 bytes as a codeword with valid or poisoned check bytes (R197). -/
def cwPut (s : State) (cw : Nat) (b : List Byte) (poison : Bool) : State :=
  setCwErr { s with dram := Mem.write s.dram (64 * cw) b } cw (if poison then poisonPat else [])

/-- Capture in MEM_ERR (Table 7.12): an uncorrectable event replaces a captured correctable one; a lost write sets LOSTW
over whatever is captured (R208). -/
def memErrCapture (s : State) (i : Nat) (ue poison lostw : Bool) (nsym pch cw gran : Nat) : State :=
  let o := oMEMERR i
  if regB s o 63 && (!ue || regB s o 62) then (if lostw then setF s o 60 60 1 else s)
  else setReg s o (BitVec.ofNat 64 (2 ^ 63 + b2n ue * 2 ^ 62 + b2n poison * 2 ^ 61 + b2n lostw * 2 ^ 60 + nsym % 16 * 2 ^ 56 +
    pch * 2 ^ 50 + cw * 2 ^ 48 + gran % 2 ^ 40))

/-- An entry of the event log whose layout the spec does not give: the free value drawn. -/
def logFree (s : State) : State := let d := draw s; logEvent d.2 d.1

/-- Is a granule in the lost-write table of its controller (R208)? -/
def isLost (s : State) (i gran : Nat) : Bool := (ctrlOf s i).lost.contains gran

/-- R195: the runs of consecutive corrected codewords per pin after a corrected codeword of pseudo-channel c, and the
failed pin found, if any. -/
def pinTrack (s : State) (i c : Nat) (syms : List Nat) : State :=
  let pins := nub (syms.map symbolPin)
  let s := updCtrl s i (fun x => { x with pinRun := (List.range 36).foldl (fun m p =>
    if pins.contains p then SMap.set 0 m (c * 64 + p) (SMap.get 0 m (c * 64 + p) + 1) else SMap.set 0 m (c * 64 + p) 0) x.pinRun })
  match firstBelow 36 (fun p => SMap.get 0 (ctrlOf s i).pinRun (c * 64 + p) ≥ 8) with
  | some p => if regF s (oPCH i c) 15 10 = p then s else logFree (setF s (oPCH i c) 15 10 p)
  | none => s

/-- A row is failing (R343): soft repair follows in the next retrain slice of its pseudo-channel. -/
def rowFailing (s : State) (i c row : Nat) : State :=
  updCtrl s i (fun x => if x.failRows.contains (c, row) then x else { x with failRows := x.failRows ++ [(c, row)] })

/-- The decode limit E of a controller (R194). -/
def edLimit (s : State) (i : Nat) : Nat := if regB s (oMEMCFG i) 4 then 2 else 4

/-- Read codeword cw: the state, its data and what was found, with the counting, capture, routing, failed-pin tracking,
correcting write and repair of R194 to R197, R335 and R343. `force` writes corrections back whatever CWB holds (R336). -/
def cwRead (s : State) (cw : Nat) (force : Bool) : State × List Byte × CwRes :=
  let a := 64 * cw
  let (i, c) := ctrlAt s.asm a
  let b := Mem.read s.dram a 64
  if isLost s i (a / 256) then
    let s := addSat s (oPCH i c) 47 32 1
    let s := memErrCapture s i true false true 0 c (cw % 4) (a / 256)
    (ueEvent s (32 + i) 1 (a / 256), b, .uncorr)
  else
    let fp := regF s (oPCH i c) 15 10
    let r := cwDecode (cwErr s cw) fp (edLimit s i)
    match r with
    | .clean => (s, b, r)
    | .corrected syms left =>
      let d := applyPat b left
      let s := addSat s (oPCH i c) 63 48 1
      let s := memErrCapture s i false false false syms.length c (cw % 4) (a / 256)
      let s := corrError s (32 + i)
      let s := pinTrack s i c syms
      let again := (ctrlOf s i).lastCorr.contains cw
      let s := if again then rowFailing s i c (rowPlace s.asm a) else s
      if (force || regB s (oMEMCFG i) 5) && !syms.all (fun y => (pinSymbols fp).contains y) then
        (updCtrl (cwPut s cw d false) i (fun x => { x with lastCorr := cw :: x.lastCorr.filter (· != cw) }), d, r)
      else (s, d, r)
    | .poisoned =>
      let s := addSat s (oPCH i c) 47 32 1
      let s := memErrCapture s i true true false 0 c (cw % 4) (a / 256)
      (ueEvent s (32 + i) 2 (a / 256), applyPat b (cwErr s cw), r)
    | .uncorr =>
      let s := addSat s (oPCH i c) 47 32 1
      let s := memErrCapture s i true false false 0 c (cw % 4) (a / 256)
      let s := rowFailing s i c (rowPlace s.asm a)
      (ueEvent s (32 + i) 1 (a / 256), applyPat b (cwErr s cw), r)

/-- Did a read of a codeword fail? -/
def CwRes.isBad : CwRes → Bool
  | .poisoned | .uncorr => true
  | _ => false

/-! ### The add buffer (R200) -/

/-- Write an add-buffer entry back. -/
def addFlushCw (s : State) (i cw : Nat) : State :=
  match (ctrlOf s i).adds.find? (fun e => e.cw == cw) with
  | some e => cwPut (updCtrl s i (fun x => { x with adds := x.adds.filter (fun e => e.cw != cw) })) cw e.bytes false
  | none => s

/-- A request other than an add to a granule writes its entries back first. -/
def addFlushGran (s : State) (gran : Nat) : State :=
  let i := (ctrlAt s.asm (gran * 256)).1
  (List.range 4).foldl (fun s k => addFlushCw s i (gran * 4 + k)) s

/-! ### Granule operations (R189) -/

/-- Read a granule: the state, its 256 bytes and the mask of bad codewords. -/
def granRead (s : State) (gran : Nat) (force : Bool) : State × List Byte × BitVec 4 :=
  (List.range 4).foldl (fun (r : State × List Byte × BitVec 4) k =>
    let x := cwRead r.1 (gran * 4 + k) force
    (x.1, r.2.1 ++ x.2.1, if x.2.2.isBad then r.2.2 ||| BitVec.ofNat 4 (2 ^ k) else r.2.2))
    (addFlushGran s gran, [], 0)

/-- The listed bytes of codeword k of a granule (offset in the granule). -/
def cwMerge (b : List Byte) (k : Nat) (mask : BitVec 256) (bytes : List Host.Cell) : List Byte :=
  (List.range 64).zip b |>.map (fun p =>
    if bit mask.toNat (64 * k + p.1) then Mem.byte bytes (64 * k + p.1) else p.2)

/-- A masked or full write of a granule (R169, R197, R198): codewords covered wholly are written, those covered in part
are read, corrected, merged and written back and counted in RMW, and a merge into a bad codeword is written poisoned and
logged. `poison` marks 16-byte words. -/
def granWrite (s : State) (gran : Nat) (mask : BitVec 256) (bytes : List Host.Cell) (poison : BitVec 16) : State :=
  let i := (ctrlAt s.asm (gran * 256)).1
  let s := addFlushGran s gran
  let s := (List.range 4).foldl (fun s k =>
    let m := bits mask.toNat (64 * k + 63) (64 * k)
    let bad := bits poison.toNat (4 * k + 3) (4 * k) != 0
    if m = 0 then s
    else if m = 2 ^ 64 - 1 then cwPut s (gran * 4 + k) (cwMerge (leBytes 64 0) k mask bytes) bad
    else
      let r := cwRead (addSat s (oMEMEVT i) 31 0 1) (gran * 4 + k) false
      let d := cwMerge r.2.1 k mask bytes
      if r.2.2.isBad then logFree (cwPut r.1 (gran * 4 + k) d true) else cwPut r.1 (gran * 4 + k) d bad) s
  if mask = BitVec.ofNat 256 (2 ^ 256 - 1) && isLost s i gran then
    let s := updCtrl s i (fun x => { x with lost := x.lost.filter (· != gran) })
    setF s (oMEMSTAT i) 3 3 (b2n ((ctrlOf s i).lost != []))
  else s

/-! ### Memory-side adds (R199 to R202) -/

/-- Operand width in bytes of a MADD type (Table 4.8). -/
def maddBytes (ty : Nat) : Nat := if ty = 1 || ty = 3 then 8 else 4

/-- One add to a plain target (Table 7.4). -/
def maddPlain (ty old x : Nat) : Nat :=
  match ty with
  | 0 => (old + x) % 2 ^ 32
  | 1 => (old + x) % 2 ^ 64
  | 2 => (fp32.add 0 old x).1
  | 3 => (fp64.add 0 old x).1
  | _ => (bf16.add 0 (old % 65536) (x % 65536)).1 + 65536 * (bf16.add 0 (old / 65536 % 65536) (x / 65536 % 65536)).1

/-- The operands of a MADD as decoded values: each half of a BF16 pair is its own (R202). -/
def maddOperands (ty x : Nat) : List FVal :=
  match ty with
  | 0 => [FVal.ofInt (sext 32 x) 0]
  | 1 => [FVal.ofInt (sext 64 x) 0]
  | 2 => [fp32.dec (x % 2 ^ 32)]
  | 3 => [fp64.dec (x % 2 ^ 64)]
  | _ => [bf16.dec (x % 65536), bf16.dec (x / 65536 % 65536)]

/-- The fixed-point value of an operand with FRAC fraction bits, rounded to nearest even: `none` when it is discarded
(R202), and whether rounding changed it. -/
def xcConvert (frac : Nat) (v : FVal) : Option Int × Bool :=
  match v with
  | .fin n m e =>
    let r := roundAt 0 n m (e + frac) 0
    if r.1 ≥ 2 ^ 126 then (none, false) else (some (if n then -(r.1 : Int) else r.1), r.2)
  | _ => (none, false)

/-- The exact-cell window of controller i that covers an address (R202). -/
def xcWindow (s : State) (i a : Nat) : Option Nat :=
  firstBelow 8 (fun n => regB s (oXCLO i n) 63 && regF s (oXCLO i n) 47 8 ≤ a / 256 && a / 256 ≤ regF s (oXCHI i n) 47 8)

/-- Apply one add to the 64 bytes of its codeword: the state with the flags of R202 and the bytes. -/
def addApply (s : State) (i ty a x : Nat) (b : List Byte) : State × List Byte :=
  match xcWindow s i a with
  | none =>
    let w := maddBytes ty
    let o := a % 64
    let v := maddPlain ty (leNat ((b.drop o).take w)) (x % 2 ^ (8 * w))
    (s, b.take o ++ leBytes w v ++ b.drop (o + w))
  | some n =>
    let o := a % 64 / 16 * 16
    let frac := regF s (oXCLO i n) 54 48
    let r := (maddOperands ty x).foldl (fun (st : State × Int) v =>
      match xcConvert frac v with
      | (none, _) => (setF st.1 (oXCSTAT i) (8 + n) (8 + n) 1, st.2)
      | (some k, ix) => (if ix then setF st.1 (oXCSTAT i) n n 1 else st.1, st.2 + k))
      (s, sext 128 (leNat ((b.drop o).take 16)))
    (r.1, b.take o ++ leBytes 16 (twos 128 r.2) ++ b.drop (o + 16))

/-- Is a pseudo-channel idle for a run's slice (R209)? -/
def pchHeld (s : State) (i c : Nat) : Bool := (ctrlOf s i).run.any (fun r => r.active && r.pch == c)

/-- Can a granule not be served now: its controller is in reset (R208) or its pseudo-channel idles for a slice (R209)? -/
def granHeld (s : State) (gran : Nat) : Bool :=
  let (i, c) := ctrlAt s.asm (gran * 256)
  (ctrlOf s i).stopped || pchHeld s i c

/-- The add-buffer entry that a new one displaces: the oldest of 64 whose pseudo-channel can be written (R200, R209). -/
def displaced (s : State) (i : Nat) : Option AddEntry :=
  if (ctrlOf s i).adds.length < 64 then none else (ctrlOf s i).adds.find? (fun e => !granHeld s (e.cw / 4))

/-- Can an add to a granule have its entries: each codeword has one, one is free, or one can be displaced? -/
def addFits (s : State) (i gran : Nat) : Bool :=
  (ctrlOf s i).adds.length < 64 || (displaced s i).isSome || (List.range 4).all (fun k => (ctrlOf s i).adds.any (fun e => e.cw == 4 * gran + k))

/-- The add-buffer entry of a codeword: present, or read and decoded into a new entry, displacing the oldest of 64.
`none` when the codeword is uncorrectable or poisoned (R201). -/
def addEntry (s : State) (i cw : Nat) : State × Option (List Byte) :=
  match (ctrlOf s i).adds.find? (fun e => e.cw == cw) with
  | some e => (s, some e.bytes)
  | none =>
    let r := cwRead s cw false
    if r.2.2.isBad then (r.1, none)
    else
      let s := match displaced r.1 i with
        | some e => addFlushCw r.1 i e.cw
        | none => r.1
      (updCtrl s i (fun x => { x with adds := x.adds ++ [⟨cw, r.2.1⟩] }), some r.2.1)

/-- The controller applies one add (R199 to R201). -/
def addOne (s : State) (ty a x : Nat) : State :=
  let i := (ctrlAt s.asm a).1
  let e := addEntry s i (a / 64)
  match e.2 with
  | none => e.1
  | some b =>
    let r := addApply e.1 i ty a x b
    updCtrl r.1 i (fun c => { c with adds := c.adds.map (fun y => if y.cw = a / 64 then { y with bytes := r.2 } else y) })

end Sys2Proof.Machine
end

