-- ==== Sys2Proof/Machine/Shelf.lean ====
section
/-! DEFINITION. The shelf slices (chapter 6): where an address lives, lookup and replacement, sectors with their ECC
words, the merge buffer, write-backs, fills, memory-side adds, and the requests that stand in the HBM controllers'
queues on their behalf. -/

namespace Sys2Proof.Machine

/-! ### Where an address lives (R160 to R163, R180) -/

/-- The affinity index of line index lam (R163). -/
def affinity (lam : Nat) : Nat :=
  ((List.range 9).foldl (fun a j => a ^^^ bits lam (4 * j + 3) (4 * j)) 0) ^^^ b2n (bit lam 36)

/-- The home slice of a line before retirement (R163). -/
def homeSlice (diag : Bool) (lam : Nat) : Nat :=
  let a := affinity lam
  if diag then 4 * ((a / 4 + 1) % 4) + (a % 4 + 1) % 4 else a

/-- A slice and its partners in the order in which they serve its addresses (R180). -/
def rehomeChain (k : Nat) : List Nat := [k, k ^^^ 10, k ^^^ 8, k ^^^ 2]

/-- The slice that serves addresses homed at k: k, or its first partner that is not retired (R180). -/
def servingSlice (retired k : Nat) : Nat := ((rehomeChain k).find? (fun j => !bit retired j)).getD k

/-- The home stack of an address among the owner's stacks (R162). -/
def homeStack (mode1 : Bool) (stacks_ : List Nat) (a : Nat) : Nat :=
  let n := stacks_.length
  let u := bits a 30 15 ^^^ bits a 46 31 ^^^ b2n (bit a 47)
  if mode1 then stacks_.getD (bits a 47 30 % n) 0 else stacks_.getD (u * n / 65536) 0

/-- The home of an HBM address: stack and serving slice; `none` when no partition owns it (R160 to R163, R179, R180). -/
def homeOf (s : State) (a : Nat) : Option (Nat × Nat) :=
  match ownerOf s a with
  | none => none
  | some p =>
    let l := stacksOf s p
    match l with
    | [] => none
    | s0 :: _ =>
      let st := homeStack (regB s (oSHFSTAT s0) 5) l a
      some (st, servingSlice (regF s (oSHFSTAT st) 63 48) (homeSlice (regB s (oSHFSTAT st) 4) (a / 2048)))

/-- The set of a line (R163). -/
def lineSet (lam : Nat) : Nat := lam / 16 % 3072

/-! ### Lookup and replacement (R164, R167) -/

/-- The way of a set that holds a line. -/
def findWay (x : Slice) (lam : Nat) : Option Nat :=
  firstBelow 16 (fun w => (SMap.find x.lines (lineSet lam * 16 + w)).any (fun l => l.lam == lam))

/-- The line at a key. -/
def lineAt (x : Slice) (k : Nat) : Line := (SMap.find x.lines k).getD ⟨0, false, [], 0⟩

/-- The four nodes of the tree pseudo-LRU on the path to a way, with the side taken: node, way's side is the upper half. -/
def plruPath (w : Nat) : List (Nat × Bool) :=
  [(0, bit w 3), (1 + w / 8, bit w 2), (3 + w / 4, bit w 1), (7 + w / 2, bit w 0)]

/-- Point every node on the path away from a way that was used. -/
def plruTouch (t : BitVec 15) (w : Nat) : BitVec 15 :=
  (plruPath w).foldl (fun t n => if n.2 then t &&& ~~~ BitVec.ofNat 15 (2 ^ n.1) else t ||| BitVec.ofNat 15 (2 ^ n.1)) t

/-- The way the tree chooses, taking the other branch at a node whose chosen side holds only ways that `ok` refuses:
`n` is the node, `lo` the first way below it, `k` levels left. -/
def plruPick (t : BitVec 15) (ok : Nat → Bool) : Nat → Nat → Nat → Nat
  | 0, _, lo => lo
  | k + 1, n, lo =>
    let half := 2 ^ k
    let up := bit t.toNat n
    let any (b : Nat) : Bool := (List.range half).any (fun i => ok (b + i))
    let side := if any (if up then lo + half else lo) then up else !up
    plruPick t ok k (2 * n + 1 + b2n side) (if side then lo + half else lo)

/-- Mark a way as used. -/
def touchWay (x : Slice) (set w : Nat) : Slice := { x with plru := SMap.set 0 x.plru set (plruTouch (SMap.get 0 x.plru set) w) }

/-! ### Sectors (R159, R170, R183) -/

def secOf (l : Line) (j : Nat) : Sector := SMap.get Sector.reset l.secs j
def setSec (l : Line) (j : Nat) (x : Sector) : Line := { l with secs := SMap.set Sector.reset l.secs j x }

/-- The data of ECC word w of a sector. -/
def secWord (x : Sector) (w : Nat) : Nat := Mem.nat x.bytes (16 * w) 16

/-- Is ECC word w of a sector uncorrectable? -/
def wordBad (x : Sector) (w : Nat) : Bool := eccOf 128 (syndrome 128 (SMap.get 0 x.err w).toNat) = .bad

/-- The 16-byte words of a sector whose bytes a mask names. -/
def wordsMasked (mask : BitVec 256) : List Nat := (List.range 16).filter (fun w => bits mask.toNat (16 * w + 15) (16 * w) != 0)

/-- Update one sector of a line. -/
def updSec (s : State) (st k key j : Nat) (f : Sector → Sector) : State :=
  updSlice s st k (fun x =>
    match SMap.find x.lines key with
    | some l => { x with lines := SMap.put x.lines key (setSec l j (f (secOf l j))) }
    | none => x)

/-- The sector j of the line at a key. -/
def getSec (s : State) (st k key j : Nat) : Sector := secOf (lineAt (sliceOf s st k) key) j

/-- Restore the ECC words of a sector after a march or a spared row (R345). -/
def restoreWords (x : Sector) (ws : List Nat) (n0 : Nat) : Sector :=
  ws.foldl (fun x w =>
    let m := (SMap.get 0 x.err w).toNat
    if m = 0 then x
    else
      let r := eccRead 128 (secWord x w) m
      match r.2.2.1 with
      | .bad => { x with err := SMap.set 0 x.err w (BitVec.ofNat 137 (doubleBit 137 (n0 + w))) }
      | _ => { x with bytes := Mem.putNat x.bytes (16 * w) 16 r.1, err := SMap.set 0 x.err w 0 }) x

/-- The words of a list that are corrected when they are read. -/
def wordsFixed (x : Sector) (ws : List Nat) : Nat :=
  (ws.filter (fun w => match (eccRead 128 (secWord x w) (SMap.get 0 x.err w).toNat).2.2.1 with
    | .fixed _ => true
    | _ => false)).length

/-- Save and restore of the ECC words of a set that `p` names (by row of R339): each word that the save corrects is a
correctable error (R334). -/
def marchSet (s : State) (st k set : Nat) (p : Nat → Bool) : State :=
  (List.range 16).foldl (fun s w =>
    (List.range 8).foldl (fun s j =>
      let x := getSec s st k (set * 16 + w) j
      let ws := (x.err.map (·.1)).filter (fun i => p ((w * 128 + j * 16 + i) / 4))
      if ws = [] then s
      else
        let s := (List.range (wordsFixed x ws)).foldl (fun s _ => corrError s (16 + st)) s
        { updSec s st k (set * 16 + w) j (fun x => restoreWords x ws s.fresh) with fresh := s.fresh + 16 }) s) s

/-- The classifier of a slice receives a corrected bit of word i (within the set: way * 128 + word of the line):
column i % 4 * 137 + bit, row i / 4 (R339 to R341). -/
def shfClassify (s : State) (st k set i pos : Nat) : State :=
  let x := sliceOf s st k
  let row := i / 4
  let col := i % 4 * 137 + pos
  let place := k * 4096 + set
  let c := classify x.cls set col row
  let s := updSlice s st k (fun x => { x with cls := c.1 })
  if c.2 then
    marched (16 + st) (k * 3072 + set) col (spareColumn (countColumn s) 2 st place col (16 + st))
      (fun s => marchSet s st k set (fun _ => true))
  else if x.cells.contains (set, row, col) then
    let r := spareRow s 1 st place row
    let s := updSlice r.1 st k (fun x => { x with cells := dropOne (set, row, col) x.cells })
    if r.2 then marchSet s st k set (· == row) else s
  else updSlice s st k (fun x => { x with cells := (set, row, col) :: x.cells })

/-- Read-correct ECC word w of sector j of the line at a key (R183): corrected in place and counted; an uncorrectable
word raises the event of R335 at HBM address `a` of the sector. -/
def wordCheck (s : State) (st k key j w a : Nat) : State × EccRes :=
  let x := getSec s st k key j
  let m := (SMap.get 0 x.err w).toNat
  if m = 0 then (s, .clean)
  else
    let r := eccRead 128 (secWord x w) m
    match r.2.2.1 with
    | .bad => (ueEvent s (16 + st) 1 (a / 256), .bad)
    | .clean =>
      (updSec s st k key j (fun x => { x with bytes := Mem.putNat x.bytes (16 * w) 16 r.1, err := SMap.set 0 x.err w 0 }), .clean)
    | .fixed pos =>
      let s := updSec s st k key j (fun x => { x with bytes := Mem.putNat x.bytes (16 * w) 16 r.1, err := SMap.set 0 x.err w 0 })
      (shfClassify (corrError s (16 + st)) st k (key / 16) (key % 16 * 128 + j * 16 + w) pos, .fixed pos)

/-! ### The merge buffer (R170 to R172) -/

/-- The home of a cached address: slice and key of its line, when the line is present. -/
def keyOf (s : State) (st k lam : Nat) : Option Nat :=
  (findWay (sliceOf s st k) lam).map (fun w => lineSet lam * 16 + w)

/-- Retire a merge-buffer entry (R171). -/
def mbRetire (s : State) (st k : Nat) (e : MbEntry) : State :=
  let s := updSlice s st k (fun x => { x with mb := x.mb.filter (fun y => y.word != e.word) })
  match keyOf s st k (e.word / 128) with
  | none => s
  | some key =>
    let j := e.word / 16 % 8
    let w := e.word % 16
    let put (s : State) (base : Nat) : State :=
      let new := (List.range 16).map (fun i => if bit e.mask.toNat i then Mem.byte e.bytes i else (leBytes 16 base).getD i 0)
      updSec s st k key j (fun x => { x with bytes := Mem.write x.bytes (16 * w) new, err := SMap.set 0 x.err w 0 })
    if e.mask = 0xFFFF then put s 0
    else
      let v := bits (getSec s st k key j).valid.toNat (16 * w + 15) (16 * w)
      if v ||| e.mask.toNat = 65535 then
        let c := wordCheck s st k key j w (e.word * 16)
        if c.2 = .bad then c.1 else put c.1 (secWord (getSec c.1 st k key j) w)
      else
        -- bytes that are not valid are written as zero, valid ones are kept
        let x := getSec s st k key j
        put s (leNat ((List.range 16).map (fun i => if bit v i then Mem.byte x.bytes (16 * w + i) else 0)))

/-- Retire every merge-buffer entry of a slice that `p` names. -/
def mbRetireAll (s : State) (st k : Nat) (p : MbEntry → Bool) : State :=
  ((sliceOf s st k).mb.filter p).foldl (fun s e => mbRetire s st k e) s

/-- Write the bytes of one ECC word: directly when it is covered wholly and has no entry, else through the merge buffer
(R170, R171). `cs` are offsets within the word. -/
def wordWrite (s : State) (st k key word : Nat) (cs : List Host.Cell) : State :=
  let j := word / 16 % 8
  let w := word % 16
  let m : BitVec 16 := BitVec.ofNat 16 (ofBits (nub (cs.map (·.1))))
  match (sliceOf s st k).mb.find? (fun e => e.word == word) with
  | some e =>
    let e' : MbEntry := ⟨word, e.mask ||| m, Mem.cells e.bytes cs⟩
    let s := updSlice s st k (fun x => { x with mb := x.mb.map (fun y => if y.word = word then e' else y) })
    if e'.mask = 0xFFFF then mbRetire s st k e' else s
  | none =>
    if m = 0xFFFF then
      updSec s st k key j (fun x => { x with
        bytes := Mem.cells x.bytes (cs.map (fun c => (16 * w + c.1, c.2))), err := SMap.set 0 x.err w 0 })
    else
      let s := match (sliceOf s st k).mb with
        | e :: rest => if rest.length ≥ 15 then addSat (mbRetire s st k e) (oSHFEVT st) 47 32 1 else s
        | [] => s
      updSlice s st k (fun x => { x with mb := x.mb ++ [⟨word, m, Mem.cells [] cs⟩] })

/-! ### Requests to the HBM controllers -/

/-- Does a request stand in a write queue? Adds go to the add buffer. -/
def HbmKind.isWrite : HbmKind → Bool
  | .write | .masked => true
  | _ => false

/-- The requests of pseudo-channel c of controller i, oldest first. -/
def pchReqs (s : State) (i c : Nat) : List HbmReq := (ctrlOf s i).queue.filter (fun r => (ctrlAt s.asm (r.gran * 256)).2 == c)

/-- Keep whether the write queue of the pseudo-channel of a granule drains: from WRHI entries on, until it has fallen to
WRLO (R205). -/
def noteDrain (s : State) (gran : Nat) : State :=
  let (i, c) := ctrlAt s.asm (gran * 256)
  let n := min 32 ((pchReqs s i c).filter (fun r => r.kind.isWrite)).length
  let on := n ≥ regF s (oMEMARB i) 31 24 || ((ctrlOf s i).drain.contains c && n > regF s (oMEMARB i) 23 16)
  updCtrl s i (fun x => { x with drain := if on then (if x.drain.contains c then x.drain else x.drain ++ [c]) else x.drain.filter (· != c) })

/-- Queue a request at the controller of its granule, with a new identifier (R189, R205). -/
def enqueue (s : State) (r : HbmReq) : State :=
  let i := (ctrlAt s.asm (r.gran * 256)).1
  noteDrain { updCtrl s i (fun c => { c with queue := c.queue ++ [{ r with id := s.nextId }] }) with nextId := s.nextId + 1 } r.gran

/-- Does a stack's partition run in quarantine, where write-backs are acknowledged and not performed (R373)? -/
def quarantined (s : State) (st : Nat) : Bool :=
  match partOfStack s st with
  | some p => (partOf s p).quarantine
  | none => false

/-- Read the words of a sector that hold a valid byte, as a write-back does: corrected words are counted, and those that are
uncorrectable are marked (R183). -/
def checkSector (s : State) (st k key j lam : Nat) : State × BitVec 16 :=
  (List.range 16).foldl (fun r w =>
    if bits (getSec s st k key j).valid.toNat (16 * w + 15) (16 * w) = 0 then r
    else
      let c := wordCheck r.1 st k key j w (lam * 2048 + j * 256)
      (c.1, if c.2 = .bad then r.2 ||| BitVec.ofNat 16 (2 ^ w) else r.2)) (s, 0)

/-- Hand a dirty sector to the write-back buffer and to its controller (R167, R168): its merge-buffer entries retire
first, the mask goes with it, and words that read uncorrectable carry the poison mark of R183. -/
def writeBack (s : State) (st k key j : Nat) : State :=
  let lam := (lineAt (sliceOf s st k) key).lam
  let sec := lam * 8 + j
  let s := mbRetireAll s st k (fun e => e.word / 16 == sec)
  let l := lineAt (sliceOf s st k) key
  let x := secOf l j
  if !x.dirty then s
  else if quarantined s st then updSec s st k key j (fun x => { x with dirty := false })
  else if eccOf 96 (syndrome 96 l.tagErr.toNat) = .bad then updSec s st k key j (fun x => { x with dirty := false })
  else
    let r := checkSector s st k key j lam
    let s := r.1
    let poison := r.2
    let x := getSec s st k key j
    let full := x.valid = BitVec.ofNat 256 (2 ^ 256 - 1)
    let s := updSec s st k key j (fun x => { x with dirty := false })
    let s := updSlice s st k (fun y => { y with wb := y.wb ++ [⟨sec, x.valid, x.bytes, poison⟩] })
    let s := addSat s (oSHFCNT st k (if full then 2 else 3)) 47 0 1
    enqueue s ⟨0, sec, if full then .write else .masked, x.valid, x.bytes, poison, 3, false, .stack st,
      genOf s (.stack st), none, none⟩

/-- Write every dirty sector of a line back. -/
def writeBackLine (s : State) (st k key : Nat) : State := (List.range 8).foldl (fun s j => writeBack s st k key j) s

/-- Fills of slice k whose sectors `p` names no longer stand in the slice. -/
def deadFills (s : State) (st k : Nat) (p : Nat → Bool) : State :=
  { s with fills := updWhere (fun f => f.stack == st && f.slice == k && p f.sec) (fun f => { f with live := false }) s.fills }

/-- Invalidate a line: what its fills in flight bring is not written (R165, R166). -/
def dropLine (s : State) (st k key : Nat) : State :=
  match SMap.find (sliceOf s st k).lines key with
  | none => s
  | some l => deadFills (updSlice s st k (fun x => { x with lines := SMap.del x.lines key })) st k (fun c => c / 8 == l.lam)

/-- Fill data reaches the slice (R165): bytes that are not valid are written, the mask becomes all ones, and ECC words
that receive a byte of a bad codeword read uncorrectable; these words are listed. A word of which some bytes are valid is
read and corrected (R183). -/
def fillSector (s : State) (st k key j : Nat) (data : List Byte) (badCw : BitVec 4) : State × List Nat :=
  let x := getSec s st k key j
  let v (w : Nat) : Nat := bits x.valid.toNat (16 * w + 15) (16 * w)
  let words := (List.range 16).filter (fun w => v w != 65535)
  let r := words.foldl (fun (r : State × List Nat) w =>
    if v w = 0 then r
    else
      let c := wordCheck r.1 st k key j w ((lineAt (sliceOf s st k) key).lam * 2048 + j * 256)
      (c.1, if c.2 = .bad then r.2 ++ [w] else r.2)) (s, [])
  let n0 := r.1.fresh
  let fill (x : Sector) (w : Nat) : Sector :=
    let old := leBytes 16 (secWord x w)
    let new := (List.range 16).map (fun i => if bit (v w) i then old.getD i 0 else data.getD (16 * w + i) 0)
    let err : BitVec 137 := if bit badCw.toNat (w / 4) then BitVec.ofNat 137 (doubleBit 137 (n0 + w))
      else if r.2.contains w then SMap.get 0 x.err w else 0
    { x with bytes := Mem.write x.bytes (16 * w) new, err := SMap.set 0 x.err w err }
  let y := words.foldl fill (getSec r.1 st k key j)
  ({ updSec r.1 st k key j (fun _ => { y with valid := BitVec.ofNat 256 (2 ^ 256 - 1) }) with fresh := n0 + 16 },
   words.filter (fun w => bit badCw.toNat (w / 4)))

/-! ### Allocation (R167) -/

/-- Ways of a set that are not pinned. -/
def freeWays (x : Slice) (set : Nat) : Nat → Bool := fun w => !((SMap.find x.lines (set * 16 + w)).any (·.pinned))

/-- The way to allocate: the lowest invalid way, else the tree's choice among ways that are not pinned. -/
def victimWay (x : Slice) (set : Nat) : Nat :=
  match firstBelow 16 (fun w => (SMap.find x.lines (set * 16 + w)).isNone) with
  | some w => w
  | none => plruPick (SMap.get 0 x.plru set) (freeWays x set) 4 0 0

/-- Must a request that needs a line wait for write-back entries (R168): a miss that needs a victim while the buffer is full,
or whose victim has more dirty sectors than entries are free? -/
def wbFull (s : State) (st k lam : Nat) : Bool :=
  let x := sliceOf s st k
  match findWay x lam with
  | some _ => false
  | none =>
    match SMap.find x.lines (lineSet lam * 16 + victimWay x (lineSet lam)) with
    | none => false
    | some l => x.wb.length ≥ 32 || x.wb.length + (l.secs.filter (fun e => e.2.dirty)).length > 32

/-- The key of a line, allocating it if absent: the victim's dirty sectors are written back. -/
def allocLine (s : State) (st k lam : Nat) : State × Nat :=
  match keyOf s st k lam with
  | some key => (updSlice s st k (fun x => touchWay x (lineSet lam) (key % 16)), key)
  | none =>
    let w := victimWay (sliceOf s st k) (lineSet lam)
    let key := lineSet lam * 16 + w
    let s := dropLine (writeBackLine s st k key) st k key
    (updSlice s st k (fun x => touchWay { x with lines := SMap.put x.lines key ⟨lam, false, [], 0⟩ } (lineSet lam) w), key)

/-! ### Reading and writing a cached line -/

/-- Is every byte of a mask valid in sector j of a line? -/
def secHas (x : Sector) (mask : BitVec 256) : Bool := (mask &&& ~~~ x.valid) = 0

/-- The mask of listed byte addresses within sector number sec. -/
def maskOf (want : List Nat) (sec : Nat) : BitVec 256 := BitVec.ofNat 256 (ofBits (nub ((want.filter (fun a => a / 256 == sec)).map (· % 256))))

/-- Check the tag word of a line on a lookup (Table 13.1): corrected in place, or the line is uncorrectable. -/
def tagCheck (s : State) (st k key : Nat) : State × Bool :=
  let l := lineAt (sliceOf s st k) key
  if l.tagErr = 0 then (s, false)
  else match eccOf 96 (syndrome 96 l.tagErr.toNat) with
    | .bad => (ueEvent s (16 + st) 1 (l.lam * 8), true)
    | r =>
      let s := updSlice s st k (fun x => { x with lines := SMap.put x.lines key { l with tagErr := 0 } })
      (if r = .clean then s else corrError s (16 + st), false)

/-- Read listed bytes of a line that are all valid: the state, the cells, and the ECC words wanted that are
uncorrectable (R172, R183); an uncorrectable tag makes all of them so. -/
def lineRead (s : State) (st k key : Nat) (want : List Nat) : State × List Host.Cell × List Nat :=
  let t := tagCheck s st k key
  let words := nub (want.map (· / 16))
  let r := words.foldl (fun (r : State × List Nat) w =>
    let c := wordCheck r.1 st k key (w / 16 % 8) (w % 16) (w * 16)
    (c.1, if c.2 = .bad then r.2 ++ [w] else r.2)) (t.1, if t.2 then words else [])
  let x := sliceOf r.1 st k
  let val (a : Nat) : Byte :=
    match x.mb.find? (fun e => e.word == a / 16) with
    | some e => if bit e.mask.toNat (a % 16) then Mem.byte e.bytes (a % 16) else Mem.byte (secOf (lineAt x key) (a / 256 % 8)).bytes (a % 256)
    | none => Mem.byte (secOf (lineAt x key) (a / 256 % 8)).bytes (a % 256)
  (r.1, want.map (fun a => (a, val a)), r.2)

/-- Write listed bytes (absolute addresses) into an allocated line (R166, R170): valid and dirty bits are set. -/
def lineWrite (s : State) (st k key : Nat) (cs : List Host.Cell) : State :=
  let t := (tagCheck s st k key).1
  let secs := nub (cs.map (fun c => c.1 / 256))
  let s := secs.foldl (fun s sec =>
    updSec s st k key (sec % 8) (fun x => { x with valid := x.valid ||| maskOf (cs.map (·.1)) sec, dirty := true })) t
  (nub (cs.map (fun c => c.1 / 16))).foldl (fun s w =>
    wordWrite s st k key w ((cs.filter (fun c => c.1 / 16 == w)).map (fun c => (c.1 % 16, c.2)))) s

/-! ### Fills (R165, R182) -/

/-- The fill of a sector that is in flight for its slice: issued under the stack's generation, its sector still there. -/
def fillInFlight (s : State) (st k sec : Nat) : Option Nat :=
  (s.fills.find? (fun f => f.sec == sec && f.stack == st && f.slice == k && f.live && f.gen == genOf s (.stack st))).map (·.id)

/-- The fill that a request waits for: the one in flight for the sector, or a new one (R165). `level` is that of R205. -/
def issueFill (s : State) (st k sec level : Nat) : State × Nat :=
  match fillInFlight s st k sec with
  | some id => (s, id)
  | none =>
    let g := genOf s (.stack st)
    let id := s.nextId
    (enqueue { s with fills := s.fills ++ [⟨id, sec, st, k, g, none, true⟩], nextId := id + 1 }
      ⟨0, sec, .read, 0, [], 0, level, false, .stack st, g, some id, none⟩, id)

/-- The place of the next reply among all replies (R219). -/
def nextRep (s : State) : Nat := s.txns.foldl (fun n x => max n x.rep) 0 + 1

/-- A transaction with its reply, from the slice that answers. -/
def Txn.reply (x : Txn) (n : Nat) (h : Option (Nat × Nat)) (st : ReplySt) : Txn := { x with stage := .replied st, rep := n, from_ := h }

/-- A transaction by identifier. -/
def txnOf (s : State) (id : Nat) : Option Txn := s.txns.find? (fun x => x.id == id)

def updTxn (s : State) (id : Nat) (f : Txn → Txn) : State := { s with txns := updWhere (fun x => x.id == id) f s.txns }

/-- What a read that waits for fill f takes from its data (R165): the bytes it lacks, those of bad codewords being lost, as
are bytes of the words that the fill has made uncorrectable. -/
def Txn.takeFill (x : Txn) (f : Fill) (data : List Byte) (bad : BitVec 4) (words : List Nat) : Txn :=
  let mine := x.want.filter (fun a => a / 256 == f.sec && !x.got.any (fun c => c.1 == a) && !x.lost.contains a)
  let ruined (a : Nat) : Bool := a / 256 == f.sec && words.contains (a % 256 / 16)
  let badByte (a : Nat) : Bool := bit bad.toNat (a % 256 / 64)
  { x with
    awaits := x.awaits.filter (· != f.id)
    lost := x.lost ++ mine.filter badByte ++ (x.got.map (·.1)).filter ruined
    got := x.got.filter (fun c => !ruined c.1) ++ (mine.filter (fun a => !badByte a)).map (fun a => (a, data.getD (a % 256) 0)) }

/-- The reads that wait for fill f take its data; one that waits for no other fill receives its reply (R165, R183). -/
def answerFill (s : State) (f : Fill) (data : List Byte) (bad : BitVec 4) (words : List Nat) : State :=
  s.txns.foldl (fun s x =>
    if x.stage == .atSlice && x.awaits.contains f.id then
      let y := x.takeFill f data bad words
      let z := if y.awaits = [] then y.reply (nextRep s) (some (f.stack, f.slice)) (if y.lost = [] then .ok else .uncorr) else y
      { s with txns := updWhere (fun w => w.id == x.id) (fun _ => z) s.txns }
    else s) s

/-- A fill with data reaches its slice (R165, R182): discarded at the stack's edge when it was issued under an older
generation (R227), else it fills its sector, if that still stands there, and the reads that wait for it take their bytes. -/
def arriveFill (s : State) (f : Fill) : State :=
  let s' := { s with fills := s.fills.filter (fun g => g.id != f.id) }
  match f.data with
  | none => s
  | some (data, bad) =>
    if f.gen != genOf s (.stack f.stack) then addSat s' oBWREVT 63 48 1
    else match if f.live then keyOf s' f.stack f.slice (f.sec / 8) else none with
      | none => answerFill s' f data bad []
      | some key =>
        let r := fillSector (addSat s' (oSHFCNT f.stack f.slice 1) 47 0 1) f.stack f.slice key (f.sec % 8) data bad
        answerFill r.1 f data bad r.2

/-! ### Service of controller requests (R189, R207) -/

/-- Remove a request from its controller's queue. -/
def dequeue (s : State) (i : Nat) (r : HbmReq) : State :=
  noteDrain (updCtrl s i (fun c => { c with queue := c.queue.filter (fun q => q.id != r.id) })) r.gran

/-- The write-back buffer entry of a sector is free once the controller has accepted it (R168). -/
def freeWb (s : State) (st : Nat) (sec : Nat) : State :=
  (List.range 16).foldl (fun s k => updSlice s st k (fun x => { x with wb := x.wb.filter (fun e => e.sec != sec) })) s

/-- The stack a request came from. -/
def reqStack (r : HbmReq) : Option Nat :=
  match r.dom with
  | .stack st => some st
  | _ => none

/-- The adds of a transaction that fall in a granule. -/
def granAdds (x : Txn) (gran : Nat) : List (Nat × List Byte) := x.adds.filter (fun a => a.1 / 256 == gran)

/-- The controller accepts and serves one request: a stale one is dropped and counted (R207), and the DROPPED reply of a
slice's request is discarded at the stack's edge (R227); a read gives its fill the data; writes and adds are applied. -/
def serveReq (s : State) (i : Nat) (r : HbmReq) : State :=
  let s := dequeue s i r
  if r.gen != genOf s r.dom then
    let s := addSat s (oMEMEVT i) 63 48 1
    let s := { s with txns := updWhere (fun x => some x.id == r.txn) (fun x => x.reply (nextRep s) none .dropped) s.txns }
    match reqStack r with
    | some st => addSat (freeWb { s with fills := s.fills.filter (fun f => some f.id != r.fill) } st r.gran) oBWREVT 63 48 1
    | none => s
  else
    match r.kind with
    | .read =>
      let x := granRead s r.gran false
      { x.1 with fills := updWhere (fun f => some f.id == r.fill) (fun f => { f with data := some (x.2.1, x.2.2) }) x.1.fills }
    | .write | .masked =>
      let s := granWrite s r.gran r.mask r.bytes r.poison
      match reqStack r with
      | some st => freeWb s st r.gran
      | none => s
    | .add ty =>
      match s.txns.find? (fun x => some x.id == r.txn) with
      | none => s
      | some x =>
        let s := (granAdds x r.gran).foldl (fun s a => addOne s ty a.1 (leNat a.2)) s
        let left := s.ctrls.any (fun e => e.2.queue.any (fun q => q.txn == r.txn))
        if left then s else { s with txns := updWhere (fun y => y.id == x.id) (fun y => y.reply (nextRep s) none .ok) s.txns }

/-- Serve every queued request of a granule in the order in which it was queued, and let its fills arrive. -/
def serveGran (s : State) (gran : Nat) : State :=
  let i := (ctrlAt s.asm (gran * 256)).1
  let s := ((ctrlOf s i).queue.filter (fun r => r.gran == gran)).foldl (fun s r => serveReq s i r) s
  (s.fills.filter (fun f => f.sec == gran)).foldl (fun s f => arriveFill s f) s

/-- The same for the engines whose commands are one step of the model. A granule whose controller serves nothing now (R208,
R209) stalls the command. -/
def settleGran (s : State) (gran : Nat) : State := if granHeld s gran then { s with stalled := true } else serveGran s gran

/-- What an engine's command leaves: nothing of it happens while an access of it must wait (notes/assumptions/35.md). -/
def whole (s s' : State) : State := if s'.stalled then s else s'

/-- Serve the oldest write-back of a slice until a line can be allocated (R168). -/
def roomFor (s : State) (st k lam : Nat) : State :=
  (List.range 32).foldl (fun s _ =>
    if wbFull s st k lam then
      match (sliceOf s st k).wb with
      | e :: _ => settleGran s e.sec
      | [] => s
    else s) s

/-- Flush a slice (R180, R181): retire the merge buffer, write every dirty sector back, invalidate every line; the
controllers accept the write-backs before the flush is complete. -/
def flushSlice (s : State) (st k : Nat) : State :=
  let s := mbRetireAll s st k (fun _ => true)
  let keys := (sliceOf s st k).lines.map (·.1)
  let s := keys.foldl (fun s key =>
    let s := writeBackLine s st k key
    (sliceOf s st k).wb.foldl (fun s e => serveGran s e.sec) s) s
  let s := (sliceOf s st k).wb.foldl (fun s e => serveGran s e.sec) s
  deadFills (updSlice s st k (fun x => { x with lines := [], plru := [], wb := [], mb := [] })) st k (fun _ => true)

/-- Must the flush of a slice wait for a controller that serves nothing now? -/
def flushHeld (s : State) (st k : Nat) : Bool :=
  let x := sliceOf s st k
  x.wb.any (fun e => granHeld s e.sec) ||
    x.lines.any (fun e => e.2.secs.any (fun c => c.2.dirty && granHeld s (e.2.lam * 8 + c.1)))

/-! ### Whole accesses by engines whose command is one step -/

/-- The slices before slice k in the chain of a line's home that still flush: requests for the line wait for them (R180). -/
def retiringBefore (s : State) (st k lam : Nat) : List Nat :=
  ((rehomeChain (homeSlice (regB s (oSHFSTAT st) 4) lam)).takeWhile (· != k)).filter (fun j => (sliceOf s st j).retiring)

/-- A line homed in a slice that is being retired is reached at its partner once the retiring slice is flushed (R180). -/
def settleRetiring (s : State) (st k lam : Nat) : State :=
  (retiringBefore s st k lam).foldl (fun s j => if flushHeld s st j then { s with stalled := true } else flushSlice s st j) s

/-- Must a request to a sector wait: it stands in the write-back buffer (R168) or has an add its controller has not accepted
(R173)? -/
def secBusy (s : State) (st k c : Nat) : Bool :=
  (sliceOf s st k).wb.any (fun e => e.sec == c) ||
    (ctrlOf s (ctrlAt s.asm (c * 256)).1).queue.any (fun r => r.gran == c && (match r.kind with
      | .add _ => true
      | _ => false))

/-- Does a BIST slice of kind 0 test a set of slice k (R345)? Requests to it wait until the restore is complete. -/
def setInBist (s : State) (st k set : Nat) : Bool :=
  s.ras.bists.any (fun b => b.unit == 16 + st && b.kind == 0 && !b.waits && b.elem == k * 3072 + set)

/-- What an engine's access to a line of slice k waits for: a test of its set, a retirement, room for the line, its busy
sectors. -/
def settleLine (s : State) (st k lam : Nat) (secs : List Nat) : State :=
  let s := if setInBist s st k (lineSet lam) then { s with stalled := true } else s
  secs.foldl (fun s c => if secBusy s st k c then settleGran s c else s) (roomFor (settleRetiring s st k lam) st k lam)

/-- The sectors of a line at a key that lack a wanted byte. -/
def lacking (s : State) (st k key : Nat) (want : List Nat) : List Nat :=
  (nub (want.map (· / 256))).filter (fun c => !secHas (getSec s st k key (c % 8)) (maskOf want c))

/-- Bring listed bytes of one line into its home slice: settled, the line allocated, its sectors filled where they lack a
byte. The flag says that none did. -/
def shelfFetchNow (s : State) (st k lam : Nat) (want : List Nat) (level : Nat) : State × Bool :=
  let a := allocLine (settleLine s st k lam (nub (want.map (· / 256)))) st k lam
  let miss := lacking a.1 st k a.2 want
  (miss.foldl (fun s c => settleGran (issueFill s st k c level).1 c) a.1, miss = [])

/-- Read listed bytes of one line through its home slice. The last list names the 16-byte words that are uncorrectable. A
byte whose valid bit is 0 is never returned (R159): it stands among those. -/
def shelfReadNow (s : State) (st k lam : Nat) (want : List Nat) (level : Nat) : State × List Host.Cell × List Nat :=
  let r := shelfFetchNow s st k lam want level
  let s := if r.2 then addSat r.1 (oSHFCNT st k 0) 47 0 (nub (want.map (· / 256))).length else r.1
  match keyOf s st k lam with
  | some key =>
    let x := lineRead s st k key want
    let miss := lacking s st k key want
    (x.1, x.2.1, x.2.2 ++ (want.filter (fun a => miss.contains (a / 256))).map (· / 16))
  | none => (s, want.map (fun a => (a, 0)), want.map (· / 16))

/-- Write listed bytes of one line through its home slice. -/
def shelfWriteNow (s : State) (st k lam : Nat) (cs : List Host.Cell) : State :=
  let a := allocLine (settleLine s st k lam (nub (cs.map (fun c => c.1 / 256)))) st k lam
  lineWrite a.1 st k a.2 cs

end Sys2Proof.Machine
end

