-- ==== Sys2Proof/Machine/BistElem.lean ====
section
/-! DEFINITION. The elements of the in-service BIST slices (R307, R345): the header switches of a unit, the element under test,
the save buffer, and the end of a slice, which a reset of the unit's domain brings about first. -/

namespace Sys2Proof.Machine

/-! ### Header switches (R304, R307) -/

/-- The header-switched domains that a unit has (R304; notes/assumptions/83.md). -/
def supplyOk (d : PowerDomain) (u : Supply) : Bool :=
  match d, u with
  | _, .logic => true
  | .tile _ _ _, .arrays => true
  | .slice _ _, .arrays => true
  | .port _, .links => true
  | .ctrl _, .memIf => true
  | _, _ => false

/-- The switch groups that are closed in a domain: bit g group g. -/
def groupsOf (s : State) (d : PowerDomain) (u : Supply) : BitVec 4 :=
  match s.power.headers.find? (fun e => e.1 == (d, u)) with
  | some e => e.2
  | none => 0

def setGroups (s : State) (d : PowerDomain) (u : Supply) (v : BitVec 4) : State :=
  let l := s.power.headers.filter (fun e => e.1 != (d, u))
  { s with power := { s.power with headers := if v = 0 then l else l ++ [((d, u), v)] } }

/-- The domains of a unit, of the supplies it has. -/
def suppliesOf (d : PowerDomain) : List Supply := [Supply.arrays, .logic, .links, .memIf].filter (supplyOk d)

/-- Every switch group of every domain of a unit. -/
def setUnit (s : State) (d : PowerDomain) (v : BitVec 4) : State := (suppliesOf d).foldl (fun s u => setGroups s d u v) s

/-! ### Elements (Table 13.5, R345) -/

/-- The logical tile at a physical place of a stack; none for the hidden column. -/
def tileAtPhys (s : State) (st phys : Nat) : Option Nat :=
  let c := phys % 17
  let h := hiddenCol s st
  if c = h then none
  else some ((12 * (st / gridW s.asm) + phys / 17) * 64 + 16 * (st % gridW s.asm) + (if c < h then c else c - 1))

/-- The physical tile that an element of a crest die lies in (kinds 0 and 1). -/
def elemTile (kind e : Nat) : Nat := if kind = 0 then e / 16 else e / 5

/-- The physical place of a tile as a power domain. -/
def physDomain (st phys : Nat) : PowerDomain := .tile st (phys / 17) (phys % 17)

/-- Start testing an element: a hidden tile is switched on, an array is bound to BIST (R307, R345). -/
def elemStart (s : State) (u kind e : Nat) : State :=
  if 12 ≤ u || 2 ≤ kind then s
  else match tileAtPhys s u (elemTile kind e) with
    | none => setUnit s (physDomain u (elemTile kind e)) 15
    | some t => if kind = 1 && e % 5 < 4 then updArray s t (e % 5) (fun a => { a with owner := some .bist }) else s

/-- A word of the save buffer as it is written back (Table 13.1): corrected, or an uncorrectable error of the unit, and the
part of a tile memory bank is then restored with a double-bit error. -/
def saveWord (s : State) (u kind e : Nat) (w : Nat × BitVec 72) : State :=
  match (eccRead 64 0 w.2.toNat).2.2.1 with
  | .clean => s
  | .fixed _ => corrError s u
  | .bad =>
    let s := ueEvent s u 1 0
    match if u < 12 && kind = 0 then tileAtPhys s u (elemTile kind e) else none with
    | some t =>
      { updTile s t (fun x => { x with
          memErr := SMap.set 0 x.memErr (w.1 % 0x2_0000) (BitVec.ofNat 72 (doubleBit 72 s.fresh)) }) with fresh := s.fresh + 1 }
    | none => s

/-- The test of an element ends: the copy is written back, the array unbound, the hidden tile switched off. -/
def elemEnd (s : State) (u kind e : Nat) : State :=
  if kind = 0 && 16 ≤ u && u < 28 then marchSet s (u - 16) (e / 3072) (e % 3072) (fun _ => true)
  else if 12 ≤ u || 2 ≤ kind then s
  else match tileAtPhys s u (elemTile kind e) with
    | none => setUnit s (physDomain u (elemTile kind e)) 0
    | some t =>
      if kind = 0 then marchBank s t (e % 16)
      else if e % 5 < 4 && (arr s t (e % 5)).owner = some .bist then updArray s t (e % 5) (fun a => { a with owner := none })
      else s

/-- A slice ends: what its save buffer holds is written back. -/
def sliceEnd (s : State) (b : BistRun) : State :=
  if b.waits then s else b.saveErr.foldl (fun s w => saveWord s b.unit b.kind b.elem w) (elemEnd s b.unit b.kind b.elem)

/-- A reset ends the slices that `p` names, and restores their elements, before it goes on (R345). -/
def endSlices (s : State) (p : BistRun → Bool) : State :=
  let l := s.ras.bists.filter p
  l.foldl sliceEnd { s with ras := { s.ras with bists := s.ras.bists.filter (fun b => !p b) } }

end Sys2Proof.Machine
end

