-- ==== Sys2Proof/Machine/Routes.lean ====
section
/-! DEFINITION. Surf routes (R259, R265, R270, R274): the states of the ports, lane sets, and a transfer that begins: its
lane set, its frames in the transmit queues. -/

namespace Sys2Proof.Machine

/-! ### Ports -/

/-- LNK_CFG.MODE: 0 off, 1 native, 2 Ethernet. -/
def portMode (s : State) (p : Nat) : Nat := regF s (oLNKCFG p) 1 0

/-- LNK_STAT.STATE (Table 10.6). -/
def portState (s : State) (p : Nat) : Nat := regF s (oLNKSTAT p) 3 0

/-- Is a port in reset, by itself, with its I/O die, or with the device? -/
def portHeld (s : State) (p : Nat) : Bool :=
  s.resetting.any (fun d => match d with
    | .port q => q == p
    | .ioDie k => k == p / 12
    | .device => true
    | _ => false)

/-- Is the port UP? -/
def portUp (s : State) (p : Nat) : Bool := p < surfPorts s.asm && portState s p == 2 && !portHeld s p

/-- The device's own ID (Table 10.12). -/
def devId (s : State) : Nat := regF s oLNKDEV 7 0

/-- Is device d in the topology (R270)? -/
def peerKnown (s : State) (d : Nat) : Bool := regB s (oROUTE d) 63

/-! ### Routes (R265, R270) -/

/-- Does the route mask of device d hold port p? -/
def inRoute (s : State) (d p : Nat) : Bool := p < 48 && regB s (oROUTE d) p

/-- The ports of the lane set of d's route that pair i forms. -/
def pairPorts (s : State) (d i : Nat) : List Nat := [2 * i, 2 * i + 1].filter (inRoute s d)

/-- The lower ports of d's lane sets with a port UP, rising. -/
def laneSets (s : State) (d : Nat) : List Nat :=
  ((List.range 24).filter (fun i => (pairPorts s d i).any (portUp s))).map (fun i => (pairPorts s d i).headD 0)

/-- The next lane set for a queue and device, round robin with wrap-around. -/
def nextLane (s : State) (q d : Nat) : State × Option Nat :=
  let ls := laneSets s d
  let from_ := SMap.get 0 s.surf.rr (q * 256 + d)
  match (ls.find? (fun l => from_ ≤ l)).orElse (fun _ => ls.head?) with
  | none => (s, none)
  | some l => ({ s with surf := { s.surf with rr := SMap.set 0 s.surf.rr (q * 256 + d) (l + 1) } }, some l)

/-- The port on which sector n of a transfer travels. -/
def sectorPort (s : State) (x : XferOut) (n : Nat) : Nat :=
  if x.both then
    let want := x.lower + n % 2
    if portUp s want then want else 2 * x.lower + 1 - want
  else x.lower

/-- The port of a transfer's OPEN and CLOSE: the lower one that is UP. -/
def endPort (s : State) (x : XferOut) : Nat := if x.both && !portUp s x.lower then x.lower + 1 else x.lower

/-! ### A transfer begins -/

/-- The payload of an OPEN (Table 10.3). -/
def openPayload (s : State) (x : XferOut) : List Byte :=
  let target := if x.pull then x.src else x.dst
  let qkp := x.queue % 8 + 8 * b2n x.pull + 16 * b2n x.prot
  leBytes 5 (target / 256) ++ leBytes 1 x.nsec ++ leBytes 1 x.head ++ leBytes 1 x.tail ++ leBytes 1 (devId s) ++
    leBytes 1 qkp ++ leBytes 5 (if x.pull then x.dst / 256 else if x.prot then x.ctr else 0) ++ leBytes 1 0

/-- Queue a new frame of a transfer. -/
def queueNew (s : State) (p q dev : Nat) (f : Frame) : State :=
  updPort s p (fun y => { y with txq := SMap.set [] y.txq q (SMap.get [] y.txq q ++ [(dev, f)]) })

/-- A new frame of a transfer, not numbered yet. -/
def xferFrame (x : XferOut) (ty idx : Nat) (pay : List Byte) : Frame := ⟨ty, 4096, x.xid, idx, pay, x.queue, x.id + 1, 0, true, 0⟩

/-- Queue the frames of a transfer that starts: OPEN, the sectors, CLOSE. What DATA and CLOSE carry is read when they are
sent. -/
def queueXfer (s : State) (x : XferOut) : State :=
  let q := x.queue
  let s := queueNew s (endPort s x) q x.dev (xferFrame x 2 0 (openPayload s x))
  if x.pull then s
  else
    let s := (List.range x.nsec).foldl (fun s n => queueNew s (sectorPort s x n) q x.dev (xferFrame x 1 n [])) s
    queueNew s (endPort s x) q x.dev (xferFrame x 3 0 [])

/-- Does no open transfer to the device hold an XID (Table 10.1)? -/
def xidFree (s : State) (dev n : Nat) : Bool := s.surf.outs.all (fun y => !(y.started && y.dev == dev && y.xid == n))

/-- Must a transfer wait: behind an earlier one of its queue and device, or behind a protected one (R267, R352)? -/
def outWaits (s : State) (x : XferOut) : Bool :=
  s.surf.outs.any (fun y => y.dev == x.dev && y.queue == x.queue && y.id < x.id && (!y.started || (x.prot && y.prot)))

/-- A transfer takes its XID, its counter and the next lane set, and its frames are queued. -/
def beginOut (s : State) (x : XferOut) : State :=
  match pick s 4096 (xidFree s x.dev) with
  | none => s
  | some (xid, s) =>
    match nextLane s x.queue x.dev with
    | (s, none) => s
    | (s, some l) =>
      let k := x.queue * 256 + x.dev
      let ctr := (SMap.get 0 s.surf.sendCtr k + 1) % 65536
      let y : XferOut := { x with
        xid := xid, lower := l, both := (pairPorts s x.dev (l / 2)).length == 2, started := true,
        ctr := if x.prot && !x.pull then ctr else 0 }
      let s := { s with surf := { s.surf with
        sendCtr := if x.prot && !x.pull then SMap.set 0 s.surf.sendCtr k ctr else s.surf.sendCtr
        outs := s.surf.outs.map (fun z => if z.id = x.id then y else z) } }
      queueXfer s y

/-- Add a transfer to the list. -/
def addOut (s : State) (x : XferOut) : State × Nat :=
  let id := s.nextId
  ({ s with nextId := id + 1, surf := { s.surf with outs := s.surf.outs ++ [{ x with id := id }] } }, id)

/-- The runs of addresses that follow one another, in bytes that rise: start and bytes. -/
def runsOf (l : List Host.Cell) : List (Nat × List Byte) :=
  l.foldr (fun c rs => match rs with
    | (a, bs) :: rest => if c.1 + 1 = a then (c.1, c.2 :: bs) :: rest else (c.1, [c.2]) :: (a, bs) :: rest
    | [] => [(c.1, [c.2])]) []

/-- A store of bytes to a peer window becomes a push that carries them (R24, R270): queue, partition, device, offset there,
bytes, and the thread's transaction. Whether it is protected the spec does not say: the bit is free. -/
def pushBytes (s : State) (q part dev off : Nat) (bs : List Byte) (txn : Option Nat) : State :=
  let d := draw s
  let head := off % 256
  let x := addOut d.2 ⟨0, 0, dev, q, 0, false, 0, off / 256 * 256, cdiv (head + bs.length) 256, head, (off + bs.length - 1) % 256,
    part, false, bit d.1.toNat 0, 0, false, none, txn, bs⟩
  match x.1.surf.outs.find? (fun y => y.id == x.2) with
  | some y => if outWaits x.1 y then x.1 else beginOut x.1 y
  | none => x.1

end Sys2Proof.Machine
end

