-- ==== Sys2Proof/Machine/DevMem.lean ====
section
/-! DEFINITION. Device memory as the masters reach it (R24 to R28, R160, R161, R175, R281, R285): the target of an
address for a master, the counts of Breakwater (R222), and whole reads and writes by the engines whose command is one
step. -/

namespace Sys2Proof.Machine

/-! ### Targets -/

/-- The key of a host byte: 47-bit host address, bit 46 from HWSEL of the issuing partition (R27, R281). -/
def hostKey (s : State) (p : Option Nat) (off : Nat) : Nat :=
  off + 2 ^ 46 * (match p with
    | some q => b2n (regB s (oPCFG q) 0)
    | none => 0)

/-- The function whose requester ID a host access for partition p carries (R281): the partition's VF, or the PF while VIAPF is
set; the PF for the units of the device. -/
def requester (s : State) (p : Option Nat) : Nat :=
  match p with
  | some q => if regB s (oPCFG q) 17 then 0 else q + 1
  | none => 0

/-- A request to host memory goes out (R281): requester, 47-bit address, whether it writes. -/
def noteHost (s : State) (p : Option Nat) (key : Nat) (wr : Bool) : State :=
  { s with hostReqs := s.hostReqs ++ [(requester s p, key, wr)] }

/-- What a master acting for partition p (none: the device itself) reaches at an address. -/
inductive Route where
  | cached (st k : Nat)
  | direct
  | window (t off : Nat)
  | host (key : Nat)
  | remote (d off : Nat)
  | decode
  deriving DecidableEq, Repr

/-- The route to HBM address a (R160, R161). -/
def hbmRoute (s : State) (p : Option Nat) (a : Nat) : Route :=
  match ownerOf s a with
  | some q => if p = none ∨ p = some q then
      (match homeOf s a with
       | some h => .cached h.1 h.2
       | none => .decode)
    else .decode
  | none => if p = none then .direct else .decode

/-- The HBM address a device address stands for: itself, or the offset in the device's own peer window (R28). -/
def hbmAddr (s : State) (a : Nat) : Nat :=
  match decodeAddr s.asm a with
  | .peer d off => if d = devId s then off else a
  | _ => a

/-- The route to a device address. -/
def routeOf (s : State) (p : Option Nat) (a : Nat) : Route :=
  match decodeAddr s.asm a with
  | .hbm a => hbmRoute s p a
  | .window t off =>
    match p with
    | none => .window t off
    | some q => if tileInPart s q t then .window t off else .decode
  | .host off => .host (hostKey s p off)
  | .peer d off =>
    if d = devId s then
      (match decodeAddr s.asm off with
       | .hbm a => hbmRoute s p a
       | _ => .decode)
    else if peerKnown s d then .remote d off else .decode
  | .unmapped => .decode

/-! ### Whole accesses -/

/-- The outcome of an access: the worst status and the offset of the first byte that failed. -/
structure AccSt where
  st  : ReplySt
  off : Nat
  deriving DecidableEq, Repr

def AccSt.ok : AccSt := ⟨.ok, 0⟩

/-- The first failure stays. -/
def AccSt.join (x y : AccSt) : AccSt := if x.st = .ok then y else x

/-- Free bytes from the n-th free value on, eight to a value. -/
def freeBytes (n len : Nat) : List Byte := (List.range len).map (fun i => ((Config.freeWord (n + i / 8)).extractLsb' (8 * (i % 8)) 8))

/-- Draw n free bytes. -/
def drawBytes (s : State) (len : Nat) : State × List Byte :=
  ({ s with fresh := s.fresh + cdiv len 8 }, freeBytes s.fresh len)

/-- Who accesses: master, partition it acts for, Breakwater count and class, level at the controllers (R205), consumer
code for tile memory (Table 6.8). -/
structure Who where
  m     : Master
  p     : Option Nat
  cnt   : Nat
  cls   : Nat
  level : Nat
  deriving DecidableEq, Repr

/-- A dispatcher or engine of partition p. -/
def Who.disp (p cls level : Nat) : Who := ⟨.disp p, if p = 8 then none else some p, p, cls, level⟩

/-- The outcome of a read of n bytes from h, of which the listed spans (start, length) failed: the first byte that did. -/
def spanSt (h n : Nat) (bad : List (Nat × Nat)) : AccSt :=
  match bad.filter (fun b => b.1 < h + n && h < b.1 + b.2) with
  | [] => AccSt.ok
  | b :: l => ⟨.uncorr, (l.map (·.1)).foldl min b.1 - h⟩

/-- An access to the memory of a tile of which a bank is under test waits (R345). -/
def settleTile (s : State) (t : Nat) : State := if bankInBist s t then { s with stalled := true } else s

/-- Read n bytes that lie within one 256-byte sector: the outcome names the first byte that failed. A read of a peer window is
a transfer on the next lane set, answered as refused when no port of the route is UP (R270); its data is free
(notes/assumptions/10.md). -/
def readAt (s : State) (w : Who) (a n : Nat) : State × List Byte × AccSt :=
  match routeOf s w.p a with
  | .cached st k =>
    let h := hbmAddr s a
    let r := shelfReadNow s st k (h / 2048) ((List.range n).map (· + h)) w.level
    (r.1, r.2.1.map (·.2), spanSt h n (r.2.2.map (fun x => (16 * x, 16))))
  | .direct =>
    let h := hbmAddr s a
    let r := granRead (settleGran s (h / 256)) (h / 256) false
    let bad := ((List.range 4).filter (fun k => bit r.2.2.toNat k)).map (fun k => (h / 256 * 256 + 64 * k, 64))
    (r.1, (r.2.1.drop (h % 256)).take n, spanSt h n bad)
  | .window t off =>
    let r := tmWords (settleTile s t) t 4 (wordsOf off n)
    (r.1, Mem.read (tileOf r.1 t).mem off n, spanSt off n (r.2.map (fun p => (8 * p, 8))))
  | .host key => (noteHost s w.p key false, Mem.read s.hostMem key n, AccSt.ok)
  | .remote d _ =>
    if (laneSets s d).isEmpty then (s, List.replicate n 0, ⟨.decode, 0⟩)
    else
      let r := drawBytes (nextLane s (w.p.getD 0) d).1 n
      (r.1, r.2, AccSt.ok)
  | .decode => (decodeError s w.m a, List.replicate n 0, ⟨.decode, 0⟩)

/-- The same as one counted transaction. -/
def readPiece (s : State) (w : Who) (a n : Nat) : State × List Byte × AccSt := readAt (pass s w.cnt w.cls) w a n

/-- Is a store of a partition in quarantine acknowledged and not performed (R373)? Tile memory is written normally. -/
def shadowed (s : State) (p : Option Nat) (r : Route) : Bool :=
  (match p with
    | some q => (partOf s q).quarantine
    | none => false) &&
  (match r with
    | .window _ _ | .decode => false
    | _ => true)

/-- Write bytes that lie within one 256-byte sector. A write to a peer window is a push of the bytes; it is refused when no
port of the route is UP (R270), and what the remote device makes of it the writer does not wait for
(notes/assumptions/10.md). -/
def writeAt (s : State) (w : Who) (a : Nat) (bs : List Byte) : State × ReplySt :=
  if shadowed s w.p (routeOf s w.p a) then (s, .ok) else
  match routeOf s w.p a with
  | .cached st k =>
    let h := hbmAddr s a
    (shelfWriteNow s st k (h / 2048) (Mem.lay h bs), .ok)
  | .direct =>
    let h := hbmAddr s a
    let mask := BitVec.ofNat 256 (ofBits ((List.range bs.length).map (· + h % 256)))
    (granWrite (settleGran s (h / 256)) (h / 256) mask (Mem.lay (h % 256) bs) 0, .ok)
  | .window t off => (tmWrite (settleTile s t) t 4 (Mem.lay off bs), .ok)
  | .host key => ({ noteHost s w.p key true with hostMem := Mem.write s.hostMem key bs }, .ok)
  | .remote d off =>
    if (laneSets s d).isEmpty then (s, .decode) else (pushBytes s (w.p.getD 0) (w.p.getD 8) d off bs none, .ok)
  | .decode => (decodeError s w.m a, .decode)

/-- The same as one counted transaction. -/
def writePiece (s : State) (w : Who) (a : Nat) (bs : List Byte) : State × ReplySt := writeAt (pass s w.cnt w.cls) w a bs

/-- The pieces of a range: at most `k` sectors. -/
def pieces : Nat → Nat → Nat → List (Nat × Nat)
  | 0, _, _ => []
  | k + 1, a, n => if n = 0 then [] else
      let m := min n (256 - a % 256)
      (a, m) :: pieces k (a + m) (n - m)

def piecesOf (a n : Nat) : List (Nat × Nat) := pieces (n / 256 + 2) a n

/-- How many reads a master keeps outstanding: 256 sector reads by the attention pipe (R145); of the other engines no rule says
it, and they read one sector after the other (DESIGN CHOICE, notes/assumptions/73.md). -/
def burstOf (w : Who) : Nat := if w.cls = 1 then 256 else 1

/-- A list cut into parts of m elements: at most `k` parts. -/
def chunksOf (m : Nat) : Nat → List (Nat × Nat) → List (List (Nat × Nat))
  | 0, _ => []
  | k + 1, l => if l = [] then [] else l.take m :: chunksOf m k (l.drop m)

/-- Read n bytes from device address a, the sectors in bursts. -/
def devRead (s : State) (w : Who) (a n : Nat) : State × List Byte × AccSt :=
  let ps := piecesOf a n
  (chunksOf (burstOf w) ps.length ps).foldl (fun r l =>
    let x := l.foldl (fun (r : State × List Byte × AccSt) pc =>
      let x := readAt r.1 w pc.1 pc.2
      (x.1, r.2.1 ++ x.2.1, r.2.2.join ⟨x.2.2.st, pc.1 - a + x.2.2.off⟩)) (injectN r.1 w.cnt w.cls l.length, r.2)
    (retireN x.1 w.cnt w.cls l.length, x.2)) (s, [], AccSt.ok)

/-- Write bytes to device address a. -/
def devWrite (s : State) (w : Who) (a : Nat) (bs : List Byte) : State × AccSt :=
  (piecesOf a bs.length).foldl (fun r pc =>
    let x := writePiece r.1 w pc.1 ((bs.drop (pc.1 - a)).take pc.2)
    (x.1, r.2.join ⟨x.2, pc.1 - a⟩)) (s, AccSt.ok)

/-- Read a little-endian number. -/
def devNat (s : State) (w : Who) (a n : Nat) : State × Nat × AccSt :=
  let r := devRead s w a n
  (r.1, leNat r.2.1, r.2.2)

/-- Does partition p own every byte of an HBM range? -/
def ownsRange (s : State) (p a n : Nat) : Bool := n = 0 || (ownsHbm s p a && ownsHbm s p (a + n - 1))

end Sys2Proof.Machine
end

