-- ==== Sys2Proof/Machine/Groups.lean ====
section
/-! DEFINITION. Thread groups as units of a tile: releasing arrays, ending and stopping, barriers (R73, R110, R128, R129,
R134), and the fault captures of Tables 3.12 and 4.13. -/

namespace Sys2Proof.Machine

/-- Is a group started and not ended? -/
def Group.live (g : Group) : Bool :=
  match g.st with
  | .free | .ended | .faulted => false
  | _ => true

/-- Release an array without output (R73): the accumulators become empty and the block field of its flags is cleared. -/
def ArrayUnit.orphan (a : ArrayUnit) : ArrayUnit :=
  { a with owner := none, accs := [], blk := 0, amuls := 0, narrow := true, kTot := 0 }

/-- Release every array a group holds and count the orphans (R73). -/
def releaseArrays (s : State) (t slot : Nat) : State :=
  (List.range 4).foldl (fun s n =>
    if (arr s t n).owner = some (.group slot) then addSat (updArray s t n ArrayUnit.orphan) (oARRSTAT t n) 39 32 1 else s) s

/-- The attention commands of a group that ends run to completion and free their handles without a status (R134). -/
def orphanAttn (x : Tile) (slot : Nat) : Tile :=
  let marked := updWhere (fun c => c.slot == slot) (fun c => { c with orphan := true }) x.att
  let keep (c : AttCmd) : Bool := match c.phase with
    | .final _ => !c.orphan
    | _ => true
  { x with att := marked.filter keep }

/-- A RECV of the group no longer waits on any queue. -/
def dropWaiter (x : Tile) (slot : Nat) : Tile :=
  { x with rings := x.rings.map (fun e => (e.1, { e.2 with waiters := e.2.waiters.filter (· != slot) })) }

/-- A group stops in a final state: its arrays are released, its pipe commands orphaned, its waits dropped. -/
def stopGroup (s : State) (t slot : Nat) (st : GroupState) : State :=
  let s := releaseArrays s t slot
  updTile s t (fun x => dropWaiter (orphanAttn (setGrp x slot { groupOf x slot with st := st, wait := .none }) slot) slot)

/-- Record a thread-engine or message fault (Table 4.13): when VALID is 0, else counted in MORE. -/
def captureGroupFault (s : State) (t slot cause thread iaddr : Nat) : State :=
  let o := oGRPFAULT t
  if regB s o 63 then addSat s o 55 48 1
  else setReg s o (BitVec.ofNat 64 (2 ^ 63 + cause * 2 ^ 40 + slot * 2 ^ 37 + thread * 2 ^ 32 + iaddr))

/-- Record an array fault (Table 3.12). -/
def captureArrayFault (s : State) (t slot cause arrNo iaddr : Nat) : State :=
  let o := oARRFAULT t
  if regB s o 63 then addSat s o 55 48 1
  else setReg s o (BitVec.ofNat 64 (2 ^ 63 + cause * 2 ^ 40 + slot * 2 ^ 37 + arrNo * 2 ^ 35 + iaddr))

/-- The slots of a tile. -/
def slots8 : List Nat := List.range 8

/-- The slots whose group waits at a barrier. -/
def atBarrier (x : Tile) (b : Nat) : List Nat :=
  slots8.filter (fun g => match (groupOf x g).wait with
    | .barrier b' _ => b' == b && (groupOf x g).st == .atBarrier
    | _ => false)

/-- A group becomes ready again. -/
def wake (g : Group) : Group := { g with st := .ready, wait := .none }

/-- Word register results of a group instruction: written to every active thread (R100). -/
def rsetActive (g : Group) (r : Nat) (v : Word) : Group :=
  (setBits 32 g.active.toNat).foldl (fun g th => rset g th r v) g

/-- Does a group of tile t that belongs to the LAUNCH (p, cmd) still run? -/
def launchLive (s : State) (t p cmd : Nat) : Bool :=
  slots8.any (fun g => match (grp s t g).launch with
    | some l => l.part == p && l.cmd == cmd && (grp s t g).live
    | none => false)

/-- Stop every group of a LAUNCH on the tiles of the assembly that hold one (R294). -/
def stopLaunch (s : State) (p cmd : Nat) : State :=
  (s.tiles.map (·.1)).foldl (fun s t =>
    slots8.foldl (fun s g =>
      match (grp s t g).launch with
      | some l => if l.part = p ∧ l.cmd = cmd ∧ (grp s t g).live then stopGroup s t g .ended else s
      | none => s) s) s

end Sys2Proof.Machine
end

