-- ==== Sys2Proof/Machine/Host.lean ====
section
/-! DEFINITION. The dispatchers (chapter 11): queue entries, completion queues, the start and completion of commands,
fences, engine faults, and tile program faults as the dispatcher sees them (R288 to R302). -/

namespace Sys2Proof.Machine

/-! ### Queue entries (Tables 11.5, 11.6) -/

/-- The little-endian number in bytes [lo, lo + n) of an entry. -/
def eNat (e : List Byte) (lo n : Nat) : Nat := leNat ((e.drop lo).take n)

def eOp (e : List Byte) : Nat := eNat e 0 1
def eFlags (e : List Byte) : Nat := eNat e 1 1
def eCid (e : List Byte) : Nat := eNat e 2 2
def eTimeout (e : List Byte) : Nat := eNat e 4 4
def eUser (e : List Byte) : List Byte := (e.drop 8).take 8

/-- Are all bytes outside the listed ranges [lo, hi) zero (R292: reserved bytes)? -/
def restZero (e : List Byte) (used : List (Nat × Nat)) : Bool :=
  (List.range 128).all (fun i => used.any (fun u => u.1 ≤ i && i < u.2) || e.getD i 0 == 0)

/-- Does a dispatcher accept an opcode (Table 11.6; the device queue takes COMMIT, FENCE and NOTE, R296)? -/
def opAccepted (p op : Nat) : Bool := if p = 8 then op == 6 || op == 7 || op == 10 else 1 ≤ op && op ≤ 10

/-- Reserved FLAGS bits are zero. -/
def flagsOk (e : List Byte) : Bool := eFlags e < 4

/-! ### Timeouts (R297, R301) -/

/-- Does the partition run in T5 watchdog mode (R301)? -/
def t5Mode (s : State) (p : Nat) : Bool := p != 8 && (regB s (oPCFG p) 16 || regB s (oPSTAT p) 9)

/-- The device timeout in force for an entry: `none` when there is none. The device queue has no HST_PCFG; its default
is the reset value of DEFTO (notes/assumptions/11.md). -/
def timeoutOf (s : State) (p : Nat) (e : List Byte) : Option Nat :=
  if t5Mode s p || eTimeout e = 0xFFFF_FFFF then none
  else if eTimeout e = 0 then some (if p = 8 then 0x0098_9680 else regF s (oPCFG p) 63 32)
  else some (eTimeout e)

/-! ### Completion queues (R288, R291, Table 11.7) -/

/-- The 32 bytes of a completion, phase bit clear. -/
def cqEntry (s : State) (sq idx : Nat) (e : List Byte) (status detail : Nat) (late noto : Bool) : List Byte :=
  let ts := bit (eFlags e) 1
  leBytes 2 (eCid e) ++ leBytes 1 sq ++ leBytes 1 (eOp e) ++ leBytes 1 status ++
    leBytes 1 (2 * b2n late + 4 * b2n noto + 8 * b2n ts) ++ leBytes 2 idx ++ leBytes 4 detail ++ leBytes 4 0 ++
    eUser e ++ leBytes 8 (if ts then (reg s oTGNOW).toNat else 0)

/-- Depth of a queue register's LOG2D field: 1 to 12. -/
def depthOf (l : Nat) : Nat := 2 ^ max 1 (min 12 l)

/-- Can a CQ take an entry? -/
def cqRoom (s : State) (p q : Nat) : Bool :=
  let b := oCQB p q
  let d := depthOf (regF s b 43 40)
  regB s b 63 && !regB s b 62 && (regF s b 27 16 + 1) % d != SMap.get 0 (partOf s p).heads q

/-- The dispatcher of partition p as a master. -/
def dispWho (p : Nat) : Who := Who.disp p 3 2

/-- Write a completion into its CQ with the phase bit, and signal its vector (R284, R291). It never makes its command wait: a
CQ in HBM takes it at its home slice. -/
def cqWrite (s : State) (p q : Nat) (b : List Byte) (irq : Bool) : State :=
  let o := oCQB p q
  let tail := regF s o 27 16
  let d := depthOf (regF s o 43 40)
  let phase := (SMap.get 0 (partOf s p).pass q + 1) % 2
  let b := b.set 5 ((b.getD 5 0) ||| BitVec.ofNat 8 phase)
  let s := { (devWrite s (dispWho p) ((reg s (oCQA p q)).toNat + 32 * tail) b).1 with stalled := s.stalled }
  let s := setF s o 27 16 ((tail + 1) % d)
  let s := if tail + 1 = d then updPart s p (fun x => { x with pass := SMap.set 0 x.pass q (SMap.get 0 x.pass q + 1) }) else s
  if !irq then s else if p = 8 then pfIrq s 9 else partIrq s p (min 47 (regF s o 53 48))

/-- A completion is written, or waits in the partition's buffer while its CQ is full (R291). PROGRESS counts it when it
is written. -/
def postCompletion (s : State) (p sq : Nat) (b : List Byte) (irq : Bool) : State :=
  let q := if p = 8 then 0 else regF s (oSQB p sq) 59 56
  if cqRoom s p q && (partOf s p).waiting.all (fun w => w.1 != q) then
    let s := cqWrite s p q b irq
    if p = 8 then s else setF s (oPSTAT p) 63 32 (regF s (oPSTAT p) 63 32 + 1)
  else updPart s p (fun x => { x with waiting := x.waiting ++ [(q, b, irq)] })

/-- Write waiting completions of a CQ while it has room. -/
def drainWaiting (s : State) (p q : Nat) : State :=
  (List.range 64).foldl (fun s _ =>
    match (partOf s p).waiting.find? (fun w => w.1 == q) with
    | some w =>
      if cqRoom s p q then
        let s := updPart s p (fun x => { x with waiting := dropOne w x.waiting })
        let s := cqWrite s p q w.2.1 w.2.2
        if p = 8 then s else setF s (oPSTAT p) 63 32 (regF s (oPSTAT p) 63 32 + 1)
      else s
    | none => s) s

/-! ### Commands in flight -/

/-- Keep HST_PSTAT.INFLIGHT. -/
def setInflight (s : State) (p : Nat) : State :=
  if p = 8 then s else setF s (oPSTAT p) 22 16 (partOf s p).cmds.length

/-- The command of partition p with an identifier. -/
def cmdOf (s : State) (p id : Nat) : Option Cmd := (partOf s p).cmds.find? (fun c => c.id == id)

def updCmd (s : State) (p id : Nat) (f : Cmd → Cmd) : State :=
  updPart s p (fun x => { x with cmds := updWhere (fun c => c.id == id) f x.cmds })

/-- STOPPING ends when no command is in flight (Table 11.4). -/
def settleStopping (s : State) (p : Nat) : State :=
  if p != 8 && pState s p = 3 && (partOf s p).cmds = [] then setPState s p 1 else s

/-- Retire one command with a status: in quarantine nothing is written and the replay learns how it ended (R373). -/
def retireCmd (s : State) (p : Nat) (c : Cmd) (status detail : Nat) : State :=
  let s := setInflight (updPart s p (fun x => { x with cmds := x.cmds.filter (fun d => d.id != c.id) })) p
  if (partOf s p).quarantine then
    updPart s p (fun x => { x with replay := x.replay.map (fun r => { r with ended := some (if status = 5 ∨ status = 6 then status else 0) }) })
  else
    let b := cqEntry s c.sq c.idx c.entry status detail c.late c.timeout.isNone
    postCompletion s p c.sq b (bit (eFlags c.entry) 0)

/-- Complete a command (R291), then every FENCE whose last awaited command it was (R293): `n` bounds the chain. -/
def completeGo : Nat → State → Nat → Nat → Nat → Nat → State
  | 0, s, _, _, _, _ => s
  | n + 1, s, p, id, status, detail =>
    match cmdOf s p id with
    | none => s
    | some c =>
      let s := retireCmd s p c status detail
      let s := updPart s p (fun x => { x with cmds := x.cmds.map (fun d => { d with awaits := d.awaits.filter (· != id) }) })
      let fences := (partOf s p).cmds.filter (fun d => eOp d.entry == 6 && d.awaits == [])
      fences.foldl (fun s f => completeGo n s p f.id 0 0) s

/-- Is an SQ held by a FENCE of its own that has not completed (R293)? -/
def fenced (s : State) (p sq : Nat) : Bool := (partOf s p).cmds.any (fun c => c.sq == sq && eOp c.entry == 6)

/-- May the dispatcher start commands of partition p (R290, R291, Table 11.4)? The device queue works from the end of
stage 4 (R296). -/
def mayStart (s : State) (p : Nat) : Bool :=
  (partOf s p).cmds.length < 64 && (partOf s p).waiting.length < 64 &&
    (if p = 8 then regB s oHLMSTAT 17 else pState s p = 2)

/-- The queue is enabled and without error. -/
def sqLive (s : State) (p sq : Nat) : Bool := regB s (oSQB p sq) 63 && !regB s (oSQB p sq) 61 && (p != 8 || sq = 0)

def entriesOf (s : State) (p sq : Nat) : List SqEntry := SMap.get [] (partOf s p).entries sq
def fetchAt (s : State) (p sq : Nat) : Nat := SMap.get 0 (partOf s p).fetch sq
def tailAt (s : State) (p sq : Nat) : Nat := SMap.get 0 (partOf s p).tails sq

/-- HST_SQ.HEAD reads the index of the next entry to start. -/
def setHead (s : State) (p sq : Nat) : State :=
  setF s (oSQB p sq) 27 16 (match entriesOf s p sq with
    | e :: _ => e.idx
    | [] => fetchAt s p sq)

def setEntries (s : State) (p sq : Nat) (l : List SqEntry) : State :=
  setHead (updPart s p (fun x => { x with entries := SMap.set [] x.entries sq l })) p sq

/-- The completion of an entry that never started. -/
def completeEntry (s : State) (p sq : Nat) (e : SqEntry) (status : Nat) : State :=
  let noto := t5Mode s p || eTimeout e.bytes = 0xFFFF_FFFF
  postCompletion s p sq (cqEntry s sq e.idx e.bytes status 0 false noto) (bit (eFlags e.bytes) 0)

/-- The head entry of an SQ that can start now. -/
def startable (s : State) (p sq : Nat) : Option SqEntry :=
  if mayStart s p && sqLive s p sq && !fenced s p sq then (entriesOf s p sq).head? else none

/-- Entries whose opcode the dispatcher does not accept start and complete at once with status 4 (R292, R296). -/
def skipInvalid (s : State) (p sq : Nat) : State :=
  (List.range (entriesOf s p sq).length).foldl (fun s _ =>
    match startable s p sq with
    | some e => if opAccepted p (eOp e.bytes) then s
      else completeEntry (setEntries s p sq ((entriesOf s p sq).drop 1)) p sq e 4
    | none => s) s

/-- After anything that may unblock an SQ. -/
def advance (s : State) (p : Nat) : State :=
  settleStopping ((List.range (if p = 8 then 1 else 16)).foldl (fun s q => skipInvalid s p q) s) p

/-- Complete a command and let its partition go on. -/
def complete (s : State) (p id status detail : Nat) : State :=
  advance (completeGo ((partOf s p).cmds.length + 1) s p id status detail) p

/-- Start the head entry of an SQ: it leaves the queue and becomes a command in flight with its counters loaded (R290,
R297). -/
def startCmd (s : State) (p sq : Nat) (e : SqEntry) : State × Cmd :=
  let x := partOf s p
  let t := timeoutOf s p e.bytes
  let c : Cmd := ⟨x.serial, sq, e.idx, e.bytes, t, t.getD 0, t.getD 0, false, [], [], [], [], [], [], 0, 0, none, none, none, none⟩
  let s := setEntries s p sq ((entriesOf s p sq).drop 1)
  (setInflight (updPart s p (fun x => { x with serial := x.serial + 1, cmds := x.cmds ++ [c] })) p, c)

/-- Has a group of the LAUNCH on tile t a store or add that its home has not accepted (R116, R291)? -/
def storesOpen (s : State) (t part cmd : Nat) : Bool :=
  slots8.any (fun g =>
    (grp s t g).launch.any (fun l => l.part == part && l.cmd == cmd) &&
      s.txns.any (fun x => x.src == .tile t g && x.gen == genOf s (.tile t) && x.kind != .load && (match x.stage with
        | .replied _ => false
        | _ => true)))

/-! ### Engine faults (R298, R301) -/

/-- A counted reset of a domain (R377): logged with its step. Resets older than WINDOW seconds are dropped. -/
def windowSteps (s : State) : Nat :=
  let us := max 1 (regF s oTGCFG 49 37)
  cdiv (max 1 (regF s oESCCFG 39 24) * 1000000) us

/-- A command ends with a status: its completion is written at once, or, while stores and adds of its groups have not been
accepted at their homes, by the last TILE_REPORT of the tiles that issued them (R291). -/
def endWhenStored (s : State) (p : Nat) (c : Cmd) (status detail : Nat) : State :=
  let open_ := c.reports.filter (fun t => storesOpen s t p c.id)
  if open_ = [] then retireCmd s p c status detail
  else updCmd s p c.id (fun c => { c with loads := [], reports := open_, fault := some (status, detail), timeout := none })

/-- The engine fault of partition p: contexts are noted for the replay, the expired command (if any) completes with
status 2 and every other with 3, HST_FAULT records the cause, vector 48 is signalled, the state becomes FAULTED. In
quarantine the fault is the replay's (R372): the context has reproduced (22 stands for cause 3, 2 for a time-out). -/
def engineFault (s : State) (p cause : Nat) (expired : Option Cmd) : State :=
  if (partOf s p).quarantine then
    updPart s p (fun x => { x with cmds := [], replay := x.replay.map (fun r => { r with ended := some (if cause = 3 then 22 else 2) }) })
  else
    let cs := (partOf s p).cmds
    let rp : Replay := ⟨cs.filter (fun c => c.fault.isNone), [], 0, false, none, cause, reg s oTGNOW, reg s (oRPTADDR p)⟩
    let s := cs.foldl (fun s c => if c.fault.isSome then s else endWhenStored s p c (if expired.any (fun e => e.id == c.id) then 2 else 3) 0) s
    let loc := match expired with
      | some c => c.sq * 2 ^ 32 + c.idx * 2 ^ 16 + eCid c.entry
      | none => 0
    let s := setReg s (oFAULT p) (BitVec.ofNat 64 (2 ^ 63 + cause * 2 ^ 40 + loc))
    let s := updPart s p (fun x => { x with replay := some rp })
    let s := { s with head := { s.head with replays := s.head.replays ++ [p] } }
    setPState (partIrq s p 48) p 4

/-! ### Tile program faults at the dispatcher (R128, R129, R294) -/

/-- A tile program fault of a group ends its LAUNCH with status 5: every group of the LAUNCH is stopped. The completion waits
for the stores of its groups (R291). -/
def launchFault (s : State) (t : Nat) (l : LaunchRef) (cause : Nat) : State :=
  match cmdOf s l.part l.cmd with
  | some c =>
    if c.fault.isSome then stopLaunch s l.part l.cmd
    else
      let s := stopLaunch s l.part l.cmd
      let detail := t % 64 + t / 64 * 2 ^ 8 + cause * 2 ^ 16
      if c.reports.any (fun u => storesOpen s u l.part l.cmd) then endWhenStored s l.part c 5 detail
      else complete s l.part l.cmd 5 detail
  | none => s

/-- A thread-engine or message fault of a group (R129) at byte offset `iaddr` of its code. -/
def tileFaultAt (s : State) (t slot cause thread iaddr : Nat) : State :=
  let g := grp s t slot
  let s := stopGroup s t slot .faulted
  let s := captureGroupFault s t slot cause thread iaddr
  match g.launch with
  | some l => launchFault s t l cause
  | none => s

/-- A fault of the instruction at the group's program counter. -/
def tileFault (s : State) (t slot cause thread : Nat) : State := tileFaultAt s t slot cause thread (grp s t slot).pc.toNat

/-- An array fault of a group (R92), in the order given there. -/
def arrayFault (s : State) (t slot cause arrNo : Nat) : State :=
  let g := grp s t slot
  let s := stopGroup s t slot .faulted
  let s := captureArrayFault s t slot cause arrNo g.pc.toNat
  match g.launch with
  | some l => launchFault s t l cause
  | none => s

end Sys2Proof.Machine
end

