-- ==== Sys2Proof/Machine/Messages.lean ====
section
/-! DEFINITION. The message engines (R119 to R125, R394): receive rings, reservations, grants and their releases, the
send list, delivery to RECV, and the events of a message's life. -/

namespace Sys2Proof.Machine

/-! ### Receive rings (R119) -/

/-- Units of 64 bytes a message of L bytes occupies: its record word and its payload. -/
def msgUnits (len : Nat) : Nat := 1 + cdiv len 64

/-- TIL_MSG_RING.USED: space granted or held, in units. -/
def Ring.used (r : Ring) : Nat := (r.spaces.map (·.units)).sum

/-- An empty ring starts again at BASE. -/
def Ring.settle (r : Ring) : Ring := if r.spaces = [] then { r with wpos := 0 } else r

/-- Where a message of n units fits contiguously: the start, and the units of the skip record that precedes it (R119). -/
def Ring.place (r : Ring) (n : Nat) : Option (Nat × Nat) :=
  match r.spaces with
  | [] => if n ≤ r.size then some (0, 0) else none
  | o :: _ =>
    if r.wpos ≤ o.start then (if r.wpos + n ≤ o.start then some (r.wpos, 0) else none)
    else if r.wpos + n ≤ r.size then some (r.wpos, 0)
    else if n ≤ o.start then some (0, r.size - r.wpos)
    else none

/-- Assign the space of a grant. -/
def Ring.grant (r : Ring) (v : Resv) (at_ : Nat × Nat) : Ring :=
  let skip : List RingSpace := if at_.2 = 0 then [] else [⟨0, r.wpos, at_.2, .skip, v.src, v.h, 0, 0, 0⟩]
  { r with spaces := r.spaces ++ skip ++ [⟨0, at_.1, msgUnits v.len, .granted, v.src, v.h, 0, v.len, 0⟩],
           wpos := at_.1 + msgUnits v.len }

/-- Does a message fit the whole ring (R121: at most SIZE * 64 - 64 bytes)? -/
def Ring.admits (r : Ring) (len : Nat) : Bool := len + 64 ≤ r.size * 64

/-- Skip records in front of the oldest space are free with it. -/
def dropSkips : List RingSpace → List RingSpace
  | s :: l => if s.st = .skip then dropSkips l else s :: l
  | [] => []

/-- Change the send-list entry of a handle. -/
def updSend (s : State) (t h : Nat) (f : Send → Send) : State :=
  updTile s t (fun x => { x with sends := updWhere (fun m => m.h == h) f x.sends })

def sendOf (s : State) (t h : Nat) : Option Send := (tileOf s t).sends.find? (fun m => m.h == h)

/-- Make the grants that now fit, in arrival order (R119): each grant sets out for its sender. -/
def grantGo : Nat → State → Nat → Nat → State
  | 0, s, _, _ => s
  | n + 1, s, t, q =>
    let r := (ringOf (tileOf s t) q).settle
    match r.held with
    | [] => updTile s t (fun x => setRing x q r)
    | v :: rest =>
      match r.place (msgUnits v.len) with
      | none => updTile s t (fun x => setRing x q r)
      | some p =>
        let s := updTile s t (fun x => setRing x q ({ r with held := rest }.grant v p))
        let s := updSend s v.src v.h (fun m => { m with grants := m.grants ++ [t] })
        grantGo n s t q

def makeGrants (s : State) (t q : Nat) : State := grantGo ((ringOf (tileOf s t) q).held.length + 1) s t q

/-- Free the space granted to, and drop the reservation held for, message (src, h) at queue q of tile t. -/
def freeGrant (s : State) (t q src h : Nat) : State :=
  let r := ringOf (tileOf s t) q
  let sp := r.spaces.filter (fun x => !(x.st == .granted && x.src == src && x.h == h))
  let sp := if sp.any (fun x => x.st != .skip) then dropSkips sp else []
  let hd := r.held.filter (fun v => !(v.src == src && v.h == h))
  makeGrants (updTile s t (fun x => setRing x q { r with spaces := sp, held := hd })) t q

/-! ### Final status (R121, R123) -/

/-- Groups of tile t that wait by MSTAT on handle h, with their registers. -/
def mstatWaiters (x : Tile) (h : Nat) : List (Nat × Nat) :=
  slots8.filterMap (fun g => match (groupOf x g).wait with
    | .mstat h' wd => if h' = h then some (g, wd) else none
    | _ => none)

/-- A message becomes final: every waiting MSTAT receives the status and the handle is freed once; with none waiting it
stays until it is collected. -/
def finalizeSend (s : State) (t h status : Nat) : State :=
  let ws := mstatWaiters (tileOf s t) h
  let s := updSend s t h (fun m => { m with phase := .final status })
  if ws = [] then s
  else
    let s := ws.foldl (fun s w => updGroup s t w.1 (fun g => wake (rsetActive g w.2 (BitVec.ofNat 32 status)))) s
    updTile s t (fun x => { x with sends := x.sends.filter (fun m => m.h != h) })

/-- Destinations at which message m has, or may get, a reservation or a grant: a release goes to each. -/
def releaseAll (s : State) (t : Nat) (m : Send) : State :=
  let ds := m.dests.filter (fun d => !m.asked.contains d && !m.written.contains d && !m.lost.contains d)
  updTile s t (fun x => { x with rels := x.rels ++ ds.map (fun d => (m.h, d)) })

/-- A message fails at once or is cancelled: grants are released and its status is final. -/
def failSend (s : State) (t : Nat) (m : Send) (status : Nat) : State :=
  let s := updSend (releaseAll s t m) t m.h (fun m => { m with asked := [], grants := [], granted := [] })
  finalizeSend s t m.h status

/-! ### Delivery (R124) -/

/-- The oldest undelivered message of a queue: the first written. -/
def oldestWritten (r : Ring) : Option RingSpace :=
  (r.spaces.filter (fun x => x.st == .written)).foldl (fun b x => match b with
    | none => some x
    | some y => if x.age < y.age then some x else some y) none

/-- Deliver a message to registers WD to WD + 3 of every active thread (Table 4.11). -/
def deliver (s : State) (t slot q wd : Nat) (m : RingSpace) : State :=
  let r := ringOf (tileOf s t) q
  let s := updTile s t (fun x => setRing x q { r with spaces := r.spaces.map (fun y => if y = m then { y with st := .delivered } else y) })
  updGroup s t slot (fun g =>
    let g := rsetActive g wd m.info
    let g := rsetActive g (wd + 1) (BitVec.ofNat 32 m.len)
    let g := rsetActive g (wd + 2) (BitVec.ofNat 32 (m.tag.toNat * 65536))
    rsetActive g (wd + 3) (BitVec.ofNat 32 (r.base + (m.start + 1) * 64)))

/-- Give waiting RECVs of a queue the messages that are there, in the order in which they issued. -/
def serveWaiters (s : State) (t q : Nat) : State :=
  (ringOf (tileOf s t) q).waiters.foldl (fun s slot =>
    match oldestWritten (ringOf (tileOf s t) q), (grp s t slot).wait with
    | some m, .recv q' wd _ =>
      if q' = q then
        let s := updGroup (deliver s t slot q wd m) t slot wake
        updTile s t (fun x => dropWaiter x slot)
      else s
    | _, _ => s) s

/-! ### The events of a message -/

/-- Is a reservation for dst that the tile sent before that of message h still on its way (R219)? The send list stands in the
order in which the messages reserved last. -/
def reserveBlocked (s : State) (src h dst : Nat) : Bool :=
  ((tileOf s src).sends.takeWhile (fun m => m.h != h)).any (fun m => m.phase == .reserving && m.asked.contains dst)

/-- RESERVATION (R121): it reaches a destination, which refuses a message too large for its ring, or holds it and grants
in arrival order. A release to the destination that is still on its way, and an earlier reservation, come first (R219). -/
def execReservation (src h dst : Nat) (s : State) : Host.Outcome State Fault Refusal :=
  match sendOf s src h with
  | none => .next s
  | some m =>
    if m.phase = .reserving ∧ m.asked.contains dst ∧ ¬ (tileOf s src).rels.contains (h, dst) ∧ ¬ reserveBlocked s src h dst ∧
        ¬ s.resetting.contains (.tile dst) then
      let s := updSend s src h (fun m => { m with asked := m.asked.filter (· != dst) })
      let r := ringOf (tileOf s dst) m.q
      if r.admits m.len then
        .next (makeGrants (updTile s dst (fun x => setRing x m.q { r with held := r.held ++ [⟨src, h, m.len⟩] })) dst m.q)
      else .next (failSend s src { m with asked := dst :: m.asked } 5)
    else .next s

/-- GRANT (R121): a grant reaches the sender; with all of them the message is eligible. -/
def execGrant (src h dst : Nat) (s : State) : Host.Outcome State Fault Refusal :=
  match sendOf s src h with
  | none => .next s
  | some m =>
    if m.phase = .reserving ∧ m.grants.contains dst then
      let m' := { m with grants := m.grants.filter (· != dst), granted := m.granted ++ [dst] }
      let all := m'.dests.all (fun d => m'.granted.contains d || m'.lost.contains d)
      .next (updSend s src h (fun _ => { m' with phase := if all then .eligible else .reserving }))
    else .next s

/-- The payload flits of a message as the engine reads them: flits of uncorrectable words are zeros (R121). -/
def readPayload (s : State) (t off len : Nat) : State × List Byte × Bool :=
  (List.range (cdiv len 64)).foldl (fun r i =>
    let n := min 64 (len - 64 * i)
    let x := tmRead r.1 t 3 (off + 64 * i) n
    (x.1, r.2.1 ++ (if x.2.2 then List.replicate n 0 else x.2.1), r.2.2 || x.2.2)) (s, [], false)

/-- MESSAGE_INJECT (R121): an eligible message wins arbitration and its payload is read and injected. -/
def execMessageInject (src h : Nat) (s : State) : Host.Outcome State Fault Refusal :=
  match sendOf s src h with
  | none => .next s
  | some m =>
    if m.phase = .eligible then
      let r := readPayload s src m.off m.len
      let n := (tileOf r.1 src).serial
      let s := updTile r.1 src (fun x => { x with serial := n + 1 })
      .next (updSend s src h (fun m => { m with phase := .injected, payload := r.2.1, damaged := r.2.2, inj := n }))
    else .next s

/-- The first word of a message's record (Table 4.17). -/
def msgInfo (src slot : Nat) (damaged : Bool) : BitVec 32 :=
  BitVec.ofNat 32 ((if damaged then 3 * 2 ^ 28 else 0) + slot % 8 * 2 ^ 24 + src / 64 * 2 ^ 8 + src % 64)

/-- The record word of a message (Table 4.17). -/
def msgRecord (info : BitVec 32) (len : Nat) (tag : BitVec 16) (payload : Nat) : List Byte :=
  leBytes 4 info.toNat ++ leBytes 4 len ++ leBytes 4 (tag.toNat * 65536) ++ leBytes 4 payload ++ leBytes 48 0

/-- The skip record of n units (Table 4.17). -/
def skipRecord (n : Nat) : List Byte := leBytes 4 0xF0000000 ++ leBytes 4 n ++ leBytes 56 0

/-- Is an earlier injected message of the same sender to the same queue of dst still unwritten (R122)? -/
def writeBlocked (s : State) (src dst : Nat) (m : Send) : Bool :=
  (tileOf s src).sends.any (fun n => n.phase == .injected && n.q == m.q && n.inj < m.inj && n.dests.contains dst &&
    !n.written.contains dst && !n.lost.contains dst)

/-- MESSAGE_WRITE (R119, R122, R394): the message is written whole at its granted space, after its skip record, and
waiting RECVs are served. Flits for a destination that was reset are discarded; a tile with a bank under test takes none
(R345). -/
def execMessageWrite (src h dst : Nat) (s : State) : Host.Outcome State Fault Refusal :=
  match sendOf s src h with
  | none => .next s
  | some m =>
    if m.phase = .injected ∧ m.granted.contains dst ∧ ¬ m.written.contains dst ∧ ¬ m.lost.contains dst ∧
        writeBlocked s src dst m = false ∧ bankInBist s dst = false then
      let r := ringOf (tileOf s dst) m.q
      match r.spaces.find? (fun x => x.st == .granted && x.src == src && x.h == h) with
      | none => .next s
      | some sp =>
        let info := msgInfo src m.slot m.damaged
        let a := r.base + 64 * sp.start
        let pad := List.replicate (64 * sp.units - 64 - m.len) (0 : Byte)
        let age := (r.spaces.map (·.age)).foldl max 0 + 1
        let skips := r.spaces.filter (fun x => x.st == .skip && x.src == src && x.h == h)
        let s := skips.foldl (fun s k => tmWrite s dst 3 (Mem.lay (r.base + 64 * k.start) (skipRecord k.units))) s
        let s := tmWrite s dst 3 (Mem.lay a (msgRecord info m.len m.tag (a + 64) ++ m.payload ++ pad))
        let sp' := { sp with st := .written, info := info, tag := m.tag, age := age }
        let s := updTile s dst (fun x => setRing x m.q { r with spaces := r.spaces.map (fun y => if y = sp then sp' else y) })
        let s := updSend s src h (fun m => { m with written := m.written ++ [dst] })
        .next (serveWaiters s dst m.q)
    else .next s

/-- MESSAGE_COMPLETE (R121, R123): every destination has written the message or was lost to a reset. -/
def execMessageComplete (src h : Nat) (s : State) : Host.Outcome State Fault Refusal :=
  match sendOf s src h with
  | none => .next s
  | some m =>
    if m.phase = .injected ∧ m.dests.all (fun d => m.written.contains d || m.lost.contains d) then
      let st := if m.lost ≠ [] then 7 else if m.damaged then 6 else if m.late then 2 else 0
      .next (finalizeSend (if st = 2 then addSat s (oMSGSTAT src) 47 32 1 else s) src h st)
    else .next s

/-- GRANT_TIMEOUT (R121): every grant is released and the engine backs off. -/
def execGrantTimeout (src h : Nat) (s : State) : Host.Outcome State Fault Refusal :=
  match sendOf s src h with
  | none => .next s
  | some m =>
    if m.phase = .reserving then
      let s := addSat (releaseAll s src m) (oMSGSTAT src) 63 48 1
      .next (updSend s src h (fun m => { m with phase := .backoff, asked := [], grants := [], granted := [] }))
    else .next s

/-- RESERVATION_RETRY (R121): the wait ends and the engine reserves again, at every destination that was not lost to a
reset after its grant. -/
def execReservationRetry (src h : Nat) (s : State) : Host.Outcome State Fault Refusal :=
  match sendOf s src h with
  | none => .next s
  | some m =>
    if m.phase = .backoff then
      let m' : Send := { m with phase := .reserving, asked := m.dests.filter (fun d => !m.lost.contains d) }
      .next (updTile s src (fun x => { x with sends := x.sends.filter (fun n => n.h != h) ++ [m'] }))
    else .next s

/-- GRANT_RELEASE (R121): a release reaches a destination, which frees the space and may grant it to others. -/
def execGrantRelease (src h dst : Nat) (s : State) : Host.Outcome State Fault Refusal :=
  if (tileOf s src).rels.contains (h, dst) then
    let s := updTile s src (fun x => { x with rels := dropOne (h, dst) x.rels })
    .next ((List.range 8).foldl (fun s q => freeGrant s dst q src h) s)
  else .next s

/-- RECV_TIMEOUT (R124): a RECV that waits with a limit returns status 1. -/
def execRecvTimeout (t slot : Nat) (s : State) : Host.Outcome State Fault Refusal :=
  match (grp s t slot).wait with
  | .recv _ wd lim =>
    if lim = 0xF_FFFF then .next s
    else
      let s := updTile s t (fun x => dropWaiter x slot)
      .next (updGroup s t slot (fun g =>
        wake (rsetActive (rsetActive (rsetActive (rsetActive g wd 0x1000_0000) (wd + 1) 0) (wd + 2) 0) (wd + 3) 0)))
  | _ => .next s

/-! ### Resets of destinations and senders (R121, R229) -/

/-- Tile t is reset: the grants it gave and had not yet written are lost to their senders, the reservations it held
without a grant are refused (R121). A message whose every destination was lost after granting is still injected, its flits
are discarded and its status is 7. A grant that its sender has given back already is no grant of the message. -/
def destReset (s : State) (t : Nat) : State :=
  (s.tiles.map (·.1)).foldl (fun s src =>
    (tileOf s src).sends.foldl (fun s m =>
      if src = t ∨ ¬ m.dests.contains t ∨ m.written.contains t ∨ m.lost.contains t then s
      else
        let held := (slots8.any (fun q => (ringOf (tileOf s t) q).held.any (fun v => v.src == src && v.h == m.h)))
        let granted := m.grants.contains t || m.granted.contains t
        if granted then
          let m' := { m with grants := m.grants.filter (· != t), granted := m.granted.filter (· != t), lost := m.lost ++ [t] }
          let all := m'.dests.all (fun d => m'.granted.contains d || m'.lost.contains d)
          let ph := if m.phase = .reserving ∧ all then MsgPhase.eligible else m.phase
          addSat (updSend s src m.h (fun _ => { m' with phase := ph })) oBWREVT 15 0 1
        else if held then
          failSend s src { m with grants := m.grants.filter (· != t) } (if m.written ≠ [] then 7 else 5)
        else s) s) s

/-- Tile t is reset as a sender: the grants it holds are returned and counted, and releases set out to every destination
that has its reservation or grant (R229). -/
def senderReset (s : State) (t : Nat) : State :=
  (tileOf s t).sends.foldl (fun s m =>
    match m.phase with
    | .final _ => s
    | _ =>
      let n := (m.dests.filter (fun d => (m.grants.contains d || m.granted.contains d) && !m.written.contains d && !m.lost.contains d)).length
      addSat (releaseAll s t m) oBWREVT 15 0 n) s

end Sys2Proof.Machine
end

