-- ==== Sys2Proof/Machine/Resets.lean ====
section
/-! DEFINITION. Reset domains (R370, R371): generations, ledgers, clearing of tiles, stacks and partitions, and the
escalation that takes an instance out of service (R377, R378). A reset is two commands: the one that starts it clears
the units and puts the domain into `State.resetting`; DOMAIN_RESET_DONE puts it back into service. -/

namespace Sys2Proof.Machine

/-! ### Domains (Table 14.6) -/

/-- The tiles of a stack. -/
def tilesOfStack (s : State) (st : Nat) : List Nat :=
  let x0 := 16 * (st % gridW s.asm)
  let y0 := 12 * (st / gridW s.asm)
  (List.range 12).flatMap (fun y => (List.range 16).map (fun x => (y0 + y) * 64 + x0 + x))

/-- A domain with every domain it encloses. -/
def enclosed (s : State) : ResetDomain → List ResetDomain
  | .stack st => .stack st :: (tilesOfStack s st).map .tile
  | .part p => .part p :: (stacksOf s p).flatMap (fun st => .stack st :: (tilesOfStack s st).map .tile)
  | .ioDie d => .ioDie d :: ((ctrlList s.asm).filter (fun c => c / 2 == d)).map .ctrl ++
      ((List.range (surfPorts s.asm)).filter (fun p => p / 12 == d)).map .port
  | .device => .device :: (List.range (totalVFs s.asm)).map .part ++ (List.range (crests s.asm)).map .stack ++
      ((List.range (crests s.asm)).flatMap (tilesOfStack s)).map .tile ++ (ctrlList s.asm).map .ctrl ++
      (List.range (surfPorts s.asm)).map .port ++ (List.range (ioDies s.asm)).map .ioDie
  | d => [d]

/-- Must a reset wait because the counter of the generation it would reach is not zero (R228)? The transactions of the
thread engines, the fills and the requests of the slices carry one. -/
def genBusy (s : State) (d : ResetDomain) : Bool :=
  let ds := enclosed s d
  let next (e : ResetDomain) (g : BitVec 4) : Bool := ds.contains e && g == genOf s e + 1
  s.txns.any (fun x => next (domainOf x.src) x.gen) || s.fills.any (fun f => next (.stack f.stack) f.gen) ||
    s.ctrls.any (fun e => e.2.queue.any (fun r => next r.dom r.gen))

/-- Is tile t, or a domain around it, in reset? -/
def tileHeld (s : State) (t : Nat) : Bool :=
  s.resetting.any (fun d => match d with
    | .tile u => u == t
    | .stack st => st == stackOf s.asm t
    | .part p => tileInPart s p t
    | .device => true
    | _ => false)

/-- Put a domain into reset. -/
def enterReset (s : State) (d : ResetDomain) : State := if s.resetting.contains d then s else { s with resetting := s.resetting ++ [d] }

/-- The ledger entries of a domain whose transactions have their reply are returned (R229); the others when their
replies pass the edge. -/
def reclaim (s : State) (d : ResetDomain) : State :=
  let hit (x : Txn) : Bool := x.ledger != 0 && domainOf x.src == d && (match x.stage with
    | .replied _ => true
    | _ => false)
  let n := ((s.txns.filter hit).map (·.ledger)).sum
  addSat { s with txns := updWhere hit (fun x => { x with ledger := 0 }) s.txns } oBWREVT 15 0 n

/-- A domain's generation increments and its ledger is returned (R371, steps 2 and 3). -/
def nextGen (s : State) (d : ResetDomain) : State := reclaim (bumpGen s d) d

/-! ### Tiles (R130, R184) -/

/-- The score updates of a tile's pipe that had not reached their home slices are stale there (R182); their replies are
discarded at the tile's edge (R227). -/
def dropUpds (s : State) (t : Nat) : State :=
  let mine := s.upds.filter (fun u => u.t == t)
  let s := { s with upds := s.upds.filter (fun u => u.t != t) }
  mine.foldl (fun s u =>
    let s := addSat (retire s u.part 1) oBWREVT 63 48 1
    match homeOf s u.score with
    | some h => addSat s (oSHFEVT h.1) 63 48 1
    | none => s) s

/-- The LAUNCHes with groups that run on tile t. -/
def launchesOn (s : State) (t : Nat) : List (Nat × Nat) :=
  (slots8.filterMap (fun g => match (grp s t g).launch with
    | some l => if (grp s t g).live then some (l.part, l.cmd) else none
    | none => none)).foldl (fun l x => if l.contains x then l else l ++ [x]) []

/-- Clear tile t: the BIST slices on it end first (R345), its grants and messages (R121, R229), its generation, groups, arrays, memory, queues and registers.
The classifier, the releases on their way and the tile firmware stay, and so do the Cupping registers of Tables 2.6 and 2.7, which R63 resets
with the partition and the device only (`clearPart`). -/
def clearTile (s : State) (t : Nat) : State :=
  let s := endSlices s (fun b => b.unit == stackOf s.asm t && b.kind ≤ 1 && elemTile b.kind b.elem == physTile s t)
  let s := dropUpds (senderReset (destReset s t) t) t
  let s := nextGen s (.tile t)
  let x := tileOf s t
  let s := setTile s t { Tile.reset with cls := x.cls, cells := x.cells, rels := x.rels, fwBusy := x.fwBusy, fw := x.fw }
  clearRegs s (tilBase t) (tilBase t + 0x1000) (fun o => o != oCUPCTL t && o != oSHADOWA t && o != oSHADOWB t)

/-- Complete LAUNCHes whose groups a reset ended (R332). -/
def failLaunches (s : State) (l : List (Nat × Nat)) (status : Nat) : State :=
  l.foldl (fun s x => complete s x.1 x.2 status 0) s

/-! ### Escalation (R377, R378) -/

/-- The DOMAIN and INDEX codes of HLM_ESC_LOG (Table 14.11). -/
def domCode : ResetDomain → Nat × Nat
  | .tile t => (0, t)
  | .stack st => (1, st)
  | .part p => (2, p)
  | .port p => (3, p)
  | .ctrl c => (4, c)
  | .ioDie d => (5, d)
  | .device => (6, 0)

/-- Every partition that `p` names goes to OUT (R378). -/
def partsOut (s : State) (q : Nat → Bool) : State :=
  (List.range (totalVFs s.asm)).foldl (fun s p => if partValid s p && q p then setPState s p 6 else s) s

/-- The effect of an instance leaving service (R378). -/
def outEffect (s : State) : ResetDomain → State
  | .tile _ => s
  | .stack st => partsOut s (fun p => ownsStack s p st)
  | .part p => partsOut s (fun q => q == p)
  | .port p => setF s (oLNKSTAT p) 3 0 5
  | .ctrl _ => partsOut s (fun _ => true)
  | .ioDie _ => partsOut s (fun _ => true)
  | .device => { s with head := { s.head with devOut := true } }

/-- An entry of HLM_ESC_LOG (Table 14.11) in the first unused place, and of the event log. -/
def escLog (s : State) (d : ResetDomain) (cause : Nat) : State :=
  let e := BitVec.ofNat 64 (2 ^ 63 + (domCode d).1 * 2 ^ 60 + cause * 2 ^ 56 + (domCode d).2 * 2 ^ 40 + nowStep s % 2 ^ 40)
  logFree (match firstBelow 32 (fun n => !regB s (oESCLOG n) 63) with
    | some n => setReg s (oESCLOG n) e
    | none => s)

/-- Take an instance out of service: HLM_ESC_LOG in its first unused entry, the event log, PF vector 8, the effect. -/
def takeOut (s : State) (d : ResetDomain) (cause : Nat) : State :=
  if isOut s d then s
  else
    outEffect (pfIrq (escLog { s with head := { s.head with out := s.head.out ++ [(d, cause)] } } d cause) 8) d

/-- Count a reset of a domain instance and escalate at THRESH within WINDOW (R377). Resets made during bring-up do not
count. -/
def countReset (s : State) (d : ResetDomain) : State :=
  if !regB s oHLMSTAT 17 then s
  else
  let now := nowStep s
  let keep := s.head.resets.filter (fun e => now < e.2 + windowSteps s) ++ [(d, now)]
  let s := { s with head := { s.head with resets := keep } }
  let th := regF s oESCCFG 7 0
  if th != 0 && th ≤ (keep.filter (fun e => e.1 == d)).length then takeOut s d 1 else s

/-- Reset of tile t alone (R370): the LAUNCHes with groups there complete with status 6 (R332). -/
def resetTile (s : State) (t : Nat) : State :=
  let ls := launchesOn s t
  failLaunches (enterReset (clearTile s t) (.tile t)) ls 6

/-- An uncorrectable word register of a group (R332): the event, the tile reset, and its count (R377). -/
def regFault (s : State) (t slot : Nat) : State :=
  countReset (resetTile (ueEvent s (stackOf s.asm t) 5 (physTile s t * 16 + slot)) t) (.tile t)

/-! ### Stacks and partitions (R181, R186, R232, R303) -/

/-- Requests of the domains in `ds` that wait at slices of stack st are dropped; those of others are presented again
(their fills are of the old generation). -/
def dropQueued (s : State) (st : Nat) (ds : List ResetDomain) : State :=
  let here (x : Txn) : Bool := x.stage == .atSlice && x.want.any (fun a => (homeOf s a).any (fun h => h.1 == st))
  let f (x : Txn) : Txn := if ds.contains (domainOf x.src) then x.reply (nextRep s) none .dropped
    else { x with stage := .toHome, got := [], lost := [], awaits := [] }
  { s with txns := updWhere here f s.txns }

/-- Reset of stack st: its BIST slices end first (R345), its tiles, its slices flushed, its generation, its running scrub
slice. `ds` are the domains being reset. -/
def clearStack (s : State) (ds : List ResetDomain) (st : Nat) : State :=
  let s := endSlices s (fun b => b.unit == st || b.unit == 16 + st)
  let s := (tilesOfStack s st).foldl clearTile s
  let s := dropQueued s st ds
  let s := (List.range 16).foldl (fun s k => updSlice (flushSlice s st k) st k (fun x => { x with retiring := false })) s
  let s := setF s (oSHFSTAT st) 3 3 0
  let s := nextGen s (.stack st)
  { s with ras := { s.ras with scrubs := s.ras.scrubs.filter (fun e => e.1 != 16 + st) } }

/-- Reset of a stack domain alone. -/
def resetStack (s : State) (st : Nat) : State :=
  let ls := (tilesOfStack s st).flatMap (launchesOn s)
  let s := clearStack s (enclosed s (.stack st)) st
  failLaunches (enterReset s (.stack st)) (ls.foldl (fun l x => if l.contains x then l else l ++ [x]) []) 6

/-- The HST page of partition p after its reset: reset values, but for STATE and the PF-only fields (R303). -/
def clearHst (s : State) (p : Nat) : State :=
  let st := pState s p
  let via := regF s (oPCFG p) 17 17
  let priv := (List.range 16).map (fun n => regF s (oSQB p n) 62 62)
  let s := clearRegs s (hstPage p) (hstPage p + 0x1_0000) (fun _ => true)
  let s := setF (setPState s p st) (oPCFG p) 17 17 via
  ((List.range 16).zip priv).foldl (fun s e => setF s (oSQB p e.1) 62 62 e.2) s

/-- The clearing of partition p (R371): the stacks with everything on them, the shelf values in force (R179), the
counters, the dispatcher, and the Cupping registers (R63). The replay of an engine fault is kept. No rule closes the
partition's Cupping window at its reset: only CUP_CLOSE and a device reset do (DESIGN CHOICE, notes/assumptions/41.md). -/
def clearPart (s : State) (p : Nat) : State :=
  let sts := stacksOf s p
  let ds := enclosed s (.part p)
  let s := sts.foldl (fun s st => clearStack s ds st) s
  let s := sts.foldl (fun s st =>
    let s := setF s (oSHFSTAT st) 5 5 (regF s (oSHFCFG st) 1 1)
    let s := setF s (oSHFSTAT st) 4 4 (regF s (oSHFCFG st) 0 0)
    clearRegs (clearReg s (oSHFEVT st)) (shfBase st + 0x400) (shfBase st + 0x600) (fun _ => true)) s
  let s := nextGen s (.part p)
  let s := (List.range 7).foldl (fun s c => setF (setF s (oBWRCNT p c) 63 48 0) (oBWRCNT p c) 39 20 0) s
  let s := clearRegs s (oCUPHIST p 0) (oCUPHIST p 0 + 0x100) (fun _ => true)
  let s := (sts.flatMap (tilesOfStack s)).foldl (fun s t => clearRegs s (oCUPCTL t) (oSHADOWB t + 8) (fun _ => true)) s
  let s := clearHst s p
  let s := updPart s p (fun x => { Part.reset with serial := x.serial, replay := x.replay, quarantine := x.quarantine })
  let s := { s with ras := { s.ras with scans := s.ras.scans.map (fun (e : Nat × List (Nat × Nat)) => (e.1, e.2.filter (fun c => c.1 != p))) } }
  { s with ras := { s.ras with scans := s.ras.scans.filter (fun (e : Nat × List (Nat × Nat)) => e.2 != []) },
           head := { s.head with replays := s.head.replays.filter (fun q => q != p || (partOf s p).replay.isSome) } }

/-- Start the reset of partition p. -/
def resetPart (s : State) (p : Nat) : State := enterReset (clearPart s p) (.part p)

end Sys2Proof.Machine
end

