-- ==== Sys2Proof/Machine/Operands.lean ====
section
/-! DEFINITION. The operand forms of tile instructions (R95 to R100, Tables 4.2 to 4.4, 4.7, 4.8): the fields of the
instruction word, guards, the format checks of cause 0x10, the register checks of cause 0x11, and register reads. -/

namespace Sys2Proof.Machine

/-! ### Fields (Table 4.2) -/

def wCls (w : DWord) : Nat := fld w 63 61
def wOp (w : DWord) : Nat := fld w 60 56
def wG (w : DWord) : Nat := fld w 55 53
def wNG (w : DWord) : Bool := bit w.toNat 52
def wWD (w : DWord) : Nat := fld w 51 45
def wWA (w : DWord) : Nat := fld w 44 38
def wWB (w : DWord) : Nat := fld w 37 31
def wWC (w : DWord) : Nat := fld w 30 24
def wSIZE (w : DWord) : Nat := fld w 37 35
def wTYPE (w : DWord) : Nat := fld w 34 32
def wOFS (w : DWord) : Int := sext 24 (fld w 23 0)
def wCNT (w : DWord) : Nat := fld w 38 35
def wBID (w : DWord) : Nat := fld w 34 32
def wTGT (w : DWord) : Int := sext 32 (fld w 31 0)
def wQ (w : DWord) : Nat := fld w 37 35
def wSEL (w : DWord) : Nat := fld w 37 32
def wIMM (w : DWord) : Nat := fld w 31 0

/-- Is the word of the immediate class? -/
def isImm (w : DWord) : Bool := wCls w == 1

/-- The register class's MOD field: the immediate class carries its bits [21:16] (Table 4.3). -/
def wMOD (w : DWord) : Nat := if isImm w then fld w 37 32 else fld w 23 16

/-! ### Guards and predicates (R96, R99) -/

/-- Predicate p of a thread; p0 reads 1. -/
def pget (g : Group) (p th : Nat) : Bool := p == 0 || bit (SMap.get 0 g.preds p).toNat th

/-- Write predicate p of a thread; a write to p0 is ignored. -/
def pset (g : Group) (p th : Nat) (v : Bool) : Group :=
  if p = 0 then g
  else
    let m := SMap.get 0 g.preds p
    let b := BitVec.ofNat 32 (2 ^ th)
    { g with preds := SMap.set 0 g.preds p (if v then m ||| b else m &&& ~~~ b) }

/-- The guard of a thread (R99). -/
def guard (g : Group) (w : DWord) (th : Nat) : Bool := xor (wNG w) (pget g (wG w) th)

/-- The threads in which an instruction of classes R, I and M acts (R99), rising. -/
def acting (g : Group) (w : DWord) : List Nat := (setBits 32 g.active.toNat).filter (guard g w)

/-! ### Reads -/

/-- A register pair of a thread (R95). -/
def rget2 (g : Group) (th r : Nat) : DWord := BitVec.ofNat 64 ((rget g th r).toNat + (rget g th (r + 1)).toNat * 2 ^ 32)

/-- The bytes of n consecutive registers of a thread, low register first. -/
def rbytes (g : Group) (th r n : Nat) : List Byte := (List.range n).flatMap (fun i => leBytes 4 (rget g th (r + i)).toNat)

/-- The second operand: register WB, or IMM in the immediate class. -/
def opB (g : Group) (w : DWord) (th : Nat) : Word := if isImm w then BitVec.ofNat 32 (wIMM w) else rget g th (wWB w)

/-! ### What an instruction uses: format rule, source and destination registers -/

/-- A span of registers: first register, count, and whether R95 aligns it. -/
structure Span where
  r     : Nat
  n     : Nat
  align : Bool
  deriving DecidableEq, Repr

/-- A span that starts at an even, quad or octet boundary as its length asks. -/
def sp (r n : Nat) : Span := ⟨r, n, true⟩

/-- A span without an alignment rule (SEND, RECV). -/
def spU (r n : Nat) : Span := ⟨r, n, false⟩

def Span.ok (s : Span) : Bool := s.r + s.n ≤ 128 && (!s.align || s.r % s.n == 0)

/-- Does a register belong to a span? -/
def Span.has (s : Span) (r : Nat) : Bool := s.r ≤ r && r < s.r + s.n

/-- The row of an instruction: its key (Decode.lean), whether the immediate class has it, the fields that must hold
(the rest of R98 for cause 0x10), sources and destinations as spans, whether its operands are thread 0's (R100). -/
structure Row where
  key   : Nat
  imm   : Bool
  ok    : DWord → Bool
  srcs  : DWord → List Span
  dsts  : DWord → List Span
  grp   : Bool

/-- Reserved bits of a class that must be zero (Table 4.2). -/
def reservedZero (w : DWord) : Bool :=
  match wCls w with
  | 0 => fld w 15 0 == 0
  | 2 => fld w 31 24 == 0
  | 3 => fld w 51 39 == 0
  | 4 => fld w 55 52 == 0 && fld w 34 0 == 0
  | 6 => fld w 55 52 == 0
  | _ => true

/-- Three-operand register rows with 32-bit operands. -/
def rowR (key : Nat) (imm : Bool) (ok : DWord → Bool) (three : Bool) : Row :=
  { key := key, imm := imm, ok := ok,
    srcs := fun w => sp (wWA w) 1 :: (if isImm w then [] else [sp (wWB w) 1]) ++ (if three then [sp (wWC w) 1] else []),
    dsts := fun w => [sp (wWD w) 1], grp := false }

/-- One-operand rows (BITOP, FSFU). -/
def rowU (key : Nat) (ok : DWord → Bool) : Row :=
  { key := key, imm := true, ok := ok, srcs := fun w => [sp (wWA w) 1], dsts := fun w => [sp (wWD w) 1], grp := false }

/-- Compare rows write a predicate (Table 4.3). -/
def rowP (key : Nat) (imm : Bool) (top n : Nat) : Row :=
  { key := key, imm := imm, ok := fun w => wMOD w % 16 ≤ top,
    srcs := fun w => sp (wWA w) n :: (if isImm w then [] else [sp (wWB w) n]),
    dsts := fun _ => [], grp := false }

/-- Rows over register pairs. -/
def rowD (key : Nat) (imm three : Bool) : Row :=
  { key := key, imm := imm, ok := fun _ => true,
    srcs := fun w => sp (wWA w) 2 :: (if isImm w then [] else [sp (wWB w) 2]) ++ (if three then [sp (wWC w) 2] else []),
    dsts := fun w => [sp (wWD w) 2], grp := false }

/-- The registers of a CVT type code (Table 4.4). -/
def cvtRegs (ty : Nat) : Nat := if ty = 3 ∨ ty = 8 then 2 else 1

/-- Registers of a memory SIZE code (R111). -/
def sizeRegs (z : Nat) : Nat := if z ≤ 2 then 1 else 2 ^ (z - 2)

/-- Memory rows: `addr` registers hold the address; `load` says that WD is written. -/
def rowM (key addr : Nat) (load : Bool) (ok : DWord → Bool) : Row :=
  { key := key, imm := false, ok := fun w => wSIZE w < 6 && ok w,
    srcs := fun w => sp (wWA w) addr :: (if load then [] else [sp (wWD w) (sizeRegs (wSIZE w))]),
    dsts := fun w => if load then [sp (wWD w) (sizeRegs (wSIZE w))] else [], grp := false }

/-- Control rows read no word register. -/
def rowC (key : Nat) (ok : DWord → Bool) : Row :=
  { key := key, imm := false, ok := ok, srcs := fun _ => [], dsts := fun _ => [], grp := false }

/-- Group instructions of classes X and S (R100). -/
def rowG (key : Nat) (ok : DWord → Bool) (srcs dsts : DWord → List Span) : Row :=
  { key := key, imm := false, ok := ok, srcs := srcs, dsts := dsts, grp := true }

/-- Any value of the fields. -/
def anyFields : DWord → Bool := fun _ => true

/-! ### Register state before an instruction (R106, R332) -/

/-- The registers that loads of a group still have to write: (thread, register). -/
def pendingRegs (s : State) (t slot : Nat) : List Nat :=
  s.txns.flatMap (fun x => match x.src with
    | .tile u g => if u = t ∧ g = slot ∧ x.gen = genOf s (.tile t) then
        x.dests.flatMap (fun d => (List.range (max 1 (d.size / 4))).map (fun i => d.reg + i)) else []
    | _ => [])

/-- Does an instruction name a register with a pending write (R106)? -/
def regsPending (s : State) (t slot : Nat) (spans : List Span) : Bool :=
  (pendingRegs s t slot).any (fun r => spans.any (fun sp => sp.has r))

/-- Read-correct the source registers of an instruction: corrected words are counted, an uncorrectable one is
reported (R330, R332). -/
def readRegs (s : State) (t slot : Nat) (ks : List Nat) : State × Bool :=
  ks.foldl (fun r k =>
    let c := regCheck (grp r.1 t slot) k
    match c.2 with
    | .clean => r
    | .fixed _ => (corrError (setGroup r.1 t slot c.1) (stackOf s.asm t), r.2)
    | .bad => (r.1, true)) (s, false)

/-- The word registers an instruction reads, keyed thread * 128 + register (SHFL also reads WA of the source threads). -/
def readKeys (g : Group) (row : Row) (w : DWord) : List Nat :=
  let ths := if row.grp then [0] else acting g w
  (if row.key = 30 then ths.map (fun th => (opB g w th).toNat % 32 * 128 + wWA w) else []) ++ ths.flatMap (fun th => (row.srcs w).flatMap (fun sp => (List.range sp.n).map (fun i => th * 128 + sp.r + i)))

end Sys2Proof.Machine
end

