-- ==== Sys2Proof/Machine/Flags.lean ====
section
/-! DEFINITION. The sticky floating-point flags of a group (R104, R391) and what an instruction gives one thread. -/

namespace Sys2Proof.Machine

/-- What a lane-block instruction gives one thread: registers, a predicate, the exceptions it raises. -/
structure LaneOut where
  regs  : List (Nat × Word)
  pred  : Option (Nat × Bool)
  flags : FFlags
  deriving DecidableEq, Repr

/-- One register and no exception. -/
def LaneOut.reg (r : Nat) (v : Word) : LaneOut := ⟨[(r, v)], none, 0⟩

/-- One register with exceptions. -/
def LaneOut.regF (r : Nat) (v : Nat × FFlags) : LaneOut := ⟨[(r, BitVec.ofNat 32 v.1)], none, v.2⟩

/-- A register pair with exceptions (R95: low word in the first register). -/
def LaneOut.pairF (r : Nat) (v : Nat × FFlags) : LaneOut :=
  ⟨[(r, BitVec.ofNat 32 v.1), (r + 1, BitVec.ofNat 32 (v.1 / 2 ^ 32))], none, v.2⟩

/-- A predicate with exceptions. -/
def LaneOut.predF (p : Nat) (v : Bool × FFlags) : LaneOut := ⟨[], some (p, v.1), v.2⟩

/-- The flags of R104 accumulate. -/
def raiseFlags (g : Group) (f : FFlags) : Group := { g with fp := g.fp ||| f }

/-- Write what an instruction gives thread th. -/
def applyLane (g : Group) (th : Nat) (o : LaneOut) : Group :=
  let g := o.regs.foldl (fun g e => rset g th e.1 e.2) g
  let g := match o.pred with
    | some e => pset g e.1 th e.2
    | none => g
  raiseFlags g o.flags

/-- Run an instruction in the threads in which it acts (R99): every thread reads the group as it was. -/
def lanes (g : Group) (w : DWord) (f : Group → Nat → LaneOut) : Group :=
  (acting g w).foldl (fun g' th => applyLane g' th (f g th)) g

end Sys2Proof.Machine
end

