-- ==== Sys2Proof/Machine/Issue.lean ====
section
/-! DEFINITION. Issuing one instruction of a group (R98, R106 to R109, R129, R332): readiness, the fetch, the format and
register checks, and what follows from the way its body ends. -/

namespace Sys2Proof.Machine

/-- How the body of an instruction ends: completed with the program counter to advance; completed with the program
counter set; a tile program fault (cause, thread); an array fault (cause, array); an uncorrectable word register met (R332); not
issued, with the state of Table 4.12 that says what the group waits for. -/
inductive Res where
  | done (s : State)
  | jump (s : State)
  | trap (s : State) (cause thread : Nat)
  | atrap (s : State) (cause arr : Nat)
  | lost (s : State)
  | hold (st : GroupState)
  deriving DecidableEq, Repr

/-- Is a group ready, or was its next instruction held when it was last tried (Table 4.12, states 2 to 5)? A held group
keeps the state that says why until the instruction is tried again (notes/assumptions/34.md). -/
def Group.mayIssue (g : Group) : Bool :=
  match g.st with
  | .ready | .waitRegs | .waitArray => true
  | .waitMem | .waitMsg => g.wait == .none
  | _ => false

/-- Can slot `slot` of tile t issue (R106, R309)? -/
def issuable (s : State) (t slot : Nat) : Bool :=
  tileFitted s.asm t && slot < 8 && (grp s t slot).mayIssue && !tileHeld s t && !ebbing s

/-- The group of a slot is no longer held. -/
def unhold (s : State) (t slot : Nat) : State :=
  if (grp s t slot).st = .ready then s else updGroup s t slot (fun g => { g with st := .ready })

/-- The word of the instruction buffer that holds tile memory word k. -/
def ibufWord (x : Tile) (k : Nat) : Option IbufWord := x.ibuf.find? (fun e => e.word == k)

/-- Does the instruction buffer hold the instruction at tile memory address a with its parity right (R94, R330)? -/
def ibufHas (x : Tile) (a : Nat) : Bool := (ibufWord x (a / 64)).any (fun e => !bit e.bad.toNat (a / 8 % 8))

/-- Word k of tile memory comes into the instruction buffer, where 256 words of 64 bytes have room: a full buffer loses one
of its words, which one no rule says (notes/assumptions/74.md). `bad` marks the instructions that were uncorrectable in
tile memory: they are fetched again when they are wanted. -/
def fillIbuf (s : State) (t k : Nat) (bad : BitVec 8) : State :=
  let x := tileOf s t
  let l := x.ibuf.filter (fun e => e.word != k)
  let e : IbufWord := ⟨k, Mem.read x.mem (64 * k) 64, bad⟩
  if l.length < 256 then setTile s t { x with ibuf := e :: l }
  else setTile { s with fresh := s.fresh + 1 } t { x with ibuf := e :: l.eraseIdx ((Config.freeWord s.fresh).toNat % l.length) }

/-- The fetch of the next instruction: cause 0x14 beyond the loaded code; the instruction buffer, or tile memory where the
buffer does not hold the instruction. Wrong parity is a correctable error and the word is fetched again (R330, R334); an
uncorrectable part is cause 0x17 (R109, R117). -/
def fetchCheck (s : State) (t slot : Nat) : State × Option Nat :=
  let g := grp s t slot
  let pc := g.pc.toNat
  if pc + 8 > g.codeLen then (s, some 0x14)
  else
    let a := g.codeAt + pc
    if ibufHas (tileOf s t) a then (s, none)
    else
      let s := if (ibufWord (tileOf s t) (a / 64)).isSome then corrError s (stackOf s.asm t) else s
      let r := tmWord s t 5 (a / 64)
      (fillIbuf r.1 t (a / 64) (BitVec.ofNat 8 (ofBits (r.2.map (· % 8)))), if r.2.contains (a / 8) then some 0x17 else none)

/-- The scheduler's pointer moves to the slot after the issuing group (R107). -/
def movePtr (s : State) (t slot : Nat) : State := updTile s t (fun x => { x with ptr := (slot + 1) % 8 })

/-- The program counter moves to the next instruction. -/
def advancePc (s : State) (t slot : Nat) : State := updGroup s t slot (fun g => { g with pc := g.pc + 8 })

/-- An uncorrectable word register resets the tile (R332), which waits while a counter of the next generation is not zero
(R228): the instruction is then not issued. -/
def regLost (s s' : State) (t slot : Nat) : State := if genBusy s (.tile t) then s else regFault s' t slot

/-- What follows the body. -/
def finish (s : State) (t slot : Nat) : Res → State
  | .done s' => movePtr (advancePc s' t slot) t slot
  | .jump s' => movePtr s' t slot
  | .trap s' cause th => movePtr (tileFault s' t slot cause th) t slot
  | .atrap s' cause a => movePtr (arrayFault s' t slot cause a) t slot
  | .lost s' => regLost s s' t slot
  | .hold st => updGroup s t slot (fun g => { g with st := st })

/-- Is a word an instruction of this row with every reserved bit and field as R98 asks? -/
def formatOk (row : Row) (w : DWord) : Bool :=
  tileKey w == some row.key && (row.imm || !isImm w) && reservedZero w && row.ok w

/-- Do all register spans obey R95? -/
def spansOk (row : Row) (w : DWord) : Bool := (row.srcs w ++ row.dsts w).all Span.ok

/-- The word is the word of another row of the table. -/
def otherRow (row : Row) (w : DWord) : Option String :=
  match tileKey w with
  | some k => if k = row.key then none else some (tileName k)
  | none => none

/-- From the checks of an instruction to its body. -/
def dispatchIssue (row : Row) (t slot : Nat) (w : DWord) (s : State) (body : State → Res) : State :=
  if !formatOk row w then finish s t slot (.trap s 0x10 0)
  else if !spansOk row w then finish s t slot (.trap s 0x11 0)
  else if regsPending s t slot (row.srcs w ++ row.dsts w) then finish s t slot (.hold .waitRegs)
  else
    let r := readRegs s t slot (readKeys (grp s t slot) row w)
    if r.2 then regLost s r.1 t slot else finish s t slot (body r.1)

/-- Issue an instruction of classes R, I, M, C, X and S. -/
def issue (row : Row) (t slot : Nat) (w : DWord) (s : State) (body : State → Res) : Host.Outcome State Fault Refusal :=
  match otherRow row w with
  | some m => .refused (.otherWord m)
  | none =>
    if issuable s t slot then
      let s := unhold s t slot
      match fetchCheck s t slot with
      | (s1, some cause) => .next (finish s1 t slot (.trap s1 cause 0))
      | (s1, none) => .next (dispatchIssue row t slot w s1 body)
    else .next s

/-- The body of a lane-block instruction. -/
def laneBody (t slot : Nat) (w : DWord) (f : Group → Nat → LaneOut) (s : State) : Res :=
  .done (updGroup s t slot (fun g => lanes g w f))

end Sys2Proof.Machine
end

