-- ==== Sys2Proof/Machine/Access.lean ====
section
/-! DEFINITION. The memory instructions of class M (R111 to R117, Table 4.8): tile memory accesses complete at once;
device accesses set out as one transaction for each 2 KiB line, which the shelf, the controllers and DEVICE_REPLY carry
on. -/

namespace Sys2Proof.Machine

/-- Bytes of a SIZE code (R111). -/
def sizeBytes (w : DWord) : Nat := 2 ^ wSIZE w

/-- The tile memory address of a thread: wa + OFS, exact (R112). -/
def tmAddr (g : Group) (w : DWord) (th : Nat) : Int := (rget g th (wWA w)).toNat + wOFS w

/-- Is a tile memory access legal: in 0 to 0xF_FFFF and aligned (R111, R112)? -/
def tmAddrOk (g : Group) (w : DWord) (th : Nat) : Bool :=
  let a := tmAddr g w th
  0 ≤ a && a ≤ 0xF_FFFF && a % sizeBytes w == 0

/-- The device address of a thread: pair wa + OFS modulo 2^64, of which bits [63:48] must be zero (R112). -/
def devAddr (g : Group) (w : DWord) (th : Nat) : Nat := twos 64 ((rget2 g th (wWA w)).toNat + wOFS w)

/-- Is a device access legal (R111, R112)? R112 asks bits [63:48] of the pair to be zero, and Table 4.16 those of the
device address: both are judged (DEDUCED, notes/assumptions/27.md). -/
def devAddrOk (g : Group) (w : DWord) (th : Nat) : Bool :=
  (rget2 g th (wWA w)).toNat < 2 ^ 48 && devAddr g w th < 2 ^ 48 && devAddr g w th % sizeBytes w == 0

/-- The bytes a thread stores: the low bytes of WD and the registers after it. -/
def storeBytes (g : Group) (w : DWord) (th : Nat) : List Byte := (rbytes g th (wWD w) (sizeRegs (wSIZE w))).take (sizeBytes w)

/-- Write a loaded value, zero-extended, into the registers of a size (R111). -/
def loadRegs (g : Group) (th r size : Nat) (b : List Byte) : Group :=
  (List.range (max 1 (size / 4))).foldl (fun g i => rset g th (r + i) (BitVec.ofNat 32 (leNat ((b.drop (4 * i)).take 4)))) g

/-! ### Tile memory -/

/-- The cells of a store by every acting thread: a later cell replaces an earlier one, so the highest-numbered thread
supplies a byte (R113). -/
def tmStoreCells (g : Group) (w : DWord) : List Host.Cell :=
  (acting g w).flatMap (fun th => Mem.lay (tmAddr g w th).toNat (storeBytes g w th))

def rowLdt : Row := rowM 64 1 true anyFields
/-- LDT: every distinct 64-byte word is read once and checked; an uncorrectable part that a thread wants is cause 0x17. -/
def execLdt (t slot : Nat) (w : DWord) (s : State) : Host.Outcome State Fault Refusal :=
  issue rowLdt t slot w s (fun s =>
    let g := grp s t slot
    match (acting g w).find? (fun th => !tmAddrOk g w th) with
    | some th => .trap s 0x16 th
    | none =>
      let n := sizeBytes w
      let words := (nub ((acting g w).map (fun th => (tmAddr g w th).toNat / 64))).mergeSort (· ≤ ·)
      let r := tmWords s t 0 words
      match (acting g w).find? (fun th => wantsBad r.2 (tmAddr g w th).toNat n) with
      | some th => .trap r.1 0x17 th
      | none =>
        let mem := (tileOf r.1 t).mem
        .done (updGroup r.1 t slot (fun g' => (acting g w).foldl (fun g' th =>
          loadRegs g' th (wWD w) n (Mem.read mem (tmAddr g w th).toNat n)) g')))

def rowStt : Row := rowM 65 1 false anyFields
/-- STT: parts written wholly get fresh check bits, others are read-modify-written (R117). -/
def execStt (t slot : Nat) (w : DWord) (s : State) : Host.Outcome State Fault Refusal :=
  issue rowStt t slot w s (fun s =>
    let g := grp s t slot
    match (acting g w).find? (fun th => !tmAddrOk g w th) with
    | some th => .trap s 0x16 th
    | none => .done (tmWrite s t 6 (tmStoreCells g w)))

/-! ### Device memory -/

/-- The partition of a tile's group: that of its LAUNCH (R128). -/
def groupPart (g : Group) : Nat :=
  match g.launch with
  | some l => l.part
  | none => 8

/-- Does an address lie where MADD is accepted: local HBM, directly or through the device's own peer window (R114)? An
offset of the HBM range at or above the fitted capacity is unmapped under R26, which answers an access with a decode
error, and is no local HBM address under R114, which faults a MADD to any other address: the model takes R114's fault, so
no request sets out that R26 could answer (DESIGN CHOICE, notes/assumptions/27.md). -/
def maddTarget (s : State) (a : Nat) : Bool :=
  match decodeAddr s.asm a with
  | .hbm _ => true
  | .peer d off => d == devId s && off < hbmGiB s.asm * 2 ^ 30
  | _ => false

/-- The lines that the acting threads touch, in order of first touch (R113). -/
def linesOf (g : Group) (w : DWord) : List Nat := nub ((acting g w).map (fun th => devAddr g w th / 2048))

/-- The first illegal thread of a device access with its cause. -/
def devTrap (s : State) (g : Group) (w : DWord) (madd : Bool) : Option (Nat × Nat) :=
  (acting g w).findSome? (fun th =>
    if !devAddrOk g w th then some (0x16, th)
    else if madd && !maddTarget s (devAddr g w th) then some (0x19, th)
    else none)

/-- The end-to-end credits of the host port or a Surf port that a transaction to an address holds (R229, R230). -/
def lends (s : State) (p a : Nat) : Nat :=
  match routeOf s (some p) a with
  | .host _ => 1
  | .remote _ _ => 1
  | _ => 0

/-- The transaction with its addresses in the device's own peer window replaced by the HBM addresses they stand for (R28). -/
def toHbm (s : State) (x : Txn) : Txn :=
  { x with want := x.want.map (hbmAddr s), bytes := x.bytes.map (fun c => (hbmAddr s c.1, c.2)),
           adds := x.adds.map (fun a => (hbmAddr s a.1, a.2)),
           dests := x.dests.map (fun d => { d with addr := hbmAddr s d.addr }) }

/-- One transaction for a line (R113, R222, R226): charged, numbered, on its way. `x` gives what it asks for. -/
def launchTxn (s : State) (t slot serial line : Nat) (x : Txn) : State :=
  let p := groupPart (grp s t slot)
  let r := inject s p 0
  let y : Txn := { x with
    id := r.1.nextId, src := .tile t slot, serial := serial, cls := 0, part := p, low := r.2
    gen := genOf s (.tile t), epoch := epochNow s, ledger := lends s p (line * 2048) }
  { r.1 with txns := r.1.txns ++ [{ toHbm s y with dev := (y.want ++ y.bytes.map (·.1) ++ y.adds.map (·.1)).headD 0 }], nextId := r.1.nextId + 1 }

/-- A transaction before it is numbered. -/
def blankTxn : Txn := ⟨0, .headland, 0, 0, 0, false, false, 0, 0, .load, [], [], [], [], 0, .toHome, [], 0, [], [], none, 0⟩

/-- The request of a line by the acting threads: want, bytes or adds. -/
def lineTxn (g : Group) (w : DWord) (kind : TxnKind) (line : Nat) : Txn :=
  let ths := (acting g w).filter (fun th => devAddr g w th / 2048 == line)
  let n := sizeBytes w
  match kind with
  | .load => { blankTxn with
      kind := .load
      want := nub (ths.flatMap (fun th => (List.range n).map (fun i => devAddr g w th + i)))
      dests := ths.map (fun th => ⟨th, wWD w, devAddr g w th, n⟩) }
  | .store => { blankTxn with
      kind := .store
      bytes := (ths.flatMap (fun th => Mem.lay (devAddr g w th) (storeBytes g w th))).foldl (fun m c => SMap.put m c.1 c.2) [] }
  | .madd ty => { blankTxn with kind := .madd ty, adds := ths.map (fun th => (devAddr g w th, storeBytes g w th)) }

/-- Send the line requests of a device access and note it as outstanding (R115). -/
def sendLines (s : State) (t slot : Nat) (w : DWord) (kind : TxnKind) : State :=
  let g := grp s t slot
  let ls := linesOf g w
  if ls = [] then s
  else
    let n := (tileOf s t).serial
    let s := updTile s t (fun x => { x with serial := n + 1 })
    let s := updGroup s t slot (fun g => { g with outst := g.outst ++ [⟨n, kind != .load, ls.length, g.pc⟩] })
    ls.foldl (fun s l => launchTxn s t slot n l (lineTxn g w kind l)) s

/-- The body of LDD, STD and MADD. -/
def devBody (t slot : Nat) (w : DWord) (kind : TxnKind) (madd : Bool) (s : State) : Res :=
  let g := grp s t slot
  if g.outst.length ≥ 8 then .hold .waitMem
  else match devTrap s g w madd with
    | some c => .trap s c.1 c.2
    | none => .done (sendLines s t slot w kind)

def rowLdd : Row := rowM 66 2 true anyFields
/-- LDD. -/
def execLdd (t slot : Nat) (w : DWord) (s : State) : Host.Outcome State Fault Refusal :=
  issue rowLdd t slot w s (devBody t slot w .load false)

def rowStd : Row := rowM 67 2 false anyFields
/-- STD. -/
def execStd (t slot : Nat) (w : DWord) (s : State) : Host.Outcome State Fault Refusal :=
  issue rowStd t slot w s (devBody t slot w .store false)

/-- The SIZE code that a MADD TYPE asks for (R111). -/
def maddSize (ty : Nat) : Nat := if ty = 1 ∨ ty = 3 then 3 else 2

def rowMadd : Row := rowM 68 2 false (fun w => wTYPE w < 5 && wSIZE w == maddSize (wTYPE w))
/-- MADD. -/
def execMadd (t slot : Nat) (w : DWord) (s : State) : Host.Outcome State Fault Refusal :=
  issue rowMadd t slot w s (devBody t slot w (.madd (wTYPE w)) true)

def rowFence : Row :=
  { key := 69, imm := false, ok := fun w => wSIZE w < 6, srcs := fun _ => [], dsts := fun _ => [], grp := false }
/-- FENCE (R116): the group waits while an earlier store or add has no reply. SIZE 6 or 7 is cause 0x10 as for every
memory opcode (R98, R111). -/
def execFence (t slot : Nat) (w : DWord) (s : State) : Host.Outcome State Fault Refusal :=
  issue rowFence t slot w s (fun s =>
    if (grp s t slot).outst.any (·.store) then .done (updGroup s t slot (fun g => { g with st := .waitMem, wait := .fence }))
    else .done s)

end Sys2Proof.Machine
end

