-- ==== Sys2Proof/Machine/Accum.lean ====
section
/-! DEFINITION. The number formats of the matrix arrays, the anchored accumulator, raw records, drain conversions and
the E2M1 scale rule (R32 to R57, R64 to R67). -/

namespace Sys2Proof.Machine

/-! ### Element formats (Tables 2.1 and 3.6) -/

/-- Element width in bits of a format code. -/
def elemBits (f : Nat) : Nat :=
  match f with
  | 0 | 1 => 4
  | 2 | 3 => 2
  | 4 => 1
  | 5 | 6 | 7 => 8
  | _ => 16

/-- K step of a format code (Table 2.1). -/
def kStep (f : Nat) : Nat :=
  match f with
  | 0 | 1 => 8
  | 2 | 3 | 4 => 16
  | 5 | 6 | 7 => 2
  | _ => 1

/-- A decoded element: `none` for a NaN or an infinity (R36), else the exact value i * 2^e. -/
abbrev Elem := Option (Int × Int)

/-- An element of a floating format. Negative zero is zero (R35). -/
def floatElem (f : FFmt) (v : Nat) : Elem :=
  match f.dec v with
  | .fin n m e => some (if n then -(m : Int) else m, e)
  | _ => none

/-- The magnitude of an E2M1 code in halves. -/
def e2m1Mag (c : Nat) : Nat :=
  match c % 8 with
  | 0 => 0
  | 1 => 1
  | 2 => 2
  | 3 => 3
  | 4 => 4
  | 5 => 6
  | 6 => 8
  | _ => 12

/-- Decode an element code (Table 2.1). -/
def decElem (f : Nat) (v : Nat) : Elem :=
  match f with
  | 0 => some (if bit v 3 then -(e2m1Mag v : Int) else e2m1Mag v, -1)
  | 1 => some (sext 4 v, 0)
  | 2 => some (sext 2 v, 0)
  | 3 => some (if v % 4 = 1 then 1 else if v % 4 = 3 then -1 else 0, 0)
  | 4 => some (if bit v 0 then -1 else 1, 0)
  | 5 => floatElem fe4m3 (v % 256)
  | 6 => floatElem e5m2 (v % 256)
  | 7 => some (sext 8 v, 0)
  | 8 => floatElem fp16 (v % 65536)
  | _ => floatElem bf16 (v % 65536)

/-- The scale data of a 32-element block: coarse byte and fine byte (R37, R38). -/
structure Scale where
  coarse : Nat
  fine   : Nat
  deriving DecidableEq, Repr

/-- The fine multiplier of element n of a block: 8 + f of its half (R38). -/
def Scale.mult (s : Scale) (n : Nat) : Int := 8 + (if n < 16 then s.fine % 16 else s.fine / 16 % 16 : Nat)

/-! ### Contributions (R43) -/

/-- What a block or a cycle gives an accumulator: the exact value i * 2^e, and whether a NaN was consumed. -/
structure Contrib where
  i   : Int
  e   : Int
  nan : Bool
  deriving DecidableEq, Repr

/-- The exact sum of two exact values. -/
def addExact (x y : Int × Int) : Int × Int :=
  if x.1 = 0 then y else if y.1 = 0 then x
  else
    let e := min x.2 y.2
    (x.1 * 2 ^ (x.2 - e).toNat + y.1 * 2 ^ (y.2 - e).toNat, e)

/-- The exact sum of the products of paired elements, each weighted; NaN and infinite elements are left out and
reported. -/
def dotElems (w : Nat → Int) (as bs : List Elem) : Contrib :=
  let r := (as.zip bs).foldl (fun (st : Nat × (Int × Int) × Bool) p =>
    match p with
    | (some a, some b) => (st.1 + 1, addExact st.2.1 (a.1 * b.1 * w st.1, a.2 + b.2), st.2.2)
    | _ => (st.1 + 1, st.2.1, true)) (0, (0, 0), false)
  ⟨r.2.1.1, r.2.1.2, r.2.2⟩

/-- The contribution of a block pair (R43): tiered, or MX with fine multipliers 0. A scale of 0xFF makes the block NaN
(R37). `mx` elements of INT8 have the value code * 2^-6 (R34), which the caller has put into the elements. -/
def blockContrib (sa sb : Scale) (as bs : List Elem) : Contrib :=
  let c := dotElems (fun n => sa.mult n * sb.mult n) as bs
  ⟨c.i, c.e + sa.coarse + sb.coarse - 260, c.nan || sa.coarse = 255 || sb.coarse = 255⟩

/-- MXINT8: an element has the value of its code times 2^-6 (R34). -/
def mxElem (f : Nat) (x : Elem) : Elem := if f = 7 then x.map (fun p => (p.1, p.2 - 6)) else x

/-! ### The accumulator (R42, R44) -/

/-- The signed 16-bit anchor of R42 for the anchor that R44 computes. Where 16 bits do not hold it (the slice exponents of
an operand pair can sum beyond them, and a full headroom adds 16), no rule says what the anchor becomes: it is the
uninterpreted `Config.wideAnchor` of it (DESIGN CHOICE, notes/assumptions/5.md). -/
def anchor16 (a : Int) : BitVec 16 := if -2 ^ 15 ≤ a ∧ a < 2 ^ 15 then BitVec.ofInt 16 a else Config.wideAnchor a

/-- Add a nonzero contribution i * 2^e under R44; the flag says that a nonzero bit was discarded. The anchor is computed
exactly and stands in the accumulator as `anchor16` gives it. -/
def Acc.add (c : Acc) (i e : Int) : Acc × Bool :=
  if i = 0 then (c, false)
  else
    let t : Int := Nat.log2 i.natAbs + e
    let a0 := if c.empty then t else c.a.toInt
    let d := (t - a0).toNat
    let lost1 := t > a0 && c.v % 2 ^ d != 0
    let v1 := if t > a0 then c.v.tdiv (2 ^ d) else c.v
    let a1 := max t a0
    let lo := a1 - 112
    let k := (lo - e).toNat
    let lost2 := e < lo && i % 2 ^ k != 0
    let v2 := v1 + (if e < lo then i.tdiv (2 ^ k) else i * 2 ^ (e - lo).toNat)
    if v2.natAbs ≥ 2 ^ 158 then
      (⟨v2.tdiv (2 ^ 16), anchor16 (a1 + 16), c.nan, false⟩, lost1 || lost2 || v2 % 2 ^ 16 != 0)
    else (⟨v2, anchor16 a1, c.nan, false⟩, lost1 || lost2)

/-- The value of an accumulator is v * 2^(a - 112) (R42). -/
def Acc.exp (c : Acc) : Int := c.a.toInt - 112

/-- Apply a contribution: the accumulator and whether a bit was discarded. A NaN is no
exact value and so no contribution of R43: it marks the element (R36), as R82 says of a NaN that ALOAD reads
(notes/assumptions/5.md). -/
def Acc.contribute (c : Acc) (k : Contrib) : Acc × Bool := if k.nan then ({ c with nan := true }, false) else c.add k.i k.e

/-! ### Raw records (R49, Table 2.3) -/

/-- The 32 bytes of a raw record. -/
def Acc.record (c : Acc) (inexact : Bool) : List Byte :=
  leBytes 20 (if c.empty then 0 else twos 160 c.v) ++ leBytes 2 (if c.empty then 0 else c.a.toNat) ++
    leBytes 1 (b2n c.nan + 2 * b2n inexact + 4 * b2n c.empty) ++ leBytes 9 0

/-- A record read back: V, A, the NaN, INEXACT and empty bits. -/
structure RawRec where
  v       : Int
  a       : Int
  nan     : Bool
  inexact : Bool
  empty   : Bool
  deriving DecidableEq, Repr

def RawRec.ofNat (r : Nat) : RawRec :=
  ⟨sext 160 r, sext 16 (r / 2 ^ 160), bit r 176, bit r 177, bit r 178⟩

def RawRec.ofBytes (b : List Byte) : RawRec := RawRec.ofNat (leNat b)

/-- ALOAD of a record into an accumulator (R49): the accumulator and whether INEXACT is set by R44 or by the record. -/
def Acc.load (c : Acc) (r : RawRec) : Acc × Bool :=
  if r.empty then (⟨c.v, c.a, c.nan || r.nan, c.empty⟩, r.inexact)
  else if c.empty then (⟨r.v, BitVec.ofInt 16 r.a, c.nan || r.nan, false⟩, r.inexact)
  else
    let x := c.add r.v (r.a - 112)
    (⟨x.1.v, x.1.a, c.nan || r.nan, x.1.empty⟩, x.2 || r.inexact)

/-- The FP64 value of a record (R67, R103): NaN first, then empty, then one rounding to nearest even. -/
def RawRec.toFp64 (r : RawRec) : Nat × FFlags :=
  if r.nan then (fp64.qnan, 0)
  else if r.empty then (0, 0)
  else fp64.roundInt 0 r.v (r.a - 112) false

/-! ### Drain rounding (R50 to R55) -/

/-- u of R54 in units of 2^-32. -/
def stochU (seed : Nat) (x y arr idx : Nat) : Nat :=
  let m (v : Nat) : Nat := v % 2 ^ 64
  let key := m (seed ^^^ m (x <<< 56) ^^^ m (y <<< 48) ^^^ m (arr <<< 44) ^^^ idx)
  let z := m ((key ^^^ (key >>> 30)) * 0xBF58476D1CE4E5B9)
  let z := m ((z ^^^ (z >>> 27)) * 0x94D049BB133111EB)
  let z := z ^^^ (z >>> 31)
  z / 2 ^ 32

/-- How a drain rounds: 0 nearest even, 1 toward zero, else stochastic with u (R51, R54). -/
structure DrainRnd where
  mode : Nat
  u    : Nat
  deriving DecidableEq, Repr

/-- Does the fraction rem / den round up from the lower neighbour, whose code is `odd`? -/
def DrainRnd.up (r : DrainRnd) (odd : Bool) (rem den : Nat) : Bool :=
  match r.mode with
  | 0 => 2 * rem > den || (2 * rem = den && odd)
  | 1 => false
  | _ => rem * 2 ^ 32 + r.u * den ≥ den * 2 ^ 32

/-- Drain an accumulator to a floating format (R50 to R54): the code and whether SAT is set. -/
def Acc.drain (c : Acc) (f : FFmt) (r : DrainRnd) : Nat × Bool :=
  if c.nan then (f.qnan, false)
  else if c.empty || c.v = 0 then (0, false)
  else
    let m := c.v.natAbs
    let e := c.exp
    let neg := c.v < 0
    let big := match f.dec f.maxFin with
      | .fin _ m' e' => FVal.lt (.fin false m' e') (.fin false m e)
      | _ => false
    if big then (f.sign neg f.maxFin, true)
    else
      let top : Int := Nat.log2 m + e
      let qe := max (top - f.mw) f.emin
      let mag :=
        if qe ≤ e then (qe - f.emin).toNat * 2 ^ f.mw + m * 2 ^ (e - qe).toNat
        else
          let d := (qe - e).toNat
          let q := m / 2 ^ d
          (qe - f.emin).toNat * 2 ^ f.mw + q + b2n (r.up (q % 2 = 1) (m % 2 ^ d) (2 ^ d))
      (if mag = 0 then 0 else f.sign neg mag, false)

/-! ### The E2M1 drain (R56, R84) -/

/-- Is m * 2^e at most n * 2^d? -/
def leExp (m : Nat) (e : Int) (n : Nat) (d : Int) : Bool :=
  let b := min e d
  m * 2 ^ (e - b).toNat ≤ n * 2 ^ (d - b).toNat

/-- The largest magnitude of a list of accumulators, as m * 2^e. -/
def maxMag (l : List Acc) : Nat × Int :=
  l.foldl (fun b c => if c.empty || leExp c.v.natAbs c.exp b.1 b.2 then b else (c.v.natAbs, c.exp)) (0, 0)

/-- The magnitudes of the E2M1 grid in halves, by code. -/
def e2m1Grid : List Nat := [0, 1, 2, 3, 4, 6, 8, 12]

/-- Round |v| / s to the E2M1 grid, where 2 |v| / s = p / q: the code and whether it saturated. -/
def e2m1Round (r : DrainRnd) (p q : Nat) : Nat × Bool :=
  if p > 12 * q then (7, true)
  else
    let k := ((List.range 8).filter (fun k => e2m1Mag k * q ≤ p)).length - 1
    if k = 7 then (7, false)
    else
      let lo := e2m1Mag k
      let hi := e2m1Mag (k + 1)
      (k + b2n (r.up (k % 2 = 1) (p - lo * q) ((hi - lo) * q)), false)

/-- The coarse exponent of R56 before its clamps: the smallest e with 17.25 * 2^e >= m * 2^x (m positive). -/
def coarseExp (m : Nat) (x : Int) : Int :=
  let t : Int := Nat.log2 m + x
  if leExp m x 69 (t - 6) then t - 4 else t - 3

/-- The fine multiplier of a half (R56). -/
def fineMult (e : Int) (h : Nat × Int) : Nat :=
  (firstBelow 16 (fun f => leExp h.1 h.2 (6 * (8 + f)) (e - 3))).getD 15

/-- One column of an E2M1 drain (R56, R84): its live accumulators by row, the rounding of each row; the 18 bytes of
the tiered block and whether SAT is set. -/
def e2m1Block (col : List Acc) (rnd : Nat → DrainRnd) : List Byte × Bool :=
  if col.any (fun c => c.nan) then (leBytes 16 0 ++ [0xFF, 0x00], false)
  else
    let h0 := maxMag (col.take 16)
    let h1 := maxMag (col.drop 16)
    let big := if leExp h0.1 h0.2 h1.1 h1.2 then h1 else h0
    let e : Int := if big.1 = 0 then 0 else max (-127) (min 127 (coarseExp big.1 big.2))
    let f (h : Nat) : Nat := if big.1 = 0 then 0 else fineMult e (if h = 0 then h0 else h1)
    let code (i : Nat) (c : Acc) : Nat × Bool :=
      if c.empty || c.v = 0 then (0, false)
      else
        -- 2 |v| / s = 16 m 2^x / (2^e (8 + f))
        let x := c.exp - e
        let r := e2m1Round (rnd i) (16 * c.v.natAbs * 2 ^ x.toNat) ((8 + f (i / 16)) * 2 ^ (-x).toNat)
        (if r.1 = 0 then 0 else r.1 + 8 * b2n (c.v < 0), r.2)
    let codes := (List.range 32).map (fun i =>
      match col[i]? with
      | some c => code i c
      | none => (0, false))
    (leBytes 16 (codes.foldr (fun c v => c.1 + 16 * v) 0) ++
      [BitVec.ofNat 8 (e + 127).toNat, BitVec.ofNat 8 (f 1 * 16 + f 0)], codes.any (fun c => c.2))

end Sys2Proof.Machine
end

