-- ==== Sys2Proof/Machine/Sending.lean ====
section
/-! DEFINITION. The message instructions and SREAD (R105, R119 to R125, Tables 4.5, 4.10, 4.11). Their operands are thread
0's and their results go to every active thread (R100). -/

namespace Sys2Proof.Machine

/-- Register r of thread 0. -/
def r0 (g : Group) (r : Nat) : Nat := (rget g 0 r).toNat

/-- Write one register of every active thread. -/
def putActive (s : State) (t slot r v : Nat) : State := updGroup s t slot (fun g => rsetActive g r (BitVec.ofNat 32 v))

/-! ### SEND (R120) -/

/-- The tiles of a rectangle, in rows. -/
def rectTiles (x0 y0 x1 y1 : Nat) : List Nat :=
  (List.range (y1 + 1 - y0)).flatMap (fun j => (List.range (x1 + 1 - x0)).map (fun i => (y0 + j) * 64 + x0 + i))

/-- Is a rectangle well formed and inside the tiles of partition p, none of them out of service (R120, R285, R378)? -/
def rectOk (s : State) (p : Option Nat) (x0 y0 x1 y1 : Nat) : Bool :=
  x0 ≤ x1 && y0 ≤ y1 && x1 < 64 && y1 < 64 &&
    (match p with
      | some p => (rectTiles x0 y0 x1 y1).all (fun t => tileInPart s p t && !isOut s (.tile t))
      | none => false)

/-- Is a message handle free (R120)? -/
def handleFree (x : Tile) (h : Nat) : Bool := x.sends.all (fun m => m.h != h)

/-- The message a SEND descriptor at register r describes, under handle h. -/
def sendEntry (g : Group) (slot r h : Nat) : Send :=
  let rect := r0 g (r + 2)
  let x0 := bits rect 7 0
  let y0 := bits rect 15 8
  let x1 := bits rect 23 16
  let y1 := bits rect 31 24
  let ds := rectTiles x0 y0 x1 y1
  { h := h, slot := slot, off := bits (r0 g r) 19 0, len := bits (r0 g (r + 1)) 16 0, x0 := x0, y0 := y0, x1 := x1, y1 := y1,
    q := bits (r0 g (r + 3)) 2 0, tag := BitVec.ofNat 16 (bits (r0 g (r + 3)) 31 16), phase := .reserving, asked := ds,
    dests := ds, grants := [], granted := [], written := [], lost := [], damaged := false, late := false, payload := [], inj := 0 }

/-- Is a descriptor valid (R120)? -/
def sendOk (s : State) (t : Nat) (m : Send) : Bool :=
  m.len ≤ 65536 && m.off + m.len ≤ 2 ^ 20 && rectOk s (partOfTile s t) m.x0 m.y0 m.x1 m.y1

def rowSend : Row := rowG 128 (fun w => wQ w == 0) (fun w => [spU (wWA w) 4]) (fun w => [sp (wWD w) 1])
/-- SEND: not issued while the send list is full. -/
def execSend (t slot : Nat) (w : DWord) (s : State) : Host.Outcome State Fault Refusal :=
  issue rowSend t slot w s (fun s =>
    match pick s 32 (handleFree (tileOf s t)) with
    | none => .hold .waitMsg
    | some (h, s') =>
      let m := sendEntry (grp s t slot) slot (wWA w) h
      if sendOk s t m then
        .done (putActive (updTile s' t (fun x => { x with sends := x.sends ++ [m] })) t slot (wWD w) h)
      else .trap s 0x1A 0)

/-! ### RECV, MFREE (R124, R125) -/

/-- A RECV that delivers nothing: status in WD, zeros after it. -/
def recvNone (s : State) (t slot wd status : Nat) : State :=
  putActive (putActive (putActive (putActive s t slot wd (status * 2 ^ 28)) t slot (wd + 1) 0) t slot (wd + 2) 0) t slot (wd + 3) 0

def rowRecv : Row := rowG 129 anyFields (fun w => [sp (wWA w) 1]) (fun w => [spU (wWD w) 4])
/-- RECV. -/
def execRecv (t slot : Nat) (w : DWord) (s : State) : Host.Outcome State Fault Refusal :=
  issue rowRecv t slot w s (fun s =>
    let q := wQ w
    let lim := bits (r0 (grp s t slot) (wWA w)) 19 0
    match oldestWritten (ringOf (tileOf s t) q) with
    | some m => .done (deliver s t slot q (wWD w) m)
    | none =>
      if lim = 0 then .done (recvNone s t slot (wWD w) 2)
      else
        let s := updGroup s t slot (fun g => { g with st := .waitMsg, wait := .recv q (wWD w) lim })
        let r := ringOf (tileOf s t) q
        .done (updTile s t (fun x => setRing x q { r with waiters := r.waiters ++ [slot] })))

/-- The oldest delivered message of a ring. -/
def oldestDelivered (r : Ring) : Option RingSpace :=
  (r.spaces.filter (fun x => x.st == .delivered)).foldl (fun b x => match b with
    | none => some x
    | some y => if x.age < y.age then some x else some y) none

/-- Free one space of a ring; skip records in front of what is then the oldest space go with it. -/
def dropSpace (r : Ring) (m : RingSpace) : Ring :=
  let sp := dropOne m r.spaces
  { r with spaces := if sp.any (fun x => x.st != .skip) then dropSkips sp else [] }

def rowMfree : Row := rowG 132 (fun w => wWD w == 0 && wWA w == 0) (fun _ => []) (fun _ => [])
/-- MFREE: the freed space may let held reservations be granted. -/
def execMfree (t slot : Nat) (w : DWord) (s : State) : Host.Outcome State Fault Refusal :=
  issue rowMfree t slot w s (fun s =>
    let r := ringOf (tileOf s t) (wQ w)
    match oldestDelivered r with
    | none => .trap s 0x1B 0
    | some m => .done (makeGrants (updTile s t (fun x => setRing x (wQ w) (dropSpace r m))) t (wQ w)))

/-! ### MSTAT, MCANCEL (R123) -/

/-- The message that tile code knows by a handle: those of the attention pipe have a slot of 8 or more. -/
def codeSend (s : State) (t h : Nat) : Option Send := (tileOf s t).sends.find? (fun m => m.h == h && m.slot < 8)

def rowMstat : Row := rowG 130 (fun w => wQ w == 0) (fun w => [sp (wWA w) 1]) (fun w => [sp (wWD w) 1])
/-- MSTAT. -/
def execMstat (t slot : Nat) (w : DWord) (s : State) : Host.Outcome State Fault Refusal :=
  issue rowMstat t slot w s (fun s =>
    let h := r0 (grp s t slot) (wWA w) % 32
    match codeSend s t h with
    | none => .done (putActive s t slot (wWD w) 15)
    | some m =>
      match m.phase with
      | .final st =>
        .done (putActive (updTile s t (fun x => { x with sends := x.sends.filter (fun m => m.h != h) })) t slot (wWD w) st)
      | _ => .done (updGroup s t slot (fun g => { g with st := .waitMsg, wait := .mstat h (wWD w) })))

def rowMcancel : Row := rowG 131 (fun w => wQ w == 0 && wWD w == 0) (fun w => [sp (wWA w) 1]) (fun _ => [])
/-- MCANCEL: status 1 before arbitration, a late mark after it, nothing once final. -/
def execMcancel (t slot : Nat) (w : DWord) (s : State) : Host.Outcome State Fault Refusal :=
  issue rowMcancel t slot w s (fun s =>
    let h := r0 (grp s t slot) (wWA w) % 32
    match codeSend s t h with
    | none => .done s
    | some m =>
      match m.phase with
      | .final _ => .done s
      | .injected => .done (updSend s t h (fun m => { m with late := true }))
      | _ => .done (addSat (failSend s t m 1) (oMSGSTAT t) 47 32 1))

/-! ### SREAD (R105, Table 4.5) -/

/-- The launch of a group, or zeros. -/
def launchOf (g : Group) : LaunchRef := g.launch.getD ⟨8, 0, 0, 0⟩

/-- The 32-bit system values; the thread index differs per thread. -/
def sysValue (s : State) (t slot sel th : Nat) : Nat :=
  let g := grp s t slot
  match sel with
  | 0x00 => th
  | 0x01 => slot
  | 0x02 => t % 64
  | 0x03 => t / 64
  | 0x04 => tilesX s.asm
  | 0x05 => tilesY s.asm
  | 0x06 => (partOfTile s t).getD 8
  | 0x07 => devId s
  | 0x08 => g.argAt
  | 0x09 => (launchOf g).tag.toNat
  | 0x0A => (launchOf g).rect.toNat
  | _ => g.fp.toNat

/-- Write a 64-bit value to pair r of every active thread. -/
def putPair (s : State) (t slot r v : Nat) : State := putActive (putActive s t slot r v) t slot (r + 1) (v / 2 ^ 32)

def rowSread : Row :=
  rowG 192 (fun w => wSEL w ≤ 0x0E && wWA w == 0 && fld w 31 0 == 0) (fun _ => [])
    (fun w => [if wSEL w = 0x0B ∨ wSEL w = 0x0C then sp (wWD w) 2 else sp (wWD w) 1])
/-- SREAD. The crest-core cycle count (0x0B) belongs to a clock the model does not have: a free value
(notes/assumptions/12.md). -/
def execSread (t slot : Nat) (w : DWord) (s : State) : Host.Outcome State Fault Refusal :=
  issue rowSread t slot w s (fun s =>
    let sel := wSEL w
    if sel = 0x0B then let d := draw s; .done (putPair d.2 t slot (wWD w) d.1.toNat)
    else if sel = 0x0C then .done (putPair s t slot (wWD w) (reg s oTGNOW).toNat)
    else
      let s' := updGroup s t slot (fun g =>
        (setBits 32 g.active.toNat).foldl (fun g th => rset g th (wWD w) (BitVec.ofNat 32 (sysValue s t slot sel th))) g)
      .done (if sel = 0x0E then updGroup s' t slot (fun g => { g with fp := 0 }) else s'))

end Sys2Proof.Machine
end

