-- ==== Sys2Proof/Machine/Arrays.lean ====
section
/-! DEFINITION. The five array instructions and the Cupping shadow (R32 to R92): operand layouts, fault causes in the
order of R92, contributions, drains and flags. -/

namespace Sys2Proof.Machine

/-! ### Shared parts -/

def aARR (w : DWord) : Nat := fld w 55 54
def aM (w : DWord) : Nat := fld w 53 49 + 1
def aN (w : DWord) : Nat := fld w 48 46 + 1

/-- The first cause of a list of conditions in order (R92). -/
def firstCause (l : List (Bool × Nat)) : Option Nat := (l.find? (·.1)).map (·.2)

/-- Flag bits of Table 2.5: 1 INEXACT, 2 SAT, 4 NAN, 8 NANSCALE, in the block and the cumulative field (R57). -/
def ArrayUnit.flag (a : ArrayUnit) (f : BitVec 4) : ArrayUnit := { a with blk := a.blk ||| f, cum := a.cum ||| f }

/-- The accumulator of element (i, j). -/
def accAt (a : ArrayUnit) (i j : Nat) : Acc := SMap.get Acc.reset a.accs (8 * i + j)
def setAcc (a : ArrayUnit) (i j : Nat) (x : Acc) : ArrayUnit := { a with accs := SMap.set Acc.reset a.accs (8 * i + j) x }

/-- Does slot own the array? -/
def owns (a : ArrayUnit) (slot : Nat) : Bool := a.owner == some (.group slot)

/-- Must AZERO or a binding ALOAD wait (R72)? -/
def boundElsewhere (a : ArrayUnit) (slot : Nat) : Bool := a.owner.isSome && !owns a slot

/-- Open a block (R42, R57, R72). -/
def ArrayUnit.openBlock (a : ArrayUnit) (slot m n : Nat) : ArrayUnit :=
  { a with owner := some (.group slot), m := m, n := n, accs := [], blk := 0, amuls := 0, narrow := true, kTot := 0 }

/-- The array rows: their own fields are checked under R92. -/
def rowA (key : Nat) : Row :=
  { key := key, imm := false, ok := anyFields, srcs := fun _ => [], dsts := fun _ => [], grp := true }

/-- An array instruction: pending registers, then the conditions of R92, then the waits (R72, R85), then the registers
it reads, then its effect. -/
def arrayBody (t slot : Nat) (w : DWord) (s : State) (keys : List Nat) (dsts : List Span) (causes : List (Bool × Nat))
    (waits : Bool) (k : State → Res) : Res :=
  if (pendingRegs s t slot).any (fun r => dsts.any (fun sp => sp.has r) || keys.any (fun x => x % 128 == r)) then .hold .waitRegs
  else match firstCause causes with
    | some c => .atrap s c (aARR w)
    | none =>
      if waits || (arr s t (aARR w)).shadow.isSome then .hold .waitArray
      else
        let r := readRegs s t slot keys
        if r.2 then .lost r.1 else k r.1

/-- Keys of registers [r, r + n) of thread th, those beyond w127 left out. -/
def regKeys (th r n : Nat) : List Nat := ((List.range n).filter (fun i => r + i < 128)).map (fun i => th * 128 + r + i)

/-- A range of tile memory bytes lies outside 1 MiB. -/
def outside (a n : Nat) : Bool := a + n > 2 ^ 20

/-! ### AZERO (R42, R72) -/

/-- AZERO. -/
def execAzero (t slot : Nat) (w : DWord) (s : State) : Host.Outcome State Fault Refusal :=
  issue (rowA 160) t slot w s (fun s =>
    arrayBody t slot w s [] [] [(fld w 45 0 != 0, 0x08)] (boundElsewhere (arr s t (aARR w)) slot) (fun s =>
      .done (updArray s t (aARR w) (fun a => a.openBlock slot (aM w) (aN w)))))

/-! ### ALOAD (R49, R82) -/

/-- Load one FP32 value into an accumulator; the flags it raises. -/
def loadFp32 (c : Acc) (v : Nat) : Acc × BitVec 4 :=
  match fp32.dec v with
  | .fin n m e => let r := c.add (if n then -(m : Int) else m) e; (r.1, if r.2 then 1 else 0)
  | _ => ({ c with nan := true }, 4)

/-- Load one raw record. -/
def loadRaw (c : Acc) (b : List Byte) : Acc × BitVec 4 :=
  let r := RawRec.ofBytes b
  let x := c.load r
  (x.1, (if x.2 then 1 else 0) ||| (if r.nan then 4 else 0))

/-- Load every live element. -/
def loadAll (a : ArrayUnit) (f : Nat → Nat → Acc → Acc × BitVec 4) : ArrayUnit :=
  (List.range a.m).foldl (fun a i => (List.range a.n).foldl (fun a j =>
    let r := f i j (accAt a i j)
    (setAcc a i j r.1).flag r.2) a) a

/-- ALOAD. With SRC = 0 the register range that cause 0x04 judges is the N registers of the live columns, though Table 3.2
calls W the first of 8 source registers: a masked column is not read (DEDUCED, notes/assumptions/78.md). -/
def execAload (t slot : Nat) (w : DWord) (s : State) : Host.Outcome State Fault Refusal :=
  issue (rowA 161) t slot w s (fun s =>
    let a := arr s t (aARR w)
    let bind := bit w.toNat 45
    let raw := bit w.toNat 44
    let r := fld w 43 37
    let m := if bind then aM w else a.m
    let n := if bind then aN w else a.n
    let at_ := bits (r0 (grp s t slot) r) 19 0
    let keys := if raw then [r] else (List.range m).flatMap (fun i => regKeys i r n)
    let causes := [(fld w 36 0 != 0, 0x08), (!bind && !owns a slot, 0x05), (!raw && r + n > 128, 0x04),
      (raw && (at_ % 32 != 0 || outside (at_ + (8 * (m - 1) + (n - 1)) * 32) 32), 0x06)]
    arrayBody t slot w s keys [] causes (bind && boundElsewhere a slot) (fun s =>
      let g := grp s t slot
      let a0 := if bind then a.openBlock slot m n else a
      if raw then
        let recs := (List.range m).flatMap (fun i => (List.range n).map (fun j => at_ + (8 * i + j) * 32))
        let c := tmWords s t 1 (nub (recs.flatMap (fun b => wordsOf b 32)))
        if recs.any (fun b => wantsBad c.2 b 32) then
          .atrap (setArray c.1 t (aARR w) a0) 0x09 (aARR w)
        else
          let mem := (tileOf c.1 t).mem
          .done (setArray c.1 t (aARR w) (loadAll a0 (fun i j x => loadRaw x (Mem.read mem (at_ + (8 * i + j) * 32) 32))))
      else .done (setArray s t (aARR w) (loadAll a0 (fun i j x => loadFp32 x (rget g i (r + j)).toNat)))))

/-! ### AMUL (R33 to R44, R76 to R81) -/

/-- The operand fields of an AMUL (Table 3.3). -/
structure AmulOp where
  fa   : Nat
  fb   : Nat
  lay  : Nat
  d    : Nat
  mem  : Bool
  wa   : Nat
  wb   : Nat
  k    : Nat
  deriving DecidableEq, Repr

def amulOp (w : DWord) : AmulOp :=
  ⟨fld w 53 50, fld w 49 46, fld w 45 44, fld w 43 40, bit w.toNat 39, fld w 38 32, fld w 31 25, fld w 24 13⟩

/-- Is the layout block-scaled? -/
def AmulOp.scaled (o : AmulOp) : Bool := o.lay == 1 || o.lay == 2

/-- Kpad (R81). -/
def AmulOp.kpad (o : AmulOp) : Nat := if o.scaled then 32 * cdiv o.k 32 else kStep o.fa * cdiv o.k (kStep o.fa)

/-- Element words of a register operand of format f (R77). -/
def AmulOp.elemWords (o : AmulOp) (f : Nat) : Nat := cdiv o.kpad (32 / elemBits f)

/-- All words of a register operand: elements and scale data (R77). -/
def AmulOp.regWords (o : AmulOp) (f : Nat) : Nat :=
  o.elemWords f + (if o.scaled then cdiv (o.kpad / 32) 2 else if o.lay = 3 then 1 else 0)

/-- Does a layout admit a format (Table 3.7)? -/
def layAdmits (lay f : Nat) : Bool :=
  match lay with
  | 0 => f < 10
  | 1 => f < 5
  | 2 => f == 0 || f == 5 || f == 6 || f == 7
  | _ => f == 7

/-- The B descriptor (Table 3.8). -/
structure BDesc where
  spitch : Nat
  sbase  : Nat
  pitch  : Nat
  base   : Nat
  deriving DecidableEq, Repr

def bDesc (v : DWord) : BDesc := ⟨fld v 63 56, fld v 55 36, fld v 35 20, fld v 19 0⟩

/-- Bytes of a tiered block of format f (Table 2.2). -/
def tieredSize (f : Nat) : Nat := 32 * elemBits f / 8 + 2

/-- The byte ranges that column j of B takes from tile memory (R79). -/
def feedRanges (o : AmulOp) (b : BDesc) (j : Nat) : List (Nat × Nat) :=
  let col := b.base + j * b.pitch
  match o.lay with
  | 1 => [(col, o.kpad / 32 * tieredSize o.fb)]
  | 2 => [(col, o.kpad * elemBits o.fb / 8), (b.sbase + j * 16 * b.spitch, o.kpad / 32)]
  | 3 => [(col, o.kpad), (b.sbase + 2 * j, 2)]
  | _ => [(col, o.kpad * elemBits o.fb / 8)]

/-- Element k of packed bits. -/
def packed (f v k : Nat) : Elem := decElem f (v / 2 ^ (k * elemBits f) % 2 ^ elemBits f)

/-- An operand row or column: its elements, the scale of each block, its exponent (slice layout). -/
structure Vec1 where
  elems  : List Elem
  scales : List Scale
  e      : Int
  deriving DecidableEq, Repr

/-- A row of A, or a column of B, from registers of a thread (R77, R78). -/
def regVec (o : AmulOp) (g : Group) (th r f : Nat) : Vec1 :=
  let ne := o.elemWords f
  let v := leNat (rbytes g th r ne)
  let sc (q : Nat) : Scale :=
    let h := (rget g th (r + ne + q / 2)).toNat / 2 ^ (16 * (q % 2)) % 65536
    ⟨h % 256, if o.lay = 1 then h / 256 else 0⟩
  ⟨(List.range o.kpad).map (packed f v), if o.scaled then (List.range (o.kpad / 32)).map sc else [],
   if o.lay = 3 then sext 16 (rget g th (r + ne)).toNat else 0⟩

/-- A column of B from tile memory (R79). -/
def memVec (o : AmulOp) (mem : List Host.Cell) (b : BDesc) (j : Nat) : Vec1 :=
  let col := b.base + j * b.pitch
  if o.lay = 1 then
    let sz := tieredSize o.fb
    let blk (q : Nat) : Nat := Mem.nat mem (col + q * sz) (sz - 2)
    ⟨(List.range o.kpad).map (fun k => packed o.fb (blk (k / 32)) (k % 32)),
     (List.range (o.kpad / 32)).map (fun q => ⟨Mem.nat mem (col + q * sz + sz - 2) 1, Mem.nat mem (col + q * sz + sz - 1) 1⟩), 0⟩
  else
    let v := Mem.nat mem col (o.kpad * elemBits o.fb / 8)
    ⟨(List.range o.kpad).map (packed o.fb v),
     if o.lay = 2 then (List.range (o.kpad / 32)).map (fun q => ⟨Mem.nat mem (b.sbase + j * 16 * b.spitch + q) 1, 0⟩) else [],
     if o.lay = 3 then sext 16 (Mem.nat mem (b.sbase + 2 * j) 2) else 0⟩

/-- The contributions of a row and a column in order (R43, R80). -/
def contribs (o : AmulOp) (x y : Vec1) : List Contrib :=
  if o.scaled then
    (List.range (o.kpad / 32)).map (fun q =>
      let cut (v : Vec1) (f : Nat) : List Elem :=
        ((v.elems.drop (32 * q)).take 32).map (fun e => if o.lay = 2 then mxElem f e else e)
      blockContrib (x.scales.getD q ⟨0, 0⟩) (y.scales.getD q ⟨0, 0⟩) (cut x o.fa) (cut y o.fb))
  else
    let ks := kStep o.fa
    (List.range (o.kpad / ks)).map (fun c =>
      let r := dotElems (fun _ => 1) ((x.elems.drop (ks * c)).take ks) ((y.elems.drop (ks * c)).take ks)
      if o.lay = 3 then ⟨r.i, r.e + x.e + y.e - 12 - 8 * o.d, r.nan⟩ else r)

/-- Flags that an operand raises: NAN for a NaN or infinite element, NAN and NANSCALE for a scale of 0xFF (R36, R37). -/
def vecFlags (v : Vec1) : BitVec 4 :=
  if v.scales.any (fun s => s.coarse == 255) then 0xC else if v.elems.any Option.isNone then 4 else 0

/-- Apply contributions to one accumulator. -/
def accApply (c : Acc) (l : List Contrib) : Acc × Bool :=
  l.foldl (fun r k => let x := r.1.contribute k; (x.1, r.2 || x.2)) (c, false)

/-- What an AMUL, one with K = 0 included, notes for Cupping (R58, R59): that it ran, whether its formats are four bits or
narrower, and its formats. R59 and R60 speak of "the sources" of a block as if its AMULs agreed; where they do not, the
formats of the block's last AMUL stand for them all, in the period and in the whole shadow (DESIGN CHOICE,
notes/assumptions/41.md). -/
def ArrayUnit.noteFormats (a : ArrayUnit) (fa fb : Nat) : ArrayUnit :=
  { a with amuls := a.amuls + 1, narrow := a.narrow && fa < 5 && fb < 5, fmtA := BitVec.ofNat 4 fa, fmtB := BitVec.ofNat 4 fb }

/-- Apply an AMUL's rows and columns to an array. -/
def amulApply (o : AmulOp) (a : ArrayUnit) (rows cols : List Vec1) : ArrayUnit :=
  let fl := (rows ++ cols).foldl (fun f v => f ||| vecFlags v) 0
  let r := ((List.range a.m).zip rows).foldl (fun r x => ((List.range a.n).zip cols).foldl (fun (r : ArrayUnit) y =>
    let c := accApply (accAt r x.1 y.1) (contribs o x.2 y.2)
    (setAcc r x.1 y.1 c.1).flag (if c.2 then 1 else 0)) r) a
  { (r.flag fl).noteFormats o.fa o.fb with kTot := r.kTot + o.kpad }

/-- The conditions of R92 for an AMUL. R91 exempts the register and address ranges of an AMUL with K = 0; the model takes
the pair rule of WB, which stands in the same cause 0x04, to be exempt with them (DEDUCED, notes/assumptions/78.md). -/
def amulCauses (w : DWord) (o : AmulOp) (a : ArrayUnit) (slot : Nat) (b : BDesc) : List (Bool × Nat) :=
  [(fld w 12 0 != 0, 0x08),
   (o.fa > 9 || o.fb > 9 || !layAdmits o.lay o.fa || !layAdmits o.lay o.fb, 0x02),
   (kStep o.fa != kStep o.fb, 0x01),
   (o.d > 8 || (o.d != 0 && o.lay != 3), 0x03),
   (!owns a slot, 0x05),
   (o.k != 0 && (o.wa + o.regWords o.fa > 128 || (if o.mem then o.wb % 2 == 1 else o.wb + o.regWords o.fb > 128)), 0x04),
   (o.k != 0 && o.mem && (List.range a.n).any (fun j => (feedRanges o b j).any (fun r => outside r.1 r.2)), 0x06)]

/-- AMUL. With K = 0 nothing is read and nothing changes (R91). -/
def execAmul (t slot : Nat) (w : DWord) (s : State) : Host.Outcome State Fault Refusal :=
  issue (rowA 162) t slot w s (fun s =>
    let o := amulOp w
    let a := arr s t (aARR w)
    let b := bDesc (rget2 (grp s t slot) 0 o.wb)
    let keys := if o.k = 0 then [] else
      (List.range a.m).flatMap (fun i => regKeys i o.wa (o.regWords o.fa)) ++
      (if o.mem then regKeys 0 o.wb 2 else (List.range a.n).flatMap (fun j => regKeys j o.wb (o.regWords o.fb)))
    arrayBody t slot w s keys [] (amulCauses w o a slot b) false (fun s =>
      if o.k = 0 then
        .done (updArray s t (aARR w) (fun a => a.noteFormats o.fa o.fb))
      else
        let g := grp s t slot
        let rs := if o.mem then (List.range a.n).flatMap (feedRanges o b) else []
        let c := tmWords s t 1 (nub (rs.flatMap (fun r => wordsOf r.1 r.2)))
        if rs.any (fun r => wantsBad c.2 r.1 r.2) then .atrap c.1 0x09 (aARR w)
        else
          let rows := (List.range a.m).map (fun i => regVec o g i o.wa o.fa)
          let mem := (tileOf c.1 t).mem
          let cols := (List.range a.n).map (fun j => if o.mem then memVec o mem b j else regVec o g j o.wb o.fb)
          .done (setArray c.1 t (aARR w) (amulApply o a rows cols))))

/-! ### ADRAIN (R50 to R56, R83, R84) -/

/-- The operand fields of an ADRAIN (Table 3.4). -/
structure DrainOp where
  fmt  : Nat
  rnd  : Nat
  mem  : Bool
  keep : Bool
  w    : Nat
  seed : Nat
  deriving DecidableEq, Repr

def drainOp (w : DWord) : DrainOp := ⟨fld w 53 51, fld w 50 49, bit w.toNat 48, bit w.toNat 47, fld w 46 40, fld w 39 33⟩

/-- Does the drain use the stochastic seed? -/
def DrainOp.seeded (o : DrainOp) : Bool := o.rnd ≥ 2 && o.fmt != 4

/-- Bytes of a drained element. -/
def DrainOp.size (o : DrainOp) : Nat :=
  match o.fmt with
  | 0 => 4
  | 1 => 2
  | 2 => 1
  | 4 => 32
  | _ => 1

/-- The floating format of a drain code. -/
def drainFmt (f : Nat) : FFmt := if f = 0 then fp32 else if f = 1 then bf16 else fe4m3

/-- Registers a drain of n columns writes (R83). -/
def DrainOp.regs (o : DrainOp) (n : Nat) : Nat := cdiv (n * o.size) 4

/-- How element idx of array `no` of tile t rounds (R51, R54). -/
def drainRnd (o : DrainOp) (seed t no idx : Nat) : DrainRnd :=
  ⟨min o.rnd 2, if o.rnd = 2 then stochU seed (t % 64) (t / 64) no idx else if o.rnd = 3 then stochU seed 0 0 0 idx else 0⟩

/-- Does a drain to tile memory leave 1 MiB? -/
def drainOutside (o : DrainOp) (m n at_ pitch : Nat) : Bool :=
  match o.fmt with
  | 3 => (List.range n).any (fun j => outside (at_ + j * pitch) 18)
  | 4 => outside (at_ + (8 * (m - 1) + (n - 1)) * 32) 32
  | _ => (List.range m).any (fun i => outside (at_ + i * pitch) (n * o.size))

/-- The conditions of R92 for an ADRAIN; `desc` is the drain descriptor (Table 3.9). -/
def drainCauses (w : DWord) (o : DrainOp) (a : ArrayUnit) (slot : Nat) (desc : DWord) : List (Bool × Nat) :=
  [(fld w 32 0 != 0, 0x08), (o.fmt > 4, 0x02), (!owns a slot, 0x05), (!o.mem && (o.fmt == 3 || o.fmt == 4), 0x07),
   ((if o.mem then o.w % 2 == 1 else o.w + o.regs a.n > 128) || (o.seeded && o.seed % 2 == 1), 0x04),
   (o.mem && (fld desc 63 36 != 0 || fld desc 19 0 % o.size != 0 || drainOutside o a.m a.n (fld desc 19 0) (fld desc 35 20)), 0x06)]

/-- The bytes of a drained floating element, and whether it saturated. -/
def drainElem (o : DrainOp) (a : ArrayUnit) (seed t no i j : Nat) : List Byte × Bool :=
  let r := (accAt a i j).drain (drainFmt o.fmt) (drainRnd o seed t no (8 * i + j))
  (leBytes o.size r.1, r.2)

/-- A whole drain to tile memory: the cells, whether it saturated. -/
def drainCells (o : DrainOp) (a : ArrayUnit) (seed t no at_ pitch : Nat) : List Host.Cell × Bool :=
  match o.fmt with
  | 3 => (List.range a.n).foldl (fun r j =>
      let b := e2m1Block ((List.range a.m).map (fun i => accAt a i j)) (fun i => drainRnd o seed t no (8 * i + j))
      (r.1 ++ Mem.lay (at_ + j * pitch) b.1, r.2 || b.2)) ([], false)
  | 4 => ((List.range a.m).flatMap (fun i => (List.range a.n).flatMap (fun j =>
      Mem.lay (at_ + (8 * i + j) * 32) ((accAt a i j).record (bit a.blk.toNat 0)))), false)
  | _ => (List.range a.m).foldl (fun r i => (List.range a.n).foldl (fun r j =>
      let e := drainElem o a seed t no i j
      (r.1 ++ Mem.lay (at_ + i * pitch + j * o.size) e.1, r.2 || e.2)) r) ([], false)

/-- A drain of row i into registers from r of thread i: fields of masked columns keep what they hold (R83). -/
def drainRow (o : DrainOp) (a : ArrayUnit) (seed t no i r : Nat) (g : Group) : Group × Bool :=
  (List.range a.n).foldl (fun (x : Group × Bool) j =>
    let e := drainElem o a seed t no i j
    let q := r + j * o.size / 4
    let pos := 8 * (j * o.size % 4)
    let old := (rget x.1 i q).toNat
    let keep := old - bits old (pos + 8 * o.size - 1) pos * 2 ^ pos
    (rset x.1 i q (BitVec.ofNat 32 (keep + leNat e.1 * 2 ^ pos)), x.2 || e.2)) (g, false)

/-- Is the block of an array eligible for Cupping on this tile (R58)? A block without any AMUL has no source format and is
not eligible (DESIGN CHOICE, notes/assumptions/41.md). -/
def cupEligible (s : State) (t no : Nat) (a : ArrayUnit) : Bool :=
  a.narrow && a.amuls != 0 && bit (regF s (oCUPCTL t) 19 16) no && regF s (oSHADOWA t) 47 32 != 0 && regF s (oSHADOWB t) 47 32 != 0

/-- Does TIL_CUP_CTL.MODE permit sampling (R58)? -/
def cupMode (s : State) (t : Nat) : Bool :=
  match regF s (oCUPCTL t) 1 0 with
  | 1 => true
  | 2 => (partOfTile s t).any (fun p => bit s.tg.cupOpen.toNat p)
  | _ => false

/-- The period r * N of sampling (R59), with r from the A format of the block's last AMUL and one count for both values
of r (DESIGN CHOICE, notes/assumptions/41.md). -/
def cupPeriod (s : State) (t : Nat) (a : ArrayUnit) : Nat :=
  (if kStep a.fmtA.toNat = 8 then 4 else 8) * 2 ^ max 4 (min 20 (regF s (oCUPCTL t) 12 8))

/-- The end of a block at its releasing ADRAIN (R59, R61, R72): the array is released; an eligible block is counted, and
a sampled one starts its shadow, all of it in the operand formats that the last AMUL's sources ask for (DESIGN CHOICE,
notes/assumptions/41.md). -/
def releaseBlock (s : State) (t no : Nat) : State :=
  let a := arr s t no
  let el := cupEligible s t no a
  let cnt := if el then a.eligible + 1 else a.eligible
  let c4 := (List.range 256).map (fun i => BitVec.ofNat 32 ((accAt a (i / 8) (i % 8)).drain fp32 ⟨0, 0⟩).1)
  let sh : Option Shadow :=
    if el && cnt % cupPeriod s t a == 0 && cupMode s t then some ⟨a.m, a.n, a.kTot, a.fmtA != 0, a.fmtB != 0, c4⟩ else none
  setArray s t no { a with owner := none, accs := [], eligible := cnt, shadow := sh }

/-- ADRAIN. A drain with KEEP = 1 that saturates sets SAT as R52 and Table 2.5 say, where R91 says that it leaves "the
other block flags as they were": the flags it finds stay, and SAT of its own conversion is added (DEDUCED,
notes/assumptions/78.md). -/
def execAdrain (t slot : Nat) (w : DWord) (s : State) : Host.Outcome State Fault Refusal :=
  issue (rowA 163) t slot w s (fun s =>
    let o := drainOp w
    let no := aARR w
    let a := arr s t no
    let g := grp s t slot
    let desc := rget2 g 0 o.w
    let seed := if o.seeded then (rget2 g 0 o.seed).toNat else 0
    let keys := (if o.mem then regKeys 0 o.w 2 else if o.size < 4 then (List.range a.m).flatMap (fun i => regKeys i o.w (o.regs a.n)) else []) ++
      (if o.seeded then regKeys 0 o.seed 2 else [])
    let dsts := if o.mem then [] else [spU o.w (o.regs a.n)]
    arrayBody t slot w s keys dsts (drainCauses w o a slot desc) false (fun s =>
      let sat (b : Bool) (s : State) : State := if b then updArray s t no (fun a => a.flag 2) else s
      let fin (s : State) : Res := .done (if o.keep then s else releaseBlock s t no)
      if o.mem then
        let c := drainCells o a seed t no (fld desc 19 0) (fld desc 35 20)
        fin (sat c.2 (tmWrite s t 1 c.1))
      else
        let r := (List.range a.m).foldl (fun (x : Group × Bool) i =>
          let y := drainRow o a seed t no i o.w x.1
          (y.1, x.2 || y.2)) (grp s t slot, false)
        fin (sat r.2 (setGroup s t slot r.1))))

/-! ### ASTAT (R57, R85) -/

/-- ASTAT: waits for a shadow, then returns the flag word of Table 2.5. -/
def execAstat (t slot : Nat) (w : DWord) (s : State) : Host.Outcome State Fault Refusal :=
  issue (rowA 164) t slot w s (fun s =>
    let no := aARR w
    let r := fld w 52 46
    arrayBody t slot w s [] [sp r 1] [(fld w 45 0 != 0, 0x08)] false (fun s =>
      let a := arr s t no
      let s := putActive s t slot r (a.blk.toNat + 256 * a.cum.toNat)
      .done (if bit w.toNat 53 then updArray s t no (fun a => { a with cum := 0 }) else s)))

/-! ### Cupping (R58 to R63) -/

/-- Is a shadow operand inside tile memory? -/
def shadowRange (base pitch rows kTot : Nat) : Bool := !outside (base + (rows - 1) * pitch) (cdiv kTot 32 * 33)

/-- A shadow row or column (R60): 33-byte blocks of 32 elements and a scale, in the MX layout. -/
def shadowVec (mem : List Host.Cell) (base kTot : Nat) (int : Bool) : List (List Elem × Scale) :=
  (List.range (cdiv kTot 32)).map (fun q =>
    let at_ := base + 33 * q
    let f := if int then 7 else 5
    ((List.range (min 32 (kTot - 32 * q))).map (fun k => mxElem f (decElem f (Mem.nat mem (at_ + k) 1))), ⟨Mem.nat mem (at_ + 32) 1, 0⟩))

/-- The shadow accumulator of element (i, j), drained to FP32. A NaN consumed gives a NaN. -/
def shadowElem (x y : List (List Elem × Scale)) : BitVec 32 :=
  let cs := (x.zip y).map (fun p => blockContrib p.1.2 p.2.2 p.1.1 p.2.1)
  if cs.any (·.nan) then BitVec.ofNat 32 fp32.qnan
  else BitVec.ofNat 32 ((cs.foldl (fun (c : Acc) k => (c.add k.i k.e).1) Acc.reset).drain fp32 ⟨0, 0⟩).1

/-- The magnitude bits of an FP32 value. -/
def fmag (v : Nat) : Nat := v % 2 ^ 31

/-- FP32 division of finite positive magnitudes, rounded to nearest even. -/
def fdivMag (x y : Nat) : Nat :=
  match fp32.dec x, fp32.dec y with
  | .fin _ m e, .fin _ n d =>
    let q := m * 2 ^ 200 / n
    let st := b2n (m * 2 ^ 200 % n != 0)
    (fp32.round 0 false (2 * q + st) (e - d - 201)).1
  | .inf _, _ => fp32.infBits
  | _, _ => fp32.qnan

/-- The histogram bin of a block (R62). -/
def cupBin (c4 c8 : List (BitVec 32)) : Nat :=
  let nan (v : BitVec 32) : Bool := fmag v.toNat > fp32.infBits
  if c4.any nan || c8.any nan then 15
  else
    let num := (c4.zip c8).foldl (fun b p => max b (fmag (fp32.add 0 p.1.toNat (p.2 ^^^ 0x8000_0000#32).toNat).1)) 0
    let den := c8.foldl (fun b v => max b (fmag v.toNat)) 0
    if den = 0 then (if c4.all (fun v => fmag v.toNat == 0) then 0 else 15)
    else
      let d := fdivMag num den
      if d < 0x37800000 then 0 else if d ≥ 0x3E800000 then 15 else d / 2 ^ 23 + 17 - 127

/-- Raise the partition's Cupping event while EN is 1, the tail passes the threshold and PEND is 0 (R63). -/
def cupCheck (s : State) (p : Nat) : State :=
  let e := oCUPEVT p
  let first := regF s e 3 0
  let tail := ((List.range 16).filter (fun n => first ≤ n)).foldl (fun a n => a + regF s (oCUPHIST p n) 31 0) 0
  if regB s e 4 && tail > regF s e 63 32 && !regB s e 8 then partIrq (setF s e 8 8 1) p 50 else s

/-- Count a bin in the owning partition (R62). -/
def cupCount (s : State) (p bin : Nat) : State := cupCheck (addSat s (oCUPHIST p bin) 31 0 1) p

/-- CUPPING_SHADOW_DONE (R60 to R62): the shadow is recomputed from its operands in tile memory and its bin counted. An
uncorrectable word, or operands beyond tile memory, discard it (R117). BASE and PITCH are read here, when the shadow
completes: no rule says which values a shadow uses when software writes them while it runs (DESIGN CHOICE,
notes/assumptions/41.md). -/
def execCuppingShadowDone (t arr_ : Nat) (s : State) : Host.Outcome State Fault Refusal :=
  match (arr s t arr_).shadow with
  | none => .next s
  | some sh =>
    let s := updArray s t arr_ (fun a => { a with shadow := none })
    let ba := regF s (oSHADOWA t) 19 0
    let pa := regF s (oSHADOWA t) 47 32
    let bb := regF s (oSHADOWB t) 19 0
    let pb := regF s (oSHADOWB t) 47 32
    if !shadowRange ba pa sh.m sh.kTot || !shadowRange bb pb sh.n sh.kTot then .next s
    else
      let n := cdiv sh.kTot 32 * 33
      let rs := (List.range sh.m).map (fun i => (ba + i * pa, n)) ++ (List.range sh.n).map (fun j => (bb + j * pb, n))
      let c := tmWords s t 1 (nub (rs.flatMap (fun r => wordsOf r.1 r.2)))
      if rs.any (fun r => wantsBad c.2 r.1 r.2) then .next c.1
      else
        let mem := (tileOf c.1 t).mem
        let xs := (List.range sh.m).map (fun i => shadowVec mem (ba + i * pa) sh.kTot sh.intA)
        let ys := (List.range sh.n).map (fun j => shadowVec mem (bb + j * pb) sh.kTot sh.intB)
        let c8 := (List.range 256).map (fun i =>
          if i / 8 < sh.m ∧ i % 8 < sh.n then shadowElem (xs.getD (i / 8) []) (ys.getD (i % 8) []) else 0)
        match partOfTile c.1 t with
        | some p => .next (cupCount c.1 p (cupBin sh.c4 c8))
        | none => .next c.1

end Sys2Proof.Machine
end

