-- ==== Sys2Proof/Machine/Attention.lean ====
section
/-! DEFINITION. The attention pipe (chapter 5): ATTN and ATTNW, command blocks, page descriptors, the scan and merge
arithmetic of R138 to R143, and the commands SCAN and MERGE. -/

namespace Sys2Proof.Machine

/-! ### FP32 arithmetic of the pipe (R139: every operation rounds to nearest even) -/

def attMul (a b : Nat) : Nat := (fp32.mul 0 a b).1
def attFma (a b c : Nat) : Nat := (fp32.fma 0 a b c).1
def attSub (a b : Nat) : Nat := (fp32.add 0 a (b ^^^ 2 ^ 31)).1
def attMax (a b : Nat) : Nat := (fp32.minmax true a b).1
def attExp2 (x : Nat) : Nat := (fsfu 3 (BitVec.ofNat 32 x)).1.toNat

/-- FP32 minus infinity and the NaN that R140 writes. -/
def fNegInf : Nat := 0xFF80_0000
def fNan : Nat := 0x7FC0_0000

/-- An FP32 value rounded to BF16. -/
def toBf16 (x : Nat) : Nat :=
  match fp32.dec x with
  | .fin n m e => (bf16.round 0 n m e).1
  | .inf n => bf16.sign n bf16.infBits
  | .nan _ => bf16.qnan

/-- An exact sum as FP32; with a NaN among its terms, a NaN. -/
def fp32Of (c : Contrib) : Nat := if c.nan then fNan else (fp32.roundInt 0 c.i c.e false).1

def isNan32 (x : Nat) : Bool := (fp32.dec x).isNan

/-- The quotient of R143, correctly rounded. -/
def attDiv (a b : Nat) : Nat :=
  match fp32.dec a, fp32.dec b with
  | .nan _, _ | _, .nan _ => fNan
  | .inf _, .inf _ => fNan
  | .inf s, .fin t _ _ => fp32.sign (xor s t) fp32.infBits
  | .fin s _ _, .inf t => fp32.sign (xor s t) 0
  | .fin s m e, .fin t n d =>
    if n = 0 then fp32.sign (xor s t) 0
    else
      let q := m * 2 ^ 200 / n
      (fp32.round 0 (xor s t) (2 * q + b2n (m * 2 ^ 200 % n != 0)) (e - d - 201)).1

/-! ### Rows of elements (R77, R135, Table 5.3) -/

/-- Is a format allowed for the pipe (Table 5.1)? -/
def attFmtOk (f : Nat) : Bool := f == 9 || f == 5 || f == 0

/-- Bytes of a key or value row of head dimension d. -/
def rowBytes (f d : Nat) : Nat := if f = 9 then 2 * d else if f = 5 then d + d / 32 else 18 * (d / 32)

/-- Bytes of a query row: elements, then a scale byte and a fine byte for each block (R77). -/
def queryBytes (f d : Nat) : Nat := if f = 9 then 2 * d else if f = 5 then d + 2 * (d / 32) else d / 2 + 2 * (d / 32)

/-- An element with its block scale: value * (8 + fine) * 2^(scale - 130); a scale of 0xFF makes it a NaN (R37, R38). -/
def scaleElem (sc : Scale) (n : Nat) (x : Elem) : Elem :=
  if sc.coarse = 255 then none else x.map (fun p => (p.1 * sc.mult n, p.2 + sc.coarse - 130))

/-- The elements of a key or value row. -/
def kvRow (f d : Nat) (b : List Byte) : List Elem :=
  (List.range d).map (fun k =>
    if f = 9 then decElem 9 (leNat ((b.drop (2 * k)).take 2))
    else if f = 5 then scaleElem ⟨(b.getD (d + k / 32) 0).toNat, 0⟩ (k % 32) (decElem 5 (b.getD k 0).toNat)
    else
      let o := 18 * (k / 32)
      scaleElem ⟨(b.getD (o + 16) 0).toNat, (b.getD (o + 17) 0).toNat⟩ (k % 32)
        (decElem 0 ((b.getD (o + k % 32 / 2) 0).toNat / 16 ^ (k % 2) % 16)))

/-- The elements of a query row. -/
def queryRow (f d : Nat) (b : List Byte) : List Elem :=
  (List.range d).map (fun k =>
    if f = 9 then decElem 9 (leNat ((b.drop (2 * k)).take 2))
    else
      let o := (if f = 5 then d else d / 2) + 2 * (k / 32)
      let sc : Scale := ⟨(b.getD o 0).toNat, if f = 5 then 0 else (b.getD (o + 1) 0).toNat⟩
      scaleElem sc (k % 32) (if f = 5 then decElem 5 (b.getD k 0).toNat else decElem 0 ((b.getD (k / 2) 0).toNat / 16 ^ (k % 2) % 16)))

/-! ### What a pass works on -/

/-- The common fields of a command (Table 5.1) or of a sequence of a batch (Tables 5.8, 5.9). `stage`: the pages are those
of a block received on the device ring, which stand in a staging area from an address and a page index on (R155). -/
structure AttPar where
  qf     : Nat
  kf     : Nat
  vf     : Nat
  m      : Nat
  d      : Nat
  mask   : Nat
  qgrp   : Nat
  scale2 : Nat
  qpos   : Nat
  klen   : Nat
  dlist  : Nat
  first  : Nat
  npages : Nat
  stage  : Option (Nat × Nat)
  deriving DecidableEq, Repr

/-- A page descriptor (Table 5.4) with its index in the command. -/
structure PageDesc where
  n      : Nat
  page   : Nat
  flags  : Nat
  vbmp   : Nat
  escore : Nat
  seq    : Nat
  pos0   : Nat
  posl   : Nat
  deriving DecidableEq, Repr

def PageDesc.ofBytes (n : Nat) (b : List Byte) : PageDesc :=
  ⟨n, eNat b 0 6, eNat b 6 2, eNat b 8 6, eNat b 14 2, eNat b 16 4, eNat b 20 4, eNat b 24 4⟩

def PageDesc.packed (p : PageDesc) : Bool := bit p.flags 1

/-- The position of token t (R138). -/
def PageDesc.pos (p : PageDesc) (t : Nat) : Nat := if p.packed then p.posl else p.pos0 + t

/-- Is a descriptor valid (R146)? Destination descriptors of COMPACT need not be VALID. -/
def descOk (s : State) (b : List Byte) (source : Bool) : Bool :=
  let p := PageDesc.ofBytes 0 b
  (!source || bit p.flags 0) && p.flags < 4 && p.page % 2048 == 0 && p.page < hbmGiB s.asm * 2 ^ 30 && p.vbmp % 64 == 0 &&
    eNat b 28 4 == 0

/-- The position of row i. -/
def AttPar.rowPos (p : AttPar) (i : Nat) : Nat := p.qpos + i / (p.qgrp + 1)

/-- Is token t masked for row i (R138)? `valid` are the valid bits. -/
def maskedAt (p : AttPar) (c : PageDesc) (valid : Nat) (i t : Nat) : Bool :=
  i ≥ p.m || (bit p.mask 0 && c.pos t > p.rowPos i) || (bit p.mask 1 && !c.packed && c.pos0 + t ≥ p.klen) ||
    ((bit p.mask 2 || c.packed) && !bit valid t)

/-- A row's state (R139): m, l and o as FP32 codes, and whether it is NaN under R140. -/
structure AttRow where
  m   : Nat
  l   : Nat
  o   : List Nat
  nan : Bool
  deriving DecidableEq, Repr

def AttRow.init (d : Nat) : AttRow := ⟨fNegInf, 0, List.replicate d 0, false⟩

/-- The score of a query and a key: the rounded exact dot times SCALE2; `none` when a NaN entered it. -/
def attScore (p : AttPar) (q k : List Elem) : Option Nat :=
  let c := dotElems (fun _ => 1) q k
  if c.nan then none else some (attMul (fp32Of c) p.scale2)

/-- One page for one live row (R139, R140). A score that overflows or is NaN by SCALE2 goes through the FP32 operations as
any other; the maximum is that of FMAX (notes/assumptions/13.md). -/
def scanRow (p : AttPar) (c : PageDesc) (valid : Nat) (ks vs : List (List Elem)) (i : Nat) (q : List Elem) (r : AttRow) :
    AttRow :=
  let ts := (List.range 256).filter (fun t => !maskedAt p c valid i t)
  let ss := ts.map (fun t => attScore p q (ks.getD t []))
  if r.nan || ss.any (·.isNone) then { r with nan := true }
  else
    let sv := ss.map (fun x => x.getD fNegInf)
    let rows := ts.map (fun t => vs.getD t [])
    let mn := sv.foldl attMax r.m
    if mn = fNegInf then r
    else if rows.any (fun v => v.any (·.isNone)) then { r with nan := true }
    else
      let ph := sv.map (fun x => floatElem bf16 (toBf16 (attExp2 (attSub x mn))))
      let cc := attExp2 (attSub r.m mn)
      let ones : List Elem := ph.map (fun _ => some (1, 0))
      { r with
        m := mn
        l := attFma cc r.l (fp32Of (dotElems (fun _ => 1) ph ones))
        o := (List.range p.d).map (fun j =>
          attFma cc (r.o.getD j 0) (fp32Of (dotElems (fun _ => 1) ph (rows.map (fun v => v.getD j none))))) }

/-- Merge two rows, the left one of lower chunk index (R142). -/
def mergeRow (a b : AttRow) : AttRow :=
  let bad (r : AttRow) : Bool := r.nan || isNan32 r.m || isNan32 r.l || r.o.any isNan32
  if bad a || bad b then { a with nan := true }
  else
    let m := attMax a.m b.m
    if m = fNegInf then AttRow.init a.o.length
    else
      let ca := attExp2 (attSub a.m m)
      let cb := attExp2 (attSub b.m m)
      { m := m, l := attFma ca a.l (attMul cb b.l)
        o := (a.o.zip b.o).map (fun x => attFma ca x.1 (attMul cb x.2))
        nan := false }

/-- The row as words: the NaN of R140, else its values. -/
def AttRow.words (r : AttRow) : List Nat :=
  if r.nan then fNan :: fNan :: r.o.map (fun _ => fNan) else r.m :: r.l :: r.o

/-- A row as the final output of SCAN takes it: merged with an empty partial (R143). -/
def AttRow.closed (r : AttRow) : AttRow := mergeRow r (AttRow.init r.o.length)

/-- The 256 + 128 d bytes of a partial (R141) from 32 rows. -/
def partialBytes (d : Nat) (rows : List AttRow) : List Byte :=
  let ws := (List.range 32).map (fun i => (rows.getD i (AttRow.init d)).words)
  ws.flatMap (fun w => leBytes 4 (w.getD 0 0)) ++ ws.flatMap (fun w => leBytes 4 (w.getD 1 0)) ++
    ws.flatMap (fun w => (List.range d).flatMap (fun j => leBytes 4 (w.getD (2 + j) 0)))

/-- One final output row (R143) as bytes: FP32 or BF16. -/
def finalRow (bf : Bool) (r : AttRow) : List Byte :=
  let w := r.words
  let l := w.getD 1 0
  (w.drop 2).flatMap (fun o =>
    let q := if l % 2 ^ 31 = 0 then 0 else attDiv o l
    if bf then leBytes 2 (toBf16 q) else leBytes 4 q)

/-- Did a live row end with l = 0? -/
def AttRow.isEmpty (r : AttRow) : Bool := !r.nan && r.l % 2 ^ 31 == 0

/-- The NAN and EMPTY bits of the status (Table 5.6) for the live rows. -/
def rowFlags (m : Nat) (rows : List AttRow) : Nat :=
  b2n ((rows.take m).any (·.nan)) * 2 ^ 27 + b2n ((rows.take m).any (·.isEmpty)) * 2 ^ 26

/-! ### Reading pages -/

/-- The pipe of tile t as a master: port 8 of the tile, its partition, class 1 (Table 8.4), latency-critical (R205). -/
def pipeWho (s : State) (t : Nat) : Who := ⟨.tile t 8, partOfTile s t, (partOfTile s t).getD 8, 1, 2⟩

/-- The status code of an access (Table 5.6). -/
def accCode (st : AccSt) : Nat :=
  match st.st with
  | .ok => 0
  | .decode => 3
  | _ => 2

/-- Bytes of a page: keys, values, scores (R135). -/
def pageLen (p : AttPar) : Nat := 256 * (rowBytes p.kf p.d + rowBytes p.vf p.d) + 512

/-- Bytes of a staged page: the page, its bitmap block and its descriptor, rounded up to 2 KiB
(notes/assumptions/15.md). -/
def slotLen (p : AttPar) : Nat := cdiv (pageLen p + 96) 2048 * 2048

/-- Read the descriptor of page n: the code is 1, 2 or 3 when it cannot be used. A staged page has its descriptor, its
keys and its bitmap block in its slot. -/
def readDesc (s : State) (w : Who) (p : AttPar) (n : Nat) : State × PageDesc × Nat :=
  let slot := p.stage.map (fun x => x.1 + (p.first + n - x.2) * slotLen p)
  let r := devRead s w (match slot with
    | some a => a + pageLen p + 64
    | none => p.dlist + (p.first + n) * 32) 32
  let d := PageDesc.ofBytes n r.2.1
  let d := match slot with
    | some a => { d with page := a, vbmp := a + pageLen p }
    | none => d
  let c := accCode r.2.2
  (r.1, d, if c != 0 then c else if descOk s r.2.1 true then 0 else 1)

/-- Read a bitmap block (R137): its valid bits. -/
def readBitmap (s : State) (w : Who) (a : Nat) : State × Nat × Nat :=
  let r := devRead s w a 64
  (r.1, leNat (r.2.1.take 32), accCode r.2.2)

/-- What a page gives a pass: valid bits, key rows, value rows, the error code. -/
structure PageData where
  valid : Nat
  ks    : List (List Elem)
  vs    : List (List Elem)
  code  : Nat
  deriving DecidableEq, Repr

/-- The rows of a region of 256 rows. -/
def regionRows (f d : Nat) (b : List Byte) : List (List Elem) :=
  (List.range 256).map (fun t => kvRow f d ((b.drop (t * rowBytes f d)).take (rowBytes f d)))

/-- The first code that is not zero. -/
def firstCode (l : List Nat) : Nat := (l.find? (· != 0)).getD 0

/-- Read a page: the bitmap first when it is needed, the keys, and the values when `vals`. -/
def readPage (s : State) (w : Who) (p : AttPar) (c : PageDesc) (bmp vals : Bool) : State × PageData :=
  let b := if bmp then readBitmap s w c.vbmp else (s, 0, 0)
  let kb := rowBytes p.kf p.d
  let k := devRead b.1 w c.page (256 * kb)
  let v := if vals then devRead k.1 w (c.page + 256 * kb) (256 * rowBytes p.vf p.d) else (k.1, [], AccSt.ok)
  (v.1, ⟨b.2.1, regionRows p.kf p.d k.2.1, if vals then regionRows p.vf p.d v.2.1 else [],
    firstCode [b.2.2, accCode k.2.2, accCode v.2.2]⟩)

/-- The pages of a pass in ascending order, until one fails: `f` is the work of a page. The result carries the code and
the index of the page that failed. -/
def overPages {α : Type} (s : State) (w : Who) (p : AttPar) (bmp : PageDesc → Bool) (vals : Bool) (x : α)
    (f : State → PageDesc → PageData → α → State × α) : State × α × Nat × Nat :=
  (List.range p.npages).foldl (fun (r : State × α × Nat × Nat) n =>
    if r.2.2.1 != 0 then r
    else
      let d := readDesc r.1 w p n
      if d.2.2 != 0 then (d.1, r.2.1, d.2.2, n)
      else
        let g := readPage d.1 w p d.2.1 (bmp d.2.1) vals
        if g.2.code != 0 then (g.1, r.2.1, g.2.code, n)
        else
          let y := f g.1 d.2.1 g.2 r.2.1
          (y.1, y.2, 0, n)) (s, x, 0, 0)

/-- Pages processed by SCAN and SCORE (Table 5.10). -/
def countPage (s : State) (t : Nat) : State := addSat s (oATTSTAT t) 63 32 1

/-- SCAN over pages with the query rows (R139): the 32 rows, the code and the index of the page at which it stopped.
`count` counts each page. -/
def scanCore (s : State) (w : Who) (p : AttPar) (qs : List (List Elem)) (count : State → State) :
    State × List AttRow × Nat × Nat :=
  overPages s w p (fun c => bit p.mask 2 || c.packed) true (List.replicate 32 (AttRow.init p.d)) (fun s c g rows =>
    (count s, (List.range 32).zip rows |>.map (fun x =>
      if x.1 < p.m then scanRow p c g.valid g.ks g.vs x.1 (qs.getD x.1 []) x.2 else x.2)))

/-! ### Command blocks (Tables 5.1, 5.2, R146) -/

def bOP (b : List Byte) : Nat := eNat b 0 1
def bOUT (b : List Byte) : Nat := eNat b 64 1
def bOUTADDR (b : List Byte) : Nat := eNat b 44 4
def bOPITCH (b : List Byte) : Nat := eNat b 48 2
def bDEST (b : List Byte) : Nat := eNat b 69 1 * 64 + eNat b 68 1

def parOf (b : List Byte) : AttPar :=
  ⟨eNat b 1 1, eNat b 2 1, eNat b 3 1, eNat b 4 1 + 1, 32 * (eNat b 5 1 + 1), eNat b 6 1, eNat b 7 1, eNat b 8 4, eNat b 12 4,
   eNat b 40 4, eNat b 24 6, eNat b 32 4, eNat b 36 4, none⟩

/-- Does an area of n bytes from a lie in tile memory? -/
def inTile (a n : Nat) : Bool := a + n ≤ 2 ^ 20

/-- Bytes of a partial. -/
def partialLen (d : Nat) : Nat := 256 + 128 * d

/-- The bytes of Table 5.1 and 5.2 that each operation uses. -/
def usedBytes (op : Nat) : List (Nat × Nat) :=
  [(0, 22), (24, 30), (32, 52)] ++ (match op with
    | 0 => [(64, 66), (68, 72)]
    | 1 => [(64, 66), (68, 80)]
    | 2 => [(64, 73), (76, 80)]
    | _ => [(64, 70), (72, 80)])

/-- Common fields in range. -/
def commonOk (b : List Byte) : Bool :=
  let p := parOf b
  restZero b (usedBytes (bOP b)) && bOP b ≤ 3 && attFmtOk p.qf && attFmtOk p.kf && attFmtOk p.vf && p.m ≤ 32 && p.d ≤ 256 &&
    p.mask < 8 && p.dlist % 32 == 0 && p.npages ≤ 2 ^ 20 && bOUTADDR b % 64 == 0

/-- The query area. -/
def queryOk (b : List Byte) : Bool :=
  let p := parOf b
  inTile (eNat b 16 4 + (p.m - 1) * eNat b 20 2) (queryBytes p.qf p.d)

/-- The output area and destination of SCAN and MERGE. -/
def outOk (s : State) (t : Nat) (b : List Byte) : Bool :=
  let p := parOf b
  bOUT b ≤ 3 && eNat b 65 1 < 8 && eNat b 70 2 == 0 &&
    (match bOUT b with
      | 0 => inTile (bOUTADDR b) (partialLen p.d)
      | 1 => inTile (bOUTADDR b) (partialLen p.d) && eNat b 68 1 < 64 && eNat b 69 1 < 64 &&
          (match partOfTile s t with
            | some q => tileInPart s q (bDEST b) && !isOut s (.tile (bDEST b))
            | none => false)
      | 2 => inTile (bOUTADDR b + (p.m - 1) * bOPITCH b) (4 * p.d)
      | _ => inTile (bOUTADDR b + (p.m - 1) * bOPITCH b) (2 * p.d))

/-- Is a command block valid (R146)? -/
def blockOk (s : State) (t : Nat) (b : List Byte) : Bool :=
  let p := parOf b
  commonOk b && (match bOP b with
    | 0 => queryOk b && outOk s t b
    | 1 => outOk s t b && eNat b 72 4 % 64 == 0 && eNat b 76 4 % 64 == 0 && inTile (eNat b 72 4) (partialLen p.d) &&
        inTile (eNat b 76 4) (partialLen p.d)
    | 2 => queryOk b && inTile (eNat b 64 4) 256 && eNat b 72 1 ≤ 15 && inTile (eNat b 76 4) (4 * p.npages)
    | _ => eNat b 64 6 % 32 == 0)

/-! ### The queue of a pipe (R131, R132) -/

def attOf (s : State) (t h : Nat) : Option AttCmd := (tileOf s t).att.find? (fun c => c.h == h)

def updAtt (s : State) (t h : Nat) (f : AttCmd → AttCmd) : State :=
  updTile s t (fun x => { x with att := updWhere (fun c => c.h == h) f x.att })

/-- Is a command final? -/
def AttCmd.isFinal (c : AttCmd) : Bool :=
  match c.phase with
  | .final _ => true
  | _ => false

/-- Is h the command that the pipe executes: the first that is not final? -/
def attHead (s : State) (t h : Nat) : Bool := ((tileOf s t).att.find? (fun c => !c.isFinal)).any (fun c => c.h == h)

def rowAttn : Row := rowG 208 (fun w => wSEL w == 0 && fld w 31 0 == 0) (fun w => [sp (wWA w) 1]) (fun w => [sp (wWD w) 1])
/-- ATTN (R132): the group is not ready while all four handles are in use. An offset that is no multiple of 64 is a
misaligned tile memory address, cause 0x16 (notes/assumptions/14.md). -/
def execAttn (t slot : Nat) (w : DWord) (s : State) : Host.Outcome State Fault Refusal :=
  issue rowAttn t slot w s (fun s =>
    let off := bits (r0 (grp s t slot) (wWA w)) 19 0
    match pick s 4 (fun h => (tileOf s t).att.all (fun c => c.h != h)) with
    | none => .hold .waitMsg
    | some (h, s') =>
      if off % 64 != 0 then .trap s 0x16 0
      else
        let c : AttCmd := ⟨h, slot, false, off, .queued, [], [], [], none, 0⟩
        .done (putActive (updTile s' t (fun x => { x with att := x.att ++ [c] })) t slot (wWD w) h))

def rowAttnw : Row := rowG 209 (fun w => wSEL w == 0 && fld w 31 0 == 0) (fun w => [sp (wWA w) 1]) (fun w => [sp (wWD w) 1])
/-- ATTNW (R132): waits for the command to be final, returns its status and frees the handle. -/
def execAttnw (t slot : Nat) (w : DWord) (s : State) : Host.Outcome State Fault Refusal :=
  issue rowAttnw t slot w s (fun s =>
    let h := r0 (grp s t slot) (wWA w)
    match attOf s t h with
    | none => .done (putActive s t slot (wWD w) 0xF000_0000)
    | some c =>
      match c.phase with
      | .final st =>
        .done (putActive (updTile s t (fun x => { x with att := x.att.filter (fun c => c.h != h) })) t slot (wWD w) st.toNat)
      | _ => .done (updGroup s t slot (fun g => { g with st := .waitMsg, wait := .attnw h (wWD w) })))

/-! ### SCAN and MERGE -/

/-- A status word (Table 5.6). -/
def attStatus (code flags detail : Nat) : BitVec 32 := BitVec.ofNat 32 (code * 2 ^ 28 + flags + detail % 2 ^ 26)

/-- The command block as the pipe reads it when the command starts (R133): `none` where it cannot be read. -/
def readBlock (s : State) (t : Nat) (c : AttCmd) : State × Option (List Byte) :=
  if inTile c.off 128 then
    let r := tmRead s t 2 c.off 128
    (r.1, if r.2.2 then none else some r.2.1)
  else (s, some (leBytes 128 (255)))

/-- Start the command h of tile t when it is the one to execute and its block names operation `op`: an unreadable block
ends with code 2, an invalid one with code 4 (R117, R146), else `k` does the work. A block that names another operation
is another row of the table. Nothing starts while the pipe is under test or the Ebb sequence runs (R309, R345). -/
def attStart (op : Nat) (t h : Nat) (s : State) (k : State → AttCmd → List Byte → State) : State :=
  match attOf s t h with
  | none => s
  | some c =>
    if c.phase != .queued || !attHead s t h || ebbing s || pipeInBist s t then s
    else
      match readBlock s t c with
      | (s1, none) => updAtt s1 t h (fun c => { c with phase := .done (attStatus 2 0 0) })
      | (s1, some b) =>
        if bOP b != op then s
        else if blockOk s t b then whole s (k s1 c b)
        else updAtt s1 t h (fun c => { c with phase := .done (attStatus 4 0 0) })

/-- The query rows that stand in tile memory from `at_` on, `pitch` bytes apart; the flag says that a word was
uncorrectable. -/
def queryRows (s : State) (t : Nat) (p : AttPar) (at_ pitch : Nat) : State × List (List Elem) × Bool :=
  (List.range p.m).foldl (fun (r : State × List (List Elem) × Bool) i =>
    let x := tmRead r.1 t 2 (at_ + i * pitch) (queryBytes p.qf p.d)
    (x.1, r.2.1 ++ [queryRow p.qf p.d x.2.1], r.2.2 || x.2.2)) (s, [], false)

/-- The query rows of a command (R133). -/
def readQueries (s : State) (t : Nat) (b : List Byte) : State × List (List Elem) × Bool :=
  queryRows s t (parOf b) (eNat b 16 4) (eNat b 20 2)

/-- Rows written as NaN count (R140, Table 5.11). -/
def countNan (s : State) (t m : Nat) (rows : List AttRow) : State := addSat s (oATTCNT t) 15 0 ((rows.take m).filter (·.nan)).length

/-- The code of a command that failed (Table 5.10). -/
def setLastSt (s : State) (t code : Nat) : State := if code = 0 then s else setF s (oATTSTAT t) 15 12 code

/-- What a pass with rows writes at its end (R141, R143), and its status. -/
def attOutput (s : State) (t h : Nat) (b : List Byte) (rows : List AttRow) : State :=
  let p := parOf b
  let s := countNan s t p.m rows
  let o := if bOUT b ≤ 1 then [(bOUTADDR b, partialBytes p.d rows)]
    else (List.range p.m).map (fun i =>
      (bOUTADDR b + i * bOPITCH b, finalRow (bOUT b == 3) (rows.getD i (AttRow.init p.d))))
  let msg : Option AttMsg := if bOUT b = 1 then
      some ⟨bDEST b, eNat b 65 1, BitVec.ofNat 16 (eNat b 50 2), bOUTADDR b, partialLen p.d⟩ else none
  updAtt s t h (fun c => { c with phase := .done (attStatus 0 (rowFlags p.m rows) 0), outs := o, msg := msg })

/-- SCAN (R138 to R141, R143). -/
def execScan (t h : Nat) (s : State) : Host.Outcome State Fault Refusal :=
  .next (attStart 0 t h s (fun s _ b =>
    let q := readQueries s t b
    if q.2.2 then updAtt q.1 t h (fun c => { c with phase := .done (attStatus 2 0 0) })
    else
      let r := scanCore q.1 (pipeWho s t) (parOf b) q.2.1 (fun s => countPage s t)
      if r.2.2.1 != 0 then updAtt r.1 t h (fun c => { c with phase := .done (attStatus r.2.2.1 0 r.2.2.2) })
      else attOutput r.1 t h b (if bOUT b ≤ 1 then r.2.1 else r.2.1.map AttRow.closed)))

/-- The rows of a partial (R141); rows from M on are masked. -/
def partialRows (d m : Nat) (b : List Byte) : List AttRow :=
  (List.range 32).map (fun i =>
    if i < m then ⟨eNat b (4 * i) 4, eNat b (128 + 4 * i) 4, (List.range d).map (fun j => eNat b (256 + 4 * (i * d + j)) 4), false⟩
    else AttRow.init d)

/-- MERGE (R142). -/
def execMerge (t h : Nat) (s : State) : Host.Outcome State Fault Refusal :=
  .next (attStart 1 t h s (fun s _ b =>
    let p := parOf b
    let x := tmRead s t 2 (eNat b 72 4) (partialLen p.d)
    let y := tmRead x.1 t 2 (eNat b 76 4) (partialLen p.d)
    if x.2.2 || y.2.2 then updAtt y.1 t h (fun c => { c with phase := .done (attStatus 2 0 0) })
    else attOutput y.1 t h b (((partialRows p.d p.m x.2.1).zip (partialRows p.d p.m y.2.1)).map (fun r => mergeRow r.1 r.2))))

end Sys2Proof.Machine
end

