-- ==== Sys2Proof/Machine/AttnScore.lean ====
section
/-! DEFINITION. The attention pipe, continued: SCORE with its updates at the home slices (R147, R148, R174), COMPACT
(R149), and the end of a command (R132 to R134, R141). -/

namespace Sys2Proof.Machine

/-! ### SCORE (R147) -/

/-- The increment of a token: the rounded exact sum of ph * r over the rows that do not mask it; `none` when a term or
the sum is outside what the spec states (notes/assumptions/13.md). `st` lists each row's m, r and query. -/
def scoreInc (p : AttPar) (c : PageDesc) (valid : Nat) (k : List Elem) (t : Nat) (st : List (Nat × Nat × Nat × List Elem)) :
    Option Nat :=
  let live := st.filter (fun x => !maskedAt p c valid x.1 t)
  let ph := live.map (fun x => match attScore p x.2.2.2 k with
    | some sc => floatElem bf16 (toBf16 (attExp2 (attSub sc x.2.1)))
    | none => none)
  let r := live.map (fun x => floatElem fp32 x.2.2.1)
  let sum := dotElems (fun _ => 1) ph r
  if sum.nan then none
  else
    -- floor(256 * sum + 1/2): the sum is i * 2^e
    let x := if sum.e + 9 ≥ 0 then sum.i * 2 ^ (sum.e + 9).toNat + 1 else (sum.i + 2 ^ (-(sum.e + 9)).toNat) / 2 ^ (-(sum.e + 9)).toNat
    let n := x / 2
    if n < 0 then none else some n.toNat

/-- The rows that count: their index, m, 1/l and query; rows whose l is 0 or a NaN contribute nothing. -/
def scoreRows (p : AttPar) (stats : List Byte) (qs : List (List Elem)) : List (Nat × Nat × Nat × List Elem) :=
  (List.range p.m).filterMap (fun i =>
    let l := eNat stats (128 + 4 * i) 4
    if l % 2 ^ 31 = 0 || isNan32 l then none
    else some (i, eNat stats (4 * i) 4, (fsfu 0 (BitVec.ofNat 32 l)).1.toNat, qs.getD i []))

/-- Where a page keeps its scores (R135). -/
def scoreBase (p : AttPar) (c : PageDesc) : Nat := c.page + 256 * (rowBytes p.kf p.d + rowBytes p.vf p.d)

/-- The updates of one page set out (R148): one for each token whose valid bit is 1, outstanding in class 1 (R221, R222). -/
def scorePage (t h decay age : Nat) (part : Nat) (p : AttPar) (st : List (Nat × Nat × Nat × List Elem)) (s : State) (c : PageDesc)
    (g : PageData) : State :=
  (setBits 256 g.valid).foldl (fun s tok =>
    let inc := scoreInc p c g.valid (g.ks.getD tok []) tok st
    let d := draw s
    let s := (inject (if inc.isNone then d.2 else s) part 1).1
    let old := age != 0xFFFF_FFFF && (p.rowPos (p.m - 1) : Int) - c.pos tok > age
    let u : ScoreUpd := ⟨s.nextId, t, h, c.n, tok, scoreBase p c + 2 * tok, c.vbmp, false,
      inc.getD (d.1.toNat % 65536), decay, c.escore, old, part⟩
    { s with upds := s.upds ++ [u], nextId := s.nextId + 1 }) s

/-- SCORE over pages: the state with the updates, the code and the failing page. -/
def scoreCore (s : State) (w : Who) (t h decay age : Nat) (p : AttPar) (stats : List Byte) (qs : List (List Elem))
    (count : State → State) : State × Unit × Nat × Nat :=
  let st := scoreRows p stats qs
  overPages s w p (fun _ => true) false () (fun s c g u =>
    (scorePage t h decay age (w.p.getD 8) p st (count s) c g, u))

/-- SCORE (R147, R148): the command then waits for its updates. -/
def execScore (t h : Nat) (s : State) : Host.Outcome State Fault Refusal :=
  .next (attStart 2 t h s (fun s _ b =>
    let q := readQueries s t b
    let x := tmRead q.1 t 2 (eNat b 64 4) 256
    if q.2.2 || x.2.2 then updAtt x.1 t h (fun c => { c with phase := .done (attStatus 2 0 0) })
    else
      let r := scoreCore x.1 (pipeWho s t) t h (eNat b 72 1) (eNat b 68 4) (parOf b) x.2.1 q.2.1 (fun s => countPage s t)
      updAtt r.1 t h (fun c => { c with phase := .updating (attStatus r.2.2.1 0 r.2.2.2), freeOut := eNat b 76 4 })))

/-- The error of an update ends its command with code 2 or 3 at its page, unless it has a code already. -/
def updFailed (s : State) (u : ScoreUpd) (code : Nat) : State :=
  updAtt s u.t u.h (fun c => match c.phase with
    | .updating st => if st.toNat / 2 ^ 28 = 0 then { c with phase := .updating (attStatus code 0 u.n) } else c
    | _ => c)

/-- Who applies an update: the update unit acts for the pipe's partition. -/
def updWho (u : ScoreUpd) : Who := ⟨.tile u.t 8, some u.part, u.part, 1, 2⟩

/-- The score after an update (R147). -/
def newScore (u : ScoreUpd) (old : Nat) : Nat :=
  let d := if u.decay = 0 then old else old - old / 2 ^ u.decay
  min 0xFFFF (d + u.inc)

/-- The read-modify-write of a score: the code of a failed read, and whether the token is evicted. -/
def scoreRmw (s : State) (u : ScoreUpd) : State × Nat × Bool :=
  let r := readAt s (updWho u) u.score 2
  if r.2.2.st != .ok then (r.1, accCode r.2.2, false)
  else
    let v := newScore u (leNat r.2.1)
    ((writeAt r.1 (updWho u) u.score (leBytes 2 v)).1, 0, u.escore != 0 && u.old && v < u.escore)

/-- The read-modify-write of a bit clear (R148): LIVE falls only when the bit was 1, and the clear that brings it to 0
releases the page. The result: the code of a failed read, and whether the page is released. -/
def clearRmw (s : State) (u : ScoreUpd) : State × Nat × Bool :=
  let r := readAt s (updWho u) u.bitmap 64
  if r.2.2.st != .ok then (r.1, accCode r.2.2, false)
  else
    let b := leNat r.2.1
    if !bit b u.tok then (r.1, 0, false)
    else
      let live := bits b 271 256 - 1
      let rel := live == 0
      let v := b - 2 ^ u.tok - bits b 271 256 * 2 ^ 256 + live * 2 ^ 256
      let v := if rel && !bit v 272 then v + 2 ^ 272 else v
      let s := addSat (writeAt r.1 (updWho u) u.bitmap (leBytes 64 v)).1 (oATTCNT u.t) 63 32 1
      (if rel then addSat s (oATTCNT u.t) 31 16 1 else s, 0, rel)

/-- Apply a score update of a pipe command: the clear of an evicted token's bit sets out for the bitmap block. -/
def applyScore (s : State) (u : ScoreUpd) : State :=
  let r := scoreRmw s u
  if r.2.1 != 0 then updFailed r.1 u r.2.1
  else if r.2.2 then
    let s := (inject r.1 u.part 1).1
    { s with upds := s.upds ++ [{ u with id := s.nextId, clear := true }], nextId := s.nextId + 1 }
  else r.1

/-- Apply a bit clear of a pipe command. -/
def applyClear (s : State) (u : ScoreUpd) : State :=
  let r := clearRmw s u
  if r.2.1 != 0 then updFailed r.1 u r.2.1
  else if r.2.2 then updAtt r.1 u.t u.h (fun c => { c with released := c.released ++ [u.n] })
  else r.1

/-- SCORE_UPDATE (R148, R174): one update at its home slice, as one read-modify-write; it is outstanding no longer (R222). -/
def execScoreUpdate (id : Nat) (s : State) : Host.Outcome State Fault Refusal :=
  match s.upds.find? (fun u => u.id == id) with
  | none => .next s
  | some u =>
    let s' := retire { s with upds := s.upds.filter (fun u => u.id != id) } u.part 1
    .next (whole s (if u.clear then applyClear s' u else applyScore s' u))

/-! ### COMPACT (R149) -/

/-- A destination page as it fills: its descriptor's index, address and bitmap, tokens so far, their bytes to write, the
first source page (ESCORE, SEQ) and the positions of its first and last token. -/
structure CmpPage where
  j      : Nat
  page   : Nat
  vbmp   : Nat
  n      : Nat
  outs   : List (Nat × List Byte)
  escore : Nat
  seq    : Nat
  pos0   : Nat
  posl   : Nat
  deriving DecidableEq, Repr

/-- What COMPACT holds while it runs: finished pages' writes, pages begun, the page that fills, a code to stop with. -/
structure CmpState where
  outs : List (Nat × List Byte)
  done : Nat
  cur  : Option CmpPage
  code : Nat
  deriving DecidableEq, Repr

/-- The writes that finish a destination page: its rows, its bitmap block, its descriptor. -/
def CmpPage.finish (dst : Nat) (c : CmpPage) : List (Nat × List Byte) :=
  c.outs ++ [(c.vbmp, leBytes 32 (2 ^ c.n - 1) ++ leBytes 2 c.n ++ leBytes 30 0),
    (dst + 32 * c.j, leBytes 6 c.page ++ leBytes 2 3 ++ leBytes 6 c.vbmp ++ leBytes 2 c.escore ++ leBytes 4 c.seq ++
      leBytes 4 c.pos0 ++ leBytes 4 c.posl ++ leBytes 4 0)]

/-- Close the page that fills. -/
def CmpState.close (dst : Nat) (x : CmpState) : CmpState :=
  match x.cur with
  | some c => { x with outs := x.outs ++ c.finish dst, cur := none }
  | none => x

/-- Open destination page j for a token of source page c: the code 5 when the destinations run out, 1 for a bad
descriptor, 2 or 3 when it or its page cannot be accessed. -/
def openPage (s : State) (w : Who) (p : AttPar) (dst ndst : Nat) (c : PageDesc) (x : CmpState) : State × CmpState :=
  if x.done ≥ ndst then (s, { x with code := 5 })
  else
    let r := devRead s w (dst + 32 * x.done) 32
    let d := PageDesc.ofBytes 0 r.2.1
    let len := pageLen p
    let code := if accCode r.2.2 != 0 then accCode r.2.2 else if !descOk r.1 r.2.1 false then 1
      else if ownsRange r.1 (w.p.getD 8) d.page len && ownsRange r.1 (w.p.getD 8) d.vbmp 64 then 0 else 3
    let s := if code = 3 && accCode r.2.2 = 0 then decodeError r.1 w.m d.page else r.1
    if code != 0 then (s, { x with code := code })
    else (s, { x with done := x.done + 1, cur := some ⟨x.done, d.page, d.vbmp, 0, [], c.escore, c.seq, 0, 0⟩ })

/-- Copy one token: key row, value row, score. -/
def copyToken (p : AttPar) (kb vb : Nat) (pos : Nat) (key val sc : List Byte) (c : CmpPage) : CmpPage :=
  { c with
    n := c.n + 1
    outs := c.outs ++ [(c.page + c.n * kb, key), (c.page + 256 * kb + c.n * vb, val), (scoreBase p ⟨0, c.page, 0, 0, 0, 0, 0, 0⟩ + 2 * c.n, sc)]
    pos0 := if c.n = 0 then pos else c.pos0
    posl := pos }

/-- One source page, token by token: every token must lie below POSLIMIT (Table 5.2), the valid ones are copied. -/
def compactPage (s : State) (w : Who) (p : AttPar) (dst ndst lim : Nat) (c : PageDesc) (valid : Nat) (ks vs sc : List Byte)
    (x : CmpState) : State × CmpState :=
  let kb := rowBytes p.kf p.d
  let vb := rowBytes p.vf p.d
  (List.range 256).foldl (fun (r : State × CmpState) t =>
    if r.2.code != 0 then r
    else if c.pos t ≥ lim then (r.1, { r.2 with code := 4 })
    else if !bit valid t then r
    else
      let full := r.2.cur.any (fun y => y.n ≥ 256)
      let x := if full then r.2.close dst else r.2
      let o := if x.cur.isNone then openPage r.1 w p dst ndst c x else (r.1, x)
      match o.2.cur with
      | none => o
      | some y =>
        let cut (b : List Byte) (n : Nat) : List Byte := (b.drop (t * n)).take n
        (o.1, { o.2 with cur := some (copyToken p kb vb (c.pos t) (cut ks kb) (cut vs vb) (cut sc 2) y) })) (s, x)

/-- COMPACT over its source pages. The result: what it holds, the code, and the source page at which it stopped. -/
def compactCore (s : State) (w : Who) (p : AttPar) (dst ndst lim : Nat) : State × CmpState × Nat :=
  (List.range p.npages).foldl (fun (r : State × CmpState × Nat) n =>
    if r.2.1.code != 0 then r
    else
      let d := readDesc r.1 w p n
      if d.2.2 != 0 then (d.1, { r.2.1 with code := d.2.2 }, n)
      else
        let c := d.2.1
        let kb := rowBytes p.kf p.d
        let vb := rowBytes p.vf p.d
        let b := readBitmap d.1 w c.vbmp
        let k := devRead b.1 w c.page (256 * kb)
        let v := devRead k.1 w (c.page + 256 * kb) (256 * vb)
        let sc := devRead v.1 w (scoreBase p c) 512
        let code := firstCode [b.2.2, accCode k.2.2, accCode v.2.2, accCode sc.2.2]
        if code != 0 then (sc.1, { r.2.1 with code := code }, n)
        else
          let y := compactPage sc.1 w p dst ndst lim c b.2.1 k.2.1 v.2.1 sc.2.1 r.2.1
          (y.1, y.2, n)) (s, ⟨[], 0, none, 0⟩, 0)

/-- COMPACT (R149). Codes 1 to 4 write nothing (R146). -/
def execCompact (t h : Nat) (s : State) : Host.Outcome State Fault Refusal :=
  .next (attStart 3 t h s (fun s _ b =>
    let dst := eNat b 64 6
    let r := compactCore s (pipeWho s t) (parOf b) dst (eNat b 72 4) (eNat b 76 4)
    let x := r.2.1.close dst
    let st := if x.code = 0 ∨ x.code = 5 then attStatus x.code 0 x.done
      else attStatus x.code 0 (if x.code = 4 then 0 else r.2.2)
    updAtt r.1 t h (fun c => { c with phase := .done st, devOuts := if x.code = 0 ∨ x.code = 5 then x.outs else [] })))

/-! ### The end of a command (R132 to R134, R141) -/

/-- A command is final: LASTST, waiting ATTNW of the tile, and the handle, freed at once for an issuer that has ended. -/
def attFinal (s : State) (t h : Nat) (st : BitVec 32) : State :=
  let s := setLastSt s t (st.toNat / 2 ^ 28)
  let ws := slots8.filterMap (fun g => match (grp s t g).wait with
    | .attnw h' wd => if h' = h then some (g, wd) else none
    | _ => none)
  let orphan := (attOf s t h).any (·.orphan)
  let s := ws.foldl (fun s w => updGroup s t w.1 (fun g => wake (rsetActive g w.2 st))) s
  if ws != [] || orphan then updTile s t (fun x => { x with att := x.att.filter (fun c => c.h != h) })
  else updAtt s t h (fun c => { c with phase := .final st, outs := [], devOuts := [] })

/-- Write what the command holds: tile memory, device memory. -/
def attWrite (s : State) (t : Nat) (c : AttCmd) : State :=
  let s := c.outs.foldl (fun s o => tmWrite s t 2 (Mem.lay o.1 o.2)) s
  c.devOuts.foldl (fun s o => (devWrite s (pipeWho s t) o.1 o.2).1) s

/-- The send-list entry of a partial (R141): its slot is that of the issuer, marked as the pipe's. -/
def attSend (c : AttCmd) (m : AttMsg) (h : Nat) : Send :=
  { h := h, slot := 8 + c.slot, off := m.off, len := m.len, x0 := m.dst % 64, y0 := m.dst / 64, x1 := m.dst % 64,
    y1 := m.dst / 64, q := m.q, tag := m.tag, phase := .reserving, asked := [m.dst], dests := [m.dst], grants := [],
    granted := [], written := [], lost := [], damaged := false, late := false, payload := [], inj := 0 }

/-- Write the output; a partial for another tile becomes a message, which waits for a handle of the send list. -/
def attDone (s : State) (t h : Nat) (c : AttCmd) (st : BitVec 32) : State :=
  match c.msg with
  | none => attFinal (attWrite s t c) t h st
  | some m =>
    match pick s 32 (handleFree (tileOf s t)) with
    | none => s
    | some (k, s) =>
      let s := updTile (attWrite s t c) t (fun x => { x with sends := x.sends ++ [attSend c m k] })
      updAtt s t h (fun c => { c with phase := .sending k st, outs := [], devOuts := [], msg := none })

/-- The status of SCORE when its last update is applied: pages released, or the code it stopped with. -/
def scoreStatus (c : AttCmd) (st : BitVec 32) : BitVec 32 :=
  if st.toNat / 2 ^ 28 = 0 then attStatus 0 0 c.released.length else st

/-- ATTN_COMMAND_FINAL (R133, R134, R141, R146): the output is written or the updates are complete, the partial sent, and
the command is final. A block that names no operation is invalid, code 4. -/
def execAttnCommandFinal (t h : Nat) (s : State) : Host.Outcome State Fault Refusal :=
  match attOf s t h with
  | none => .next s
  | some c =>
    match c.phase with
    | .queued =>
      if attHead s t h then
        match readBlock s t c with
        | (s1, some b) => if bOP b > 3 then .next (attFinal s1 t h (attStatus 4 0 0)) else .next s
        | _ => .next s
      else .next s
    | .updating st =>
      if s.upds.any (fun u => u.t == t && u.h == h) then .next s
      else
        let out := c.released.flatMap (fun n => leBytes 4 n)
        let s := if st.toNat / 2 ^ 28 = 0 && out != [] then tmWrite s t 2 (Mem.lay c.freeOut out) else s
        .next (attFinal s t h (scoreStatus c st))
    | .done st => .next (whole s (attDone s t h c st))
    | .sending k st =>
      match sendOf s t k with
      | some m =>
        match m.phase with
        | .final x =>
          let s := updTile s t (fun x => { x with sends := x.sends.filter (fun m => m.h != k) })
          .next (attFinal s t h (if x = 0 then st else BitVec.ofNat 32 (9 * 2 ^ 28 + st.toNat % 2 ^ 28)))
        | _ => .next s
      | none => .next s
    | .final _ => .next s

end Sys2Proof.Machine
end

