-- ==== Sys2Proof/Machine/AttnBatch.lean ====
section
/-! DEFINITION. ATTN_BATCH (R150 to R154): the batch header and its sequence records, buckets and passes, chunks on the
tiles of the rectangle, the canonical merge tree, and the SCORE pass with the free ring. -/

namespace Sys2Proof.Machine

/-! ### Header and records (Tables 5.8, 5.9) -/

/-- Is a batch header valid? -/
def hdrOk (b : List Byte) : Bool :=
  (List.range 64).all (fun i => (i < 23 || (24 ≤ i && i < 34) || (36 ≤ i && i < 46)) || b.getD i 0 == 0) &&
  attFmtOk (eNat b 0 1) && attFmtOk (eNat b 1 1) && attFmtOk (eNat b 2 1) && eNat b 3 1 < 8 && eNat b 4 1 < 8 &&
  eNat b 5 1 ≤ 6 && eNat b 6 1 ≤ 1 && eNat b 7 1 < 4 && eNat b 16 6 % 64 == 0 && eNat b 22 1 ≤ 15 &&
  (!bit (eNat b 7 1) 1 || (1 ≤ eNat b 36 1 && eNat b 37 1 ≤ eNat b 36 1))

def hRing (b : List Byte) : Bool := bit (eNat b 7 1) 1
def hScore (b : List Byte) : Bool := bit (eNat b 7 1) 0
/-- Devices in the ring, this device's place, its successor, and the staging areas. -/
def hDevs (b : List Byte) : Nat := eNat b 36 1 + 1
def hPos (b : List Byte) : Nat := eNat b 37 1
def hNext (b : List Byte) : Nat := eNat b 38 1
def hStage (b : List Byte) : Nat := eNat b 40 6

/-- Is a sequence record valid? -/
def recOk (r : List Byte) : Bool :=
  (List.range 64).all (fun i => i < 36 || r.getD i 0 == 0) && eNat r 6 1 < 32 && 1 ≤ eNat r 8 4 && eNat r 8 4 ≤ 2 ^ 20 &&
    eNat r 0 6 % 32 == 0

/-- The parameters of a sequence: all its pages. -/
def batchPar (b r : List Byte) : AttPar :=
  ⟨eNat b 0 1, eNat b 1 1, eNat b 2 1, eNat r 6 1 + 1, 32 * (eNat b 3 1 + 1), eNat b 4 1, eNat r 7 1, eNat b 8 4, eNat r 32 4,
   eNat r 12 4, eNat r 0 6, 0, eNat r 8 4, none⟩

/-- Chunks of a sequence (R151). -/
def chunkCount (b : List Byte) (p : AttPar) : Nat := cdiv p.npages (2 ^ eNat b 5 1)

/-- Chunk j (R151). -/
def chunkPar (b : List Byte) (p : AttPar) (j : Nat) : AttPar :=
  let c := 2 ^ eNat b 5 1
  { p with first := j * c, npages := min c (p.npages - j * c) }

/-- Chunks of one block of the ring: ceil(n / N) (notes/assumptions/15.md). -/
def blockChunks (b : List Byte) (p : AttPar) : Nat := cdiv (chunkCount b p) (hDevs b)

/-- Does this device hold chunk j: always, or, on a ring, when it lies in block RINGPOS? -/
def ownChunk (b : List Byte) (p : AttPar) (j : Nat) : Bool := !hRing b || j / blockChunks b p == hPos b

/-! ### Buckets and passes (R150) -/

/-- The bucket of a sequence of P pages. -/
def bucketOf (P : Nat) : Nat := if P ≤ 1 then 0 else if P ≤ 512 then Nat.log2 (P - 1) + 1 else 10

/-- A sequence of a batch: the index of its record and the record. -/
structure BSeq where
  idx    : Nat
  record : List Byte
  deriving DecidableEq, Repr

/-- The pages and the bucket of a sequence. -/
def BSeq.pages (q : BSeq) : Nat := eNat q.record 8 4
def BSeq.bucket (q : BSeq) : Nat := bucketOf q.pages

/-- The non-empty buckets in ascending number, each with its sequences in record order. -/
def buckets (qs : List BSeq) : List (List BSeq) :=
  ((List.range 11).map (fun k => qs.filter (fun q => q.bucket == k))).filter (· != [])

/-- Share n tiles among buckets in proportion to their chunk counts, at least one each (R150 gives no rounding: the cut
points round down, notes/assumptions/80.md): the tiles of bucket i run from cut i to cut i + 1. -/
def cutPoint (n : Nat) (ws : List Nat) (i : Nat) : Nat := i + (n - ws.length) * (ws.take i).sum / max 1 ws.sum

/-- The passes of a batch (R150): each is a list of buckets with the tiles that serve them. -/
def batchPasses (b : List Byte) (ts : List Nat) (bs : List (List BSeq)) : List (List (List BSeq × List Nat)) :=
  if bs.length ≤ ts.length then
    let ws := bs.map (fun l => (l.map (fun q => chunkCount b (batchPar b q.record))).sum)
    [(List.range bs.length).map (fun i =>
      (bs.getD i [], (ts.drop (cutPoint ts.length ws i)).take (cutPoint ts.length ws (i + 1) - cutPoint ts.length ws i)))]
  else
    (List.range (cdiv bs.length ts.length)).map (fun k =>
      ((bs.drop (k * ts.length)).take ts.length).zip (ts.map (fun t => [t])))

/-! ### Who works, and where -/

/-- The dispatcher as it copies query rows and writes outputs: class 1 (Table 8.4). -/
def batchWho (p : Nat) : Who := Who.disp p 1 2

/-- The tile of a bucket that takes a piece of work: which one only changes timing (R150, R153), so it is free. -/
def someTile (s : State) (ts : List Nat) : State × Nat :=
  let d := draw s
  (d.2, ts.getD (d.1.toNat % max 1 ts.length) 0)

/-- The areas of Table 5.12: query rows, partial buffers, the ring of queue 7. -/
def qRowsAt : Nat := 0x8_0200
def partialsAt : Nat := 0x8_4200
def ring7At : Nat := 0xC_0000

/-- The size of a partial buffer, and how many a tile has. -/
def bufLen (d : Nat) : Nat := cdiv (partialLen d) 64 * 64
def bufCount (d : Nat) : Nat := (ring7At - partialsAt) / bufLen d

/-- A node of the merge tree: level, lowest chunk index, the tile that holds it and its partial buffer there, its rows. -/
structure BNode where
  lvl   : Nat
  chunk : Nat
  tile  : Nat
  buf   : Option Nat
  rows  : List AttRow
  deriving DecidableEq, Repr

/-- A buffer of tile t that none of the nodes holds (R152). -/
def freeBuf (d t : Nat) (st : List BNode) : Option Nat :=
  firstBelow (bufCount d) (fun k => !st.any (fun n => n.tile == t && n.buf == some k))

/-- Write a partial to its buffer. -/
def putPartial (s : State) (t d : Nat) (buf : Option Nat) (rows : List AttRow) : State :=
  match buf with
  | some k => tmWrite s t 2 (Mem.lay (partialsAt + k * bufLen d) (partialBytes d rows))
  | none => s

/-- Copy the query rows of a sequence to a tile (R150): the code of the first access that failed. -/
def copyQueries (s : State) (w : Who) (p : AttPar) (r : List Byte) (t : Nat) : State × Nat :=
  (List.range p.m).foldl (fun (x : State × Nat) i =>
    let y := devRead x.1 w (eNat r 16 6 + i * eNat r 22 2) (queryBytes p.qf p.d)
    let c := accCode y.2.2
    (if c = 0 then tmWrite y.1 t 4 (Mem.lay (qRowsAt + i * queryBytes p.qf p.d) y.2.1) else y.1, firstCode [x.2, c])) (s, 0)

/-- One SCAN of a batch on tile t (R151): the rows of its partial and the code, which the tile's LASTST records. -/
def scanChunk (s : State) (t : Nat) (p : AttPar) : State × List AttRow × Nat :=
  let q := queryRows s t p qRowsAt (queryBytes p.qf p.d)
  if q.2.2 then (setLastSt q.1 t 2, [], 2)
  else
    let x := scanCore q.1 (pipeWho s t) p q.2.1 (fun s => countPage s t)
    (setLastSt (if x.2.2.1 = 0 then countNan x.1 t p.m x.2.1 else x.1) t x.2.2.1, x.2.1, x.2.2.1)

/-! ### The merge tree (R151) -/

/-- Merge two nodes row by row. -/
def mergeRows (x y : List AttRow) : List AttRow := (x.zip y).map (fun r => mergeRow r.1 r.2)

/-- The ATTN_MERGE message of node y to tile t (R141, R151): its partial goes to receive queue 7 with the tag of its chunk.
The code is 9 where it is damaged. -/
def mergeMessage (s : State) (t d : Nat) (y : BNode) : State × Nat :=
  let n := partialLen d
  let r := match y.buf with
    | some k => readPayload s y.tile (partialsAt + k * bufLen d) n
    | none => (s, partialBytes d y.rows, false)
  let pad := List.replicate (bufLen d - n) (0 : Byte)
  (tmWrite r.1 t 3 (Mem.lay ring7At
    (msgRecord (msgInfo y.tile 0 r.2.2) n (BitVec.ofNat 16 y.chunk) (ring7At + 64) ++ r.2.1 ++ pad)), if r.2.2 then 9 else 0)

/-- A merge runs on the tile of the left input x, which receives the right one y at queue 7 (R142, R151). The code: 9 for a
damaged message, 2 for an input that cannot be read. -/
def mergeNodes (s : State) (p : AttPar) (x y : BNode) : State × BNode × Nat :=
  let m := mergeMessage s x.tile p.d y
  let a := match x.buf with
    | some k => tmRead m.1 x.tile 2 (partialsAt + k * bufLen p.d) (partialLen p.d)
    | none => (m.1, [], false)
  let b := tmRead a.1 x.tile 2 (ring7At + 64) (partialLen p.d)
  let code := firstCode [m.2, if a.2.2 || b.2.2 then 2 else 0]
  let rows := mergeRows x.rows y.rows
  if code != 0 then (setLastSt b.1 x.tile code, x, code)
  else (putPartial (countNan b.1 x.tile p.m rows) x.tile p.d x.buf rows, { x with lvl := x.lvl + 1, rows := rows }, 0)

/-- Merge the newest nodes while their levels agree, or, at the end, to the root: a node without a partner is carried up
(R151). The newest node comes first; `n` bounds the merges. -/
def settleNodes (all : Bool) (p : AttPar) : Nat → State → List BNode → State × List BNode × Nat
  | 0, s, l => (s, l, 0)
  | _, s, [] => (s, [], 0)
  | _, s, [x] => (s, [x], 0)
  | n + 1, s, y :: x :: l =>
    if all || x.lvl == y.lvl then
      let m := mergeNodes s p x y
      if m.2.2 != 0 then (m.1, y :: x :: l, m.2.2) else settleNodes all p n m.1 (m.2.1 :: l)
    else (s, y :: x :: l, 0)

/-- The run of a sequence: its open nodes, newest first, the tiles that have its query rows, and the code. -/
structure BRun where
  nodes : List BNode
  has   : List Nat
  code  : Nat
  deriving DecidableEq, Repr

/-- A tile of the bucket, with the query rows of the sequence in its memory. -/
def seqTile (s : State) (w : Who) (p : AttPar) (r : List Byte) (ts : List Nat) (x : BRun) : State × Nat × BRun :=
  let u := someTile s ts
  if x.has.contains u.2 then (u.1, u.2, x)
  else
    let c := copyQueries u.1 w p r u.2
    (c.1, u.2, { x with has := u.2 :: x.has, code := firstCode [x.code, c.2] })

/-- Take the partial of a chunk into the tree. -/
def addLeaf (s : State) (p : AttPar) (t j : Nat) (rows : List AttRow) (x : BRun) : State × BRun :=
  let k := freeBuf p.d t x.nodes
  let m := settleNodes false p 32 (putPartial s t p.d k rows) (⟨0, j, t, k, rows⟩ :: x.nodes)
  (m.1, { x with nodes := m.2.1, code := m.2.2 })

/-- Scan and merge the chunks of a sequence on the tiles of its bucket (R151). -/
def runChunks (s : State) (w : Who) (b : List Byte) (p : AttPar) (r : List Byte) (ts : List Nat) : State × BRun :=
  (List.range (chunkCount b p)).foldl (fun (y : State × BRun) j =>
    if y.2.code != 0 then y
    else
      let u := seqTile y.1 w p r ts y.2
      if u.2.2.code != 0 then (u.1, u.2.2)
      else
        let c := scanChunk u.1 u.2.1 (chunkPar b p j)
        if c.2.2 != 0 then (c.1, { u.2.2 with code := c.2.2 }) else addLeaf c.1 p u.2.1 j c.2.1 u.2.2) (s, ⟨[], [], 0⟩)

/-! ### The root, the SCORE pass, a sequence -/

/-- Write the final output rows (R143, R151). -/
def batchOutput (s : State) (w : Who) (b : List Byte) (p : AttPar) (r : List Byte) (root : List AttRow) : State × Nat :=
  (List.range p.m).foldl (fun (y : State × Nat) i =>
    let z := devWrite y.1 w (eNat r 24 6 + i * eNat r 30 2) (finalRow (eNat b 6 1 == 1) (root.getD i (AttRow.init p.d)))
    (z.1, firstCode [y.2, accCode z.2])) (s, 0)

/-- Append a descriptor address to the free ring (R154): code 7 when it is full. -/
def freeAppend (s : State) (w : Who) (ring desc : Nat) : State × Nat :=
  let h := devRead s w ring 16
  let head := eNat h.2.1 0 4
  let tail := eNat h.2.1 4 4
  let size := eNat h.2.1 8 4
  if accCode h.2.2 != 0 then (h.1, accCode h.2.2)
  else if (tail + 2 ^ 32 - head) % 2 ^ 32 = size ∨ size = 0 then (h.1, 7)
  else
    let x := devWrite h.1 w (ring + 16 + tail % size * 8) (leBytes 8 desc)
    let y := devWrite x.1 w (ring + 4) (leBytes 4 (tail + 1))
    (y.1, firstCode [accCode x.2, accCode y.2])

/-- Apply the updates of one page of a batch at once: the code of a failure, and whether the page was released. -/
def batchUpds (s : State) (us : List ScoreUpd) : State × Nat × Bool :=
  us.foldl (fun (r : State × Nat × Bool) u =>
    let x := scoreRmw r.1 u
    let c := if r.2.1 != 0 then r.2.1 else x.2.1
    if x.2.1 = 0 && x.2.2 then
      let y := clearRmw x.1 u
      (y.1, if c != 0 then c else y.2.1, r.2.2 || y.2.2)
    else (x.1, c, r.2.2)) (s, 0, false)

/-- The SCORE pass of one chunk on tile t with the root statistics (R154): released pages go to the free ring, which the
dispatcher writes, until it is full. -/
def scoreChunk (s : State) (part t : Nat) (b : List Byte) (p : AttPar) (root : List AttRow) (code : Nat) : State × Nat :=
  let q := queryRows s t p qRowsAt (queryBytes p.qf p.d)
  let st := scoreRows p ((partialBytes p.d root).take 256) q.2.1
  if q.2.2 then (setLastSt q.1 t 2, 2)
  else
    let x := overPages q.1 (pipeWho s t) p (fun _ => true) false code (fun s c g code =>
      let n := s.nextId
      let s1 := scorePage t 4 (eNat b 22 1) (eNat b 24 4) part p st (countPage s t) c g
      let us := s1.upds.filter (fun u => n ≤ u.id)
      let z := batchUpds { s1 with upds := s1.upds.filter (fun u => u.id < n) } us
      let f := if z.2.2 && code = 0 then
          freeAppend z.1 (dispWho part) (eNat b 28 6) (p.dlist + 32 * (p.first + c.n)) else (z.1, 0)
      (f.1, firstCode [code, z.2.1, f.2]))
    (setLastSt x.1 t x.2.2.1, firstCode [x.2.1, x.2.2.1])

/-- The SCORE pass of a sequence over the chunks held here. -/
def batchScore (s : State) (part : Nat) (b : List Byte) (p : AttPar) (r : List Byte) (root : List AttRow) (ts : List Nat) (x : BRun) :
    State × Nat :=
  let y := ((List.range (chunkCount b p)).filter (ownChunk b p)).foldl (fun (y : State × BRun) j =>
    if y.2.code != 0 && y.2.code != 7 then y
    else
      let u := seqTile y.1 (batchWho part) p r ts y.2
      let c := scoreChunk u.1 part u.2.1 b (chunkPar b p j) root u.2.2.code
      (c.1, { u.2.2 with code := c.2 })) (s, x)
  (y.1, y.2.code)

/-- Close a sequence whose partials are in the tree: the root, its output, and the SCORE pass. A sequence of one chunk has
the final output of its SCAN (R143). -/
def finishSeq (s : State) (part : Nat) (b r : List Byte) (ts : List Nat) (x : BRun) : State × Nat :=
  let p := batchPar b r
  let m := settleNodes true p 32 s x.nodes
  let root := match m.2.1 with
    | n :: _ => if chunkCount b p = 1 then n.rows.map AttRow.closed else n.rows
    | [] => []
  if m.2.2 != 0 then (m.1, m.2.2)
  else
    let o := batchOutput m.1 (batchWho part) b p r root
    if o.2 != 0 then o else if hScore b then batchScore o.1 part b p r root ts x else o

/-- One sequence on the tiles of its bucket: scanned, merged and closed. -/
def runSeq (s : State) (part : Nat) (b : List Byte) (ts : List Nat) (r : List Byte) : State × Nat :=
  let x := runChunks s (batchWho part) b (batchPar b r) r ts
  if x.2.code != 0 then (x.1, x.2.code) else finishSeq x.1 part b r ts x.2

/-! ### The batch -/

/-- The sequence records as the dispatcher reads them (class 3): the records that are valid, and the code of each other one. -/
def readRecords (s : State) (part : Nat) (b : List Byte) : State × List BSeq × List (Nat × Nat) :=
  (List.range (eNat b 12 4)).foldl (fun (x : State × List BSeq × List (Nat × Nat)) i =>
    let r := devRead x.1 (dispWho part) (eNat b 16 6 + 64 * i) 64
    let c := accCode r.2.2
    if c != 0 then (r.1, x.2.1, x.2.2 ++ [(i, c)])
    else if recOk r.2.1 then (r.1, x.2.1 ++ [⟨i, r.2.1⟩], x.2.2)
    else (r.1, x.2.1, x.2.2 ++ [(i, 4)])) (s, [], [])

/-- The failure of a batch: the code of the lowest record that has one, with its index (notes/assumptions/15.md). -/
def firstFailure (l : List (Nat × Nat)) : Nat × Nat :=
  match l.foldl (fun (b : Option (Nat × Nat)) x => match b with
    | some y => if x.1 < y.1 then some x else some y
    | none => some x) none with
  | some x => (x.2, x.1)
  | none => (0, 0)

/-- Every sequence of a batch, pass by pass in ascending bucket number (R150): the failures by record. -/
def runPasses (s : State) (part : Nat) (b : List Byte) (ts : List Nat) (qs : List BSeq) : State × List (Nat × Nat) :=
  (batchPasses b ts (buckets qs)).foldl (fun y pass => pass.foldl (fun y bk => bk.1.foldl (fun (y : State × List (Nat × Nat)) q =>
    let z := runSeq y.1 part b bk.2 q.record
    (z.1, if z.2 = 0 then y.2 else y.2 ++ [(q.idx, z.2)])) y) y) (s, [])

/-! ### The command -/

/-- The tiles of an entry's RECT at byte offset o (coded as SREAD 0x0A). -/
def entryRect (e : List Byte) (o : Nat) : List Nat := rectTiles (eNat e o 1) (eNat e (o + 1) 1) (eNat e (o + 2) 1) (eNat e (o + 3) 1)

def entryRectOk (s : State) (p : Nat) (e : List Byte) (o : Nat) : Bool :=
  rectOk s (some p) (eNat e o 1) (eNat e (o + 1) 1) (eNat e (o + 2) 1) (eNat e (o + 3) 1)

/-- Queue 7 of a tile under a batch, and disabled (R152). -/
def setRing7 (s : State) (t : Nat) (on : Bool) : State :=
  updTile s t (fun x => setRing x 7 (if on then { Ring.reset with base := ring7At, size := 4096 } else Ring.reset))

/-- At the end of a batch the upper half of each tile's memory is undefined (R152): free values. -/
def undefineUpper (s : State) (t : Nat) : State :=
  let b := freeBytes s.fresh 0x8_0000
  updTile { s with fresh := s.fresh + 0x1_0000 } t (fun x => { x with
    mem := Mem.write x.mem 0x8_0000 b
    memErr := x.memErr.filter (fun e => e.1 < 0x1_0000) })

/-- Release the tiles of a batch. -/
def batchRelease (s : State) (ts : List Nat) : State := ts.foldl (fun s t => undefineUpper (setRing7 s t false) t) s

/-- Is a batch held (R152): a group runs or an attention command is queued on one of its tiles? -/
def batchHeld (s : State) (e : SqEntry) : Bool :=
  (entryRect e.bytes 24).any (fun t => slots8.any (fun g => (grp s t g).live) || (tileOf s t).att.any (fun c => !c.isFinal) ||
    tileHeld s t || (tileOf s t).fwBusy || bankInBist s t)

/-- Is the entry valid (R292)? -/
def batchEntryOk (s : State) (p : Nat) (e : List Byte) : Bool :=
  flagsOk e && restZero e [(0, 22), (24, 28)] && entryRectOk s p e 24

/-- Complete a batch, whatever its status: its tiles are released (R152). -/
def batchEnd (s : State) (p id : Nat) (ts : List Nat) (status detail : Nat) : State :=
  complete (batchRelease s ts) p id status detail

/-- Complete a batch: status 0, or 10 with the code and the record index. -/
def batchDone (s : State) (p id : Nat) (ts : List Nat) (code idx : Nat) : State :=
  if code = 0 then batchEnd s p id ts 0 0 else batchEnd s p id ts 10 (code * 2 ^ 28 + idx % 2 ^ 20)

end Sys2Proof.Machine
end

