-- ==== Sys2Proof/Machine/Bar0.lean ====
section
/-! DEFINITION. Which function reaches which register of BAR0 (R282, Table 11.2), and when a block answers (R360). -/

namespace Sys2Proof.Machine

/-- HLM_STAT.STAGE: 0 to 4, 0xF when bring-up is complete. -/
def stageNow (s : State) : Nat := regF s oHLMSTAT 31 28

/-- Has bring-up stage k completed (R360)? While a report waits, its stage has. -/
def stageDone (s : State) (k : Nat) : Bool := stageNow s > k || (stageNow s = k && (s.head.waiting || s.head.held))

/-- The bring-up stage whose end makes the block at an offset answer (Tables 1.7, 14.3; notes/assumptions/16.md). -/
def blockStage (o : Nat) : Nat :=
  if o < 0x10_0000 then 0
  else if o < 0x20_0000 then 4
  else if o < 0x60_0000 then 0
  else if o < 0x70_0000 then 3
  else if o < 0x80_0000 then 1
  else if o < 0x200_0000 then 2
  else if o < 0x300_0000 then 3
  else if o < 0x3F0_0000 then 4
  else 0

/-- Does the block at an offset answer? The HLM block, with the stage report and the mailbox, answers after a failed stage too
(R361). -/
def blockReady (s : State) (o : Nat) : Bool := stageDone s (blockStage o) || (s.head.failed && decide (0x3F0_0000 ≤ o))

/-- Does an offset lie in the HST page of partition p, a tile of its stacks, its SHF blocks, its counts, or its Cupping
registers (Table 11.2)? The second result says that VFs may write there. -/
def vfSees (s : State) (p o : Nat) : Bool × Bool :=
  if o < 0x10_0000 then (true, false)
  else if hstPage p ≤ o && o < hstPage p + 0x1_0000 then (true, true)
  else if 0x300_0000 ≤ o && o < 0x3F0_0000 then
    let mine := tileInPart s p ((o - 0x300_0000) / 0x1000)
    (mine, mine)
  else if 0x100_0000 ≤ o && o < 0x200_0000 then (ownsStack s p ((o - 0x100_0000) / 0x10_0000), false)
  else if oBWRCNT p 0 ≤ o && o < oBWRCNT p 0 + 0x40 then (true, false)
  else if oCUPHIST p 0 ≤ o && o < oCUPHIST p 0 + 0x100 then (true, true)
  else (false, false)

/-- Is fn a function: 0 the PF, v the VF of partition v - 1 (R280)? -/
def fnFitted (s : State) (fn : Nat) : Bool := fn ≤ totalVFs s.asm

/-- May function fn write at an offset of BAR0? -/
def canWrite (s : State) (fn o : Nat) : Bool := fnFitted s fn && blockReady s o && (fn == 0 || (vfSees s (fn - 1) o).2)

/-- Does function fn see the register at an offset? -/
def canRead (s : State) (fn o : Nat) : Bool := fnFitted s fn && blockReady s o && (fn == 0 || (vfSees s (fn - 1) o).1)

end Sys2Proof.Machine
end

