-- ==== Sys2Proof/Machine/Holds.lean ====
section
/-! DEFINITION. Which queue entry starts next (R290): the program image (Table 4.9), what holds a LAUNCH, a batch or a scan
back, and the weighted round robin over the SQs. -/

namespace Sys2Proof.Machine

/-! ### The image (Table 4.9) -/

def iCodeOff (b : List Byte) : Nat := eNat b 8 4
def iCodeLen (b : List Byte) : Nat := eNat b 12 4
def iDataOff (b : List Byte) : Nat := eNat b 16 4
def iDataLen (b : List Byte) : Nat := eNat b 20 4
def iLoadAt (b : List Byte) : Nat := eNat b 24 4
def iArgAt (b : List Byte) : Nat := eNat b 28 4
def iEntry (b : List Byte) (n : Nat) : Nat := eNat b (32 + 4 * n) 4
def iRing (b : List Byte) (q : Nat) : Nat := eNat b (64 + 8 * q) 8
def iSlots (b : List Byte) : List Nat := setBits 8 (eNat b 6 1)

/-- The tile memory offset of the data. -/
def iDataAt (b : List Byte) : Nat := iLoadAt b + 64 * cdiv (iCodeLen b) 64

/-- BASE, SIZE and APPLY of a ring. -/
def ringBase (r : Nat) : Nat := bits r 19 0
def ringSize (r : Nat) : Nat := bits r 34 20
def ringApply (r : Nat) : Bool := bit r 63

/-- The queues whose ring the image applies. -/
def iApplied (b : List Byte) : List Nat := (List.range 8).filter (fun q => ringApply (iRing b q))

/-- The tile memory ranges of an image: code, data, arguments, applied rings. -/
def iRanges (b : List Byte) (argLen : Nat) : List (Nat × Nat) :=
  [(iLoadAt b, iCodeLen b), (iDataAt b, iDataLen b), (iArgAt b, argLen)] ++
    (iApplied b).map (fun q => (ringBase (iRing b q), 64 * ringSize (iRing b q)))

/-- Do two ranges share a byte? -/
def rangesMeet (x y : Nat × Nat) : Bool := x.1 < y.1 + y.2 && y.1 < x.1 + x.2 && x.2 != 0 && y.2 != 0

/-- Are ranges within tile memory and apart from each other? -/
def rangesOk : List (Nat × Nat) → Bool
  | [] => true
  | x :: l => inTile x.1 x.2 && l.all (fun y => !rangesMeet x y) && rangesOk l

/-- The header rules of Table 4.9 and the placement rule of R127. That an applied ring's BASE must be a multiple of 64
(R119) is an obligation of the user with no rejection stated: the model does not check it and uses BASE as it is (DESIGN
CHOICE, notes/assumptions/79.md). -/
def imageOk (b : List Byte) (argLen : Nat) : Bool :=
  eNat b 0 4 == 0x5439_5450 && eNat b 4 2 == 1 && eNat b 7 1 == 0 && iCodeLen b % 8 == 0 && iLoadAt b % 64 == 0 &&
    iArgAt b % 64 == 0 && (List.range 8).all (fun n => iEntry b n % 8 == 0) &&
    (iSlots b).all (fun n => iEntry b n < iCodeLen b) &&
    (List.range 8).all (fun q => bits (iRing b q) 62 35 == 0) && rangesOk (iRanges b argLen)

/-- Is a ring in use on a tile (R127: USED or WAITING is not zero)? -/
def ringBusy (s : State) (t q : Nat) : Bool :=
  let r := ringOf (tileOf s t) q
  r.spaces != [] || r.held != []

/-! ### Starting a LAUNCH -/

/-- Is a slot of a tile occupied: its group runs, or its LAUNCH has yet to load or to report there? -/
def slotBusy (s : State) (t n : Nat) : Bool :=
  (grp s t n).live ||
  (match (grp s t n).launch with
    | some l => (cmdOf s l.part l.cmd).any (fun c => c.reports.contains t)
    | none => false) ||
  (s.parts.any (fun e => e.2.cmds.any (fun c => c.loads.contains t && (iSlots c.image).contains n)))

/-- The image header as the dispatcher reads it before the start. -/
def launchHeader (s : State) (p : Nat) (e : List Byte) : List Byte := (devRead s (dispWho p) (eNat e 16 6) 128).2.1

/-- Is the entry valid (R292, Table 11.6)? -/
def launchEntryOk (s : State) (p : Nat) (e : List Byte) : Bool :=
  flagsOk e && restZero e [(0, 22), (24, 38), (40, 44)] && eNat e 16 6 % 64 == 0 && eNat e 40 4 ≤ 65536 && entryRectOk s p e 24

/-- Does a running batch of the partition meet a rectangle (R152)? -/
def batchMeets (s : State) (p : Nat) (ts : List Nat) : Bool :=
  (partOf s p).cmds.any (fun c => eOp c.entry == 3 && (entryRect c.entry 24).any (fun t => ts.contains t))

/-- Must a valid LAUNCH be held (R126, R152, R369)? -/
def launchHeld (p : Nat) (s : State) (e : SqEntry) : Bool :=
  launchEntryOk s p e.bytes &&
    (let ts := entryRect e.bytes 24
     let h := launchHeader s p e.bytes
     batchMeets s p ts || ts.any (fun t => (tileOf s t).fwBusy) ||
       (imageOk h (eNat e.bytes 40 4) && ts.any (fun t => (iSlots h).any (fun n => slotBusy s t n))))

/-! ### Other holds -/

/-- Must a valid batch be held (R152, R309)? -/
def batchWaits (s : State) (e : SqEntry) : Bool := batchHeld s e || ebbing s

/-- The scans of a channel, the running one first. -/
def scansOf (s : State) (c : Nat) : List (Nat × Nat) := SMap.get [] s.ras.scans c
def setScans (s : State) (c : Nat) (l : List (Nat × Nat)) : State :=
  { s with ras := { s.ras with scans := SMap.set [] s.ras.scans c l } }

/-- Is a CVU_SCAN entry valid (R292, R347)? -/
def scanEntryOk (s : State) (e : List Byte) : Bool :=
  flagsOk e && restZero e [(0, 22), (24, 33), (40, 46)] && cvuFitted s.asm (eNat e 32 1)

/-- A scan waits in its SQ while its channel holds a running one and 8 queued ones. -/
def scanHeld (s : State) (e : SqEntry) : Bool := scanEntryOk s e.bytes && (scansOf s (eNat e.bytes 32 1)).length > 8

/-! ### The choice of the next command (R290) -/

/-- Must the head entry of an SQ of dispatcher p be held? -/
def entryHeld (s : State) (p : Nat) (e : SqEntry) : Bool :=
  match eOp e.bytes with
  | 1 => launchHeld p s e
  | 3 => batchWaits s e
  | 5 => scanHeld s e
  | _ => false

/-- Can the head entry of an SQ start? -/
def canStart (s : State) (p sq : Nat) : Bool := (startable s p sq).any (fun e => opAccepted p (eOp e.bytes) && !entryHeld s p e)

/-- The WEIGHT of an SQ: 0 acts as 1. -/
def sqWeight (s : State) (p sq : Nat) : Nat := max 1 (regF s (oSQB p sq) 7 0)

/-- Weighted round robin over the SQs whose head can start: the SQ whose turn it is goes on while its weight lasts, then the
next one in ascending order has its turn. The SQ, and the turn after it. -/
def pickSq (s : State) (p : Nat) : Option (Nat × Nat × Nat) :=
  let r := (partOf s p).rr
  if r.2 > 0 && canStart s p r.1 then some (r.1, if r.2 = 1 then ((r.1 + 1) % 16, 0) else (r.1, r.2 - 1))
  else
    let from_ := if r.2 > 0 then r.1 + 1 else r.1
    (((List.range 16).map (fun i => (from_ + i) % 16)).find? (canStart s p)).map
      (fun q => (q, if sqWeight s p q = 1 then ((q + 1) % 16, 0) else (q, sqWeight s p q - 1)))

/-- Run the start of a command of the given opcode at the head of an SQ: `body` gives its effect, with the command in
flight. Nothing happens when no such command can start, while the round robin has another SQ before it, or while an access of
it to memory must wait. -/
def starting (op : Nat) (s : State) (p sq : Nat) (body : State → Cmd → State) : State :=
  match startable s p sq, pickSq s p with
  | some e, some (q, turn) =>
    if q = sq ∧ eOp e.bytes = op ∧ opAccepted p op ∧ entryHeld s p e = false then
      let r := startCmd (updPart s p (fun x => { x with rr := turn })) p sq e
      whole s (advance (body r.1 r.2) p)
    else s
  | _, _ => s

end Sys2Proof.Machine
end

