-- ==== Sys2Proof/Machine/Queues.lean ====
section
/-! DEFINITION. Queues and partition control (R287 to R303): doorbells, entry fetch, START, STOP, RESUME, HANG, CANCEL,
time-outs and the watchdog test, FENCE and NOTE. -/

namespace Sys2Proof.Machine

/-- Is q a queue of dispatcher p? -/
def queueFitted (s : State) (p q : Nat) : Bool := (p = 8 && q = 0) || (p < totalVFs s.asm && q < 16)

/-- A queue error (R289): the queue is disabled and ERR is set. -/
def sqError (s : State) (p q : Nat) : State := setF (setF s (oSQB p q) 63 63 0) (oSQB p q) 61 61 1
def cqError (s : State) (p q : Nat) : State := setF (setF s (oCQB p q) 63 63 0) (oCQB p q) 62 62 1

/-- SQ_DOORBELL (R289): a tail at or beyond the depth, or one that passes the head, is a queue error. -/
def execSqDoorbell (fn part q : Nat) (v : DWord) (s : State) : Host.Outcome State Fault Refusal :=
  if queueFitted s part q && canWrite s fn (queuePage part + 0x8000 + 8 * q) && sqLive s part q then
    let d := depthOf (regF s (oSQB part q) 51 48)
    let head := regF s (oSQB part q) 27 16
    let old := tailAt s part q
    let new := fld v 11 0
    if new ≥ d || (old + d - head) % d + (new + d - old) % d > d - 1 then .next (sqError s part q)
    else .next (updPart s part (fun x => { x with tails := SMap.set 0 x.tails q new }))
  else .next s

/-- CQ_DOORBELL (R289, R291): a head among the written entries frees those before it; completions that wait are
written. -/
def execCqDoorbell (fn part q : Nat) (v : DWord) (s : State) : Host.Outcome State Fault Refusal :=
  if queueFitted s part q && canWrite s fn (queuePage part + 0x8100 + 8 * q) && regB s (oCQB part q) 63 &&
      !regB s (oCQB part q) 62 then
    let d := depthOf (regF s (oCQB part q) 43 40)
    let tail := regF s (oCQB part q) 27 16
    let old := SMap.get 0 (partOf s part).heads q
    let new := fld v 11 0
    if new ≥ d || (new + d - old) % d > (tail + d - old) % d then .next (cqError s part q)
    else
      let s := updPart s part (fun x => { x with heads := SMap.set 0 x.heads q new })
      .next (advance (drainWaiting s part q) part)
  else .next s

/-- May dispatcher p fetch entries: only a RUNNING partition does, the device queue from the end of stage 4 (R296,
R298)? -/
def mayFetch (s : State) (p : Nat) : Bool := if p = 8 then regB s oHLMSTAT 17 else pState s p = 2

/-- SQ_ENTRY_FETCH (R290, R302): the next entry below the tail reaches the dispatcher. A marked entry completes with
status 1; one that cannot be read completes with 6 or 7 (notes/assumptions/17.md). -/
def execSqEntryFetch (part sq : Nat) (s : State) : Host.Outcome State Fault Refusal :=
  let s₀ := s
  if queueFitted s part sq && sqLive s part sq && mayFetch s part && fetchAt s part sq != tailAt s part sq then
    let i := fetchAt s part sq
    let d := depthOf (regF s (oSQB part sq) 51 48)
    let r := devRead s (dispWho part) ((reg s (oSQA part sq)).toNat + 128 * i) 128
    let e : SqEntry := ⟨i, r.2.1⟩
    let s := updPart r.1 part (fun x => { x with fetch := SMap.set 0 x.fetch sq ((i + 1) % d) })
    if (partOf s part).marks.contains (sq, i) then
      let s := setHead (updPart s part (fun x => { x with marks := dropOne (sq, i) x.marks })) part sq
      .next (whole s₀ (advance (completeEntry s part sq e 1) part))
    else match r.2.2.st with
      | .ok => .next (whole s₀ (advance (setEntries s part sq (entriesOf s part sq ++ [e])) part))
      | .decode => .next (whole s₀ (advance (completeEntry (setHead s part sq) part sq e 7) part))
      | _ => .next (whole s₀ (advance (completeEntry (setHead s part sq) part sq e 6) part))
  else .next s

/-! ### Partition control (R287, Table 11.4) -/

/-- Is a change of partition p's entry accepted and not yet applied (R286)? -/
def entryPending (s : State) (p : Nat) : Bool :=
  s.tg.commits.any (fun c => c.recs.any (fun r => r.1 == oPTABA p || r.1 == oPTABB p))

/-- The write rule of HST_PCTL and HST_KICK of partition p. -/
def pctlOk (s : State) (fn p o : Nat) : Bool := p < totalVFs s.asm && canWrite s fn (hstPage p + o)

/-- START: STOPPED to RUNNING, unless a change of the entry is pending; in restricted mode only partition 0 (R326). -/
def execStart (fn part : Nat) (s : State) : Host.Outcome State Fault Refusal :=
  if pctlOk s fn part 0 && pState s part = 1 && !entryPending s part && (part = 0 || !regB s oTHMSTAT 63) then .next (advance (setPState s part 2) part)
  else .next s

/-- STOP: RUNNING to STOPPING, which ends when no command is in flight. -/
def execStop (fn part : Nat) (s : State) : Host.Outcome State Fault Refusal :=
  if pctlOk s fn part 0 && pState s part = 2 then .next (settleStopping (setPState s part 3) part) else .next s

/-- RESUME: REPORTED to RUNNING. -/
def execResume (fn part : Nat) (s : State) : Host.Outcome State Fault Refusal :=
  if pctlOk s fn part 0 && pState s part = 5 then .next (advance (setPState s part 2) part) else .next s

/-- An engine fault of a running or stopping partition, counted once for escalation (R298, R377). -/
def takeEngineFault (s : State) (p cause : Nat) (c : Option Cmd) : State := countReset (engineFault s p cause c) (.part p)

/-- HANG (R301): an engine fault with cause 2. -/
def execHang (fn part : Nat) (s : State) : Host.Outcome State Fault Refusal :=
  if pctlOk s fn part 0x18 && (pState s part = 2 || pState s part = 3) then .next (takeEngineFault s part 2 none) else .next s

/-! ### Time-outs and the watchdog (R297 to R300) -/

/-- A watchdog self-fault (R300): WDFAULT and T5FORCED, vector 49, every counter stopped. -/
def watchdogFault (s : State) (p : Nat) : State :=
  let s := partIrq (setF (setF s (oPSTAT p) 8 8 1) (oPSTAT p) 9 9 1) p 49
  updPart s p (fun x => { x with cmds := x.cmds.map (fun c => { c with timeout := none }) })

/-- The two counters of a command expire together (R297, R298). The device queue completes the command with status 2 and goes
on (R296); a partition takes an engine fault, or in quarantine the replay learns of it (R372). -/
def expire (s : State) (part : Nat) (c : Cmd) : State :=
  if part = 8 then complete s 8 c.id 2 0
  else if (partOf s part).quarantine then engineFault s part 1 (some c)
  else if pState s part = 2 || pState s part = 3 then takeEngineFault s part 1 (some c)
  else s

/-- COMMAND_TIMEOUT (R297, R300): at a strobe the counters of a command have come to stand at the values given. Two that differ
are a self-fault, zeros in both an expiry. The device dispatcher has no HST_PSTAT: there a self-fault stops the counters. -/
def execCommandTimeout (part : Nat) (cnt : Counters) (s : State) : Host.Outcome State Fault Refusal :=
  match cmdOf s part cnt.cmd with
  | none => .next s
  | some c =>
    if c.timeout.isNone && !(partOf s part).quarantine then .next s
    else if cnt.cntA != cnt.cntB then
      .next (if part = 8 then updPart s 8 (fun x => { x with cmds := x.cmds.map (fun c => { c with timeout := none }) })
        else watchdogFault s part)
    else if cnt.cntA = 0 then .next (expire s part c)
    else .next (updCmd s part cnt.cmd (fun c => { c with cntA := cnt.cntA, cntB := cnt.cntB }))

/-- WATCHDOG_TEST (R300): the comparator is fed an unequal pair. It fails when the pair is not flagged, or when the
counters of a command differ. -/
def execWatchdogTest (part : Nat) (flagged : Bool) (s : State) : Host.Outcome State Fault Refusal :=
  if partValid s part && (!flagged || (partOf s part).cmds.any (fun c => c.timeout.isSome && c.cntA != c.cntB)) then
    .next (watchdogFault s part)
  else .next s

/-! ### CANCEL (R302) -/

/-- How a cancel of (sq, idx) resolves: 1 while the entry stands between head and tail and has not started, 2 when it
has started and its completion is not written, else 3. -/
def cancelResult (s : State) (p sq idx : Nat) : Nat :=
  let d := depthOf (regF s (oSQB p sq) 51 48)
  let f := fetchAt s p sq
  if (entriesOf s p sq).any (fun e => e.idx == idx) then 1
  else if idx < d && (idx + d - f) % d < (tailAt s p sq + d - f) % d then 1
  else if (partOf s p).cmds.any (fun c => c.sq == sq && c.idx == idx) then 2
  else if (partOf s p).waiting.any (fun w => eNat w.2.1 2 1 == sq && eNat w.2.1 6 2 == idx) then 2
  else 3

/-- A cancel that comes first: the entry completes with status 1, at once or when it is fetched. -/
def cancelEntry (s : State) (p sq idx : Nat) : State :=
  match (entriesOf s p sq).find? (fun e => e.idx == idx) with
  | some e => advance (completeEntry (setEntries s p sq (dropOne e (entriesOf s p sq))) p sq e 1) p
  | none => updPart s p (fun x => if x.marks.contains (sq, idx) then x else { x with marks := x.marks ++ [(sq, idx)] })

/-- A cancel that comes too late: the completion will carry CANCEL_LATE. -/
def cancelLate (s : State) (p sq idx : Nat) : State :=
  updPart s p (fun x => { x with
    cmds := updWhere (fun c => c.sq == sq && c.idx == idx) (fun c => { c with late := true }) x.cmds
    waiting := x.waiting.map (fun w => if eNat w.2.1 2 1 == sq && eNat w.2.1 6 2 == idx then
      (w.1, w.2.1.set 5 (w.2.1.getD 5 0 ||| 2), w.2.2) else w) })

/-- CANCEL: a write of HST_CANCEL with GO = 1. -/
def execCancel (fn part : Nat) (v : DWord) (s : State) : Host.Outcome State Fault Refusal :=
  if pctlOk s fn part 0x20 then
    let sq := fld v 19 16
    let idx := fld v 11 0
    let r := cancelResult s part sq idx
    let s := setReg s (oCANCEL part) (BitVec.ofNat 64 (r * 2 ^ 60 + sq * 2 ^ 16 + idx))
    .next (if r = 1 then cancelEntry s part sq idx else if r = 2 then cancelLate s part sq idx else s)
  else .next s

/-! ### FENCE and NOTE -/

/-- FENCE_COMMAND (R293): it waits for the commands of its scope that started before it. -/
def execFenceCommand (part sq : Nat) (s : State) : Host.Outcome State Fault Refusal :=
  .next (starting 6 s part sq (fun s c =>
    if flagsOk c.entry && restZero c.entry [(0, 17)] && eNat c.entry 16 1 < 2 then
      let all := eNat c.entry 16 1 = 1
      let l := ((partOf s part).cmds.filter (fun d => d.id != c.id && (all || d.sq == c.sq))).map (·.id)
      if l = [] then complete s part c.id 0 0 else updCmd s part c.id (fun c => { c with awaits := l })
    else complete s part c.id 4 0))

/-- NOTE (R290): completes at its start. -/
def execNote (part sq : Nat) (s : State) : Host.Outcome State Fault Refusal :=
  .next (starting 10 s part sq (fun s c =>
    complete s part c.id (if flagsOk c.entry && restZero c.entry [(0, 16)] then 0 else 4) 0))

end Sys2Proof.Machine
end

