-- ==== Sys2Proof/Machine/Launch.lean ====
section
/-! DEFINITION. LAUNCH (R126 to R128, R292): its start, the arrival of the image at a tile, and the tile's report; PIN and
UNPIN (R178); BAR2 accesses (R283). -/

namespace Sys2Proof.Machine

/-- The bytes of an image that matter: header, code and data. -/
def imageLen (h : List Byte) : Nat := max 128 (max (iCodeOff h + iCodeLen h) (iDataOff h + iDataLen h))

/-- The status of a failed read: 7 for a decode error, else 6. -/
def readStatus (a : AccSt) : Nat := if a.st = .decode then 7 else 6

/-- What the command does from its start on. -/
def launchGo (part : Nat) (s : State) (c : Cmd) : State :=
  let e := c.entry
  let ts := entryRect e 24
  if !launchEntryOk s part e then complete s part c.id 4 0
  else
    let h := devRead s (dispWho part) (eNat e 16 6) 128
    if h.2.2.st != .ok then complete h.1 part c.id (readStatus h.2.2) 0
    else if !imageOk h.2.1 (eNat e 40 4) || ts.any (fun t => (iApplied h.2.1).any (ringBusy h.1 t)) then
      complete h.1 part c.id 4 0
    else
      let i := devRead h.1 (dispWho part) (eNat e 16 6) (imageLen h.2.1)
      let a := devRead i.1 (dispWho part) (eNat e 32 6) (eNat e 40 4)
      if i.2.2.st != .ok then complete a.1 part c.id (readStatus i.2.2) 0
      else if a.2.2.st != .ok then complete a.1 part c.id (readStatus a.2.2) 0
      else updCmd a.1 part c.id (fun c => { c with loads := ts, reports := ts, image := i.2.1, args := a.2.1 })

/-- LAUNCH (R126, R127): the image and the arguments are read once and set out for every tile of the rectangle. -/
def execLaunch (part sq : Nat) (s : State) : Host.Outcome State Fault Refusal :=
  .next (starting 1 s part sq (launchGo part))

/-! ### The image at a tile -/

/-- A group as it starts (R97). -/
def newGroup (b : List Byte) (n : Nat) (l : LaunchRef) : Group :=
  { Group.reset with
    st := .ready
    pc := BitVec.ofNat 32 (iEntry b n)
    active := 0xFFFF_FFFF
    launch := some l
    codeAt := iLoadAt b
    codeLen := iCodeLen b
    argAt := iArgAt b }

/-- Place code, data and arguments, configure the rings and start the slots of a tile. A RECV that waits at an applied
queue goes on waiting there (R124, R127). What the instruction buffer held of the code region's old contents goes. -/
def loadTile (s : State) (t : Nat) (c : Cmd) (l : LaunchRef) : State :=
  let b := c.image
  let s := tmWrite s t 4 (Mem.lay (iLoadAt b) ((b.drop (iCodeOff b)).take (iCodeLen b)))
  let s := tmWrite s t 4 (Mem.lay (iDataAt b) ((b.drop (iDataOff b)).take (iDataLen b)))
  let s := tmWrite s t 4 (Mem.lay (iArgAt b) c.args)
  let s := (iApplied b).foldl (fun s q =>
    updTile s t (fun x => setRing x q { Ring.reset with
      base := ringBase (iRing b q), size := ringSize (iRing b q), waiters := (ringOf x q).waiters })) s
  let s := updTile s t (fun x => { x with
    ibuf := x.ibuf.filter (fun e => e.word < iLoadAt b / 64 || iLoadAt b + iCodeLen b ≤ 64 * e.word) })
  (iSlots b).foldl (fun s n => setGroup s t n (newGroup b n l)) s

/-- TILE_PROGRAM_LOAD (R126): the image of a LAUNCH arrives at a tile. No group starts while the tile is in reset (R184),
receives its firmware (R369) or has a bank under test (R345). -/
def execTileProgramLoad (t part cmd : Nat) (s : State) : Host.Outcome State Fault Refusal :=
  match cmdOf s part cmd with
  | none => .next s
  | some c =>
    if c.loads.contains t && !tileHeld s t && !(tileOf s t).fwBusy && !bankInBist s t then
      let s := loadTile s t c ⟨part, cmd, BitVec.ofNat 32 (eNat c.entry 28 4), BitVec.ofNat 32 (eNat c.entry 24 4)⟩
      .next (updCmd s part cmd (fun c => { c with loads := c.loads.filter (· != t) }))
    else .next s

/-- TILE_REPORT (R128, R291): a tile where every group of the LAUNCH has ended reports; the last report completes it. A
completion that a fault has fixed waits only for the stores. -/
def execTileReport (t part cmd : Nat) (s : State) : Host.Outcome State Fault Refusal :=
  match cmdOf s part cmd with
  | none => .next s
  | some c =>
    if c.reports.contains t && !c.loads.contains t && (c.fault.isSome || !launchLive s t part cmd) && !storesOpen s t part cmd then
      let left := c.reports.filter (· != t)
      let s := updCmd s part cmd (fun c => { c with reports := left })
      let f := c.fault.getD (0, 0)
      .next (if left = [] then complete s part cmd f.1 f.2 else s)
    else .next s

/-! ### PIN and UNPIN (R177, R178) -/

/-- Pinned lines of a set. -/
def pinnedIn (x : Slice) (set : Nat) : Nat :=
  ((List.range 16).filter (fun w => (SMap.find x.lines (set * 16 + w)).any (·.pinned))).length

/-- Set or clear the pinned bit of a line that is present. -/
def markPinned (s : State) (st k lam : Nat) (v : Bool) : State :=
  match keyOf s st k lam with
  | some key => updSlice s st k (fun x => { x with lines := SMap.put x.lines key { lineAt x key with pinned := v } })
  | none => s

/-- PIN of one line: refused when its set holds PINWAYS pinned lines already; else its missing sectors are fetched, also when
it is pinned already, and it is pinned. -/
def pinLine (s : State) (p lam : Nat) : State × Bool :=
  match homeOf s (2048 * lam) with
  | none => (s, false)
  | some (st, k) =>
    let x := sliceOf s st k
    let already := (findWay x lam).any (fun w => (lineAt x (lineSet lam * 16 + w)).pinned)
    if !already && pinnedIn x (lineSet lam) ≥ regF s (oSHFCFG st) 11 8 then (addSat s (oSHFEVT st) 31 16 1, true)
    else
      let r := shelfFetchNow s st k lam ((List.range 2048).map (· + 2048 * lam)) 3
      (markPinned (if r.2 then r.1 else pass r.1 p 3) st k lam true, false)

/-- The lines of a PIN or UNPIN range. -/
def entryLines (e : List Byte) : List Nat := (List.range (eNat e 24 8 / 2048)).map (· + eNat e 16 6 / 2048)

/-- Is a PIN or UNPIN entry valid (R292)? -/
def pinEntryOk (s : State) (p : Nat) (e : List Byte) : Bool :=
  flagsOk e && restZero e [(0, 22), (24, 32)] && eNat e 16 6 % 2048 == 0 && eNat e 24 8 % 2048 == 0 &&
    ownsRange s p (eNat e 16 6) (eNat e 24 8)

/-- PIN. -/
def execPin (part sq : Nat) (s : State) : Host.Outcome State Fault Refusal :=
  .next (starting 8 s part sq (fun s c =>
    if !pinEntryOk s part c.entry then complete s part c.id 4 0
    else
      let r := (entryLines c.entry).foldl (fun (r : State × Nat) lam =>
        let x := pinLine r.1 part lam
        (x.1, r.2 + b2n x.2)) (s, 0)
      complete r.1 part c.id 0 (min r.2 (2 ^ 32 - 1))))

/-- UNPIN. -/
def execUnpin (part sq : Nat) (s : State) : Host.Outcome State Fault Refusal :=
  .next (starting 9 s part sq (fun s c =>
    if !pinEntryOk s part c.entry then complete s part c.id 4 0
    else
      let s := (entryLines c.entry).foldl (fun s lam => match homeOf s (2048 * lam) with
        | some (st, k) => markPinned s st k lam false
        | none => s) s
      complete s part c.id 0 0))

/-! ### BAR2 (R283) -/

/-- A BAR2 access as a master: a VF carries its partition, the PF the device. -/
def bar2Who (fn : Nat) : Who := ⟨.bar2 fn, if fn = 0 then none else some (fn - 1), if fn = 0 then 8 else fn - 1, 3, 3⟩

/-- The window base of a function. -/
def bar2Base (s : State) (fn : Nat) : Nat := if fn = 0 then regF s oPFWIN 47 30 * 2 ^ 30 else regF s (oWIN (fn - 1)) 47 30 * 2 ^ 30

/-- The size of a function's BAR2 (R282). -/
def bar2Size (fn : Nat) : Nat := if fn = 0 then 2 ^ 36 else 2 ^ 33

/-- Is a target served through BAR2: HBM and tile memory windows alone? -/
def bar2Target (s : State) (a : Nat) : Bool :=
  match decodeAddr s.asm a with
  | .hbm _ | .window _ _ => true
  | _ => false

/-- Does a BAR2 access reach the device: a function of the device, the HST block ready, within the BAR? -/
def bar2Ok (s : State) (fn off len : Nat) : Bool := fnFitted s fn && blockReady s (hstPage 0) && off + len ≤ bar2Size fn

/-- One piece of a BAR2 read: zeros for a decode error; data that is uncorrectable is free (notes/assumptions/18.md). -/
def bar2ReadPiece (s : State) (fn a n : Nat) : State × List Byte :=
  if bar2Target s a then
    let r := readPiece s (bar2Who fn) a n
    if r.2.2.st = .uncorr then drawBytes r.1 n else (r.1, r.2.1)
  else (decodeError s (.bar2 fn) a, List.replicate n 0)

/-- BAR2_READ: the bytes returned to the host join `hostReads`. -/
def execBar2Read (fn off len : Nat) (s : State) : Host.Outcome State Fault Refusal :=
  if bar2Ok s fn off len then
    let r := (piecesOf (bar2Base s fn + off) len).foldl (fun (r : State × List Byte) pc =>
      let x := bar2ReadPiece r.1 fn pc.1 pc.2
      (x.1, r.2 ++ x.2)) (s, [])
    .next (whole s { r.1 with hostReads := r.1.hostReads ++ [(fn, r.2)] })
  else .next s

/-- BAR2_WRITE: pieces that decode nowhere are dropped. -/
def execBar2Write (fn off : Nat) (bytes : List Byte) (s : State) : Host.Outcome State Fault Refusal :=
  if bar2Ok s fn off bytes.length then
    let a := bar2Base s fn + off
    .next (whole s ((piecesOf a bytes.length).foldl (fun s pc =>
      if bar2Target s pc.1 then (writePiece s (bar2Who fn) pc.1 ((bytes.drop (pc.1 - a)).take pc.2)).1
      else decodeError s (.bar2 fn) pc.1) s))
  else .next s

end Sys2Proof.Machine
end

