-- ==== Sys2Proof/Machine/Cvu.lean ====
section
/-! DEFINITION. Check-value units (R347 to R352): CRC and Fletcher-64 check values, the alive-counter rule, and the scan
engines with their queues. -/

namespace Sys2Proof.Machine

/-! ### Check values (R348) -/

/-- A check-value profile, as CVU_CHc_CFG, POLY and INIT hold it. -/
structure Profile where
  w      : Nat
  poly   : Nat
  init   : Nat
  refin  : Bool
  refout : Bool
  finv   : Bool
  flet   : Bool
  deriving DecidableEq, Repr

/-- The profile of channel c. -/
def profileOf (s : State) (c : Nat) : Profile :=
  ⟨regF s (oCVCFG c) 63 57, (reg s (oCVPOLY c)).toNat, (reg s (oCVINIT c)).toNat, regB s (oCVCFG c) 56,
   regB s (oCVCFG c) 55, regB s (oCVCFG c) 54, regB s (oCVCFG c) 53⟩

/-- The low n bits of v in reverse order. -/
def reflect (n v : Nat) : Nat := ofBits ((List.range n).filter (fun i => bit v (n - 1 - i)))

/-- One byte into a CRC. -/
def crcByte (f : Profile) (r : Nat) (b : Byte) : Nat :=
  let x := if f.refin then reflect 8 b.toNat else b.toNat
  (List.range 8).foldl (fun r k =>
    let top := xor (bit r (f.w - 1)) (bit x (7 - k))
    let r := r * 2 % 2 ^ f.w
    if top then r ^^^ (f.poly % 2 ^ f.w) else r) r

/-- Little-endian 32-bit words, the last padded with zero bytes. -/
def words32 : Nat → List Byte → List Nat
  | 0, _ => []
  | n + 1, bs => leNat (bs.take 4) :: words32 n (bs.drop 4)

/-- Fletcher-64 of more words from a running value. -/
def fletcher (r : Nat) (ws : List Nat) : Nat :=
  let m := 0xFFFF_FFFF
  let x := ws.foldl (fun (x : Nat × Nat) w => let a := (x.1 + w) % m; (a, (x.2 + a) % m)) (r % 2 ^ 32, r / 2 ^ 32)
  x.2 * 2 ^ 32 + x.1

/-- The running value at the start. -/
def Profile.start (f : Profile) : Nat := if f.flet then 0 else f.init % 2 ^ f.w

/-- The running value after bytes. -/
def Profile.run (f : Profile) (r : Nat) (bs : List Byte) : Nat :=
  if f.flet then fletcher r (words32 (cdiv bs.length 4) bs) else bs.foldl (crcByte f) (r % 2 ^ f.w)

/-- The final step. -/
def Profile.final (f : Profile) (r : Nat) : Nat :=
  if f.flet then r
  else
    let r := if f.refout then reflect f.w r else r
    if f.finv then r ^^^ (2 ^ f.w - 1) else r

/-- The check value of bytes. -/
def Profile.check (f : Profile) (bs : List Byte) : Nat := f.final (f.run f.start bs)

/-! ### Alive counters (R351) -/

/-- The results of the alive-counter rule. -/
inductive AliveRes where
  | ok | repeated | gap | old | sameCtr
  deriving DecidableEq, Repr

/-- The alive-counter rule with a counter width of a bits: `cv` is none for a missing record. -/
def aliveStep (a : Nat) (x : Stream) (ctr : Nat) (cv : Option (BitVec 64)) : Stream × AliveRes :=
  let ctr := ctr % 2 ^ a
  if !x.valid then ({ x with valid := true, last := ctr, lastCv := cv }, .ok)
  else
    let d := (ctr + 2 ^ a - x.last % 2 ^ a) % 2 ^ a
    if d = 0 then
      if cv = none ∨ cv = x.lastCv then (x, .repeated) else ({ x with lastCv := cv }, .sameCtr)
    else if d ≥ 2 ^ (a - 1) then (x, .old)
    else if cv = none then ({ x with last := ctr, lastCv := none, gaps := x.gaps + d }, .gap)
    else if d > 1 then ({ x with last := ctr, lastCv := cv, gaps := x.gaps + (d - 1) }, .gap)
    else ({ x with last := ctr, lastCv := cv }, .ok)

/-- Count a result in CVU_CHc_EVT. -/
def aliveCount (s : State) (c : Nat) (r : AliveRes) : State :=
  match r with
  | .ok => s
  | .repeated => addSat s (oCVEVT c) 63 48 1
  | .gap => addSat s (oCVEVT c) 47 32 1
  | .old => addSat s (oCVEVT c) 31 16 1
  | .sameCtr => addSat s (oCVEVT c) 15 0 1

/-- The RES code of an alive result (Table 13.7). -/
def AliveRes.code : AliveRes → Nat
  | .ok => 0
  | .repeated => 2
  | .gap => 3
  | .old => 4
  | .sameCtr => 5

/-- Scan stream `k` of channel c. -/
def scanStream (s : State) (c k : Nat) : Stream := SMap.get Stream.reset s.ras.streams (c * 64 + k)

/-- A stream as channel c reads it from its table (Table 13.1): corrected in place, or, after an uncorrectable event of the I/O
die, with contents that no rule gives (free; notes/assumptions/74.md). -/
def readStream (s : State) (c : Nat) (x : Stream) : State × Stream :=
  match (eccRead 64 0 x.err.toNat).2.2.1 with
  | .clean => (s, { x with err := 0 })
  | .fixed _ => (corrError s (96 + c / 8), { x with err := 0 })
  | .bad =>
    let a := draw (ueEvent s (96 + c / 8) 1 0)
    let b := draw a.2
    (b.2, ⟨bit a.1.toNat 0, fld a.1 16 1, if bit a.1.toNat 17 then some b.1 else none, fld a.1 63 18, 0⟩)

/-- Read scan stream k of channel c and keep it as corrected. -/
def loadStream (s : State) (c k : Nat) : State :=
  let r := readStream s c (scanStream s c k)
  { r.1 with ras := { r.1.ras with streams := SMap.set Stream.reset r.1.ras.streams (c * 64 + k) r.2 } }

/-! ### Scans (R347, R349, R350) -/

/-- The master that a scan of partition p is: class 5, level 4. -/
def scanWho (p : Nat) : Who := Who.disp p 5 4

/-- Start the scans at the head of a channel's queue: the first reads its result block (kept in the command), one
without a valid block completes, and the next follows. -/
def startScan : Nat → State → Nat → State
  | 0, s, _ => s
  | n + 1, s, c =>
    match scansOf s c with
    | [] => s
    | (p, id) :: rest =>
      match cmdOf s p id with
      | none => startScan n (setScans s c rest) c
      | some m =>
        if m.args != [] then s
        else
          let r := devRead s (scanWho p) (eNat m.entry 40 6) 64
          let mode := eNat r.2.1 0 1
          if r.2.2.st != .ok then startScan n (complete (setScans r.1 c rest) p id (readStatus r.2.2) 0) c
          else if bit mode 1 && (bit mode 2 || bit mode 3) then startScan n (complete (setScans r.1 c rest) p id 4 0) c
          else updCmd r.1 p id (fun m => { m with args := r.2.1 })

/-- CVU_SCAN (R347). -/
def execCvuScan (part sq : Nat) (s : State) : Host.Outcome State Fault Refusal :=
  .next (starting 5 s part sq (fun s m =>
    if scanEntryOk s m.entry then
      let c := eNat m.entry 32 1
      startScan 10 (setScans s c (scansOf s c ++ [(part, m.id)])) c
    else complete s part m.id 4 0))

/-- Read the bytes of a scan up to the first sector that fails. -/
def scanBytes (s : State) (p a n : Nat) : State × List Byte × ReplySt :=
  (piecesOf a n).foldl (fun r pc =>
    if r.2.2 != .ok then r
    else
      let x := readPiece r.1 (scanWho p) pc.1 pc.2
      if x.2.2.st = .ok then (x.1, r.2.1 ++ x.2.1, .ok) else (x.1, r.2.1, x.2.2.st)) (s, [], .ok)

/-- The running value that a scan starts from (R349, R350). -/
def scanFrom (s : State) (c : Nat) (f : Profile) (blk : List Byte) : Nat :=
  if bit (eNat blk 0 1) 0 then
    (if eNat blk 8 8 = 2 ^ 64 - 1 then (reg s (oCVRUN c)).toNat else eNat blk 8 8)
  else f.start

/-- Write the output fields of a result block and complete the command with `status`, or with the status of the failed
write. -/
def scanFinish (s : State) (p : Nat) (m : Cmd) (cv res gaps n status : Nat) : State :=
  let a := eNat m.entry 40 6
  let w := scanWho p
  let r1 := devWrite s w (a + 24) (leBytes 8 cv ++ leBytes 1 res)
  let r2 := devWrite r1.1 w (a + 34) (leBytes 2 gaps)
  let r3 := devWrite r2.1 w (a + 40) (leBytes 8 n)
  let st := r1.2.join (r2.2.join r3.2)
  complete r3.1 p m.id (if st.st = .ok then status else readStatus st) 0

/-- CVU_SCAN_DONE (R347 to R351): the running scan of a channel ends. A scan that met a bad word gives no check value:
CV is then free. -/
def execCvuScanDone (ch : Nat) (s₀ : State) : Host.Outcome State Fault Refusal :=
  let s := startScan 10 s₀ ch
  match scansOf s ch with
  | [] => .next (whole s₀ s)
  | (p, id) :: rest =>
    match cmdOf s p id with
    | none => .next (whole s₀ s)
    | some m =>
      let blk := m.args
      let mode := eNat blk 0 1
      let k := 8 * p + eNat blk 1 1 % 8
      let s := loadStream (setScans s ch rest) ch k
      let f := profileOf s ch
      let r := scanBytes s p (eNat m.entry 16 6) (eNat m.entry 24 8)
      let run := f.run (scanFrom s ch f blk) r.2.1
      let s := setReg r.1 (oCVRUN ch) (BitVec.ofNat 64 run)
      let gapsOf (s : State) : Nat := (scanStream s ch k).gaps
      let s := if r.2.2 != .ok then
          let d := draw s
          let bad := r.2.2 == .decode
          scanFinish d.2 p m d.1.toNat (if bad then 7 else 6) (gapsOf s) r.2.1.length (if bad then 7 else 6)
        else if bit mode 1 then scanFinish s p m run 0 (gapsOf s) r.2.1.length 0
        else
          let cv := f.final run
          if bit mode 2 && cv != eNat blk 16 8 then
            scanFinish (addSat s (oCVSTAT ch) 47 32 1) p m cv 1 (gapsOf s) r.2.1.length 0
          else if bit mode 3 then
            let a := aliveStep (regF s (oCVCFG ch) 52 48) (scanStream s ch k) (eNat blk 2 2) (some (BitVec.ofNat 64 cv))
            let s := { s with ras := { s.ras with streams := SMap.set Stream.reset s.ras.streams (ch * 64 + k) a.1 } }
            scanFinish (aliveCount s ch a.2) p m cv a.2.code (gapsOf s) r.2.1.length 0
          else scanFinish s p m cv 0 (gapsOf s) r.2.1.length 0
      .next (whole s₀ (startScan 10 s ch))

end Sys2Proof.Machine
end

