-- ==== Sys2Proof/Machine/Surf.lean ====
section
/-! DEFINITION. Surf ports and transfers (R258 to R277): port states, lane sets and routes, sequence spaces, the start
and end of outgoing transfers, abandoned frames, and leaving UP. -/

namespace Sys2Proof.Machine

/-! ### Ports -/

/-- Set a port's state: a change signals PF vector 6 (Table 11.3). -/
def setPort6 (s : State) (p x : Nat) : State :=
  if portState s p = x then s else pfIrq (setF s (oLNKSTAT p) 3 0 x) 6

/-- The remote device of a frame on port p: in native mode the peer, in Ethernet mode the one addressed. -/
def remoteOf (s : State) (p dev : Nat) : Nat := if portMode s p = 2 then dev else regF s (oLNKCFG p) 63 56

/-- The key of the sequence space for a remote device (R262). -/
def spaceKey (s : State) (p dev : Nat) : Nat := if portMode s p = 2 then dev else 0

def spaceOf (s : State) (p dev : Nat) : SeqSpace := SMap.get SeqSpace.reset (portOf s p).spaces (spaceKey s p dev)
def setSpace (s : State) (p dev : Nat) (x : SeqSpace) : State :=
  updPort s p (fun y => { y with spaces := SMap.set SeqSpace.reset y.spaces (spaceKey s p dev) x })

/-- Is a frame type sequenced (Table 10.2)? -/
def sequenced (ty : Nat) : Bool := 1 ≤ ty && ty ≤ 5

/-- Does sequence number a come before b (modulo 4096)? -/
def seqBefore (a b : Nat) : Bool := let d := (b + 4096 - a) % 4096; 0 < d && d ≤ 2048

/-- Put a frame among those sent first, once. -/
def addCtl (s : State) (p dev : Nat) (f : Frame) : State :=
  updPort s p (fun y => if y.ctl.contains (dev, f) then y else { y with ctl := y.ctl ++ [(dev, f)] })

/-- An unsequenced frame; NAK names `seq`. -/
def plainFrame (ty seq : Nat) : Frame := ⟨ty, seq, 0, 0, [], 0, 0, 0, true, 0⟩

/-- Does the port follow slots now (R269)? -/
def slotted (s : State) (p : Nat) : Bool := regB s (oLNKCFG p) 2 && regB s oTGSTAT 7

/-- Keep LNK_STAT.SLOTTED of every port. -/
def refreshSlotted (s : State) : State :=
  (List.range (surfPorts s.asm)).foldl (fun s p => setF s (oLNKSTAT p) 30 30 (b2n (slotted s p))) s

/-! ### Outgoing transfers -/

def outOf (s : State) (id : Nat) : Option XferOut := s.surf.outs.find? (fun x => x.id == id)

/-- Take the frames of a transfer that were not sent yet out of every queue. -/
def dropFrames (s : State) (id : Nat) : State :=
  let keep (e : Nat × Frame) : Bool := !(e.2.xfer == id + 1 && e.2.seq == 4096)
  { s with ports := SMap.mapv Port.reset s.ports (fun (y : Port) => { y with
      txq := SMap.mapv [] y.txq (fun (l : List (Nat × Frame)) => l.filter keep)
      ctl := y.ctl.filter keep }) }

/-- A COPY all of whose transfers have ended completes: 6 or 7 for a byte that failed here, 8 with the worst transfer
status and the abandoned sectors, or 0 (Table 11.6). -/
def finishCopy (s : State) (p : Nat) (m : Cmd) : State :=
  match m.fail with
  | some (st, off) => complete s p m.id st (off / 256)
  | none => if m.worst = 0 then complete s p m.id 0 0 else complete s p m.id 8 (m.worst * 2 ^ 28 + min m.gaps (2 ^ 28 - 1))

/-- A transfer of a store to a peer window has ended with a status of Table 10.4: the store has its reply when the last one
has. What a thread learns of a status beside 0 no rule says, and a store reports none (R116). -/
def Txn.peerEnd (x : Txn) (rep status : Nat) : Txn :=
  match x.stage with
  | .toPeer n worst =>
    let w := max worst status
    if n ≤ 1 then x.reply rep none (if w ≤ 1 then .ok else if w = 3 then .decode else .uncorr) else { x with stage := .toPeer (n - 1) w }
  | _ => x

/-- A transfer ends with a status of Table 10.4: its command or its store learns it (R266). -/
def endOut (s : State) (x : XferOut) (status gaps : Nat) : State :=
  let s := dropFrames { s with surf := { s.surf with outs := s.surf.outs.filter (fun y => y.id != x.id) } } x.id
  let s := match x.txn with
    | none => s
    | some t => updTxn s t (fun y => y.peerEnd (nextRep s) status)
  match x.cmd with
  | none => s
  | some (p, c) =>
    let s := updCmd s p c (fun m => { m with xfers := dropOne x.id m.xfers, worst := max m.worst status, gaps := m.gaps + gaps })
    match cmdOf s p c with
    | none => s
    | some m => if m.xfers = [] && eOp m.entry = 2 then finishCopy s p m else s

/-- Start a transfer. With no port of its route UP it ends with status 3 (R270); in quarantine it sends nothing and ends
with status 0 (R373). -/
def startOut (s : State) (x : XferOut) : State :=
  if x.started || outWaits s x then s
  else if (x.cmd.isSome || x.txn.isSome) && (partOf s x.part).quarantine then endOut s x 0 0
  else if (laneSets s x.dev).isEmpty then endOut s x 3 0
  else beginOut s x

/-- Start every transfer that may start. -/
def startOuts (s : State) : State := s.surf.outs.foldl startOut s

/-- End a transfer and let those behind it start. -/
def endXfer (s : State) (x : XferOut) (status gaps : Nat) : State := startOuts (endOut s x status gaps)

/-! ### What a transfer reads -/

/-- The master that a Surf port is for partition p (class 2, level 3 of R205). -/
def surfWho (port p : Nat) : Who := ⟨.surf port, if p = 8 then none else some p, p, 2, 3⟩

/-- The first and the last byte of sector n of a transfer. -/
def sectorSpan (nsec head tail n : Nat) : Nat × Nat :=
  (if n = 0 then head else 0, if n + 1 = nsec then tail else 255)

/-- The bytes of sector n: those that the transfer carries, or those read at the source, and the failure with its device
address. -/
def readSector (s : State) (port : Nat) (x : XferOut) (n : Nat) : State × List Byte × Option (ReplySt × Nat) :=
  let sp := sectorSpan x.nsec x.head x.tail n
  let a := x.src + 256 * n + sp.1 - x.head
  if x.data != [] then (s, (x.data.drop (256 * n + sp.1 - x.head)).take (sp.2 + 1 - sp.1), none)
  else
  let r := devRead s (surfWho port x.part) a (sp.2 + 1 - sp.1)
  (r.1, r.2.1, if r.2.2.st = .ok then none else some (r.2.2.st, a + r.2.2.off))

/-- The payload of a DATA frame: the bytes of the sector within HEAD and TAIL; the others are free. -/
def sectorPayload (s : State) (x : XferOut) (n : Nat) (bs : List Byte) : State × List Byte :=
  let sp := sectorSpan x.nsec x.head x.tail n
  let a := drawBytes s sp.1
  let b := drawBytes a.1 (255 - sp.2)
  (b.1, a.2 ++ bs ++ b.2)

/-- The check-value channel that serves a port (R352). -/
def servingChannel (s : State) (port : Nat) : Nat := 8 * (port / 12) + port % 12 % cvuPerDie s.asm

/-- All bytes that a transfer reads. -/
def readWhole (s : State) (port : Nat) (x : XferOut) : State × List Byte :=
  (List.range x.nsec).foldl (fun r n => let y := readSector r.1 port x n; (y.1, r.2 ++ y.2.1)) (s, [])

/-- Note a byte of a COPY's source that could not be read: the first failure gives the command's status. -/
def noteFail (s : State) (x : XferOut) (st : ReplySt) (a : Nat) : State :=
  match x.cmd with
  | none => s
  | some (p, c) => updCmd s p c (fun m =>
      if m.fail.isSome then m else { m with fail := some (if st = .decode then 7 else 6, a - eNat m.entry 16 6) })

/-! ### Abandoned frames (R264) -/

/-- The transfer of a frame ends with status 4. -/
def loseXfer (s : State) (f : Frame) : State :=
  if f.xfer = 0 then s
  else match outOf s (f.xfer - 1) with
    | some x => endXfer s x 4 0
    | none => s

/-- Abandon a numbered frame: a DATA frame is replaced by an ABANDON under the same number; any other ends its transfer. -/
def abandonSent (s : State) (p dev : Nat) (f : Frame) : State :=
  let s := addSat s (oLNKEVT p) 47 32 1
  let x := spaceOf s p dev
  if f.ty = 1 then
    let g : Frame := { f with ty := 5, payload := [], resends := 0, fresh := true, err := 0 }
    addCtl (setSpace s p dev { x with replay := x.replay.map (fun h => if h.seq = f.seq then g else h) }) p dev g
  else loseXfer (setSpace s p dev { x with replay := x.replay.filter (fun h => h.seq != f.seq) }) f

/-! ### Leaving UP (R275) -/

/-- The port that carries a frame of port p from now on: the other one of its lane set, else the lowest UP port of the
next lane set. -/
def movePort (s : State) (p dev q : Nat) : State × Option Nat :=
  let other := if p % 2 = 0 then p + 1 else p - 1
  if inRoute s dev other && portUp s other then (s, some other)
  else
    let r := nextLane s q dev
    (r.1, r.2.bind (fun l => (pairPorts r.1 dev (l / 2)).find? (portUp r.1)))

/-- Move an unacknowledged frame: sent again ahead of new frames, or abandoned when no port of the route is UP. -/
def moveSent (s : State) (p : Nat) (e : Nat × Frame) : State :=
  let f := e.2
  match movePort s p e.1 f.queue with
  | (s, some q) => addCtl s q e.1 { f with seq := 4096, resends := 0, fresh := true }
  | (s, none) => loseXfer (addSat s (oLNKEVT p) 47 32 (if f.ty = 1 then 2 else 1)) f

/-- Move a frame that was not sent yet. -/
def moveNew (s : State) (p q : Nat) (e : Nat × Frame) : State :=
  match movePort s p e.1 q with
  | (s, some r) => queueNew s r q e.1 e.2
  | (s, none) => loseXfer (addSat s (oLNKEVT p) 47 32 (if e.2.ty = 1 then 2 else 1)) e.2

/-- The frames of port p that are sent and not acknowledged, with their devices. -/
def unacked (s : State) (p : Nat) : List (Nat × Frame) :=
  (portOf s p).spaces.flatMap (fun (k : Nat × SeqSpace) => k.2.replay.map (fun f => (remoteOf s p k.1, f)))

/-- Port p carries nothing any more: its frames move. -/
def moveFrames (s : State) (p : Nat) : State :=
  let y := portOf s p
  let sent := unacked s p ++ y.ctl.filter (fun e => e.2.seq == 4096)
  let news := y.txq
  let s := updPort s p (fun y => { y with
    spaces := SMap.mapv SeqSpace.reset y.spaces (fun (x : SeqSpace) => { x with replay := [] })
    ctl := y.ctl.filter (fun e => !sequenced e.2.ty)
    txq := [] })
  let live (s : State) (f : Frame) : Bool := f.xfer == 0 || (outOf s (f.xfer - 1)).isSome
  let s := sent.foldl (fun s e => if live s e.2 then moveSent s p e else s) s
  news.foldl (fun s (q : Nat × List (Nat × Frame)) =>
    q.2.foldl (fun s e => if live s e.2 then moveNew s p q.1 e else s) s) s

/-- The key of saved training results (R274, R360): those of a port, those of pseudo-channel k of controller c. -/
def portTraining (p : Nat) : Nat := p
def pchTraining (c k : Nat) : Nat := 64 + 64 * c + k

/-- A port begins to train: it tries its saved settings first, and trains in full where it has none (R274). -/
def beginTraining (s : State) (p : Nat) : State :=
  let saved := (SMap.get [] s.head.training (portTraining p)) != []
  updPort s p (fun y => { y with full := !saved })

/-- Port p goes to RETRAIN: counted, taken out of route selection, its frames moved. -/
def enterRetrain (s : State) (p : Nat) : State :=
  let s := addSat (beginTraining (setPort6 s p 3) p) (oLNKFEC p) 15 0 1
  moveFrames s p

/-- A port that is UP retrains. -/
def leaveUp (s : State) (p : Nat) : State := if portUp s p then enterRetrain s p else s

/-- Port p starts training afresh (TRAIN), its frames moved. -/
def enterTrain (s : State) (p : Nat) : State :=
  let s := beginTraining (setPort6 s p 1) p
  moveFrames (updPort s p (fun y => { y with fails := 0 })) p

end Sys2Proof.Machine
end

