-- ==== Sys2Proof/Machine/SurfSend.lean ====
section
/-! DEFINITION. What a Surf port sends (R260 to R269): the choice of the next frame, its header and payload, and the
replay buffer. -/

namespace Sys2Proof.Machine

/-- The 48-bit header of a frame (Table 10.1). -/
def frameHeader (f : Frame) (seq ack : Nat) : Nat :=
  f.ty % 16 * 2 ^ 44 + seq % 4096 * 2 ^ 32 + ack % 4096 * 2 ^ 20 + f.xid % 4096 * 2 ^ 8 + f.idx % 256

/-- The key of a credit count: device and queue. -/
def creditKey (dev q : Nat) : Nat := dev * 8 + q % 8

/-! ### Framing (R260, R261) -/

/-- The CRC-32 of a frame, under the IEEE 802.3 polynomial, as channel profile CRC-32 has it. -/
def frameCrc (bs : List Byte) : BitVec 32 :=
  BitVec.ofNat 32 ((⟨32, 0x04C1_1DB7, 0xFFFF_FFFF, true, true, true, false⟩ : Profile).check bs)

/-- The n bytes of a value, most significant first (Table 10.1). -/
def beBytes (n v : Nat) : List Byte := (leBytes n v).reverse

/-- The Ethernet address 02:4E:4D:C:D:p of port q of device d in this cluster (R261). -/
def surfMac (s : State) (d q : Nat) : Nat :=
  0x024E_4D00_0000 + regF s oLNKDEV 15 8 * 2 ^ 16 + d % 256 * 2 ^ 8 + q % 256

/-- The Ethernet head of a frame from port p to device d (R260, R261): with VLANEN = 1 one tag of PCP and VID. -/
def ethHead (s : State) (p d : Nat) : EthHead :=
  { dst := surfMac s d (Config.routePort d).toNat
    src := surfMac s (devId s) p
    tag := if regB s oLNKETH 44 then some (regF s oLNKETH 47 45 * 2 ^ 13 + regF s oLNKETH 43 32) else none
    etype := regF s oLNKETH 63 48 }

/-- The bytes of an Ethernet head: addresses, the 802.1Q tag, the EtherType. -/
def EthHead.bytes (e : EthHead) : List Byte :=
  beBytes 6 e.dst ++ beBytes 6 e.src ++ (match e.tag with
    | some t => beBytes 2 0x8100 ++ beBytes 2 t
    | none => []) ++ beBytes 2 e.etype

/-- A frame as the port puts it on the wire: in Ethernet mode the client data of one Ethernet frame, whose FCS takes the
place of the CRC; a short one is padded to 60 bytes (PRESUMED: IEEE 802.3, zeros; notes/assumptions/84.md). -/
def wireFrame (s : State) (p d head : Nat) (pay : List Byte) : WireFrame :=
  let body := beBytes 6 head ++ pay
  if portMode s p = 2 then
    let e := ethHead s p d
    let bs := e.bytes ++ body
    ⟨d, head, pay, some e, frameCrc (bs ++ List.replicate (60 - bs.length) 0)⟩
  else ⟨d, head, pay, none, frameCrc body⟩

/-- Put a frame on the wire, with the acknowledgement of its space. -/
def emit (s : State) (p dev : Nat) (f : Frame) : State :=
  let ack := (spaceOf s p dev).expect
  let pay := match f.ty with
    | 9 => (List.range 8).flatMap (fun q => leBytes 2 (SMap.get 0 (portOf s p).freed (creditKey dev q)))
    | 10 => leBytes 1 (devId s) ++ leBytes 1 p ++ leBytes 1 (regF s oLNKDEV 15 8) ++ leBytes 1 (portMode s p) ++ leBytes 12 0
    | _ => f.payload
  updPort s p (fun y => { y with sent := y.sent ++ [wireFrame s p dev (frameHeader f f.seq ack) pay] })

/-- The ingress entries that the remote port gives a queue of ours: its LNK_QCFG.CREDITS (R267; notes/assumptions/46.md). -/
def peerCredits (s : State) (p dev q : Nat) : Nat := SMap.get 0x80 s.peers (p * 2048 + creditKey dev q)

/-- Is there an ingress credit for a DATA frame of queue q to a device (R267)? -/
def creditFor (s : State) (p dev q : Nat) : Bool :=
  let y := portOf s p
  (SMap.get 0 y.used (creditKey dev q) + 65536 - SMap.get 0 y.back (creditKey dev q)) % 65536 < peerCredits s p dev q

/-- May a frame that is not numbered yet be numbered now (R262, R267)? -/
def mayNumber (s : State) (p dev : Nat) (f : Frame) : Bool :=
  (spaceOf s p dev).replay.length < 2048 && (f.ty != 1 || creditFor s p dev f.queue)

/-- Number a frame, keep it in the replay buffer and send it. A DATA frame uses a credit. -/
def sendNumbered (s : State) (p dev : Nat) (f : Frame) : State :=
  let x := spaceOf s p dev
  let g : Frame := { f with seq := x.next, fresh := false }
  let s := setSpace s p dev { x with next := (x.next + 1) % 4096, replay := x.replay ++ [g] }
  let s := if f.ty = 1 then
      let k := creditKey dev f.queue
      updPort s p (fun y => { y with used := SMap.set 0 y.used k ((SMap.get 0 y.used k + 1) % 65536) })
    else s
  emit s p dev g

/-- The deadline of a Surf DMA request that queue q of a port issues (R224, R225, R268): the tick at which the open slot was
opened plus DLOFS, in 20 bits, while the slot lets the queue send and SLOTOK is 1. -/
def queueDeadline (s : State) (p q : Nat) : Option Nat :=
  let k := regF s (oLNKSTAT p) 35 32
  if regB s oTGSTAT 7 && regB s (oLNKSTAT p) 31 && regB s (oSLOT p k) (q % 8) then
    some (((portOf s p).slotAt + regF s (oSLOT p k) 19 8) % 2 ^ 20)
  else none

/-- The slack of a deadline is negative (R224): DL - NOW modulo 2^20 as a signed number. -/
def isLate (s : State) (dl : Nat) : Bool := 2 ^ 19 ≤ (dl + 2 ^ 20 - nowTicks s % 2 ^ 20) % 2 ^ 20

/-- A request of queue q is granted: a late one counts in LATE (R224). One that was not late when it was issued may have
become late while it waited at an arbiter: whether it has is free (notes/assumptions/73.md). -/
def grantDma (s : State) (p q : Nat) : State :=
  match queueDeadline s p q with
  | some dl =>
    let d := draw s
    if isLate s dl || bit d.1.toNat 0 then addSat d.2 oBWREVT 47 32 1 else d.2
  | none => s

/-- What a new DATA or CLOSE frame carries, read as it is sent: a sector that cannot be read becomes an ABANDON. The
CLOSE of a transfer that is not protected carries a free check value. -/
def fillFrame (s : State) (p : Nat) (f : Frame) : State × Frame :=
  match if f.xfer = 0 then none else outOf s (f.xfer - 1) with
  | none => (s, f)
  | some x =>
    if f.ty = 1 && f.payload = [] then
      let r := readSector s p x f.idx
      let s := grantDma r.1 p f.queue
      match r.2.2 with
      | some (st, a) => (noteFail s x st a, { f with ty := 5 })
      | none => let y := sectorPayload s x f.idx r.2.1; (y.1, { f with payload := y.2 })
    else if f.ty = 3 && f.payload = [] then
      let r := if x.prot then
          let w := readWhole s p x
          (w.1, (profileOf s (servingChannel s p)).check w.2)
        else let d := draw s; (d.2, d.1.toNat)
      (r.1, { f with payload := leBytes 8 r.2 ++ leBytes 2 x.nsec ++ leBytes 6 0 })
    else (s, f)

/-- Send a frame that is not numbered yet. -/
def sendNew (s : State) (p dev : Nat) (f : Frame) : State :=
  let r := fillFrame s p f
  sendNumbered r.1 p dev r.2

/-- Read the copy of a numbered frame in the replay buffer (Table 13.1): corrected in place and counted, or uncorrectable. -/
def readReplay (s : State) (p dev : Nat) (f : Frame) : State × Bool :=
  let x := spaceOf s p dev
  let good := setSpace s p dev { x with replay := x.replay.map (fun h => if h.seq = f.seq then { h with err := 0 } else h) }
  match (eccRead 64 0 f.err.toNat).2.2.1 with
  | .clean => (if f.err = 0 then s else good, true)
  | .fixed _ => (corrError good (48 + p), true)
  | .bad => (s, false)

/-- Send a numbered frame again: counted in RESENT and as a correctable error of the port (R334). A frame whose copy is
uncorrectable is abandoned (Table 13.1). -/
def resendFrame (s : State) (p dev seq : Nat) : State :=
  match (spaceOf s p dev).replay.find? (fun f => f.seq == seq) with
  | none => s
  | some f =>
    let r := readReplay s p dev f
    let s := r.1
    let x := spaceOf s p dev
    let f : Frame := { f with err := 0 }
    if !r.2 then abandonSent (ueEvent s (48 + p) 1 0) p dev f
    else if f.fresh then
      let g : Frame := { f with fresh := false }
      emit (setSpace s p dev { x with replay := x.replay.map (fun h => if h.seq = seq then g else h) }) p dev g
    else
      let g : Frame := { f with resends := f.resends + 1 }
      let s := setSpace s p dev { x with replay := x.replay.map (fun h => if h.seq = seq then g else h) }
      corrError (addSat (emit s p dev g) (oLNKEVT p) 63 48 1) (48 + p)

/-- May an entry of the first list go now? -/
def ctlReady (s : State) (p : Nat) (e : Nat × Frame) : Bool := !(sequenced e.2.ty && e.2.seq == 4096) || mayNumber s p e.1 e.2

/-- Send an entry of the first list. -/
def sendCtl (s : State) (p : Nat) (e : Nat × Frame) : State :=
  let s := updPort s p (fun y => { y with ctl := dropOne e y.ctl })
  if !sequenced e.2.ty then emit s p e.1 e.2
  else if e.2.seq = 4096 then sendNew s p e.1 e.2
  else resendFrame s p e.1 e.2.seq

/-! ### New frames (R267 to R269) -/

/-- Does the slot state let a new frame of queue q go (R267)? -/
def slotLets (s : State) (p q ty : Nat) : Bool :=
  !slotted s p ||
    (if regB s (oLNKSTAT p) 31 then regB s (oSLOT p (regF s (oLNKSTAT p) 35 32)) (q % 8) else !(ty == 1 || ty == 2))

/-- The first frame of queue q that can go: the head of some device's frames. -/
def queueHead (s : State) (p q : Nat) : Option (Nat × Frame) :=
  let l := SMap.get [] (portOf s p).txq q
  let heads := (nub (l.map (·.1))).filterMap (fun d => l.find? (fun e => e.1 == d))
  heads.find? (fun e => slotLets s p q e.2.ty && mayNumber s p e.1 e.2)

/-- Weighted round robin over the queues that have work and credit: the queue served last goes on while its weight
lasts, then the next one in ascending order. -/
def pickQueue (s : State) (p : Nat) : Option (Nat × Nat) :=
  let r := (portOf s p).rr
  if r.2 > 0 && (queueHead s p r.1).isSome then some (r.1, r.2 - 1)
  else
    (((List.range 8).map (fun i => (r.1 + 1 + i) % 8)).find? (fun q => (queueHead s p q).isSome)).map
      (fun q => (q, max 1 (regF s (oQCFG p q) 15 8) - 1))

/-- FRAME_SEND (R260 to R269): the port sends its next frame; a native port with nothing to send sends IDLE. -/
def execFrameSend (port : Nat) (s : State) : Host.Outcome State Fault Refusal :=
  if !portUp s port then .next s
  else match (portOf s port).ctl.find? (ctlReady s port) with
    | some e => .next (whole s (sendCtl s port e))
    | none =>
      match pickQueue s port with
      | some (q, left) =>
        (match queueHead s port q with
        | some e =>
          let s' := updPort s port (fun y => { y with rr := (q, left), txq := SMap.set [] y.txq q (dropOne e (SMap.get [] y.txq q)) })
          .next (whole s (sendNew s' port e.1 e.2))
        | none => .next s)
      | none => if portMode s port = 1 then .next (emit s port (remoteOf s port 0) (plainFrame 0 0)) else .next s

/-- HELLO_TIMER (R273): a native port in UP repeats HELLO. -/
def execHelloTimer (port : Nat) (s : State) : Host.Outcome State Fault Refusal :=
  if portUp s port && portMode s port = 1 then .next (addCtl s port (remoteOf s port 0) (plainFrame 10 0)) else .next s

/-! ### Training (R273 to R276) -/

/-- Port p has locked, and its peer's HELLO names device d and port q (R273, R274): UP, or MISWIRED in native mode. -/
def trainedPort (s : State) (p d q : Nat) : State :=
  let native := portMode s p == 1
  let s := if native then setF (setF s (oLNKSTAT p) 63 56 d) (oLNKSTAT p) 55 50 q else s
  let s := updPort s p (fun y => { y with fails := 0 })
  if native && (d % 256 != regF s (oLNKCFG p) 63 56 || q % 64 != regF s (oLNKCFG p) 55 50) then setPort6 s p 4
  else
    let s := setPort6 s p 2
    let r := remoteOf s p 0
    startOuts (if native then addCtl (addCtl s p r (plainFrame 10 0)) p r (plainFrame 9 0) else s)

/-- New training results are in force, and Headland saves them (R274, R358). -/
def saveTraining (s : State) (k : Nat) (v : List Byte) : State :=
  { s with head := { s.head with training := SMap.set [] s.head.training k v } }

/-- TRAINING_END (R274): lock with the exchanged HELLO, or a failure: of the saved settings, after which the port trains in
full, or of a full training; the third of these in a row takes the port to OUT. New results go to Headland. An UP port owes
its peers the credits freed meanwhile. -/
def execTrainingEnd (port : Nat) (res : TrainResult) (s : State) : Host.Outcome State Fault Refusal :=
  if !(port < surfPorts s.asm) || portHeld s port || !(portState s port == 1 || portState s port == 3) then .next s
  else
    match res with
    | .locked d q eq =>
      .next (trainedPort (if (portOf s port).full then saveTraining s (portTraining port) eq else s) port d q)
    | .failed =>
      if !(portOf s port).full then .next (updPort s port (fun y => { y with full := true }))
      else
      let s := updPort s port (fun y => { y with fails := y.fails + 1 })
      if (portOf s port).fails ≥ 3 then .next (setPort6 s port 5) else .next s

/-- A retrain that the port itself asks for: RETRAIN_REQ goes out first (R275). -/
def requestRetrain (s : State) (p : Nat) : State :=
  if portUp s p then leaveUp (emit s p (remoteOf s p 0) (plainFrame 11 0)) p else s

/-- BLOCK_LOCK_LOSS (R275). -/
def execBlockLockLoss (port : Nat) (s : State) : Host.Outcome State Fault Refusal := .next (leaveUp s port)

/-- FEC_ERROR_RATIO (R275, R277): the codewords that the FEC decoder has corrected are counted, and a high error ratio makes the
port retrain. -/
def execFecErrorRatio (rep : FecReport) (s : State) : Host.Outcome State Fault Refusal :=
  let p := rep.port
  let s := if p < surfPorts s.asm && portMode s p != 0 then addSat s (oLNKFEC p) 63 32 rep.corr else s
  .next (if rep.high then leaveUp s p else s)

/-- LNK_RETRAIN (R274, R275): a PF write of LNK_CTL.RETRAIN. A port in OUT trains again, unless escalation holds it
there (R378). -/
def execLnkRetrain (fn port : Nat) (s : State) : Host.Outcome State Fault Refusal :=
  if fn != 0 || !(port < surfPorts s.asm) || !canWrite s fn (lnkBase port + 0x10) then .next s
  else if portState s port = 5 then
    .next (if isOut s (.port port) then s else updPort (beginTraining (setPort6 s port 1) port) port (fun y => { y with fails := 0 }))
  else .next (requestRetrain s port)

/-- The port state after its clearing (R276, R277): counters, sequence spaces and credits are gone, RL fields stay. -/
def clearPort (s : State) (p : Nat) : State :=
  let s := endSlices s (fun b => b.unit == 48 + p)
  let s := if portState s p = 2 then enterRetrain s p else moveFrames s p
  let s := nextGen s (.port p)
  let s := clearReg (clearReg s (oLNKEVT p)) (oLNKFEC p)
  let s := updPort s p (fun y => { Port.reset with fails := y.fails, full := y.full, slotAt := y.slotAt, sent := y.sent })
  if portState s p = 0 || portState s p = 5 then s else beginTraining (setPort6 s p 3) p

/-- LNK_RESET (R276, R370, R377): a PF write of LNK_CTL.RESET. -/
def execLnkReset (fn port : Nat) (s : State) : Host.Outcome State Fault Refusal :=
  if fn != 0 || !(port < surfPorts s.asm) || !canWrite s fn (lnkBase port + 0x10) || genBusy s (.port port) then .next s
  else .next (countReset (enterReset (clearPort s port) (.port port)) (.port port))

end Sys2Proof.Machine
end

