-- ==== Sys2Proof/Machine/AttnRing.lean ====
section
/-! DEFINITION. The device ring (R155, R156) and the command ATTN_BATCH: the steps of a ring, what each sends to the
successor, the staging areas, and the block-abandon notice. -/

namespace Sys2Proof.Machine

/-! ### Blocks and staging areas (notes/assumptions/15.md) -/

/-- The block that the device works on in step r. -/
def stepBlock (b : List Byte) (r : Nat) : Nat := (hPos b + hDevs b - r % hDevs b) % hDevs b

/-- The chunks of block k of a sequence. -/
def blockOf (b : List Byte) (p : AttPar) (k : Nat) : List Nat :=
  (List.range (chunkCount b p)).filter (fun j => j / blockChunks b p == k)

/-- The first page of a block, and how many pages it has. -/
def blockFirst (b : List Byte) (p : AttPar) (k : Nat) : Nat := k * blockChunks b p * 2 ^ eNat b 5 1
def blockPages (b : List Byte) (p : AttPar) (k : Nat) : Nat :=
  min p.npages (blockFirst b p (k + 1)) - min p.npages (blockFirst b p k)

/-- Bytes that the largest block of a sequence takes in a staging area. -/
def stageLen (b : List Byte) (q : BSeq) : Nat := let p := batchPar b q.record; blockPages b p 0 * slotLen p

/-- The size of a staging area. -/
def areaLen (b : List Byte) (qs : List BSeq) : Nat := (qs.map (stageLen b)).sum

/-- The area that step r receives into; the step reads from the other one. -/
def recvArea (b : List Byte) (qs : List BSeq) (r : Nat) : Nat := hStage b + r % 2 * areaLen b qs
def scanArea (b : List Byte) (qs : List BSeq) (r : Nat) : Nat := recvArea b qs (r + 1)

/-- Where the block of a sequence starts in an area. -/
def stageAt (b : List Byte) (qs : List BSeq) (area idx : Nat) : Nat := area + ((qs.filter (fun q => q.idx < idx)).map (stageLen b)).sum

/-- The parameters of a sequence in step r: its own pages in step 0, staged ones later. -/
def stepPar (b : List Byte) (qs : List BSeq) (r : Nat) (q : BSeq) : AttPar :=
  let p := batchPar b q.record
  if r = 0 then p else { p with stage := some (stageAt b qs (scanArea b qs r) q.idx, blockFirst b p (stepBlock b r)) }

/-- The records that a ring command holds after its header. -/
def ringSeqs (c : Cmd) : List BSeq :=
  (List.range (eNat c.args 12 4)).map (fun i => ⟨i, (c.args.drop (64 + 64 * i)).take 64⟩)

/-! ### A step -/

/-- The scans of step r: the partials of the block's chunks as bytes, sequence by sequence; the first code with its record. -/
def stepScans (s : State) (part : Nat) (b : List Byte) (qs : List BSeq) (ts : List Nat) (r : Nat) : State × List Byte × Nat × Nat :=
  qs.foldl (fun (y : State × List Byte × Nat × Nat) q =>
    let p := stepPar b qs r q
    let z := (blockOf b p (stepBlock b r)).foldl (fun (z : State × List Byte × BRun) j =>
      if z.2.2.code != 0 then z
      else
        let u := seqTile z.1 (batchWho part) p q.record ts z.2.2
        if u.2.2.code != 0 then (u.1, z.2.1, u.2.2)
        else
          let c := scanChunk u.1 u.2.1 (chunkPar b p j)
          (c.1, if c.2.2 = 0 then z.2.1 ++ partialBytes p.d c.2.1 else z.2.1, { u.2.2 with code := c.2.2 }))
      (y.1, y.2.1, ⟨[], [], 0⟩)
    if y.2.2.1 != 0 then y else (z.1, z.2.1, z.2.2.code, q.idx)) (s, [], 0, 0)

/-- The ranges that step r sends for one page (source, destination at the successor, bytes): the page, its bitmap block,
its descriptor. -/
def pageSends (s : State) (part : Nat) (b : List Byte) (qs : List BSeq) (r : Nat) (q : BSeq) (n : Nat) : State × List (Nat × Nat × Nat) :=
  let p := stepPar b qs r q
  let k := stepBlock b r
  let at_ := stageAt b qs (recvArea b qs r) q.idx + (n - blockFirst b p k) * slotLen p
  match p.stage with
  | some x => (s, [(x.1 + (n - x.2) * slotLen p, at_, pageLen p + 96)])
  | none =>
    let d := readDesc s (batchWho part) p n
    (d.1, [(d.2.1.page, at_, pageLen p), (d.2.1.vbmp, at_ + pageLen p, 64), (p.dlist + 32 * n, at_ + pageLen p + 64, 32)])

/-- Cut a range into transfers of at most 256 sectors of the destination. -/
def copyParts : Nat → Nat → Nat → Nat → List (Nat × Nat × Nat)
  | 0, _, _, _ => []
  | k + 1, src, dst, n => if n = 0 then [] else
      let m := min n (65536 - dst % 256)
      (src, dst, m) :: copyParts k (src + m) (dst + m) (n - m)

/-- Add the transfers of a range to the list, for a command of partition p: a push to `dst` of device `dev`, or a pull from
`src` there. Whether they are protected the spec does not say: the bit is free. -/
def addRange (s : State) (p cmd dev src dst n : Nat) (pull : Bool) : State × List Nat :=
  let d := draw s
  let prot := bit d.1.toNat 0
  (copyParts (n / 65280 + 1) src dst n).foldl (fun (r : State × List Nat) c =>
    let head := c.2.1 % 256
    let x : XferOut := ⟨0, 0, dev, p, 0, false, c.1, c.2.1 / 256 * 256, cdiv (head + c.2.2) 256, head,
      (c.2.1 + c.2.2 - 1) % 256, p, pull, prot, 0, false, some (p, cmd), none, []⟩
    let y := addOut r.1 x
    (y.1, r.2 ++ [y.2])) (d.2, [])

/-- Step r sends its block to RINGNEXT (R155). -/
def ringSend (s : State) (part : Nat) (c : Cmd) (r : Nat) : State :=
  let b := c.args
  let qs := ringSeqs c
  let x := qs.foldl (fun (x : State × List Nat) q =>
    let p := batchPar b q.record
    let k := stepBlock b r
    ((List.range (blockPages b p k)).map (· + blockFirst b p k)).foldl (fun (x : State × List Nat) n =>
      let l := pageSends x.1 part b qs r q n
      l.2.foldl (fun (x : State × List Nat) g =>
        let y := addRange x.1 part c.id (hNext b) g.1 g.2.1 g.2.2 false
        (y.1, x.2 ++ y.2)) (l.1, x.2)) x) (s, [])
  if x.2 = [] then x.1 else startOuts (updCmd x.1 part c.id (fun m => { m with xfers := m.xfers ++ x.2 }))

/-- Step r begins: its scans are made, and its block set out for the successor. A scan that fails ends the batch. -/
def ringStep (s : State) (part : Nat) (c : Cmd) (r : Nat) : State :=
  let ts := entryRect c.entry 24
  let x := stepScans s part c.args (ringSeqs c) ts r
  if x.2.2.1 != 0 then batchDone x.1 part c.id ts x.2.2.1 x.2.2.2
  else ringSend (updCmd x.1 part c.id (fun m => { m with ring := some r, image := m.image ++ x.2.1 })) part c r

/-- Which sequence and chunk each stored partial is of, in the order of the steps. -/
def ringKeys (b : List Byte) (qs : List BSeq) : List (Nat × Nat) :=
  (List.range (hDevs b)).flatMap (fun r => qs.flatMap (fun q =>
    (blockOf b (batchPar b q.record) (stepBlock b r)).map (fun j => (q.idx, j))))

/-- The stored partial of a chunk. -/
def ringPartial (c : Cmd) (p : AttPar) (idx j : Nat) : List AttRow :=
  let k := (ringKeys c.args (ringSeqs c)).findIdx (· == (idx, j))
  partialRows p.d p.m ((c.image.drop (k * partialLen p.d)).take (partialLen p.d))

/-- The end of the last step: every sequence is merged over its global chunk indices and written (R153, R155). -/
def ringFinish (s : State) (part : Nat) (c : Cmd) : State :=
  let b := c.args
  let ts := entryRect c.entry 24
  let x := (ringSeqs c).foldl (fun (x : State × List (Nat × Nat)) q =>
    let p := batchPar b q.record
    let y := (List.range (chunkCount b p)).foldl (fun (y : State × BRun) j =>
      if y.2.code != 0 then y
      else
        let u := someTile y.1 ts
        addLeaf u.1 p u.2 j (ringPartial c p q.idx j) y.2) (x.1, ⟨[], [], 0⟩)
    let z := if y.2.code != 0 then (y.1, y.2.code) else finishSeq y.1 part b q.record ts y.2
    (z.1, if z.2 = 0 then x.2 else x.2 ++ [(q.idx, z.2)])) (s, [])
  let f := firstFailure x.2
  batchDone x.1 part c.id ts f.1 f.2

/-! ### Commands -/

/-- What ATTN_BATCH does from its start on. -/
def batchGo (part : Nat) (s : State) (c : Cmd) : State :=
  let e := c.entry
  let ts := entryRect e 24
  if !batchEntryOk s part e then complete s part c.id 4 0
  else
    let s := ts.foldl (fun s t => setRing7 s t true) s
    let h := devRead s (dispWho part) (eNat e 16 6) 64
    let b := h.2.1
    match accCode h.2.2 with
    | 2 => batchEnd h.1 part c.id ts 6 0
    | 3 => batchEnd h.1 part c.id ts 7 0
    | _ =>
      if !hdrOk b then batchDone h.1 part c.id ts 4 0
      else
        let q := readRecords h.1 part b
        if hRing b then
          let f := firstFailure q.2.2
          if f.1 != 0 then batchDone q.1 part c.id ts f.1 f.2
          else
            let d := { c with ring := some 0, args := b ++ q.2.1.flatMap (·.record) }
            ringStep (updCmd q.1 part c.id (fun _ => d)) part d 0
        else
          let x := runPasses q.1 part b ts q.2.1
          let f := firstFailure (q.2.2 ++ x.2)
          batchDone x.1 part c.id ts f.1 f.2

/-- ATTN_BATCH (R150 to R155): a batch without a ring runs to its end; one with a ring scans its own block and waits for
its ring steps. The pipes begin nothing while the Ebb sequence runs (R309). -/
def execAttnBatch (part sq : Nat) (s : State) : Host.Outcome State Fault Refusal :=
  .next (starting 3 s part sq (batchGo part))

/-- The ring command of a partition with its step. -/
def ringCmd (s : State) (part cmd : Nat) : Option (Cmd × Nat) :=
  match cmdOf s part cmd with
  | some c => c.ring.map (fun r => (c, r))
  | none => none

/-- Is a received block not wholly valid yet: an incoming transfer for the area of step r has not ended? -/
def recvOpen (s : State) (c : Cmd) (r : Nat) : Bool :=
  let a := recvArea c.args (ringSeqs c) r
  s.surf.ins.any (fun x => a ≤ x.dst && x.dst < a + areaLen c.args (ringSeqs c))

/-- RING_STEP_END (R155): a step's scans are complete and the received block is valid; the next step begins, or the last
one is over. -/
def execRingStepEnd (part cmd : Nat) (s : State) : Host.Outcome State Fault Refusal :=
  match ringCmd s part cmd with
  | none => .next s
  | some (c, r) =>
    if recvOpen s c r || ebbing s then .next s
    else if r + 1 < hDevs c.args then .next (whole s (ringStep s part c (r + 1)))
    else .next (whole s (ringFinish s part c))

/-- A block of the ring is lost (R156): the successor gets a block-abandon notice in its place, the ring's sequences
complete with code 6 and no output. -/
def ringLose (s : State) (part : Nat) (c : Cmd) : State :=
  let s := { s with surf := { s.surf with notices := s.surf.notices ++ [(part, hNext c.args)] } }
  batchDone s part c.id (entryRect c.entry 24) 6 0

/-- BLOCK_ABANDON (R156): the predecessor's notice arrives. -/
def execBlockAbandon (part cmd : Nat) (s : State) : Host.Outcome State Fault Refusal :=
  match ringCmd s part cmd with
  | none => .next s
  | some (c, _) => .next (ringLose s part c)

/-- An incoming transfer for partition p ended with sectors lost: a ring command that receives a block there loses it. -/
def ringGap (s : State) (p dst : Nat) : State :=
  match (partOf s p).cmds.find? (fun c => match c.ring with
    | some r => let a := recvArea c.args (ringSeqs c) r; a ≤ dst && dst < a + areaLen c.args (ringSeqs c)
    | none => false) with
  | some c => ringLose s p c
  | none => s

end Sys2Proof.Machine
end

