-- ==== Sys2Proof/Machine/SurfRecv.lean ====
section
/-! DEFINITION. What a Surf port does with a received frame (R262 to R273), the end of incoming transfers, the check of
protected ones (R352), and its timers. -/

namespace Sys2Proof.Machine

/-! ### The header (Table 10.1) -/

def hTy (h : BitVec 48) : Nat := bits h.toNat 47 44
def hSeq (h : BitVec 48) : Nat := bits h.toNat 43 32
def hAck (h : BitVec 48) : Nat := bits h.toNat 31 20
def hXid (h : BitVec 48) : Nat := bits h.toNat 19 8
def hIdx (h : BitVec 48) : Nat := bits h.toNat 7 0

/-- The payload length of a frame type (Table 10.2). -/
def payLen (ty : Nat) : Nat := if ty = 1 then 256 else if ty = 2 || ty = 3 || ty = 4 || ty = 9 || ty = 10 then 16 else 0

/-- Take the acknowledged frames out of the replay buffer (R263). -/
def takeAck (s : State) (p dev ack : Nat) : State :=
  let x := spaceOf s p dev
  setSpace s p dev { x with replay := x.replay.filter (fun f => !seqBefore f.seq ack) }

/-- Was a sequence number received before? -/
def seqSeen (x : SeqSpace) (n : Nat) : Bool := (n + 4096 - x.expect) % 4096 ≥ 2048 || x.beyond.contains n

/-- Move the next expected number over those received beyond it. -/
def advanceExpect : Nat → SeqSpace → SeqSpace
  | 0, x => x
  | k + 1, x =>
    if x.beyond.contains x.expect then
      advanceExpect k { x with expect := (x.expect + 1) % 4096, beyond := x.beyond.filter (· != x.expect) }
    else x

/-- Note a received number: one NAK for each number that is now seen missing (R263). An Ethernet port owes an IDLE to
carry the acknowledgement. -/
def noteSeq (s : State) (p dev n : Nat) : State :=
  let x := spaceOf s p dev
  let gap := (n + 4096 - x.expect) % 4096
  let miss := ((List.range gap).map (fun i => (x.expect + i) % 4096)).filter
    (fun m => !x.beyond.contains m && !x.naks.contains m)
  let y : SeqSpace := { x with beyond := x.beyond ++ [n], naks := (x.naks ++ miss).filter (· != n) }
  let s := setSpace s p dev (advanceExpect (y.beyond.length + 1) y)
  let s := miss.foldl (fun s m => addCtl s p dev (plainFrame 8 m)) s
  if portMode s p = 2 then addCtl s p dev (plainFrame 0 0) else s

/-! ### Incoming transfers (R266, R271) -/

def inOf (s : State) (dev xid : Nat) : Option XferIn := s.surf.ins.find? (fun x => x.dev == dev && x.xid == xid)
def updIn (s : State) (id : Nat) (f : XferIn → XferIn) : State :=
  { s with surf := { s.surf with ins := updWhere (fun x => x.id == id) f s.surf.ins } }
def dropIn (s : State) (id : Nat) : State := { s with surf := { s.surf with ins := s.surf.ins.filter (fun x => x.id != id) } }

/-- Queue a CLOSE_ACK: status, gap count and first lost index, which is free when nothing was lost. -/
def queueAck (s : State) (p dev xid q status : Nat) (gaps : List Nat) : State :=
  let low := gaps.foldl min 255
  let r : State × Nat := if gaps = [] then (let d := draw s; (d.2, d.1.toNat)) else (s, low)
  queueNew r.1 p q dev ⟨4, 4096, xid, 0,
    leBytes 1 status ++ leBytes 2 gaps.length ++ leBytes 1 0 ++ leBytes 4 r.2 ++ leBytes 8 0, q, 0, 0, true, 0⟩

/-- The pull of this device that an incoming push answers: same peer, queue, destination and size. -/
def pullOf (s : State) (x : XferIn) : Option XferOut :=
  s.surf.outs.find? (fun y => y.pull && y.started && y.dev == x.dev && y.queue == x.queue && y.dst / 256 == x.dst / 256 && y.nsec == x.nsec)

/-- An incoming transfer ends: CLOSE_ACK, and the pull that it answers ends with the same status (R271). -/
def endIn (s : State) (x : XferIn) (status : Nat) : State :=
  let p := match x.closed with
    | some c => c.2
    | none => x.port
  let s := queueAck (dropIn s x.id) p x.dev x.xid x.queue status x.gaps
  match pullOf s x with
  | some y => endXfer s y status x.gaps.length
  | none => s

/-- The Surf stream of a source and queue (R352). -/
def surfKey (x : XferIn) : Nat := x.dev * 8 + x.queue

/-- Apply the alive-counter rule to a Surf stream and count the result at the serving channel. -/
def surfAlive (s : State) (x : XferIn) (port : Nat) (cv : Option (BitVec 64)) : State × AliveRes :=
  let r := readStream s (servingChannel s port) (SMap.get Stream.reset s.ras.surf (surfKey x))
  let s := r.1
  let a := aliveStep (regF s oCVSURF 52 48) r.2 x.ctr cv
  let s := { s with ras := { s.ras with surf := SMap.set Stream.reset s.ras.surf (surfKey x) a.1 } }
  (aliveCount s (servingChannel s port) a.2, a.2)

/-- Has a transfer accounted for every sector and received its CLOSE? -/
def XferIn.full (x : XferIn) : Bool :=
  x.closed.isSome && (List.range x.nsec).all (fun n => x.done.contains n || x.gaps.contains n)

/-- A full transfer ends: with abandoned sectors status 2, and a missing record when it is protected (R266), and a block of
the attention ring that they belong to is lost (R156); a protected
one without gaps waits for its check (CVU_TRANSFER_CHECK); any other ends with status 0. -/
def settleIn (s : State) (id : Nat) : State :=
  match s.surf.ins.find? (fun x => x.id == id) with
  | none => s
  | some x =>
    if !x.full then s
    else if x.refused then dropIn s id
    else if x.gaps != [] then
      let s := if x.prot then (surfAlive s x (x.closed.getD (0, x.port)).2 none).1 else s
      ringGap (endIn s x 2) x.part x.dst
    else if x.prot then s
    else endIn s x 0

/-- Is every sector of a range HBM owned by partition p (R271)? -/
def rangeAdmitted (s : State) (p a nsec : Nat) : Bool :=
  ownsHbm s p a && ownsHbm s p (a + 256 * nsec - 1) && a + 256 * nsec ≤ hbmGiB s.asm * 2 ^ 30

/-- A DATA frame of a known transfer: its bytes from HEAD to TAIL are written, once (R266). -/
def writeSector (s : State) (p : Nat) (x : XferIn) (n : Nat) (pay : List Byte) : State :=
  if x.refused || !(n < x.nsec) || x.done.contains n then s
  else
    let sp := sectorSpan x.nsec x.head x.tail n
    let r := devWrite s (surfWho p x.part) (x.dst + 256 * n + sp.1) ((pay.drop sp.1).take (sp.2 + 1 - sp.1))
    updIn { r.1 with stalled := s.stalled } x.id (fun y => { y with done := y.done ++ [n], gaps := y.gaps.filter (· != n) })

/-- A sector entry of queue q is free again, and the port owes a CREDIT (R267). -/
def freeEntry (s : State) (p dev q : Nat) : State :=
  let k := creditKey dev q
  addCtl (updPort s p (fun y => { y with freed := SMap.set 0 y.freed k ((SMap.get 0 y.freed k + 1) % 65536) })) p dev (plainFrame 9 0)

/-- A DATA, CLOSE or ABANDON frame of a known transfer. -/
def takePart (s : State) (p : Nat) (x : XferIn) (f : Frame) : State :=
  let s := match f.ty with
    | 1 => freeEntry (writeSector s p x f.idx f.payload) p x.dev x.queue
    | 3 => updIn s x.id (fun y => { y with closed := some (BitVec.ofNat 64 (leNat (f.payload.take 8)), p) })
    | _ => updIn s x.id (fun y => if y.done.contains f.idx || y.gaps.contains f.idx || !(f.idx < y.nsec) then y
                                  else { y with gaps := y.gaps ++ [f.idx] })
  settleIn s x.id

/-- The frames that waited for the OPEN of a transfer, on any port. -/
def takeWaiting (s : State) (dev xid : Nat) : State :=
  (List.range (surfPorts s.asm)).foldl (fun s p =>
    let mine := (portOf s p).ingress.filter (fun e => e.1 == dev && e.2.xid == xid)
    if mine = [] then s
    else
      let s := updPort s p (fun y => { y with ingress := y.ingress.filter (fun e => !mine.contains e) })
      mine.foldl (fun s e => match inOf s dev xid with
        | some x => takePart s p x e.2
        | none => s) s) s

/-- An OPEN (Table 10.3, R271): a push is admitted or refused with status 3; a pull is answered by a push to RADDR. -/
def takeOpen (s : State) (p dev xid : Nat) (pay : List Byte) : State :=
  let addr := eNat pay 0 5 * 256
  let nsec := if eNat pay 5 1 = 0 then 256 else eNat pay 5 1
  let qkp := eNat pay 9 1
  let q := qkp % 8
  let part := regF s (oQCFG p q) 2 0
  let ok := rangeAdmitted s part addr nsec
  if bit qkp 3 then
    if ok then
      startOuts (addOut s ⟨0, 0, dev, q, 0, false, addr, eNat pay 10 5 * 256, nsec, eNat pay 6 1, eNat pay 7 1, part, false,
        bit qkp 4, 0, false, none, none, []⟩).1
    else queueAck s p dev xid q 3 []
  else
    let s := { s with surf := { s.surf with ins := s.surf.ins.filter (fun y => !(y.dev == dev && y.xid == xid)) } }
    let x : XferIn := ⟨s.nextId, p, dev, xid, addr, nsec, eNat pay 6 1, eNat pay 7 1, q, part, bit qkp 4, eNat pay 10 2,
      [], [], none, !ok⟩
    let s := { s with nextId := s.nextId + 1, surf := { s.surf with ins := s.surf.ins ++ [x] } }
    takeWaiting (if ok then s else queueAck s p dev xid q 3 []) dev xid

/-- A CLOSE_ACK: the transfer of ours with that XID ends with its status (R266). -/
def takeCloseAck (s : State) (dev xid : Nat) (pay : List Byte) : State :=
  match s.surf.outs.find? (fun y => y.started && y.dev == dev && y.xid == xid) with
  | some y => endXfer s y (eNat pay 0 1) (eNat pay 1 2)
  | none => s

/-! ### Frames -/

/-- The processing of a received frame of type `ty`: its acknowledgement, its place in the sequence space (a number seen
before is only acknowledged again), and what the type does. Nothing happens unless the port is UP and the frame is one
of that type. -/
def receive (s : State) (ty p dev : Nat) (h : BitVec 48) (pay : List Byte) (k : State → Nat → State) : State :=
  if !portUp s p || hTy h != ty || pay.length != payLen ty then s
  else
    let d := remoteOf s p dev
    let s := takeAck s p d (hAck h)
    if !sequenced ty then k s d
    else if seqSeen (spaceOf s p d) (hSeq h) then (if portMode s p = 2 then addCtl s p d (plainFrame 0 0) else s)
    else k (noteSeq s p d (hSeq h)) d

/-- A frame that belongs to a transfer: it waits in the ingress buffer until the OPEN has arrived. -/
def receivePart (s : State) (ty p dev : Nat) (h : BitVec 48) (pay : List Byte) : State :=
  receive s ty p dev h pay (fun s d =>
    let f : Frame := ⟨ty, hSeq h, hXid h, hIdx h, pay, 0, 0, 0, false, 0⟩
    match inOf s d (hXid h) with
    | some x => takePart s p x f
    | none => updPort s p (fun y => { y with ingress := y.ingress ++ [(d, f)] }))

/-- IDLE (R263). -/
def execIdleF (port dev : Nat) (hdr : BitVec 48) (pay : List Byte) (s : State) : Host.Outcome State Fault Refusal :=
  .next (receive s 0 port dev hdr pay (fun s _ => s))

/-- DATA (R263, R266). -/
def execDataF (port dev : Nat) (hdr : BitVec 48) (pay : List Byte) (s : State) : Host.Outcome State Fault Refusal :=
  .next (receivePart s 1 port dev hdr pay)

/-- OPEN (R271). -/
def execOpenF (port dev : Nat) (hdr : BitVec 48) (pay : List Byte) (s : State) : Host.Outcome State Fault Refusal :=
  .next (receive s 2 port dev hdr pay (fun s d => takeOpen s port d (hXid hdr) pay))

/-- CLOSE (R266). -/
def execCloseF (port dev : Nat) (hdr : BitVec 48) (pay : List Byte) (s : State) : Host.Outcome State Fault Refusal :=
  .next (receivePart s 3 port dev hdr pay)

/-- CLOSE_ACK (R266). -/
def execCloseAck (port dev : Nat) (hdr : BitVec 48) (pay : List Byte) (s : State) : Host.Outcome State Fault Refusal :=
  .next (receive s 4 port dev hdr pay (fun s d => takeCloseAck s d (hXid hdr) pay))

/-- ABANDON (R266). -/
def execAbandon (port dev : Nat) (hdr : BitVec 48) (pay : List Byte) (s : State) : Host.Outcome State Fault Refusal :=
  .next (receivePart s 5 port dev hdr pay)

/-- Ask for a resend of a numbered frame: at most RETRY times (R264). -/
def askResend (s : State) (p dev seq : Nat) : State :=
  match (spaceOf s p dev).replay.find? (fun f => f.seq == seq) with
  | some f => if f.fresh || f.resends ≥ regF s (oLNKCFG p) 34 32 then s else addCtl s p dev { f with resends := 0, err := 0 }
  | none => s

/-- NAK (R263): the named frame is sent again. -/
def execNak (port dev : Nat) (hdr : BitVec 48) (pay : List Byte) (s : State) : Host.Outcome State Fault Refusal :=
  .next (receive s 8 port dev hdr pay (fun s d => askResend s port d (hSeq hdr)))

/-- CREDIT (R267): cumulative counts of freed entries per queue. -/
def execCredit (port dev : Nat) (hdr : BitVec 48) (pay : List Byte) (s : State) : Host.Outcome State Fault Refusal :=
  .next (receive s 9 port dev hdr pay (fun s d => updPort s port (fun y => { y with
    back := (List.range 8).foldl (fun m q => SMap.set 0 m (creditKey d q) (eNat pay (2 * q) 2)) y.back })))

/-- HELLO (R273): a native port whose peer is not the expected one enters MISWIRED. -/
def execHello (port dev : Nat) (hdr : BitVec 48) (pay : List Byte) (s : State) : Host.Outcome State Fault Refusal :=
  .next (receive s 10 port dev hdr pay (fun s _ =>
    let d := eNat pay 0 1
    let q := eNat pay 1 1
    let s := setF (setF s (oLNKSTAT port) 63 56 d) (oLNKSTAT port) 55 50 q
    if portMode s port = 1 && (d != regF s (oLNKCFG port) 63 56 || q != regF s (oLNKCFG port) 55 50) then
      moveFrames (setPort6 s port 4) port
    else s))

/-- RETRAIN_REQ (R275): the port answers with one of its own and leaves UP. -/
def execRetrainReq (port dev : Nat) (hdr : BitVec 48) (pay : List Byte) (s : State) : Host.Outcome State Fault Refusal :=
  .next (receive s 11 port dev hdr pay (fun s _ => requestRetrain s port))

/-- Is a frame discarded (R259, R260, R263)? An uncorrectable codeword or a wrong CRC or FCS makes it so; a type does when Table
10.2 reserves it; in Ethernet mode an EtherType other than ETYPE does (a PAUSE or priority flow control frame has one), or
a destination address other than the port's own. -/
def frameBad (s : State) (p : Nat) : BadFrame → Bool
  | .fec | .crc => true
  | .ty t => !(t ≤ 5 || (8 ≤ t && t ≤ 11))
  | .eth dst etype => portMode s p == 2 && (etype != regF s oLNKETH 63 48 || dst != surfMac s (devId s) p)

/-- BAD_FRAME (R259, R260, R263): a frame is discarded and counted; an uncorrectable codeword counts in LNK_FEC.UNCORR too. -/
def execBadFrame (port : Nat) (why : BadFrame) (s : State) : Host.Outcome State Fault Refusal :=
  if portUp s port && frameBad s port why then
    let s := addSat s (oLNKEVT port) 31 16 1
    .next (if why = .fec then addSat s (oLNKFEC port) 31 16 1 else s)
  else .next s

/-- RTO_EXPIRY (R263, R264): `nak`: no frame came for a missing number, and the NAK is sent again. Otherwise a sent
frame has no acknowledgement: it is sent again, or abandoned after RETRY resends. -/
def execRtoExpiry (port dev seq : Nat) (nak : Bool) (s : State) : Host.Outcome State Fault Refusal :=
  if !portUp s port then .next s
  else
    let d := remoteOf s port dev
    let x := spaceOf s port d
    if nak then (if x.naks.contains seq then .next (addCtl s port d (plainFrame 8 seq)) else .next s)
    else match x.replay.find? (fun f => f.seq == seq) with
      | none => .next s
      | some f =>
        if f.fresh || (portOf s port).ctl.any (fun e => e.1 == d && sequenced e.2.ty && e.2.seq == seq) then .next s
        else if f.resends ≥ regF s (oLNKCFG port) 34 32 then .next (abandonSent s port d f)
        else .next (askResend s port d seq)

/-! ### Protected transfers (R352) -/

/-- The bytes of the written range of a transfer, read through the shelf. -/
def readWritten (s : State) (port : Nat) (x : XferIn) : State × List Byte × AccSt :=
  devRead s ⟨.surf port, some x.part, x.part, 5, 4⟩ (x.dst + x.head) (256 * (x.nsec - 1) + x.tail + 1 - x.head)

/-- CVU_TRANSFER_CHECK (R266, R351, R352): the check value and the alive counter of a full protected transfer. A range
that cannot be read cannot match. -/
def execCvuTransferCheck (id : Nat) (s : State) : Host.Outcome State Fault Refusal :=
  match s.surf.ins.find? (fun x => x.id == id) with
  | none => .next s
  | some x =>
    match x.closed with
    | none => .next s
    | some (cv, port) =>
      if !(x.prot && x.full && x.gaps == [] && !x.refused) then .next s
      else
        let r := readWritten s port x
        let c := servingChannel s port
        if r.2.2.st != .ok || BitVec.ofNat 64 ((profileOf s c).check r.2.1) != cv then
          .next (whole s (endIn (addSat r.1 (oCVSTAT c) 47 32 1) x 1))
        else
          let a := surfAlive r.1 x port (some cv)
          .next (whole s (endIn a.1 x (match a.2 with
            | .ok | .sameCtr => 0
            | _ => 1)))

/-- CLRSTRM (R352): a PF write of CVU_SURF.CLRSTRM clears every Surf stream and send counter. -/
def execClrstrm (fn : Nat) (s : State) : Host.Outcome State Fault Refusal :=
  if fn = 0 ∧ canWrite s fn oCVSURF = true then
    .next { s with ras := { s.ras with surf := [] }, surf := { s.surf with sendCtr := [] } }
  else .next s

end Sys2Proof.Machine
end

