-- ==== Sys2Proof/Machine/Copy.lean ====
section
/-! DEFINITION. COPY (R292, Table 11.6): between local ranges byte by byte in one step, to or from a peer window as Surf
transfers (R265, R270). -/

namespace Sys2Proof.Machine

/-- The row of Table 1.6 that an address lies in: HBM, each tile window, host memory, each peer window, and each gap. -/
def rowOf (a : Nat) : Nat :=
  if a < 0x40_0000_0000 then 0
  else if 0x4000_0000_0000 ≤ a && a < 0x4001_0000_0000 then 1 + (a - 0x4000_0000_0000) / 0x10_0000
  else if 0x8000_0000_0000 ≤ a && a < 0xC000_0000_0000 then 0x2_0000
  else if 0xC000_0000_0000 ≤ a && a < 0x1_0000_0000_0000 then 0x3_0000 + (a - 0xC000_0000_0000) / 0x40_0000_0000
  else if a < 0x4000_0000_0000 then 0x4_0000
  else if a < 0x8000_0000_0000 then 0x4_0001
  else 0x4_0002

/-- Does an address lie in a peer window? -/
def inPeer (a : Nat) : Bool := 0x3_0000 ≤ rowOf a && rowOf a < 0x4_0000

def copySrc (e : List Byte) : Nat := eNat e 16 6
def copyDst (e : List Byte) : Nat := eNat e 24 6
def copyLen (e : List Byte) : Nat := eNat e 32 8

/-- Is a COPY entry valid (R292)? -/
def copyEntryOk (e : List Byte) : Bool :=
  let a := copySrc e
  let b := copyDst e
  let n := copyLen e
  flagsOk e && restZero e [(0, 22), (24, 30), (32, 40)] && 1 ≤ n && n ≤ 2 ^ 40 && !(inPeer a && inPeer b) &&
    !(a < b + n && b < a + n) && rowOf a == rowOf (a + n - 1) && rowOf b == rowOf (b + n - 1)

/-- The master that a COPY of partition p is: class 3, level 3. -/
def copyWho (p : Nat) : Who := Who.disp p 3 3

/-- Copy one piece: bytes that could not be read or written keep what the destination held; the first failure stays. -/
def copyPiece (p src dst : Nat) (r : State × AccSt) (pc : Nat × Nat) : State × AccSt :=
  let x := readPiece r.1 (copyWho p) pc.1 pc.2
  if x.2.2.st = .ok then
    let w := devWrite x.1 (copyWho p) (dst + (pc.1 - src)) x.2.1
    (w.1, r.2.join ⟨w.2.st, pc.1 - src + w.2.off⟩)
  else (x.1, r.2.join ⟨x.2.2.st, pc.1 - src + x.2.2.off⟩)

/-- Copy a local range. -/
def copyLocal (s : State) (p src dst n : Nat) : State × AccSt := (piecesOf src n).foldl (copyPiece p src dst) (s, AccSt.ok)

/-- Queue the transfers of a COPY. -/
def copyPeer (s : State) (p : Nat) (m : Cmd) (dev src dst n : Nat) (pull : Bool) : State :=
  let r := addRange s p m.id dev src dst n pull
  startOuts (updCmd r.1 p m.id (fun c => { c with xfers := r.2 }))

/-- What the command does from its start on. -/
def copyGo (part : Nat) (s : State) (c : Cmd) : State :=
  let e := c.entry
  let a := copySrc e
  let b := copyDst e
  let n := copyLen e
  if !copyEntryOk e then complete s part c.id 4 0
  else
    match routeOf s (some part) a, routeOf s (some part) b with
    | .remote d off, _ => copyPeer s part c d off b n true
    | _, .remote d off => copyPeer s part c d a off n false
    | _, _ =>
      let r := copyLocal s part a b n
      if r.2.st = .ok then complete r.1 part c.id 0 0 else complete r.1 part c.id (readStatus r.2) (r.2.off / 256)

/-- COPY. -/
def execCopy (part sq : Nat) (s : State) : Host.Outcome State Fault Refusal :=
  .next (starting 2 s part sq (copyGo part))

end Sys2Proof.Machine
end

