-- ==== Sys2Proof/Machine/Power.lean ====
section
/-! DEFINITION. Power (R304 to R317): rails, header switches, the Flood and Ebb sequences, event cells, the power loop,
brownouts and phase failures. -/

namespace Sys2Proof.Machine

/-! ### Rails and states (Tables 12.1, 12.6) -/

/-- PWR_STAT.STATE: 0 AON only, 1 Flood, 2 on, 3 Ebb, 4 Ebb without waits, 5 down. -/
def pwrState (s : State) : Nat := regF s oPWRSTAT 2 0
def setPwrState (s : State) (x : Nat) : State := setF s oPWRSTAT 2 0 x

/-- RAILOK of rail r; bit 5 is PWRGD_HBM. -/
def railOk (s : State) (r : Nat) : Bool := r < 6 && regB s oPWRSTAT (8 + r)

/-- The rail that feeds a header-switched domain (Table 12.1; notes/assumptions/83.md): logic is on VDD_CREST, arrays are on
VDD_SRAM, links on VDD_LINK, memory interfaces on VDD_MIO. -/
def feedRail : Supply → Nat
  | .logic => 0
  | .arrays => 1
  | .links => 2
  | .memIf => 3

/-- The T9 enables or disables a rail over PMBus (R305); rails 4 and 5 are the board's. -/
def enableRail (s : State) (r : Nat) (b : Bool) : State :=
  if r < 4 then
    let m : BitVec 4 := 1#4 <<< r
    { s with power := { s.power with enabled := if b then s.power.enabled ||| m else s.power.enabled &&& ~~~ m } }
  else s

/-- A rail reports good, or is lost: every domain that it feeds is then off. -/
def setRail (s : State) (r : Nat) (b : Bool) : State :=
  let s := setF s oPWRSTAT (8 + r) (8 + r) (b2n b)
  if b then s else { s with power := { s.power with headers := s.power.headers.filter (fun e => feedRail e.1.2 != r) } }

/-- A rail is disabled and goes down. -/
def dropRail (s : State) (r : Nat) : State := setRail (enableRail s r false) r false

/-- What the T9 commands of a rail over PMBus and AVSBus (R305): its VSET in mV while it is enabled. -/
def railOut (s : State) (r : Nat) : Option Nat :=
  if r < 4 && bit s.power.enabled.toNat r then some (regF s (oRAIL r) 11 0) else none

/-- Is a domain on: its rail good and its four switch groups closed (R304, R307)? -/
def domainOn (s : State) (d : PowerDomain) (u : Supply) : Bool := railOk s (feedRail u) && groupsOf s d u == 15

/-- The power duty in 16ths. -/
def powerDuty (s : State) : Nat := regF s oPWRSTAT 31 28

/-- The rail whose good is awaited in step n of the Flood sequence (Table 12.2). -/
def floodRail : Nat → Option Nat
  | 2 => some 1
  | 3 => some 0
  | 4 => some 3
  | 5 => some 5
  | 6 => some 2
  | _ => none

/-- Drive a code on LOAD_NOTICE[3:0]. -/
def driveNotice (s : State) (c : Nat) : State := setF s oTGLNCFG 15 12 c

/-! ### Event cells (R311) -/

/-- Write an event cell: there are 8. -/
def writeCell (s : State) (cause src : Nat) (temp : BitVec 16) : State :=
  if s.power.cells.length ≥ 8 then s
  else { s with power := { s.power with cells := s.power.cells ++ [⟨cause, src, temp, BitVec.ofNat 28 (nowStep s)⟩] } }

/-- A cell for an event with no sensor: its reading is free. -/
def writeCellFree (s : State) (cause src : Nat) : State :=
  let d := draw s
  writeCell d.2 cause src (d.1.setWidth 16)

/-- All 4 sensors of I/O die 0 are unbroken and read from lo to hi, in 0.25 °C (R328). -/
def dieWithin (s : State) (lo hi : Int) : Bool :=
  (List.range 4).all (fun i =>
    let v := reg s (oSENS (288 + i))
    !bit v.toNat 63 && lo ≤ sext 16 (fld v 15 0) && sext 16 (fld v 15 0) ≤ hi)

/-- May the configuration flash be written now (0 °C to 85 °C)? -/
def flashWindow (s : State) : Bool := dieWithin s 0 340

/-- May an eFuse be programmed now (10 °C to 60 °C)? -/
def fuseWindow (s : State) : Bool := dieWithin s 40 240

/-! ### Ebb (R309, R310) -/

/-- Start the Ebb sequence: issue stops and the notice pins go to 0b0000. -/
def startEbb (s : State) : State :=
  if s.power.ebb != 0 then s
  else
    let s := driveNotice (setPwrState s 3) 0
    { s with power := { s.power with ebb := 1 }, tg := { s.tg with noticeEnd := none } }

/-- Once the rails are down and R328 permits, Headland writes the full record to the flash (R311). -/
def recordShutdown (s : State) : State :=
  if flashWindow s && !s.head.inReset && s.power.cells != [] then
    { s with head := { s.head with flash := { s.head.flash with recValid := s.power.cells.getLast? } } }
  else s

/-- Every rail goes down back to back (R310). -/
def railsDown (s : State) : State :=
  let s := [2, 3, 5, 0, 1].foldl dropRail (driveNotice (setPwrState s 5) 0)
  recordShutdown { s with power := { s.power with ebb := 5, headers := [] }, tg := { s.tg with noticeEnd := none } }

/-! ### Header switches (R307) -/

/-- Is a domain fitted in the assembly? -/
def domainFitted (asm : Assembly) : PowerDomain → Bool
  | .tile st r c => st < crests asm && r < 12 && c < 17
  | .slice st k => st < crests asm && k < 16
  | .port p => p < surfPorts asm
  | .ctrl c => (ctrlList asm).contains c

/-- Is a domain part of the shelf wave, of the tile wave? -/
def isSlice : PowerDomain → Bool
  | .slice _ _ => true
  | _ => false
def isTile : PowerDomain → Bool
  | .tile _ _ _ => true
  | _ => false

/-- How many domains of the units that `p` names are on. -/
def onCount (s : State) (p : PowerDomain → Bool) : Nat := (s.power.headers.filter (fun e => p e.1.1 && e.2 == 15)).length

/-- Is every slice on (counted among the closed domains, two to a slice)? -/
def slicesOn (s : State) : Bool := onCount s isSlice == 32 * crests s.asm

/-- Is every fitted domain on? -/
def allOn (s : State) : Bool :=
  onCount s (fun _ => true) == 2 * (16 * crests s.asm + 204 * crests s.asm + surfPorts s.asm + (ctrlList s.asm).length)

/-- May a group of a domain switch now? In step 7 of the Flood sequence the shelf wave comes before the tile wave, and the
domains of ports and controllers, for which no wave is given, close at any time in it; in the Ebb sequence tiles open before
slices; a domain is switched in service too. -/
def mayClose (s : State) (d : PowerDomain) : Bool :=
  if pwrState s = 1 then s.power.flood == 7 && (!isTile d || slicesOn s) else pwrState s == 2
def mayOpen (s : State) (d : PowerDomain) : Bool :=
  if pwrState s = 3 then s.power.ebb == 1 && (!isSlice d || !(s.power.headers.any (fun e => isTile e.1.1)))
  else pwrState s == 2

/-- HEADER_SWITCH_GROUP (R307): the next group of a domain, 0 to 3 closing and 3 to 0 opening. The last group of the last
fitted domain ends the Flood sequence. -/
def execHeaderSwitchGroup (dom : PowerDomain × Supply) (close : Bool) (s : State) : Host.Outcome State Fault Refusal :=
  let v := groupsOf s dom.1 dom.2
  if !domainFitted s.asm dom.1 || !supplyOk dom.1 dom.2 then .next s
  else if close then
    if !mayClose s dom.1 then .next s
    else
      let s := setGroups s dom.1 dom.2 (v <<< 1 ||| 1)
      .next (if pwrState s = 1 && allOn s then
        setPwrState { s with power := { s.power with flood := 8 } } 2 else s)
  else if mayOpen s dom.1 then .next (setGroups s dom.1 dom.2 (v >>> 1)) else .next s

/-! ### Flood (R308) -/

/-- The next Flood step enables its rail (Table 12.2). -/
def nextFlood (s : State) : State :=
  let s := { s with power := { s.power with flood := s.power.flood + 1 } }
  match floodRail s.power.flood with
  | some r => enableRail s r true
  | none => s

/-- POWER_GOOD (R305, R308): the PWRGD input of the Flood step in progress rises; PWRGD_AON (rail 4) belongs to none. -/
def execPowerGood (rail : Nat) (s : State) : Host.Outcome State Fault Refusal :=
  if s.power.aon && rail == 4 then .next (setRail s 4 true)
  else if s.power.aon && s.power.ebb = 0 && pwrState s ≤ 1 && floodRail s.power.flood == some rail then
    .next (setPwrState (nextFlood (setRail s rail true)) 1)
  else .next s

/-- Record the failed Flood step: cause 6; the rail is that of the step, and free for the header waves. -/
def floodCell (s : State) : State :=
  match floodRail s.power.flood with
  | some r => writeCellFree s 6 r
  | none => let d := draw s; writeCellFree d.2 6 (d.1.toNat % 4096)

/-! ### Rail failure (R310) -/

/-- RAIL_FAIL (R310, R311): a rail that was not disabled drops, or one of the T9's own reaches its RST level. Rail 5 is
PWRGD_HBM; VDD_AON has its own command. -/
def execRailFail (rail : Nat) (belowRst : Bool) (s : State) : Host.Outcome State Fault Refusal :=
  if rail ≠ 4 ∧ railOk s rail = true then
    .next (railsDown (writeCellFree s (if belowRst && rail < 4 then 4 else 3) rail))
  else .next s

/-- EBB_STEP (R309): the next rail is disabled, LINK, MIO, CREST, SRAM in turn, once the header waves are over. -/
def execEbbStep (s : State) : Host.Outcome State Fault Refusal :=
  if pwrState s != 3 then .next s
  else
    let go (s : State) (n : Nat) : State := { s with power := { s.power with ebb := n } }
    match s.power.ebb with
    | 1 => if s.power.headers.any (fun e => isTile e.1.1 || isSlice e.1.1) then .next s else .next (go (dropRail s 2) 2)
    | 2 => .next (go (dropRail (dropRail s 3) 5) 3)
    | 3 => .next (go (dropRail s 0) 4)
    | 4 => .next (recordShutdown (go (setPwrState (dropRail s 1) 5) 5))
    | _ => .next s

/-! ### The power loop (R312, R317) -/

/-- Phases fitted and failed of rail r. -/
def phasesOf (s : State) (r : Nat) : Nat × Nat := (max 1 (regF s (oRAIL r) 51 44), popcount 64 (reg s (oPHFAIL r)).toNat)

/-- The smallest (n - f)/n over the rails, as a fraction. -/
def worstShare (s : State) : Nat × Nat :=
  (List.range 5).foldl (fun b r =>
    let p := phasesOf s r
    if (p.1 - p.2) * b.2 < b.1 * p.1 then (p.1 - p.2, p.1) else b) (1, 1)

/-- A quantity against a limit times a share: above it, or below 95 % of it. -/
def above (x limit : Nat) (sh : Nat × Nat) : Bool := x * sh.2 > limit * sh.1
def below95 (x limit : Nat) (sh : Nat × Nat) : Bool := 100 * x * sh.2 < 95 * limit * sh.1

/-- POWER_LOOP (R312): voltages in mV by the monitors and currents in A of the five rails, and the voltages of the last PMBus
reading, which stand for a rail whose monitor has failed (R346); package power in mW. -/
def execPowerLoop (volts : RailVolts) (amps : List Nat) (s : State) : Host.Outcome State Fault Refusal :=
  if !(pwrState s == 1 || pwrState s == 2) then .next s
  else
    let a (r : Nat) : Nat := amps.getD r 0
    let s := (List.range 5).foldl (fun s r => setF s (oRAIL r) 23 12 (min 4095 (a r))) s
    let w := worstShare s
    let v (r : Nat) : Nat := if bit s.power.pmRails.toNat r then volts.pmbus.getD r 0 else volts.monitor.getD r 0
    let mw := (List.range 5).foldl (fun x r => x + v r * a r) 0
    let total := (List.range 5).foldl (fun x r => x + a r) 0
    let share (r : Nat) : Nat × Nat := let p := phasesOf s r; (p.1 - p.2, p.1)
    let q : List (Nat × Nat × (Nat × Nat)) :=
      (List.range 5).map (fun r => (a r, regF s (oRAIL r) 63 52, share r)) ++
        [(mw, regF s oPWRCFG 63 48 * 1000, w), (total, regF s oPWRCFG 31 20, w)]
    let d := powerDuty s
    if q.any (fun x => above x.1 x.2.1 x.2.2) then
      .next (if d < 15 then addSat (setF s oPWRSTAT 31 28 (d + 1)) oPWREVT 39 8 1 else s)
    else if q.all (fun x => below95 x.1 x.2.1 x.2.2) then .next (setF s oPWRSTAT 31 28 (d - 1))
    else .next s

/-! ### Brownout (R315) -/

/-- BROWNOUT. -/
def execBrownout (rail : Nat) (s : State) : Host.Outcome State Fault Refusal :=
  if rail < 4 ∧ railOk s rail = true then
    .next (pfIrq (alert (setF (addSat s oPWREVT 63 48 1) oPWRSTAT 24 24 1)) 2)
  else .next s

/-- BROWNOUT_END. -/
def execBrownoutEnd (s : State) : Host.Outcome State Fault Refusal := .next (setF s oPWRSTAT 24 24 0)

/-! ### Phase failure (R316, R317) -/

/-- The phases of rail r that are fitted and have not failed. -/
def livePhases (s : State) (r : Nat) : List Nat :=
  (List.range (min 64 (regF s (oRAIL r) 51 44))).filter (fun k => !regB s (oPHFAIL r) k)

/-- The phases of rail r that depart from the mean of its live phases in this scan. -/
def departing (s : State) (r : Nat) (amps : List Nat) : List Nat :=
  let l := livePhases s r
  let sum := l.foldl (fun x k => x + amps.getD k 0) 0
  l.filter (fun k =>
    let x := amps.getD k 0 * l.length
    (if x ≥ sum then x - sum else sum - x) * 256 > regF s oPWRCFG 47 40 * sum)

/-- Is rail r evaluated: does it carry at least 10 % of its ILIM? -/
def evaluated (s : State) (r : Nat) (amps : List Nat) : Bool := 10 * amps.foldl (· + ·) 0 ≥ regF s (oRAIL r) 63 52

/-- One rail of a scan: the phases that failed now are recorded and the duty raised; too many take the Ebb sequence. -/
def scanRail (s : State) (r : Nat) (amps : List Nat) (faults : BitVec 64) : State :=
  let put (s : State) (m : BitVec 64) : State := { s with power := { s.power with departed := SMap.set 0 s.power.departed r m } }
  if !evaluated s r amps then put s 0
  else
    let dep := departing s r amps
    let failed := (livePhases s r).filter (fun k =>
      bit faults.toNat k || (dep.contains k && bit (SMap.get 0 s.power.departed r).toNat k))
    let s := put s (BitVec.ofNat 64 (ofBits (dep.filter (fun k => !failed.contains k))))
    if failed = [] then s
    else
      let s := setReg s (oPHFAIL r) (reg s (oPHFAIL r) ||| BitVec.ofNat 64 (ofBits failed))
      let f := popcount 64 (reg s (oPHFAIL r)).toNat
      let s := setF (setF s (oRAIL r) 43 40 (min 15 f)) oPWRSTAT (16 + r) (16 + r) 1
      let s := setF s oPWRSTAT 31 28 (max (powerDuty s) (regF s oPWRCFG 7 4))
      let s := pfIrq (alert (addSat s oPWREVT 47 40 failed.length)) 2
      if f > regF s oPWRCFG 39 36 then startEbb (writeCellFree s 5 r) else s

/-- PHASE_SCAN (R316, R317): per rail 0 to 3 the phase currents in A and the module's faults. It waits while Headland is
in reset (R306). -/
def execPhaseScan (amps : List (List Nat)) (faults : List (BitVec 64)) (s : State) : Host.Outcome State Fault Refusal :=
  if pwrState s = 2 ∧ s.head.inReset = false then
    .next ((List.range 4).foldl (fun s r => scanRail s r (amps.getD r []) (faults.getD r 0)) s)
  else .next s

end Sys2Proof.Machine
end

