-- ==== Sys2Proof/Machine/Heat.lean ====
section
/-! DEFINITION. Heat (R318 to R328): sensors, Tamp, trips, restricted mode, and the stack temperatures of the HBM
controllers (R324). -/

namespace Sys2Proof.Machine

/-! ### Sensors (R318, R319) -/

/-- The sensors of a die, by unit number of Table 13.2: the first and how many. -/
def dieSensors (asm : Assembly) (u : Nat) : Option (Nat × Nat) :=
  if u < crests asm then some (16 * u, 16)
  else if 16 ≤ u && u < 16 + crests asm then some (192 + 8 * (u - 16), 8)
  else if 96 ≤ u && u < 96 + ioDies asm then some (288 + 4 * (u - 96), 4)
  else none

/-- The last reading of sensor n in 0.25 °C. -/
def tempOf (s : State) (n : Nat) : Int := sext 16 (regF s (oSENS n) 15 0)
def sensorBroken (s : State) (n : Nat) : Bool := regB s (oSENS n) 63
def setTemp (s : State) (n : Nat) (t : Int) : State := setF s (oSENS n) 15 0 (twos 16 t)

/-- A broken sensor reads 115 °C. -/
def breakSensor (s : State) (n : Nat) : State := setTemp (setF s (oSENS n) 63 63 1) n 460

/-- The calibration offset. -/
def calOf (s : State) (n : Nat) : Int := sext 16 (regF s (oSENS n) 47 32)

/-! ### Trips (R325) -/

/-- A device trip: THERMTRIP_N, an event cell, the Ebb sequence, unless one runs already, and the thermal event of Table 11.3.
While THERMTRIP_N is low the trip has happened. -/
def trip (s : State) (cause src : Nat) (t : Int) : State :=
  if !s.pins.thermtripN || !s.power.aon then s
  else
    let s := { s with pins := { s.pins with thermtripN := false } }
    startEbb (pfIrq (writeCell s cause src (BitVec.ofNat 16 (twos 16 t))) 3)

/-! ### Tamp (R321, R322) -/

/-- THROTTLE and HYST in 0.25 °C as they act. -/
def throttleAt (s : State) : Int := 4 * (max 85 (min 105 (regF s oTHMCFG 7 0)) : Nat)
def hystAt (s : State) : Int := 4 * (max 1 (regF s oTHMCFG 18 16) : Nat)

/-- The thermal term of a sensor in 16ths. -/
def termOf (s : State) (n : Nat) : Nat := SMap.get 0 s.heat.terms n

/-- The thermal term of a sensor moves once with a sample of its die. -/
def moveTerm (s : State) (n : Nat) : State :=
  let put (s : State) (v : Nat) : State := { s with heat := { s.heat with terms := SMap.set 0 s.heat.terms n v } }
  if tempOf s n ≥ throttleAt s then
    (if termOf s n < 15 then addSat (put s (termOf s n + 1)) oTHMEVT 31 0 1 else s)
  else if tempOf s n < throttleAt s - hystAt s then put s (termOf s n - 1)
  else s

/-- The shelf sensors whose term applies to region (rx, ry) (Table 12.5): sensor j lies beneath slices 2j and 2j + 1. -/
def shelfSensors (diag : Bool) (k : Nat) : List Nat :=
  (List.range 8).filter (fun j =>
    !diag || [2 * j, 2 * j + 1].any (fun sl => k % 4 == (sl % 4 + 3) % 4 && k / 4 == (sl / 4 + 3) % 4))

/-- The region group of region (rx, ry) (R158). -/
def regionGroup (k : Nat) : Nat := (k % 4 + k / 4) % 4

/-- The effective duty of region k = 4 ry + rx of stack st: the largest term of Table 12.5. -/
def regionDuty (s : State) (st k : Nat) : Nat :=
  let crest := termOf s (16 * st + k)
  let shelf := (shelfSensors (regB s (oSHFSTAT st) 4) k).foldl (fun d j => max d (termOf s (192 + 8 * st + j))) 0
  let io := (List.range (4 * ioDies s.asm)).foldl (fun d i => max d (termOf s (288 + i))) 0
  let brown := if regB s oPWRSTAT 24 then regF s oPWRCFG 35 32 else 0
  let ph := if regB s oTHMCFG 20 && regionGroup k != regF s oTHMPHASE (2 * st + 1) (2 * st) then regF s oTHMCFG 27 24 else 0
  let restr := if regB s oTHMSTAT 63 then 8 else 0
  [shelf, io, powerDuty s, brown, ph, restr].foldl max crest

/-! ### Samples -/

/-- One sensor of a sample: a broken one keeps 115 °C, an out-of-range code waits for its resample. -/
def sampleSensor (s : State) (n : Nat) (c : Option Int) : State :=
  match c with
  | some v =>
    if sensorBroken s n then s
    else { setTemp s n (v + calOf s n) with heat := { s.heat with suspect := s.heat.suspect.filter (· != n) } }
  | none =>
    if sensorBroken s n || s.heat.suspect.contains n then s
    else { s with heat := { s.heat with suspect := s.heat.suspect ++ [n] } }

/-- Trip if sensor n reads 115 °C or more. -/
def tripCheck (s : State) (n : Nat) : State := if tempOf s n ≥ 460 then trip s 1 n (tempOf s n) else s

/-- THERMAL_SAMPLE (R319, R320, R322, R325): the codes of a die's sensors, before calibration, in 0.25 °C; `none` is an
out-of-range code. -/
def execThermalSample (unit : Nat) (codes : List (Option Int)) (s : State) : Host.Outcome State Fault Refusal :=
  match dieSensors s.asm unit with
  | none => .next s
  | some (b, k) =>
    if !s.power.aon || codes.length != k then .next s
    else
      let s := ((List.range k).zip codes).foldl (fun s e => sampleSensor s (b + e.1) e.2) s
      let s := (List.range k).foldl (fun s i => moveTerm s (b + i)) s
      .next ((List.range k).foldl (fun s i => tripCheck s (b + i)) s)

/-- SENSOR_RESAMPLE (R319, R325): 10 µs later a suspect sensor reads again, or is broken. -/
def execSensorResample (n : Nat) (code : Option Int) (s : State) : Host.Outcome State Fault Refusal :=
  if !s.heat.suspect.contains n then .next s
  else
    let s := { s with heat := { s.heat with suspect := s.heat.suspect.filter (· != n) } }
    match code with
    | some v => .next (tripCheck (setTemp s n (v + calOf s n)) n)
    | none => .next (tripCheck (breakSensor s n) n)

/-- HBM_TEMP_SAMPLE (R188, R318, R324, R325): the stack's reading in °C with its own throttle limit and maximum. Whether
refresh runs at twice the rate follows from STEMP and MEM_CFG.REFX2T. -/
def execHbmTempSample (ctrl : Nat) (degC limit maximum : Int) (s : State) : Host.Outcome State Fault Refusal :=
  if !s.power.aon || !(ctrlList s.asm).contains ctrl then .next s
  else
    let s := setTemp (setF s (oMEMSTAT ctrl) 63 56 (twos 8 degC)) (304 + ctrl) (4 * degC)
    let s := updCtrl s ctrl (fun c => { c with halfRate := if degC ≥ limit then true else if degC ≤ limit - 2 then false else c.halfRate })
    .next (if degC ≥ maximum then trip s 2 (304 + ctrl) (4 * degC) else s)

/-- Does the controller refresh at twice the rate (R188)? -/
def doubleRefresh (s : State) (i : Nat) : Bool := sext 8 (regF s (oMEMSTAT i) 63 56) ≥ (regF s (oMEMCFG i) 15 8 : Int)

/-- A clear (R326, R328): restricted mode ends when the flash record can be cleared, with what the event cells still hold of
it; otherwise the clear is refused as a whole. -/
def clearRecord (s : State) : State :=
  if flashWindow s then
    let s := { s with head := { s.head with flash := { s.head.flash with recValid := none } }, power := { s.power with cells := [] } }
    setF (setF s oTHMREC 63 63 0) oTHMSTAT 63 63 0
  else addSat s oTHMEVT 63 48 1

/-- THM_CLEAR (R326, R367): while Headland is in reset the flash write waits for its return. -/
def execThmClear (fn : Nat) (s : State) : Host.Outcome State Fault Refusal :=
  if fn != 0 || !canWrite s fn (0x40_0018) || !regB s oTHMSTAT 63 then .next s
  else if s.head.inReset then .next { s with head := { s.head with clearDue := true } }
  else .next (clearRecord s)

end Sys2Proof.Machine
end

