-- ==== Sys2Proof/Machine/Integrity.lean ====
section
/-! DEFINITION. Scrubbing (R336 to R338), in-service BIST (R344 to R346), and the leak of the error buckets (R334). -/

namespace Sys2Proof.Machine

/-! ### What a scrub finds (Table 13.3) -/

/-- A record of a scrub summary: address, kind, symbols or bit, place, syndrome bytes. -/
structure ScrubRec where
  addr  : Nat
  kind  : Nat
  nsym  : Nat
  place : Nat
  synd  : List Nat
  deriving DecidableEq, Repr

/-- The summary as it grows: words read, corrected, uncorrectable, poisoned, and the first eight errors. -/
structure ScrubSum where
  words  : Nat
  corr   : Nat
  uncorr : Nat
  poison : Nat
  recs   : List ScrubRec
  deriving DecidableEq, Repr

def ScrubSum.zero : ScrubSum := ⟨0, 0, 0, 0, []⟩

/-- Count one word with what was found in it: 0 nothing, 1 corrected, 2 uncorrectable, 3 poisoned. -/
def ScrubSum.add (x : ScrubSum) (r : ScrubRec) : ScrubSum :=
  { words := x.words + 1
    corr := x.corr + b2n (r.kind == 1)
    uncorr := x.uncorr + b2n (r.kind == 2)
    poison := x.poison + b2n (r.kind == 3)
    recs := if r.kind != 0 && x.recs.length < 8 then x.recs ++ [r] else x.recs }

/-- The 32 bytes of a record. -/
def ScrubRec.bytes (r : ScrubRec) : List Byte :=
  leBytes 8 r.addr ++ leBytes 1 r.kind ++ leBytes 1 r.nsym ++ leBytes 2 r.place ++ leBytes 4 0 ++
    ((List.range 8).flatMap (fun i => leBytes 1 (r.synd.getD i 0))) ++ leBytes 8 0

/-- The 320 bytes of a summary; `column` is the number of column faults classified during the scrub. -/
def ScrubSum.bytes (x : ScrubSum) (column : Nat) : List Byte :=
  leBytes 8 x.words ++ leBytes 4 x.corr ++ leBytes 4 x.uncorr ++ leBytes 4 x.poison ++ leBytes 4 column ++ leBytes 40 0 ++
    (List.range 8).flatMap (fun i => match x.recs[i]? with
      | some r => r.bytes
      | none => leBytes 32 0)

/-! ### Scrubbing HBM and the shelf (R336) -/

/-- Scrub one codeword: read with a forced correcting write. -/
def scrubCw (r : State × ScrubSum) (cw : Nat) : State × ScrubSum :=
  let pat := cwErr r.1 cw
  let x := cwRead r.1 cw true
  let kind := match x.2.2 with
    | .clean => 0
    | .corrected _ _ => 1
    | .uncorr => 2
    | .poisoned => 3
  let nsym := match x.2.2 with
    | .corrected l _ => l.length
    | _ => 0
  (x.1, r.2.add ⟨64 * cw, kind, nsym, pchOf r.1.asm (64 * cw), if kind = 0 then [] else rsSyndrome pat⟩)

/-- Scrub one granule, after the requests to it that were accepted before (R338). -/
def scrubGran (r : State × ScrubSum) (gran : Nat) : State × ScrubSum :=
  (List.range 4).foldl (fun r k => scrubCw r (4 * gran + k)) (addFlushGran (settleGran r.1 gran) gran, r.2)

/-- Scrub ECC word w of sector j of the line at a key. -/
def scrubWord (st k key j sec : Nat) (r : State × ScrubSum) (w : Nat) : State × ScrubSum :=
  let sy := syndrome 128 (SMap.get 0 (getSec r.1 st k key j).err w).toNat
  let x := wordCheck r.1 st k key j w (256 * sec)
  let kp := match x.2 with
    | .clean => (0, 0)
    | .fixed p => (1, p)
    | .bad => (2, 0)
  (x.1, r.2.add ⟨256 * sec + 16 * w, kp.1, kp.2, 16 * st + k, if kp.1 = 0 then [] else [sy % 256, sy / 256]⟩)

/-- Scrub sector j of a line that has a valid byte. -/
def scrubSec (st k key j : Nat) (r : State × ScrubSum) : State × ScrubSum :=
  if (getSec r.1 st k key j).valid = 0 then r
  else
    let sec := (lineAt (sliceOf r.1 st k) key).lam * 8 + j
    (List.range 16).foldl (scrubWord st k key j sec) r

/-- Scrub one sector of an HBM range in the slice that holds it; a set under test makes it wait (R345). -/
def scrubShelfSec (r : State × ScrubSum) (sec : Nat) : State × ScrubSum :=
  match homeOf r.1 (256 * sec) with
  | none => r
  | some (st, k) =>
    let r : State × ScrubSum := if setInBist r.1 st k (lineSet (sec / 8)) then ({ r.1 with stalled := true }, r.2) else r
    match keyOf r.1 st k (sec / 8) with
    | none => r
    | some key => scrubSec st k key (sec % 8) r

/-- Is a SCRUB entry valid (R292, R336)? -/
def scrubEntryOk (s : State) (p : Nat) (e : List Byte) : Bool :=
  let a := eNat e 16 6
  let n := eNat e 24 8
  flagsOk e && restZero e [(0, 22), (24, 33), (40, 46)] && a % 256 == 0 && n % 256 == 0 && eNat e 32 1 ≤ 1 && ownsRange s p a n

/-- SCRUB (R336). -/
def execScrub (part sq : Nat) (s : State) : Host.Outcome State Fault Refusal :=
  .next (starting 4 s part sq (fun s c =>
    let e := c.entry
    if !scrubEntryOk s part e then complete s part c.id 4 0
    else
      let g0 := eNat e 16 6 / 256
      let n := eNat e 24 8 / 256
      let col := s.ras.columns
      let one (r : State × ScrubSum) (i : Nat) : State × ScrubSum :=
        let r := (pass r.1 part 5, r.2)
        if eNat e 32 1 = 0 then scrubGran r (g0 + i) else scrubShelfSec r (g0 + i)
      let r := (List.range n).foldl one (s, ScrubSum.zero)
      let w := devWrite r.1 (scanWho part) (eNat e 40 6) (r.2.bytes (r.1.ras.columns - col))
      complete w.1 part c.id (if w.2.st = .ok then 0 else readStatus w.2) 0))

/-! ### Scrub slices (R337) -/

/-- A SCRUB_SLICE firing for engine e and range slot k: ignored where the unit has no engine or the slot is not enabled,
skipped while the engine's previous slice runs. -/
def scrubStart (s : State) (e k : Nat) : State :=
  if !(unitFitted s.asm e && 16 ≤ e && e < 40 && k < 4 && regB s (oSCRA e k) 63) then s
  else if s.ras.scrubs.any (fun x => x.1 == e) then addSat s oBISTSTAT 15 0 1
  else { s with ras := { s.ras with scrubs := s.ras.scrubs ++ [(e, k)] } }

/-- One set of all 16 slices of a stack. -/
def scrubSet (st set : Nat) (r : State × ScrubSum) : State × ScrubSum :=
  (List.range 16).foldl (fun r k =>
    let r : State × ScrubSum := if setInBist r.1 st k set then ({ r.1 with stalled := true }, r.2) else r
    (List.range 16).foldl (fun r w =>
      (List.range 8).foldl (fun r j => scrubSec st k (set * 16 + w) j r) r) r) r

/-- One unit of a range: a granule that lies at the engine's own controller, or a shelf set. -/
def scrubUnit (e base : Nat) (r : State × ScrubSum) (i : Nat) : State × ScrubSum :=
  let r := (pass r.1 8 5, r.2)
  if e < 32 then (if base + i < 3072 then scrubSet (e - 16) (base + i) r else r)
  else if base + i < hbmGiB r.1.asm * 2 ^ 22 && (ctrlAt r.1.asm ((base + i) * 256)).1 = e - 32 then scrubGran r (base + i)
  else r

/-- SCRUB_SLICE_END (R337): `done` units were scrubbed (at most PER) before the slice finished or stopped at 200 µs. -/
def execScrubSliceEnd (engine done : Nat) (s₀ : State) : Host.Outcome State Fault Refusal :=
  let s := s₀
  match s.ras.scrubs.find? (fun x => x.1 == engine) with
  | none => .next s
  | some (e, k) =>
    let s := { s with ras := { s.ras with scrubs := s.ras.scrubs.filter (fun x => x.1 != e) } }
    let len := regF s (oSCRB e k) 63 40
    if len = 0 then .next s
    else
      let n := min done (regF s (oSCRB e k) 15 0)
      let c := regF s (oSCRB e k) 39 16
      let s := ((List.range n).foldl (fun r i => scrubUnit e (regF s (oSCRA e k) 39 0) r ((c + i) % len)) (s, ScrubSum.zero)).1
      .next (whole s₀ (setF s (oSCRB e k) 39 16 ((c + n) % len)))

/-! ### BIST slices (R344 to R346) -/

/-- The number of elements of a unit for a test kind (Table 13.5); 0 where the unit has none. -/
def bistCount (asm : Assembly) (u kind : Nat) : Nat :=
  if !unitFitted asm u then 0
  else
    let crest := u < 12
    let shelf := 16 ≤ u && u < 28
    let io := 96 ≤ u && u < 100
    match kind with
    | 0 => if crest then 204 * 16 else if shelf then 16 * 3072 else if io then max 1 (Config.bistElements u 0) else 0
    | 1 => if crest then 204 * 5 else 0
    | 2 => if 48 ≤ u && u < 96 then 4 else if u = 100 then 16 else 0
    | 3 => if crest || io || (32 ≤ u && u < 40) then max 1 (Config.bistElements u 3) else 0
    | 4 => if crest then 16 else if shelf then 8 else if io then 4 else 0
    | 5 => if u = 101 then max 1 (Config.bistElements u 5) else 0
    | _ => 0

/-- Is a DMA transfer with the memory of tile t in progress: a started push that reads it? A pull is answered into HBM alone
(R271), and every other access to a tile window is over within its step. -/
def dmaBusy (s : State) (t : Nat) : Bool :=
  s.surf.outs.any (fun x => x.started && !x.pull && x.data == [] && (match decodeAddr s.asm x.src with
    | .window u _ => u == t
    | _ => false))

/-- Does an ATTN_BATCH run on tile t? -/
def batchOn (s : State) (t : Nat) : Bool := s.parts.any (fun e => e.2.cmds.any (fun c => eOp c.entry == 3 && (entryRect c.entry 24).contains t))

/-- Is an element busy (Table 13.5)? -/
def elemBusy (s : State) (u kind e : Nat) : Bool :=
  if 12 ≤ u then false
  else match if kind ≤ 1 then tileAtPhys s u (elemTile kind e) else none with
    | none => false
    | some t =>
      let x := tileOf s t
      if kind = 0 then slots8.any (fun g => (grp s t g).live) || x.att.any (fun c => !c.isFinal) || batchOn s t || dmaBusy s t
      else if e % 5 = 4 then x.att.any (fun c => !c.isFinal) || batchOn s t
      else (arr s t (e % 5)).owner.isSome

/-- A BIST_SLICE firing for a unit and kind: ignored where the unit has no such test, skipped while a slice of the unit
runs, waiting while its element is busy. -/
def bistStart (s : State) (u kind : Nat) : State :=
  if bistCount s.asm u kind = 0 then s
  else if s.ras.bists.any (fun b => b.unit == u) then addSat s oBISTSTAT 15 0 1
  else
    let e := SMap.get 0 s.ras.cursors (u * 8 + kind)
    let busy := elemBusy s u kind e
    let s := { s with ras := { s.ras with bists := s.ras.bists ++ [⟨u, kind, e, busy, []⟩] } }
    if busy then s else elemStart s u kind e

/-- The cursor moves to the next element. -/
def bistAdvance (s : State) (b : BistRun) : State :=
  let n := bistCount s.asm b.unit b.kind
  { s with ras := { s.ras with cursors := SMap.set 0 s.ras.cursors (b.unit * 8 + b.kind) ((b.elem + 1) % max 1 n) } }

/-- The place of an element as a Shoal entry names it: the row and column kinds, the place, and the unit's die. -/
def elemPlace (b : BistRun) : Nat × Nat × Nat × Nat :=
  if b.unit < 12 then (3, 4, b.elem, b.unit) else (1, 2, b.elem / 3072 * 4096 + b.elem % 3072, b.unit - 16)

/-- The effects of a failed slice by kind (R346). Monitor ADC n is that of rail n (DESIGN CHOICE,
notes/assumptions/54.md). -/
def bistEffect (s : State) (b : BistRun) : State :=
  match b.kind with
  | 1 => logFree s
  | 2 => if 48 ≤ b.unit && b.unit < 96 then leaveUp s (b.unit - 48) else s
  | 4 => match dieSensors s.asm b.unit with
    | some (n, _) => tripCheck (breakSensor s (n + b.elem)) (n + b.elem)
    | none => s
  | 5 => { s with power := { s.power with pmRails := s.power.pmRails ||| 1#5 <<< b.elem } }
  | _ => s

/-- A failed slice is recorded, and has its effect. -/
def bistFail (s : State) (b : BistRun) (detail : Nat) : State := bistEffect (bistFailed s b.unit b.kind b.elem detail) b

/-- Repair of a broken column or row of a kind 0 element from its spares (R341, R346); without a spare the slice has
failed, and DETAIL names the row in [31:16] and the column in [15:0] (notes/assumptions/54.md). -/
def bistRepair (s : State) (b : BistRun) (column : Bool) (row col : Nat) : State :=
  let (rowKind, colKind, place, die) := elemPlace b
  let repaired : State × Bool :=
    if column then spareColumn s colKind die place col b.unit
    else
      let n := sparesUsed s rowKind die place
      if n < 4 then (addOverlay s (shoalEntry rowKind die place row n), true) else (addSat s oCLSEVT 31 16 1, false)
  if repaired.2 then repaired.1 else bistFail repaired.1 b (row % 2 ^ 16 * 2 ^ 16 + col % 2 ^ 16)

/-- A waiting slice starts once its element is free. -/
def bistBegin (s : State) (b : BistRun) : State := if b.waits then elemStart s b.unit b.kind b.elem else s

/-- BIST_SLICE_END (R344 to R346): the running slice of a unit ends. A waiting slice ends only once its element is free;
it then runs whole. -/
def execBistSliceEnd (unit : Nat) (res : BistResult) (s : State) : Host.Outcome State Fault Refusal :=
  match s.ras.bists.find? (fun b => b.unit == unit) with
  | none => .next s
  | some b =>
    if b.waits && elemBusy s unit b.kind b.elem then .next s
    else
      let s := { s with ras := { s.ras with bists := s.ras.bists.filter (fun c => c.unit != unit) } }
      let s := bistRan (bistBegin s b)
      let b : BistRun := { b with waits := false }
      match res with
      | .over => .next (addSat (sliceEnd s b) oBISTSTAT 31 16 1)
      | .pass => .next (bistAdvance (sliceEnd s b) b)
      | .column r c => .next (bistAdvance (sliceEnd (if b.kind = 0 then bistRepair s b true r c else s) b) b)
      | .row r c => .next (bistAdvance (sliceEnd (if b.kind = 0 then bistRepair s b false r c else s) b) b)
      | .fail d => .next (bistAdvance (sliceEnd (bistFail s b d.toNat) b) b)

/-- BIST_WAIT_TIMEOUT (R344): 50 µs have passed. The element stayed busy, and the firing is skipped; or it has become free, and
the slice runs from now on. -/
def execBistWaitTimeout (unit : Nat) (s : State) : Host.Outcome State Fault Refusal :=
  match s.ras.bists.find? (fun b => b.unit == unit) with
  | none => .next s
  | some b =>
    if b.waits && elemBusy s unit b.kind b.elem then
      .next (addSat { s with ras := { s.ras with bists := s.ras.bists.filter (fun c => c.unit != unit) } } oBISTSTAT 15 0 1)
    else .next (bistBegin { s with ras := { s.ras with bists := updWhere (fun c => c.unit == unit) (fun c => { c with waits := false }) s.ras.bists } } b)

/-! ### Buckets (R334) -/

/-- BUCKET_LEAK: every nonzero COUNT falls by 1. -/
def execBucketLeak (s : State) : Host.Outcome State Fault Refusal :=
  .next ((List.range 128).foldl (fun s u => if unitFitted s.asm u then setF s (oLB u) 15 0 (regF s (oLB u) 15 0 - 1) else s) s)

end Sys2Proof.Machine
end

