-- ==== Sys2Proof/Machine/CommitApply.lean ====
section
/-! DEFINITION. The application of configuration commits (R180, R254 to R256, R277, R286): staged RL fields, and what each
changed register does at the boundary. -/

namespace Sys2Proof.Machine

/-- A register's value with the RL fields of `v` staged into `old` (R10, R295). -/
def stageRL (asm : Assembly) (o : Nat) (old v : DWord) : DWord :=
  match regDesc asm o with
  | none => old
  | some d => d.fields.foldl (fun r f => if f.2.2 = .rl then setFld r f.1 f.2.1 (fld v f.1 f.2.1) else r) old

/-- The registers after some records. -/
def putRecs (s : State) (rs : List (Nat × DWord)) : State :=
  rs.foldl (fun s r => setReg s r.1 (stageRL s.asm r.1 (reg s r.1) r.2)) s

/-- The tide-table entry that a BAR0 offset belongs to. -/
def entryAt (o : Nat) : Option Nat := if 0x20_1000 ≤ o && o < 0x20_1000 + 248 * 16 then some ((o - 0x20_1000) / 16) else none

/-! ### Ports (R259, R274, R277) -/

/-- Do records change MODE or PHY of a port, or anything of its LNK_CFG? -/
def portChanges (s0 s1 : State) (p : Nat) : Bool × Bool :=
  let a := reg s0 (oLNKCFG p)
  let b := reg s1 (oLNKCFG p)
  (fld a 1 0 != fld b 1 0 || bit a.toNat 3 != bit b.toNat 3, a != b)

/-- Port p at a boundary that changes its LNK_CFG from that of `s0`: a change of MODE or PHY retrains it, OFF follows the
mode, MISWIRED is left by any change. OUT stays. -/
def portApply (s0 s : State) (p : Nat) : State :=
  let c := portChanges s0 s p
  let st := portState s p
  if !c.2 || st = 5 then s
  else if c.1 then
    let s := updPort s p (fun y => { y with spaces := [], ctl := [] })
    if portMode s p = 0 then setPort6 s p 0 else if st = 0 || st = 1 || st = 4 then enterTrain s p else s
  else if st = 4 then enterTrain s p
  else s

/-- Before the boundary a port that is UP and whose MODE or PHY changes leaves UP under its old configuration. -/
def portLeave (s1 s : State) (p : Nat) : State := if (portChanges s s1 p).1 then leaveUp s p else s

/-! ### Shelves (R179, R180) -/

/-- The slices that a boundary newly retires start their flush. -/
def shelfApply (s0 s : State) (st : Nat) : State :=
  let new := fld (reg s (oSHFCFG st)) 63 48
  let old := fld (reg s0 (oSHFCFG st)) 63 48
  let ks := (List.range 16).filter (fun k => bit new k && !bit old k)
  if ks = [] then s
  else
    let s := setF (setF s (oSHFSTAT st) 63 48 (fld (reg s (oSHFSTAT st)) 63 48 ||| new)) (oSHFSTAT st) 3 3 1
    ks.foldl (fun s k => updSlice s st k (fun x => { x with retiring := true })) s

/-! ### Partitions (R286, R371) -/

/-- The outgoing transfers of a partition in reset are dropped with their frames that were not sent. -/
def dropOuts (s : State) (p : Nat) : State :=
  (s.surf.outs.filter (fun x => x.part == p)).foldl (fun s x =>
    dropFrames { s with surf := { s.surf with outs := s.surf.outs.filter (fun y => y.id != x.id) } } x.id) s

/-- The clearing of partition p with its transfers. -/
def clearPartition (s : State) (p : Nat) : State := dropOuts (clearPart s p) p

/-- A function level reset or a change of the entry ends the partition's replay. -/
def endReplay (s : State) (p : Nat) : State :=
  let s := updPart s p (fun x => { x with replay := none, quarantine := false })
  { s with head := { s.head with replays := s.head.replays.filter (fun q => q != p) } }

/-- Does the partition's entry change? -/
def partChanges (s0 s1 : State) (p : Nat) : Bool :=
  reg s0 (oPTABA p) != reg s1 (oPTABA p) || reg s0 (oPTABB p) != reg s1 (oPTABB p)

/-- A partition whose entry changes is reset: the units it had are cleared under the old entry ... -/
def partLeave (s1 s : State) (p : Nat) : State := if partChanges s s1 p && partValid s p then clearPartition (endReplay s p) p else s

/-- ... and those it has now under the new one; it is STOPPED when the reset is done, or OFF. -/
def partEnter (s0 s : State) (p : Nat) : State :=
  if partChanges s0 s p then
    let s := setPState (clearPartition (endReplay s p) p) p (if partValid s p then pState s p else 0)
    enterReset s (.part p)
  else s

/-! ### Applying -/

/-- The generations after a boundary that began with `s0`: a domain that it reset once or more has its next one (R226). -/
def onceGens (s0 s : State) : State :=
  { s with gens := s.gens.map (fun e => if e.2 = genOf s0 e.1 then e else (e.1, genOf s0 e.1 + 1)) }

/-- STEP_OUT is high in the first 64 ticks of a reported step while SOEN is 1 (Table 9.3, R257). -/
def refreshOut (s : State) : State :=
  { s with tg := { s.tg with stepOut := s.power.aon && regB s oTGCFG 50 && decide (nowTick s < 64) } }

/-- Write records and do what they bring about: nobody sees part of them. -/
def applyRecs (s : State) (rs : List (Nat × DWord)) : State :=
  let goal := putRecs s rs
  let parts := List.range (totalVFs s.asm)
  let ports := List.range (surfPorts s.asm)
  let s0 := s
  let s := ports.foldl (portLeave goal) s
  let s := parts.foldl (partLeave goal) s
  let s := putRecs s rs
  let s := onceGens s0 (parts.foldl (partEnter s0) s)
  let s := (List.range (crests s.asm)).foldl (shelfApply s0) s
  let s := ports.foldl (portApply s0) s
  let s := { s with tg := { s.tg with fired := (rs.filterMap (fun r => entryAt r.1)).foldl (fun m n => SMap.set 0 m n 0) s.tg.fired } }
  refreshOut (refreshSlotted s)

/-- The registers of commit slot j: status and the COMMIT_APPLY entry. -/
def putCmtst (s : State) (j result epoch step : Nat) : State :=
  setReg s (oCMTST j) (BitVec.ofNat 64 (result % 16 * 2 ^ 60 + epoch % 16 * 2 ^ 56 + step % 2 ^ 52))
def putSlotEntry (s : State) (j step : Nat) : State :=
  setReg s (oENTA (248 + j)) (BitVec.ofNat 64 (2 ^ 63 + 6 * 2 ^ 56 + step % 2 ^ 52)) |> fun s =>
  setReg s (oENTB (248 + j)) (BitVec.ofNat 64 (j * 2 ^ 8))

/-- The command of a commit completes, and its result is signalled (Table 11.3). The result of a command that has ended
before is in TG_CMTST only (R374). -/
def reportCommit (s : State) (p id status detail : Nat) : State :=
  match cmdOf s p id with
  | none => s
  | some m =>
    let s := complete s p id status detail
    if p = 8 then (if bit (eFlags m.entry) 0 then s else pfIrq s 9) else partIrq s p 51

/-- The commits that are due now. -/
def dueCommits (s : State) : List Commit := s.tg.commits.filter (fun c => c.step ≤ nowStep s)

/-- Does an edge still hold transactions of the epoch before the current one (R255)? -/
def epochBusy (s : State) : Bool := s.txns.any (fun x => x.epoch == epochNow s - 1)

/-- Would the application reset a partition whose reset must wait for a generation's counter (R228), under the entry it has
or the one it gets? Time does not wait for it, so the application is put off as under R255 (notes/assumptions/85.md). -/
def resetWaits (s : State) (rs : List (Nat × DWord)) : Bool :=
  let goal := putRecs s rs
  (List.range (totalVFs s.asm)).any (fun p => partChanges s goal p &&
    ((partValid s p && genBusy s (.part p)) || (partValid goal p && genBusy goal (.part p))))

/-- Is the application of some commits put off? -/
def mustDefer (s : State) (due : List Commit) : Bool := epochBusy s || resetWaits s (due.flatMap (·.recs))

/-- Put the application off to the next boundary (R255). -/
def deferCommits (s : State) : State :=
  let next := nowStep s + 1
  let due := dueCommits s
  let s := addSat s oTGCMT 47 32 1
  let s := due.foldl (fun s c => putSlotEntry s c.slot next) s
  { s with tg := { s.tg with commits := s.tg.commits.map (fun c => if due.contains c then { c with step := next } else c) } }

/-- The registers that may differ between two epochs: those of the records, and what the shelves retire with them. -/
def epochRegs (s : State) (rs : List (Nat × DWord)) : List Nat :=
  (rs.map (·.1) ++ (List.range (crests s.asm)).map oSHFSTAT).eraseDups

/-- The values of the epoch before `s`, kept for the requests that carry it (R255). -/
def keepEpoch (s0 s : State) (rs : List (Nat × DWord)) : State :=
  { s with prevCfg := ((epochRegs s0 rs).filter (fun o => reg s0 o != reg s o)).map (fun o => (o, reg s0 o)) }

/-- Take commits off the list of those that wait. -/
def takeCommits (s : State) (cs : List Commit) : State :=
  { s with tg := { s.tg with commits := s.tg.commits.filter (fun c => !cs.contains c) } }

/-- The next epoch is entered with the commits `due`, whose records stand in the registers now (R254); `s0` is the machine
before them. -/
def enterEpoch (s0 s : State) (due : List Commit) : State :=
  let e := (epochNow s0 + 1).toNat
  due.foldl (fun s c =>
    let s := setF (putCmtst s c.slot 2 e (nowStep s)) oTGCMT c.slot c.slot 0
    let s := setF s (oENTA (248 + c.slot)) 63 63 0
    reportCommit s c.part c.cmd 0 (2 + 16 * c.slot)) (keepEpoch s0 (setF s oTGCMT 51 48 e) (due.flatMap (·.recs)))

/-- Apply every commit that is due, in the order in which they were sealed, and enter the next epoch (R254). -/
def applyCommits (s : State) : State :=
  let due := dueCommits s
  enterEpoch s (applyRecs (takeCommits s due) (due.flatMap (·.recs))) due

end Sys2Proof.Machine
end

