-- ==== Sys2Proof/Machine/TideTable.lean ====
section
/-! DEFINITION. The tide table (R246 to R252): firings, their order, notices, passed-over firings, and the actions. -/

namespace Sys2Proof.Machine

/-! ### Entries (Tables 9.5, 9.6) -/

def entValid (s : State) (n : Nat) : Bool := regB s (oENTA n) 63
def entQreq (s : State) (n : Nat) : Bool := regB s (oENTA n) 62
def entAct (s : State) (n : Nat) : Nat := regF s (oENTA n) 59 56
def entStart (s : State) (n : Nat) : Nat := regF s (oENTA n) 51 0
def entCount (s : State) (n : Nat) : Nat := regF s (oENTB n) 63 48
def entRepeat (s : State) (n : Nat) : Nat := regF s (oENTB n) 47 36
def entTick (s : State) (n : Nat) : Nat := regF s (oENTB n) 35 24
def entTarget (s : State) (n : Nat) : Nat := regF s (oENTB n) 23 8
def entArg (s : State) (n : Nat) : Nat := regF s (oENTB n) 7 0

/-- TG_STAT.SLOTOK. -/
def slotOk (s : State) : Bool := regB s oTGSTAT 7

/-- TG_LNCFG.LEAD. -/
def noticeLead (s : State) : Nat := regF s oTGLNCFG 11 0

/-- Is a step one of the entry's firings (R247)? -/
def firesAt (s : State) (n step : Nat) : Bool :=
  entValid s n && entStart s n ≤ step &&
    (if entRepeat s n = 0 then step == entStart s n else (step - entStart s n) % entRepeat s n == 0)

/-- The first step whose firing the entry has not handled. -/
def unhandled (s : State) (n : Nat) : Nat := SMap.get 0 s.tg.fired n

/-- The step of the firing of entry n that is due at this tick: for a load notice its drive time counts (R251). -/
def dueStep (s : State) (n : Nat) : Option Nat :=
  if 248 ≤ n || !s.power.aon then none
  else if entAct s n = 3 then
    let f := nowTicks s + noticeLead s
    if f % 4096 = entTick s n ∧ firesAt s n (f / 4096) = true ∧ unhandled s n ≤ f / 4096 then some (f / 4096) else none
  else if entAct s n = 6 ∨ 10 ≤ entAct s n then none
  else if nowTick s = entTick s n ∧ firesAt s n (nowStep s) = true ∧ unhandled s n ≤ nowStep s then some (nowStep s)
  else none

/-- Does any entry of 0 to 247 await its firing at this tick? -/
def anyDue (s : State) : Bool := (List.range 248).any (fun n => (dueStep s n).isSome)

/-- Is a commit due at tick 0 of this step (R249)? -/
def commitDue (s : State) : Bool := nowTick s == 0 && dueCommits s != []

/-- The firing of entry n that comes next: commits come first, then entries in ascending order (R249). -/
def turnOf (s : State) (n : Nat) : Option Nat :=
  if commitDue s || (List.range n).any (fun m => (dueStep s m).isSome) then none else dueStep s n

/-- Spend m firings of an entry, the last at a step: COUNT falls, VALID is cleared after the last firing. -/
def spend (s : State) (n m last : Nat) : State :=
  let c := entCount s n
  let done := entRepeat s n == 0 || (c != 0 && c ≤ m)
  let s := setF s (oENTB n) 63 48 (c - m)
  if done then { setF s (oENTA n) 63 63 0 with tg := { s.tg with fired := SMap.set 0 s.tg.fired n 0 } }
  else { s with tg := { s.tg with fired := SMap.set 0 s.tg.fired n (last + 1) } }

/-- Record m skipped firings. -/
def skipFirings (s : State) (m : Nat) : State := addSat s oTGEVT 47 32 m

/-- Is the firing skipped because QREQ asks for good time? -/
def qSkip (s : State) (n : Nat) : Bool := entQreq s n && !slotOk s

/-! ### Actions (Table 9.2) -/

/-- SLOT_OPEN (R268). -/
def slotOpenAct (s : State) (n : Nat) : State :=
  let p := entTarget s n % 64
  let k := entArg s n
  if p ≥ surfPorts s.asm then s
  else if k ≥ 16 then addSat s (oLNKEVT p) 15 0 1
  else updPort (setF (setF s (oLNKSTAT p) 35 32 k) (oLNKSTAT p) 31 31 1) p (fun y => { y with slotAt := nowTicks s })

/-- SLOT_CLOSE (R268): it closes slot ARG if that slot is open. -/
def slotCloseAct (s : State) (n : Nat) : State :=
  let p := entTarget s n % 64
  let k := entArg s n
  if p ≥ surfPorts s.asm then s
  else if k ≥ 16 then addSat s (oLNKEVT p) 15 0 1
  else if regB s (oLNKSTAT p) 31 && regF s (oLNKSTAT p) 35 32 == k then setF s (oLNKSTAT p) 31 31 0 else s

/-- CUP_OPEN and CUP_CLOSE (R58). -/
def cupAct (s : State) (n : Nat) (opens : Bool) : State :=
  let m := BitVec.ofNat 8 (entTarget s n)
  { s with tg := { s.tg with cupOpen := if opens then s.tg.cupOpen ||| m else s.tg.cupOpen &&& ~~~ m } }

/-- PHASE (R252, R323). -/
def phaseAct (s : State) (n : Nat) : State :=
  (List.range (crests s.asm)).foldl (fun s st =>
    if bit (entTarget s n) st then setF s oTHMPHASE (2 * st + 1) (2 * st) (entArg s n % 4) else s) s

/-- The action of an entry whose target keeps what the last firing set. -/
def stateAct (s : State) (n : Nat) : State :=
  match entAct s n with
  | 1 => slotOpenAct s n
  | 2 => slotCloseAct s n
  | 7 => cupAct s n true
  | 8 => cupAct s n false
  | 9 => phaseAct s n
  | _ => s

/-! ### Firing -/

/-- Entry n fires with action `act` if its turn has come; with `q` the firing is skipped when QREQ asks for good time. -/
def fire (act n : Nat) (q : Bool) (body : State → State) (s : State) : State :=
  match turnOf s n with
  | none => s
  | some st =>
    if entAct s n = act then (if q && qSkip s n then skipFirings (spend s n 1 st) 1 else spend (body s) n 1 st) else s

/-- SLOT_OPEN. -/
def execSlotOpen (n : Nat) (s : State) : Host.Outcome State Fault Refusal := .next (fire 1 n false (fun s => slotOpenAct s n) s)

/-- SLOT_CLOSE. -/
def execSlotClose (n : Nat) (s : State) : Host.Outcome State Fault Refusal := .next (fire 2 n false (fun s => slotCloseAct s n) s)

/-- NONE (R247): only COUNT and VALID move. -/
def execNone (n : Nat) (s : State) : Host.Outcome State Fault Refusal := .next (fire 0 n false id s)

/-- CUP_OPEN. -/
def execCupOpen (n : Nat) (s : State) : Host.Outcome State Fault Refusal := .next (fire 7 n true (fun s => cupAct s n true) s)

/-- CUP_CLOSE. -/
def execCupClose (n : Nat) (s : State) : Host.Outcome State Fault Refusal := .next (fire 8 n true (fun s => cupAct s n false) s)

/-- PHASE. -/
def execPhase (n : Nat) (s : State) : Host.Outcome State Fault Refusal := .next (fire 9 n true (fun s => phaseAct s n) s)

/-- BIST_SLICE (R344): TARGET is the unit, ARG the test kind. -/
def execBistSlice (n : Nat) (s : State) : Host.Outcome State Fault Refusal :=
  .next (fire 4 n true (fun s => bistStart s (entTarget s n) (entArg s n)) s)

/-- SCRUB_SLICE (R337): TARGET is the engine, ARG the range slot. -/
def execScrubSlice (n : Nat) (s : State) : Host.Outcome State Fault Refusal :=
  .next (fire 5 n true (fun s => scrubStart s (entTarget s n) (entArg s n)) s)

/-! ### Load notices (R251) -/

/-- The codes that mean something; any other drives as none does (Table 12.3). -/
def noticeCode (a : Nat) : Nat := if a % 16 = 8 then 0 else a % 16

/-- LOAD_NOTICE: at its drive time the code is driven for HOLD ticks, or the firing is skipped. During an Ebb sequence 0b0000 is
driven (R309). -/
def execLoadNotice (n : Nat) (s : State) : Host.Outcome State Fault Refusal :=
  .next (match turnOf s n with
    | none => s
    | some st =>
      if entAct s n != 3 then s
      else
        let code := if ebbing s then 0 else noticeCode (entArg s n)
        let s := spend s n 1 st
        if !slotOk s || s.head.inReset then skipFirings s 1
        else
          let e := nowTicks s + regF s oTGLNCFG 27 16
          { driveNotice s code with tg := { s.tg with noticeEnd := some (e / 4096, e % 4096) } })

/-- Has the HOLD time of the driven notice ended? -/
def noticeOver (s : State) : Bool :=
  !s.head.inReset && s.tg.noticeEnd.any (fun e => 4096 * e.1 + e.2 ≤ nowTicks s)

/-- LOAD_NOTICE_END: the pins return to 0b0000. -/
def execLoadNoticeEnd (s : State) : Host.Outcome State Fault Refusal :=
  if noticeOver s then .next { driveNotice s 0 with tg := { s.tg with noticeEnd := none } } else .next s

/-- The notice of entry n whose firing lies at or after this tick but whose drive time is past is skipped. -/
def passNotice (s : State) (n : Nat) : State :=
  [nowStep s, nowStep s + 1].foldl (fun s st =>
    let f := 4096 * st + entTick s n
    if entAct s n = 3 ∧ firesAt s n st = true ∧ unhandled s n ≤ st ∧ nowTicks s ≤ f ∧ f < nowTicks s + noticeLead s then
      skipFirings (spend s n 1 st) 1 else s) s

/-- The same for every entry. -/
def passNotices (s : State) : State := (List.range 248).foldl passNotice s

/-! ### A forward step (R250) -/

/-- The firings of entry n from this tick up to step `target`: how many, and the step of the last. -/
def passed (s : State) (n target : Nat) : Option (Nat × Nat) :=
  let first := max (unhandled s n) (nowStep s + (if entTick s n < nowTick s then 1 else 0))
  let r := entRepeat s n
  let lo := if r = 0 then entStart s n
    else if first ≤ entStart s n then entStart s n else entStart s n + r * cdiv (first - entStart s n) r
  if !entValid s n || lo < first || target ≤ lo then none
  else
    let m := if r = 0 then 1 else (target - 1 - lo) / r + 1
    let m := if entCount s n = 0 then m else min m (entCount s n)
    some (m, lo + (m - 1) * r)

/-- Insert into a list that rises by firing time, then entry number. -/
def insPassed (x : Nat × Nat) : List (Nat × Nat) → List (Nat × Nat)
  | [] => [x]
  | y :: l => if x.1 < y.1 then x :: y :: l else y :: insPassed x l

/-- The firings that a jump to tick 0 of step `target` passes over: the last of each entry sets its target's state, in
time order, but for windows and phases that ask for good time when there is none; notices and slices are skipped; all are
counted. -/
def passOver (s : State) (target : Nat) : State :=
  let hit := (List.range 248).filterMap (fun n =>
    if entAct s n = 6 ∨ 10 ≤ entAct s n then none
    else (passed s n target).map (fun (p : Nat × Nat) => (n, p)))
  let order := hit.foldl (fun l (e : Nat × Nat × Nat) => insPassed (4096 * e.2.2 + entTick s e.1, e.1) l) []
  let skips (s : State) (n : Nat) : Bool := 7 ≤ entAct s n && entAct s n ≤ 9 && qSkip s n
  let s := order.foldl (fun s (e : Nat × Nat) => if skips s e.2 then s else stateAct s e.2) s
  hit.foldl (fun s (e : Nat × Nat × Nat) =>
    let a := entAct s e.1
    let lost := (3 ≤ a && a ≤ 5) || skips s e.1
    let s := if lost then skipFirings s e.2.1 else s
    spend s e.1 e.2.1 e.2.2) s

/-! ### Commits (R254, R255) -/

/-- Apply, or put off, what is due. -/
def settleCommits (s : State) : State :=
  if dueCommits s = [] then s
  else if mustDefer s (dueCommits s) then deferCommits s
  else passNotices (applyCommits s)

/-- COMMIT_APPLY: at tick 0 of a boundary. -/
def execCommitApply (s : State) : Host.Outcome State Fault Refusal :=
  if s.power.aon && commitDue s then .next (settleCommits s) else .next s

end Sys2Proof.Machine
end

