-- ==== Sys2Proof/Machine/Tidegauge.lean ====
section
/-! DEFINITION. Tidegauge (R233 to R245): references, discipline, holdover, corrections of reported time, SLOTOK, and the
tick that passes while no command waits. Phases are in 1/256 tick. -/

namespace Sys2Proof.Machine

/-- The Tidegauge states (Table 9.1): 0 FREE, 1 ACQUIRE, 2 LOCKED, 3 HOLDOVER_STEP, 4 HOLDOVER_FULL. -/
def tgState (s : State) : Nat := regF s oTGSTAT 2 0
def timeHeld (s : State) : Bool := regB s oTGSTAT 6
def stepOk (s : State) : Bool := regB s oTGSTAT 5

/-- GUARD, QUALN and MISS as they act (Table 9.3). -/
def guardOf (s : State) : Nat := max 2 (regF s oTGCFG 19 8)
def qualnOf (s : State) : Nat := max 2 (regF s oTGCFG 31 28)
def missOf (s : State) : Nat := max 1 (regF s oTGCFG 35 32)

/-! ### The error bound (R242) -/

/-- ERR in 1/256 tick. -/
def errOf (s : State) : Nat :=
  min 0xFFFF_FFFF (match tgState s with
    | 2 => s.tg.slew.natAbs + 256 * regF s oTGCFG 27 20
    | 3 => s.tg.errBase + s.tg.errTicks * (regF s oTGCFG 7 0) * 10 * 256 / 1000000000
    | 4 => s.tg.errBase + s.tg.errTicks * 10 * 256 / 1000000
    | _ => 0xFFFF_FFFF)

def refreshErr (s : State) : State := setF s oTGERR 31 0 (errOf s)

/-- Change the state: it is signalled on PF vector 1 (Table 11.3); a holdover starts from the error held on entry. -/
def setTgState (s : State) (x : Nat) : State :=
  if tgState s = x then s
  else
    let s := { s with tg := { s.tg with errBase := errOf s, errTicks := 0 } }
    refreshErr (pfIrq (setF s oTGSTAT 2 0 x) 1)

def setPhase (s : State) (p : Int) : State := setF s oTGERR 63 32 (twos 32 p)
def setSlew (s : State) (p : Int) : State := refreshErr { s with tg := { s.tg with slew := p } }

/-- Set or clear SLOTOK, which is signalled and governs the slotted ports (R245, R269). -/
def setSlotOk (s : State) (b : Bool) : State := refreshSlotted (pfIrq (setF s oTGSTAT 7 7 (b2n b)) 1)

/-! ### Reported time (R236, R237) -/

def setTime (s : State) (step tick : Nat) : State :=
  setReg { s with tg := { s.tg with frac := 0 } } oTGNOW (BitVec.ofNat 64 (step * 4096 + tick))

/-- An instant within the current tick, not before the last one taken in it. -/
def drawInstant (s : State) : State :=
  let d := draw s
  { d.2 with tg := { d.2.tg with frac := BitVec.ofNat 16 (s.tg.frac.toNat + d.1.toNat % (65536 - s.tg.frac.toNat)) } }

/-- The phase of an edge at this instant, in (-2048, 2048] ticks. -/
def phaseNow (s : State) : Int :=
  let x : Int := (nowTick s * 256 + s.tg.frac.toNat / 256 : Nat)
  if x > 2048 * 256 then x - 4096 * 256 else x

/-- The slewing of one step, at most 0.41 tick (R243). -/
def slewStep (s : State) : State :=
  if tgState s != 2 || s.tg.slew = 0 then s
  else
    let d := draw s
    let k : Int := (min (d.1.toNat % 105) s.tg.slew.natAbs : Nat)
    setSlew d.2 (if s.tg.slew < 0 then s.tg.slew + k else s.tg.slew - k)

/-- Tick 0 of a step: STEP_OUT rises, slewing goes on, SLOTOK may be set, after what the boundary brought (R245). -/
def boundary (s : State) : State :=
  let s := refreshErr (slewStep (refreshOut s))
  if tgState s = 2 ∧ slotOk s = false ∧ 2 * errOf s ≤ 256 * guardOf s then setSlotOk s true else s

/-- Reported time goes to tick 0 of a step, passing over the firings before it. -/
def passTo (s : State) (target : Nat) : State := setTime (passOver s target) target 0

/-- Reported time jumps to tick 0 of a later step (R250). The commits due in the span are applied in step order, each before
the firings that follow it, so what it installs is passed over too; one epoch is entered for them all, as at a boundary
(R254), together with a commit for the target step. They are put off where R255 says so. -/
def land (s : State) (target : Nat) : State :=
  let span := s.tg.commits.filter (fun c => c.step ≤ target)
  passNotices (
    if !span.any (fun c => c.step < target) then passTo s target
    else if mustDefer s span then deferCommits (passTo s target)
    else
      let t := span.foldl (fun t c => applyRecs (passTo t (max c.step (nowStep t))) c.recs) (takeCommits s span)
      enterEpoch s (passTo t target) span)

def countCorrect (s : State) : State := addSat s oTGEVT 31 16 1
def countGlitch (s : State) : State := addSat s oTGEVT 15 0 1

/-- In LOCKED from this boundary on, if STEP_IN is qualified (R241, R244). -/
def lockIf (s : State) : State :=
  if stepOk s && (tgState s == 1 || tgState s == 3) then setTgState s 2 else s

/-- Nothing more is to be corrected. -/
def corrected (s : State) : State := setSlew { s with tg := { s.tg with forward := false, holdDue := false, beyond := [] } } 0

/-- The armed load at an accepted edge (R239): taken out, and its step if it is accepted. -/
def takeLoad (s : State) : State × Option Nat :=
  match s.tg.armed with
  | none => (s, none)
  | some v =>
    let t := { s with tg := { s.tg with armed := none } }
    if v > nowStep s then (t, some v) else (setF t oTGSTAT 8 8 1, none)

/-- A forward step at an edge of phase p: counted, and the boundary follows. Phases are measured against the new time. -/
def forwardStep (s : State) (p : Int) (target : Nat) : State :=
  let s := corrected (land (countCorrect s) target)
  boundary (lockIf { s with tg := { s.tg with phases := s.tg.phases.map (fun q => q - p) } })

/-- A phase is to be removed (R243): by slewing, by a forward step, or by a hold. Slewing starts at once. -/
def removePhase (s : State) (p : Int) : State :=
  let s := setSlew s p
  if p.natAbs ≤ 128 * guardOf s then
    lockIf { s with tg := { s.tg with forward := false, holdDue := false, beyond := [] } }
  else { s with tg := { s.tg with forward := p < 0, holdDue := p > 0 } }

/-- Do phases agree within 1 tick: each pair of them? -/
def agree (l : List Int) : Bool := l.all (fun p => l.all (fun q => (p - q).natAbs ≤ 256))

/-- The last QUALN phases with a new one. -/
def lastPhases (s : State) (p : Int) (l : List Int) : List Int := (p :: l).take (qualnOf s)

/-- Are there QUALN phases in a row, all within 1 tick of one another? -/
def qualified (s : State) (l : List Int) : Bool := qualnOf s ≤ l.length && agree l

/-- An accepted edge in LOCKED (R242, R243). -/
def lockedEdge (s : State) (p : Int) : State :=
  if p.natAbs ≤ 128 * guardOf s then removePhase s p
  else
    let l := lastPhases s p s.tg.beyond
    let s := { s with tg := { s.tg with beyond := l } }
    if qualified s l then removePhase s p else countGlitch s

/-- An accepted edge in ACQUIRE or HOLDOVER_STEP: counted toward qualification (R234, R244). -/
def countEdge (s : State) (p : Int) : State :=
  let l := lastPhases s p s.tg.phases
  let s := { s with tg := { s.tg with phases := l } }
  if qualified s l then setF s oTGSTAT 5 5 1 else s

/-- An accepted edge after the first alignment. -/
def acceptedEdge (s : State) (p : Int) : State :=
  let s := { s with tg := { s.tg with edgeSeen := true, missed := 0 } }
  let s := if tgState s = 4 then s else setPhase s p
  let s := if tgState s = 1 ∨ tgState s = 3 then countEdge s p else s
  match takeLoad s with
  | (s, some v) => forwardStep s p v
  | (s, none) =>
    if s.tg.forward && p < 0 then forwardStep s p (nowStep s + 1)
    else
      let s := { s with tg := { s.tg with forward := false } }
      if tgState s = 2 then lockedEdge s p
      else if (tgState s = 1 ∨ tgState s = 3) ∧ stepOk s = true then removePhase s p
      else s

/-- The first alignment (R241). -/
def alignEdge (s : State) : State :=
  let s := { s with tg := { s.tg with aligned := true, edgeSeen := true, missed := 0, phases := [0] } }
  match takeLoad s with
  | (s, some v) => boundary (setPhase (land (countCorrect s) v) 0)
  | (s, none) => boundary (setPhase (land s (nowStep s + 1)) 0)

/-- An edge that ends a hold (R243). -/
def holdEdge (s : State) : State :=
  let s := { s with tg := { s.tg with edgeSeen := true, missed := 0, phases := [0] } }
  let r := takeLoad (setF (setPhase s 0) oTGSTAT 6 6 0)
  let s := match r.2 with
    | some v => land (countCorrect r.1) v
    | none => land r.1 (nowStep r.1 + 1)
  boundary (lockIf (corrected s))

/-- STEP_IN_EDGE (R234, R239 to R244). -/
def execStepInEdge (s : State) : Host.Outcome State Fault Refusal :=
  if !s.power.aon then .next s
  else
    let s := drawInstant s
    if timeHeld s then .next (holdEdge s)
    else if tgState s = 0 then
      match takeLoad s with
      | (s, some v) => .next (boundary (land (countCorrect s) v))
      | (s, none) => .next s
    else if !s.tg.aligned then .next (alignEdge s)
    else
      let p := phaseNow s
      if s.tg.edgeSeen || p.natAbs > 512 * 256 then .next (countGlitch s) else .next (acceptedEdge s p)

/-- Does an expected boundary's window stand closed without an edge? -/
def missPending (s : State) : Bool :=
  s.tg.aligned && (timeHeld s || (!s.tg.edgeSeen && 512 < nowTick s && nowTick s < 3584))

/-- STEP_MISSED (R234): MISS in a row make STEP_IN lost. -/
def execStepMissed (s : State) : Host.Outcome State Fault Refusal :=
  if !s.power.aon || !missPending s then .next s
  else
    let s := addSat s oTGEVT 63 48 1
    let n := s.tg.missed + 1
    let s := { s with tg := { s.tg with missed := n, edgeSeen := !timeHeld s, phases := [], beyond := [] } }
    if n < missOf s then .next s
    else
      let s := { setF s oTGSTAT 5 5 0 with tg := { s.tg with missed := 0, forward := false, holdDue := false } }
      .next (if tgState s = 2 then setTgState s 3 else s)

/-- TIME_HOLD (R243): reported time that is ahead has reached tick 4095 of the step in which the edge is due. -/
def execTimeHold (s : State) : Host.Outcome State Fault Refusal :=
  if s.power.aon && s.tg.holdDue && nowTick s == 4095 && !timeHeld s && !anyDue s then
    .next (countCorrect (setF { s with tg := { s.tg with holdDue := false } } oTGSTAT 6 6 1))
  else .next s

/-! ### References (R233, R235, R240) -/

/-- REF_QUALIFIED: it takes effect once CFGD is 1. -/
def execRefQualified (s : State) : Host.Outcome State Fault Refusal :=
  if s.power.aon && regB s oTGSTAT 9 && !regB s oTGSTAT 4 then
    let s := setF s oTGSTAT 4 4 1
    .next (match tgState s with
      | 0 => setTgState s 1
      | 4 => setTgState s 3
      | _ => s)
  else .next s

/-- REF_LOST. -/
def execRefLost (s : State) : Host.Outcome State Fault Refusal :=
  if s.power.aon && regB s oTGSTAT 4 then
    let s := setF (setF s oTGSTAT 4 4 0) oTGSTAT 5 5 0
    let s := { s with tg := { s.tg with phases := [], beyond := [], forward := false, holdDue := false } }
    .next (match tgState s with
      | 1 => setTgState { s with tg := { s.tg with aligned := false } } 0
      | 2 => setTgState s 4
      | 3 => setTgState s 4
      | _ => s)
  else .next s

/-- The record that Headland loads: the preferred slot's, when it is valid (R357, R358). -/
def recordOf (s : State) : Record := if s.head.slot = 0 then s.head.flash.slots.1 else s.head.flash.slots.2

/-- The TG_CFG value of stage 0: the record's, else the reset value. -/
def tgCfgDue (s : State) : DWord :=
  let r := recordOf s
  match r.valid, r.tgCfg with
  | true, some v => v
  | _, _ => regReset s.asm oTGCFG

/-- TG_CFG_WRITE (R235): during stage 0 of every bring-up. Once Tidegauge has left FREE, STEPUS and REFF are fixed. -/
def execTgCfgWrite (v : BitVec 64) (s : State) : Host.Outcome State Fault Refusal :=
  if s.power.aon && s.head.running && stageNow s == 0 && !s.head.inReset && fld v 50 0 == fld (tgCfgDue s) 50 0 then
    let w := BitVec.ofNat 64 (fld v 50 0)
    let old := reg s oTGCFG
    let w := if tgState s = 0 then w else setFld (setFld w 49 37 (fld old 49 37)) 36 36 (fld old 36 36)
    let s := refreshOut (refreshErr (setF (setReg s oTGCFG w) oTGSTAT 9 9 1))
    .next { s with head := { s.head with tgSeen := true } }
  else .next s

/-! ### SLOTOK, loads, reads -/

/-- Does ERR exceed GUARD while SLOTOK is 1? -/
def slotokDue (s : State) : Bool := slotOk s && 256 * guardOf s < errOf s

/-- SLOTOK_CLEAR (R245): the ports stop following slots, the notice pins go to 0b0000, but
keep their code while Headland is in reset (R251). -/
def execSlotokClear (s : State) : Host.Outcome State Fault Refusal :=
  if s.power.aon && slotokDue s then
    .next (setSlotOk (if s.head.inReset then s else { driveNotice s 0 with tg := { s.tg with noticeEnd := none } }) false)
  else .next s

/-- TG_LOAD (R239): a write with ARM = 1 stores STEP. -/
def execTgLoad (fn : Nat) (v : BitVec 64) (s : State) : Host.Outcome State Fault Refusal :=
  if s.power.aon && fn == 0 && canWrite s fn (oTGCFG + 0x28) && bit v.toNat 63 then
    .next { s with tg := { s.tg with armed := some (fld v 51 0) } }
  else .next s

/-- TG_NOW_READ (R236): the read latches TG_FRAC. -/
def execTgNowRead (fn : Nat) (s : State) : Host.Outcome State Fault Refusal :=
  if s.power.aon && canRead s fn oTGNOW then
    let s := drawInstant s
    let s := setReg s oTGFRAC (s.tg.frac.setWidth 64)
    .next { s with hostReads := s.hostReads ++ [(fn, leBytes 8 (reg s oTGNOW).toNat)] }
  else .next s

/-! ### The passing of reported time -/

/-- STEP_BOUNDARY (R237, R245): reported time goes from tick 4095 to tick 0 of the next step. -/
def execStepBoundary (s : State) : Host.Outcome State Fault Refusal :=
  if s.power.aon && nowTick s == 4095 && !timeHeld s && !s.tg.holdDue && !anyDue s then
    let s := if tgState s = 3 ∨ tgState s = 4 then { s with tg := { s.tg with errTicks := s.tg.errTicks + 1 } } else s
    .next (boundary (setTime s (nowStep s + 1) 0))
  else .next s

/-- STEP_OUT_END (R257): STEP_OUT falls at tick 64. -/
def execStepOutEnd (s : State) : Host.Outcome State Fault Refusal :=
  if s.power.aon && s.tg.stepOut && 64 ≤ nowTick s then .next { s with tg := { s.tg with stepOut := false } } else .next s

/-- Must something happen before the next tick begins? -/
def tickBlocked (s : State) : Bool :=
  !s.power.aon || timeHeld s || nowTick s == 4095 || anyDue s || commitDue s || noticeOver s ||
    (s.tg.stepOut && 64 ≤ nowTick s) || slotokDue s || missPending s

/-- One tick of reported time. -/
def tick (s : State) : State :=
  if tickBlocked s then s
  else
    let t := setTime s (nowStep s) (nowTick s + 1)
    let t := if nowTick t = 3584 then { t with tg := { t.tg with edgeSeen := false } } else t
    let t := if tgState t = 3 ∨ tgState t = 4 then { t with tg := { t.tg with errTicks := t.tg.errTicks + 1 } } else t
    refreshErr t

end Sys2Proof.Machine
end

