-- ==== Sys2Proof/Machine/Commit.lean ====
section
/-! DEFINITION. COMMIT (R253, R295): the list is staged, sealed and validated against the configuration that will be in
force at its step, and accepted into a slot or rejected. -/

namespace Sys2Proof.Machine

/-! ### The check of one record (R253, R295) -/

/-- No field of the register gets a reserved code or a value outside its range. -/
def stagedOk (o : Nat) (v : DWord) : Bool :=
  if 0x100_0000 ≤ o && o < 0x200_0000 then fld v 11 8 ≤ 12
  else if 0x80_0000 ≤ o && o < 0x100_0000 then
    (if o % 0x1_0000 = 0 then fld v 1 0 != 3
     else if o % 0x1_0000 = 0x10 then 1 ≤ fld v 31 24 && fld v 31 24 ≤ 32 && fld v 23 16 < fld v 31 24
     else true)
  else if 0x200_0000 ≤ o && o < 0x2F0_0000 then o % 0x1_0000 != 0 || fld v 1 0 != 3
  else if o = oTGCFG then 125 ≤ fld v 49 37 && fld v 49 37 ≤ 8000
  else if oENTA 0 ≤ o && o < oENTA 248 then o % 16 != 0 || (fld v 59 56 < 10 && fld v 59 56 != 6)
  else if oPTABA 0 ≤ o && o < oPTABA 8 then o % 16 != 8 || fld v 8 0 ≤ 256
  else if oCVCFG 0 ≤ o && o < oCVSURF then
    o % 0x40 != 0 || (8 ≤ fld v 63 57 && fld v 63 57 ≤ 64 && 4 ≤ fld v 52 48 && fld v 52 48 ≤ 16)
  else if o = oCVSURF then 4 ≤ fld v 52 48 && fld v 52 48 ≤ 16
  else true

/-- Is an offset that of SHF_CFG of a stack of partition p? -/
def ownShfCfg (s : State) (p o : Nat) : Bool := (stacksOf s p).any (fun st => o == oSHFCFG st)

/-- May the queue stage this record: any RL register with PRIV, else PINWAYS of its own stacks? -/
def recordOk (s : State) (p : Nat) (priv : Bool) (r : Nat × DWord) : Bool :=
  holdsRL s.asm r.1 && stagedOk r.1 r.2 &&
    (priv || (ownShfCfg s p r.1 &&
      setFld (stageRL s.asm r.1 (reg s r.1) r.2) 11 8 0 == setFld (reg s r.1) 11 8 0))

/-! ### The checks of the units: `a` is the configuration before the commit, `b` after it -/

/-- No set of a stack holds more pinned lines than `w`. -/
def pinsFit (s : State) (st w : Nat) : Bool :=
  (List.range 16).all (fun k => (sliceOf s st k).lines.all (fun e => pinnedIn (sliceOf s st k) (e.1 / 16) ≤ w))

/-- Is the target of a tide-table entry one that Table 9.2 gives its action: a Surf port is 0 to 47? -/
def targetOk (b : State) (n : Nat) : Bool := !(entAct b n == 1 || entAct b n == 2) || entTarget b n % 64 < 48

/-- Slice k has a partner under a mask of the slices that are retired or absent (R179, R180). -/
def hasPartner (m k : Nat) : Bool := [10, 8, 2].any (fun x => !bit m (k ^^^ x))

/-- SHF_CFG (R179). -/
def shelfOk (s a b : State) : Bool :=
  (List.range (crests s.asm)).all (fun st =>
    let x := reg a (oSHFCFG st)
    let y := reg b (oSHFCFG st)
    x == y || (pinsFit s st (fld y 11 8) && (List.range 16).all (fun k =>
      if bit (fld x 63 48) k then bit (fld y 63 48) k
      else !bit (fld y 63 48) k ||
        ((sliceOf s st k).lines.all (fun e => !e.2.pinned) && hasPartner (fld y 63 48 ||| regF s (oSHFSTAT st) 63 48) k)))) &&
  (List.range (totalVFs s.asm)).all (fun p =>
    let l := (stacksOf b p).map (fun st => fld (reg b (oSHFCFG st)) 1 0)
    l.all (fun v => v == l.headD 0))

/-- Every element of a list equals the first. -/
def sameAll (l : List DWord) : Bool := l.all (fun v => v == l.headD 0)

/-- Two exact-cell windows of a controller overlap. -/
def windowsMeet (b : State) (i m n : Nat) : Bool :=
  let lo (k : Nat) : Nat := fld (reg b (oXCLO i k)) 47 8
  let hi (k : Nat) : Nat := fld (reg b (oXCHI i k)) 47 8
  regB b (oXCLO i m) 63 && regB b (oXCLO i n) 63 && max (lo m) (lo n) ≤ min (hi m) (hi n)

/-- RATE and the exact-cell windows agree over the populated controllers, and no windows overlap (R187, R204). -/
def hbmOk (b : State) : Bool :=
  let cs := ctrlList b.asm
  (cs.all (fun i => regF b (oMEMCFG i) 1 0 == regF b (oMEMCFG (cs.headD 0)) 1 0)) &&
  (List.range 8).all (fun n =>
    sameAll (cs.map (fun i => reg b (oXCLO i n))) && sameAll (cs.map (fun i => reg b (oXCHI i n))) &&
    (List.range n).all (fun m => cs.all (fun i => !windowsMeet b i m n)))

/-- The Surf registers (R277). Of two ports that name one peer port, only ports that are not off count. -/
def surfOk (b : State) : Bool :=
  let ps := List.range (surfPorts b.asm)
  ps.all (fun p => (List.range 8).foldl (fun n q => n + regF b (oQCFG p q) 41 32) 0 ≤ 1024) &&
  !regB b (oROUTE (regF b oLNKDEV 7 0)) 63 &&
  (List.range 256).all (fun d => !regB b (oROUTE d) 63 ||
    (List.range 48).all (fun p => !regB b (oROUTE d) p || (p < surfPorts b.asm && portMode b p != 0))) &&
  ps.all (fun p => (List.range p).all (fun q => portMode b p == 0 || portMode b q == 0 ||
    regF b (oLNKCFG p) 63 50 != regF b (oLNKCFG q) 63 50))

/-- The partition table (R286, R365). -/
def partsOk (s a b : State) : Bool :=
  let ps := (List.range (totalVFs s.asm)).filter (partValid b)
  let lo (p : Nat) : Nat := regF b (oPTABB p) 40 32
  let hi (p : Nat) : Nat := lo p + regF b (oPTABB p) 8 0
  ps.all (fun p => stacksOf b p != [] && hi p ≤ hbmGiB s.asm &&
    ps.all (fun q => p ≤ q || (regF b (oPTABA p) 11 0 &&& regF b (oPTABA q) 11 0 == 0 &&
      !(max (lo p) (lo q) < min (hi p) (hi q))))) &&
  (List.range (totalVFs s.asm)).all (fun p => !partChanges a b p ||
    (pState s p ≤ 1 && !(partValid b p && s.head.unusable.any (ownsStack b p))))

/-- STEPUS and REFF do not change (R235). -/
def timeOk (s b : State) : Bool := regF s oTGCFG 49 36 == regF b oTGCFG 49 36

/-- The configuration at step `at_`: the one in force with every accepted commit up to then. -/
def configAt (s : State) (at_ : Nat) : State :=
  (s.tg.commits.filter (fun c => c.step ≤ at_)).foldl (fun s c => putRecs s c.recs) s

/-- Every check of R253 on the list of a commit for step `at_`. -/
def checksOk (s : State) (p : Nat) (priv : Bool) (at_ : Nat) (rs : List (Nat × DWord)) : Bool :=
  let a := configAt s at_
  let b := putRecs a rs
  rs.all (recordOk s p priv) && (rs.filterMap (fun r => entryAt r.1)).all (targetOk b) && shelfOk s a b && hbmOk b && surfOk b && partsOk s a b && timeOk s b

/-! ### The command -/

/-- Is commit slot j free? -/
def slotFree (s : State) (j : Nat) : Bool := !regB s oTGCMT j

/-- The result of sealing (Table 9.11): 1 accepted, 3 a check failed, 4 LATE, 5 ORDER, 6 BUSY. -/
def sealResult (s : State) (p : Nat) (priv : Bool) (at_ : Nat) (rs : List (Nat × DWord)) : Nat :=
  if !checksOk s p priv at_ rs then 3
  else if at_ < nowStep s + 2 then 4
  else if s.tg.commits.any (fun c => at_ < c.step) then 5
  else if !(List.range 8).any (slotFree s) then 6
  else 1

/-- The records of a list in memory. -/
def recsOf (bs : List Byte) (n : Nat) : List (Nat × DWord) :=
  (List.range n).map (fun i => (eNat bs (16 * i) 8, BitVec.ofNat 64 (eNat bs (16 * i + 8) 8)))

/-- Accept a commit into a free slot j. -/
def acceptCommit (s : State) (p id at_ : Nat) (rs : List (Nat × DWord)) : State :=
  match pick s 8 (slotFree s) with
  | none => s
  | some (j, s) =>
  let c : Commit := ⟨j, at_, rs, p, id, s.tg.sealed⟩
  let s := { s with tg := { s.tg with commits := s.tg.commits ++ [c], sealed := s.tg.sealed + 1 } }
  let s := putSlotEntry (setF (putCmtst s j 1 0 at_) oTGCMT j j 1) j at_
  updCmd s p id (fun c => { c with slot := some j })

/-- Reject it: the TG_CMTST of a free slot shows the result. -/
def rejectCommit (s : State) (p id result at_ : Nat) : State :=
  match pick s 8 (slotFree s) with
  | some (j, s) => reportCommit (putCmtst s j result 0 at_) p id 9 (result + 16 * j)
  | none => reportCommit s p id 9 result

/-- Is a COMMIT entry valid (Table 11.6)? -/
def commitEntryOk (e : List Byte) : Bool :=
  flagsOk e && restZero e [(0, 30), (32, 36)] && eNat e 24 6 % 16 == 0 && 1 ≤ eNat e 32 4 && eNat e 32 4 ≤ 4096

/-- COMMIT (R253, R295). -/
def execCommit (part sq : Nat) (s : State) : Host.Outcome State Fault Refusal :=
  .next (starting 7 s part sq (fun s c =>
    if !commitEntryOk c.entry then complete s part c.id 4 0
    else
      let n := eNat c.entry 32 4
      let r := devRead s (dispWho part) (eNat c.entry 24 6) (16 * n)
      match r.2.2.st with
      | .ok =>
        let s := r.1
        let rs := recsOf r.2.1 n
        let at_ := if eNat c.entry 16 8 = 0 then nowStep s + 2 else eNat c.entry 16 8
        let priv := part == 8 || regB s (oSQB part sq) 62
        let res := sealResult s part priv at_ rs
        if res = 1 then acceptCommit s part c.id at_ rs
        else rejectCommit s part c.id res at_
      | _ => complete r.1 part c.id (readStatus r.2.2) 0))

end Sys2Proof.Machine
end

