-- ==== Sys2Proof/Machine/Flash.lean ====
section
/-! DEFINITION. The configuration flash (R355 to R359): signed images and their acceptance, the boot header, the journal and its
replay, and what a read of the flash answers. -/

namespace Sys2Proof.Machine

/-! ### Signed images (R356) -/

/-- A byte of a bank or slot: as written, else as it was delivered. -/
def imageByte (raw : List Host.Cell) (base o : Nat) : Byte := (SMap.find raw (o - base)).getD (Config.flashByte o)

/-- Where a bank or slot lies in the flash, and its size (Table 14.1). -/
def imageBase (record : Bool) (i : Nat) : Nat :=
  if record then (if i = 0 then 0xC01_0000 else 0xD01_0000) else (if i = 0 then 0x1_0000 else 0x601_0000)
def imageSize (record : Bool) : Nat := if record then 0x100_0000 else 0x600_0000

/-- n bytes of an image from offset o of it. -/
def imagePart (record : Bool) (i : Nat) (raw : List Host.Cell) (o n : Nat) : List Byte :=
  (List.range n).map (fun k => imageByte raw (imageBase record i) (imageBase record i + o + k))

/-- A field of the image header (notes/assumptions/86.md): 0 magic, 1 type, 2 sequence number, 3 length, 4 CRC-32. -/
def imageField (record : Bool) (i : Nat) (raw : List Host.Cell) (k : Nat) : Nat :=
  leNat (imagePart record i raw (Config.headerField k) (if k = 2 || k = 4 then 4 else Config.headerWidth k))

/-- The body of an image: as many bytes as its length field says, after the header. -/
def imageBody (record : Bool) (i : Nat) (raw : List Host.Cell) : List Byte :=
  imagePart record i raw 256 (min (imageField record i raw 3) (imageSize record - 256))

/-- Is an image accepted (R356): magic value and type, length, the CRC-32 as channel 0 of I/O die 0 recomputes it, the
signature under the appropriate key; and the mandatory sections of a record (R358)? -/
def imageAccepted (record : Bool) (i : Nat) (raw : List Host.Cell) : Bool :=
  let f (k : Nat) : Nat := imageField record i raw k
  let body := imageBody record i raw
  f 0 == Config.imageMagic && f 1 == (if record then 2 else 1) && f 3 ≤ imageSize record - 256 &&
    f 4 == (frameCrc body).toNat &&
    Config.signatureOk (record && Config.ownerKeyFused) (imagePart record i raw 0 128) body &&
    (!record || [1, 2, 3, 4].all (fun k => (Config.recordSections body).contains k))

/-- The record that slot i spells with these bytes (R356, R358). -/
def parseRecord (i : Nat) (raw : List Host.Cell) : Record :=
  let c := Config.recordContent (imageBody true i raw)
  ⟨imageAccepted true i raw, imageField true i raw 2, c.1, c.2.1, c.2.2.1, c.2.2.2.1, c.2.2.2.2⟩

/-! ### The boot choice (R357) -/

/-- The boot header that counts: the valid copy with the higher sequence number. -/
def bootHeader (f : Flash) : BootHeader :=
  let a := f.boot.1
  let b := f.boot.2
  if a.valid && (!b.valid || b.seq ≤ a.seq) then a
  else if b.valid then b
  else ⟨false, 0, 0, 0⟩

/-- Is bank or slot i accepted under R356? -/
def bankValid (f : Flash) (i : Nat) : Bool := if i = 0 then f.banks.1.1 else f.banks.2.1
def bankVersion (f : Flash) (i : Nat) : Nat := if i = 0 then f.banks.1.2 else f.banks.2.2
def slotRecord (f : Flash) (i : Nat) : Record := if i = 0 then f.slots.1 else f.slots.2

/-- The preferred one of two, else the other, else none; with a flag for the fallback. -/
def choose (ok : Nat → Bool) (pref : Nat) : Option (Nat × Bool) :=
  if ok pref then some (pref, false) else if ok (1 - pref) then some (1 - pref, true) else none

def bankChoice (f : Flash) : Option (Nat × Bool) := choose (bankValid f) ((bootHeader f).bank % 2)
def slotChoice (f : Flash) : Option (Nat × Bool) := choose (fun i => (slotRecord f i).valid) ((bootHeader f).slot % 2)

/-- The tile firmware of a bank (R366): its version. -/
def bankTileFw (f : Flash) (i : Nat) : Nat := Config.tileFirmware (imageBody false i (if i = 0 then f.bankRaw.1 else f.bankRaw.2))

/-! ### The journal (R342, R358) -/

/-- Insert an entry into a list that rises by sequence number. -/
def insJournal (e : JournalEntry) : List JournalEntry → List JournalEntry
  | [] => [e]
  | f :: l => if e.seq < f.seq then e :: f :: l else f :: insJournal e l

/-- The entries that count, in sequence order: those before the first whose CRC fails. -/
def validJournal (f : Flash) : List JournalEntry := (f.journal.foldl (fun l e => insJournal e l) []).takeWhile (·.crcOk)

/-- The Shoal overlay in the journal. -/
def journalOverlay (f : Flash) : List DWord :=
  (validJournal f).filterMap (fun e => match e.body with
    | .overlay d => some d
    | .training _ _ => none)

/-- The saved training results in the journal: of a key that has several the last counts. -/
def journalTraining (f : Flash) : SMap (List Byte) :=
  (validJournal f).foldl (fun m e => match e.body with
    | .overlay _ => m
    | .training k v => SMap.set [] m k v) []

/-- What the journal holds once Headland has written it: the overlay and the training results, numbered on. -/
def newJournal (f : Flash) (overlay : List DWord) (training : SMap (List Byte)) : List JournalEntry :=
  let first := f.journal.foldl (fun n e => max n (e.seq + 1)) 0
  let bodies := overlay.map JournalBody.overlay ++ training.map (fun e => JournalBody.training e.1 e.2)
  ((List.range bodies.length).zip bodies).map (fun x => ⟨first + x.1, x.2, true⟩)

/-- Overlay entries that are not in flash. -/
def pendingShoal (s : State) : List DWord := (journalOverlay s.head.flash).foldl (fun l e => dropOne e l) s.ras.overlay

/-- The journal is replayed (R358): entries that the overlay lacks enter it, but for a soft repair that has become a hard one
since (R343), and so do the training results that Headland does not hold. At the rise of VDD_AON both are empty before; in
a device reset what is not yet in flash stays. -/
def replayJournal (s : State) : State :=
  let has (e : DWord) : Bool := s.ras.overlay.contains e || (fld e 63 60 == 6 && s.ras.overlay.contains (setFld e 63 60 7))
  let lacks := (journalOverlay s.head.flash).filter (fun e => !has e)
  let t := s.head.training.foldl (fun m e => SMap.set [] m e.1 e.2) (journalTraining s.head.flash)
  { s with ras := { s.ras with overlay := s.ras.overlay ++ lacks }, head := { s.head with training := t } }

/-! ### Reading the flash (Table 14.1) -/

/-- The value of THM_REC for an event cell. -/
def cellWord (c : EventCell) : DWord :=
  BitVec.ofNat 64 (2 ^ 63 + c.cause % 128 * 2 ^ 56 + c.src % 4096 * 2 ^ 44 + c.temp.toNat * 2 ^ 28 + c.step.toNat)

/-- A journal entry as the layout function takes it. -/
def journalRow (e : JournalEntry) : Nat × (DWord ⊕ Nat) × List Byte × Bool :=
  match e.body with
  | .overlay d => (e.seq, .inl d, [], e.crcOk)
  | .training k v => (e.seq, .inr k, v, e.crcOk)

/-- A byte of a boot header copy. -/
def headByte (h : BootHeader) (o : Nat) : Byte := Config.headerByte h.valid h.seq h.bank h.slot o

/-- One byte of the flash: the layouts of the boot header, the journal and the event log are open. -/
def flashRead (f : Flash) (o : Nat) : Byte :=
  if o < 0x1000 then headByte f.boot.1 o
  else if o < 0x2000 then headByte f.boot.2 (o - 0x1000)
  else if o < 0x1_0000 then Config.flashByte o
  else if o < 0x601_0000 then imageByte f.bankRaw.1 0x1_0000 o
  else if o < 0xC01_0000 then imageByte f.bankRaw.2 0x601_0000 o
  else if o < 0xD01_0000 then imageByte f.slotRaw.1 0xC01_0000 o
  else if o < 0xE01_0000 then imageByte f.slotRaw.2 0xD01_0000 o
  else if o < 0xE81_0000 then Config.journalByte (f.journal.map journalRow) (o - 0xE01_0000)
  else Config.logByte (f.log ++ (f.recValid.map cellWord).toList) (o - 0xE81_0000)

end Sys2Proof.Machine
end

