-- ==== Sys2Proof/Machine/ShelfEvents.lean ====
section
/-! DEFINITION. What happens at the shelf slices (R164 to R174, R180, R182): requests reach their home slice, fills arrive,
merge-buffer entries time out, a retiring slice finishes; and the reply of a transaction at its master's edge (R227). -/

namespace Sys2Proof.Machine

/-- The byte addresses a transaction touches. -/
def txnAddrs (x : Txn) : List Nat :=
  x.want ++ x.bytes.map (·.1) ++ x.adds.flatMap (fun a => (List.range a.2.length).map (fun i => a.1 + i))

/-- An address of the transaction's line. -/
def txnAddr (x : Txn) : Nat := (txnAddrs x).headD 0

/-- Has a transaction its reply? -/
def Txn.done (x : Txn) : Bool :=
  match x.stage with
  | .replied _ => true
  | _ => false

/-- What routing sees for a request of a given epoch: the registers of the epoch it carries (R255), of which the previous one
is kept where it differs. -/
def atEpoch (s : State) (e : BitVec 4) : State :=
  if e = epochNow s then s else { s with bar0 := s.prevCfg.foldl (fun m c => SMap.set (regReset s.asm c.1) m c.1 c.2) s.bar0 }

/-- An earlier access of the same group to overlapping bytes has not taken effect (R115). -/
def earlierOverlap (s : State) (x : Txn) : Bool :=
  s.txns.any (fun y => y.src == x.src && y.gen == x.gen && y.serial < x.serial && !y.done &&
    (txnAddrs y).any (fun a => (txnAddrs x).contains a))

/-- The home of a cached transaction: stack, slice, line index and HBM sectors. -/
structure Home where
  st   : Nat
  k    : Nat
  lam  : Nat
  secs : List Nat
  deriving DecidableEq, Repr

/-- The route of a transaction under the configuration of its epoch. A request of the previous epoch whose home slice has
retired since is served there while the line still stands in it; else it goes to the partner, as the slice allocates
nothing any more (R180, R255; notes/assumptions/81.md). -/
def routeOfTxn (s : State) (x : Txn) : Route :=
  match routeOf (atEpoch s x.epoch) (some x.part) (txnAddr x) with
  | .cached st k =>
    if bit (regF s (oSHFSTAT st) 63 48) k && (keyOf s st k (txnAddr x / 2048)).isNone then routeOf s (some x.part) (txnAddr x)
    else .cached st k
  | r => r

/-- The home slice of a transaction, when its address is cached (R160). -/
def homeOfTxn (s : State) (x : Txn) : Option Home :=
  match routeOfTxn s x with
  | .cached st k => some ⟨st, k, txnAddr x / 2048, nub ((txnAddrs x).map (· / 256))⟩
  | _ => none

/-- Must a request wait at the slice: its set is under test (R345), a sector stands in the write-back buffer (R168) or has an
add its controller has not accepted (R173), a slice the line came from still flushes (R180), or a domain around the stack is in reset? -/
def sliceBusy (s : State) (h : Home) : Bool :=
  setInBist s h.st h.k (lineSet h.lam) || h.secs.any (secBusy s h.st h.k) || retiringBefore s h.st h.k h.lam != [] ||
  s.resetting.any (fun d => d == .stack h.st || d == .device || (match d with
    | .part p => ownsStack s p h.st
    | _ => false))

/-- The tile of a thread-engine request. -/
def Txn.tile (x : Txn) : Option Nat :=
  match x.src with
  | .tile t _ => some t
  | _ => none

/-- A request that its tile injected before x for the same slice has not been served there (R219). One that has arrived and
must wait holds up the requests to its own set alone (R164). -/
def earlierArrival (s : State) (x : Txn) (h : Home) : Bool :=
  s.txns.any (fun y => y.tile == x.tile && x.tile.isSome && y.id < x.id && y.stage == .toHome &&
    (homeOfTxn s y).any (fun g => g.st == h.st && g.k == h.k &&
      (lineSet g.lam == lineSet h.lam || !(sliceBusy s g || wbFull s g.st g.k g.lam))))

/-- The rank of a request at an arbiter (R223): LOW requests that age has not promoted come last, the others by the priority
of their class; a smaller number goes first. No thread-engine request carries a deadline (R224). -/
def arbRank (s : State) (x : Txn) : Nat :=
  if x.low && !x.promoted then 8 else 7 - regF s oBWRPRIO (4 * x.cls + 2) (4 * x.cls)

/-- Does a request that could be served at the same slice now go before x (R223)? -/
def outranked (s : State) (x : Txn) (h : Home) : Bool :=
  s.txns.any (fun y => y.stage == .toHome && arbRank s y < arbRank s x && y.gen == genOf s (domainOf y.src) && !earlierOverlap s y &&
    (homeOfTxn s y).any (fun g => g.st == h.st && g.k == h.k && !sliceBusy s g && !wbFull s g.st g.k g.lam && !earlierArrival s y g))

/-- A request at its home slice: dropped when its generation is old (R182); held while the slice, an earlier request or one
of a better rank keeps it waiting; else `k` serves it. -/
def atHome (s : State) (id : Nat) (p : TxnKind → Bool) (k : State → Txn → Home → State) : State :=
  match txnOf s id with
  | none => s
  | some x =>
    if x.stage != .toHome || !p x.kind then s
    else match homeOfTxn s x with
      | none => s
      | some h =>
        if x.gen != genOf s (domainOf x.src) then
          addSat (updTxn s id (fun x => x.reply (nextRep s) (some (h.st, h.k)) .dropped)) (oSHFEVT h.st) 63 48 1
        else if sliceBusy s h || earlierOverlap s x || earlierArrival s x h || outranked s x h then s
        else k s x h

/-- SHELF_READ (R164, R165, R167, R172): the line is allocated if it is absent, and the bytes that are valid now are read;
each named sector that lacks a byte waits for its fill, so that no write accepted later reaches the reply. A read that lacks
none hits, and is answered. -/
def execShelfRead (id : Nat) (s : State) : Host.Outcome State Fault Refusal :=
  .next (atHome s id (· == .load) (fun s x h =>
    if wbFull s h.st h.k h.lam then s
    else
      let a := allocLine s h.st h.k h.lam
      let miss := lacking a.1 h.st h.k a.2 x.want
      let has (b : Nat) : Bool := bit (getSec a.1 h.st h.k a.2 (b / 256 % 8)).valid.toNat (b % 256)
      let r := lineRead a.1 h.st h.k a.2 (x.want.filter has)
      let good := r.2.1.filter (fun c => !r.2.2.contains (c.1 / 16))
      let lost := (x.want.filter has).filter (fun b => r.2.2.contains (b / 16))
      let f := miss.foldl (fun (f : State × List Nat) c => let y := issueFill f.1 h.st h.k c 2; (y.1, f.2 ++ [y.2])) (r.1, [])
      let y : Txn := { x with stage := .atSlice, got := good, lost := lost, awaits := f.2 }
      if miss = [] then
        updTxn (addSat f.1 (oSHFCNT h.st h.k 0) 47 0 h.secs.length) x.id
          (fun _ => y.reply (nextRep s) (some (h.st, h.k)) (if lost = [] then .ok else .uncorr))
      else updTxn f.1 x.id (fun _ => y)))

/-- SHELF_WRITE (R166, R170): the bytes are written without a fetch and the store is accepted. In quarantine it is
acknowledged and not performed (R373). -/
def execShelfWrite (id : Nat) (s : State) : Host.Outcome State Fault Refusal :=
  .next (atHome s id (· == .store) (fun s x h =>
    let s' := updTxn s x.id (fun x => x.reply (nextRep s) (some (h.st, h.k)) .ok)
    if quarantined s h.st then s'
    else if wbFull s h.st h.k h.lam then s
    else
      let a := allocLine s' h.st h.k h.lam
      lineWrite a.1 h.st h.k a.2 x.bytes))

/-- Hand a sector to the memory-side adders (R173): its merge-buffer entries retire, it is written back when dirty, and
it is invalidated, so that a fill of it in flight is not written any more. -/
def yieldSector (s : State) (h : Home) (c : Nat) : State :=
  match keyOf s h.st h.k h.lam with
  | none => s
  | some key =>
    let s := mbRetireAll s h.st h.k (fun e => e.word / 16 == c)
    let s := writeBack s h.st h.k key (c % 8)
    deadFills (updSec s h.st h.k key (c % 8) (fun _ => Sector.reset)) h.st h.k (· == c)

/-- Must an add wait for write-back entries for its dirty sectors (R168)? -/
def maddFull (s : State) (h : Home) : Bool :=
  match keyOf s h.st h.k h.lam with
  | none => false
  | some key => (sliceOf s h.st h.k).wb.length + (h.secs.filter (fun c => (getSec s h.st h.k key (c % 8)).dirty)).length > 32

/-- SHELF_MADD (R173): the sectors are yielded and the adds forwarded to their controllers. The way lock of the sequence and
the entries at the I/O dies stand in the ledger until the reply (R229). -/
def execShelfMadd (id : Nat) (s : State) : Host.Outcome State Fault Refusal :=
  .next (atHome s id (fun k => match k with
      | .madd _ => true
      | _ => false) (fun s x h =>
    match x.kind with
    | .madd ty =>
      if quarantined s h.st then updTxn s x.id (fun x => x.reply (nextRep s) (some (h.st, h.k)) .ok)
      else if maddFull s h then s
      else
        let s := h.secs.foldl (fun s c => yieldSector s h c) s
        let s := updTxn s x.id (fun x => { x with stage := .toCtrl, ledger := x.ledger + 1 + h.secs.length })
        h.secs.foldl (fun s c => enqueue s ⟨0, c, .add ty, 0, [], 0, 3, false, domainOf x.src, x.gen, none, some x.id⟩) s
    | _ => s))

/-- FILL_ARRIVAL (R165, R182): fill data reaches its slice. -/
def execFillArrival (id : Nat) (s : State) : Host.Outcome State Fault Refusal :=
  match s.fills.find? (fun f => f.id == id) with
  | some f => .next (arriveFill s f)
  | none => .next s

/-- MERGE_ENTRY_TIMEOUT (R171): the entry of a word retires after 64 shelf cycles. -/
def execMergeEntryTimeout (stack slice word : Nat) (s : State) : Host.Outcome State Fault Refusal :=
  match (sliceOf s stack slice).mb.find? (fun e => e.word == word) with
  | some e => .next (mbRetire s stack slice e)
  | none => .next s

/-- SLICE_RETIRE_DONE (R180): the retiring slice has flushed; requests that wait at its partner may proceed. -/
def execSliceRetireDone (stack slice : Nat) (s : State) : Host.Outcome State Fault Refusal :=
  if (sliceOf s stack slice).retiring && !flushHeld s stack slice then
    let s := updSlice (flushSlice s stack slice) stack slice (fun x => { x with retiring := false })
    let more := (List.range 16).any (fun k => (sliceOf s stack k).retiring)
    .next (if more then s else setF s (oSHFSTAT stack) 3 3 0)
  else .next s

/-! ### Replies (R227) -/

/-- Serve a transaction whose address is not cached, as its endpoint does: host memory, peers, decode errors (R26 to
R28, R114, R175, R112). Tile memory windows are not reached by thread accesses (R94). An access to a peer window becomes a
Surf transfer on the next lane set of the route, and is answered as refused with a decode error when no port of it is UP
(R270): the store pushes its bytes, and has its reply when the transfers end; the bytes of a load are free
(notes/assumptions/10.md). -/
def serveDirect (s : State) (x : Txn) : State × Txn :=
  match routeOfTxn s x with
  | .cached _ _ | .direct => (s, x)
  | .host key =>
    let k (a : Nat) : Nat := a - txnAddr x + key
    let s := noteHost s (some x.part) key (x.kind = .store)
    let s := match x.kind with
      | .store => if (partOf s x.part).quarantine then s else { s with hostMem := Mem.cells s.hostMem (x.bytes.map (fun c => (c.1 + key - txnAddr x, c.2))) }
      | _ => s
    (s, { x with stage := .replied .ok, got := x.want.map (fun a => (a, Mem.byte s.hostMem (k a))) })
  | .remote d off =>
    if (partOf s x.part).quarantine && x.kind = .store then (s, { x with stage := .replied .ok })
    else if (laneSets s d).isEmpty then (s, { x with stage := .replied .decode, got := x.want.map (fun a => (a, 0)) })
    else if x.kind = .store then
      let rs := runsOf x.bytes
      (rs.foldl (fun s r => pushBytes s x.part x.part d (off + r.1 - txnAddr x) r.2 (some x.id)) s,
        { x with stage := .toPeer rs.length 0 })
    else
      let r := drawBytes (nextLane s x.part d).1 x.want.length
      (r.1, { x with stage := .replied .ok, got := x.want.zip r.2 })
  | .window _ _ | .decode =>
    (decodeError s x.src x.dev, { x with stage := .replied .decode, got := x.want.map (fun a => (a, 0)) })

/-- The lowest-numbered thread that wants a byte that did not come back good. -/
def failingThread (x : Txn) : Nat :=
  ((x.dests.filter (fun d => (List.range d.size).any (fun i => !(x.got.any (fun c => c.1 == d.addr + i))))).map (·.thread)).foldl min 31

/-- Deliver a reply of the current generation to its group (R111, R115, R116, R183, R227). -/
def deliverReply (s : State) (t slot : Nat) (x : Txn) (st : ReplySt) : State :=
  let g := grp s t slot
  match g.outst.find? (fun o => o.serial == x.serial) with
  | none => s
  | some o =>
    let outst := if o.left ≤ 1 then g.outst.filter (fun p => p.serial != x.serial)
      else g.outst.map (fun p => if p.serial = x.serial then { p with left := p.left - 1 } else p)
    let s := setGroup s t slot { g with outst := outst }
    if !g.live then s
    else if x.kind = .load && (st = .uncorr || st = .dropped) then tileFaultAt s t slot 0x18 (failingThread x) o.pc.toNat
    else
      let s := updGroup s t slot (fun g => x.dests.foldl (fun g d =>
        loadRegs g d.thread d.reg d.size ((List.range d.size).map (fun i => SMap.get 0 x.got (d.addr + i)))) g)
      if g.wait = .fence && outst.all (fun o => !o.store) then updGroup s t slot wake else s

/-- The reply of a transaction passes its master's edge: the count falls, the ledger entry of an old generation is
returned, and the reply is delivered or discarded as stale (R222, R227 to R229). -/
def passEdge (s : State) (x : Txn) (st : ReplySt) : State :=
  let s := { s with txns := s.txns.filter (fun y => y.id != x.id) }
  let s := retire s x.part x.cls
  if x.gen != genOf s (domainOf x.src) then
    let s := addSat s oBWREVT 63 48 1
    addSat s oBWREVT 15 0 x.ledger
  else match x.src with
    | .tile t slot => deliverReply s t slot x st
    | _ => s

/-- Has an earlier reply of the same slice to the same tile not passed the edge yet (R219)? -/
def earlierReply (s : State) (x : Txn) : Bool :=
  s.txns.any (fun y => y.tile == x.tile && x.tile.isSome && y.from_ == x.from_ && x.from_.isSome && y.done && y.rep < x.rep)

/-- Is a request for host memory that the same tile injected before still on its way (R219)? -/
def earlierHost (s : State) (x : Txn) : Bool :=
  match routeOfTxn s x with
  | .host _ => s.txns.any (fun y => y.tile == x.tile && x.tile.isSome && y.id < x.id && y.stage == .toHome && (match routeOfTxn s y with
      | .host _ => true
      | _ => false))
  | _ => false

/-- DEVICE_REPLY (R227): the reply of a transaction reaches its master, those of one slice in order (R219). One whose address is
not cached is served by its endpoint first. -/
def execDeviceReply (id : Nat) (s : State) : Host.Outcome State Fault Refusal :=
  match txnOf s id with
  | none => .next s
  | some x =>
    match x.stage with
    | .replied st => .next (if earlierReply s x then s else passEdge s x st)
    | .toHome =>
      if earlierOverlap s x || earlierHost s x then .next s
      else
        let r := serveDirect s x
        match r.2.stage with
        | .replied st => .next (passEdge r.1 r.2 st)
        | _ => .next (updTxn r.1 id (fun _ => r.2))
    | _ => .next s

end Sys2Proof.Machine
end

