-- ==== Sys2Proof/Machine/HbmEvents.lean ====
section
/-! DEFINITION. What happens at the HBM controllers (R187 to R212, R343): service of queued requests, add-buffer time-outs,
promotion, refresh, retrain and margining runs, and controller reset. -/

namespace Sys2Proof.Machine

/-- A queued request by identifier. -/
def reqOf (s : State) (i id : Nat) : Option HbmReq := (ctrlOf s i).queue.find? (fun r => r.id == id)

/-! ### Scheduling (R205, R206) -/

/-- The requests that the queues of a pseudo-channel hold: the 32 oldest reads and the 32 oldest writes, and the adds, which
go to the add buffer. -/
def queued (s : State) (i c : Nat) : List HbmReq :=
  let l := pchReqs s i c
  let reads := (l.filter (fun r => r.kind == .read)).take 32
  let writes := (l.filter (fun r => r.kind.isWrite)).take 32
  l.filter (fun r => match r.kind with
    | .read => reads.contains r
    | .write | .masked => writes.contains r
    | .add _ => addFits s i r.gran)

/-- The partition that a request acts for; 8: the device. -/
def reqPart (s : State) (r : HbmReq) : Nat :=
  (match r.dom with
    | .stack st => partOfStack s st
    | .tile t => partOfTile s t
    | .part p => some p
    | _ => none).getD 8

/-- The level of a request as the controller ranks it: while the write queue drains, reads of level 3 come after writes. -/
def levelOf (s : State) (i c : Nat) (r : HbmReq) : Nat :=
  2 * r.level + b2n (r.level == 3 && r.kind == .read && (ctrlOf s i).drain.contains c)

/-- Is the row of a request open in its bank? -/
def rowHit (s : State) (i c : Nat) (r : HbmReq) : Bool :=
  let place := rowPlace s.asm (r.gran * 256)
  SMap.get 0 (ctrlOf s i).rows (c * 32 + bankOf place) == place / 32 + 1

/-- The request that the controller serves next on a pseudo-channel (R189, R205, R206): among those that are the oldest of
their granule, the best level; within it the partitions in turn; of a partition's requests a row hit at level 3, else the
oldest (notes/assumptions/82.md). -/
def nextReq (s : State) (i c : Nat) : Option HbmReq :=
  let l := (queued s i c).filter (fun r => ((ctrlOf s i).queue.find? (fun q => q.gran == r.gran)).any (fun q => q.id == r.id))
  match (l.map (levelOf s i c)) with
  | [] => none
  | x :: xs =>
    let best := xs.foldl min x
    let at_ := l.filter (fun r => levelOf s i c r == best)
    let last := SMap.get 0 (ctrlOf s i).turn (c * 8 + best / 2)
    let mine := (((List.range 9).map (fun k => (last + k) % 9)).find? (fun p => at_.any (fun r => reqPart s r == p))).getD 8
    let own := at_.filter (fun r => reqPart s r == mine)
    (if best / 2 = 3 then own.find? (rowHit s i c) else none).orElse (fun _ => own.head?)

/-- May the controller serve a request now: it is the next of its pseudo-channel, which no slice holds (R209), and the
controller is not in reset (R208)? -/
def servable (s : State) (i : Nat) (r : HbmReq) : Bool :=
  let c := (ctrlAt s.asm (r.gran * 256)).2
  (nextReq s i c).any (fun q => q.id == r.id) && !pchHeld s i c && !(ctrlOf s i).stopped

/-- Note what the service of a request leaves: its row open, its partition served last at its level. -/
def noteServed (s : State) (i : Nat) (r : HbmReq) : State :=
  let c := (ctrlAt s.asm (r.gran * 256)).2
  let place := rowPlace s.asm (r.gran * 256)
  let p := reqPart s r
  updCtrl s i (fun x => { x with
    rows := SMap.set 0 x.rows (c * 32 + bankOf place) (place / 32 + 1)
    turn := SMap.set 0 x.turn (c * 8 + r.level) ((p + 1) % 9) })

/-- Serve a queued request of a kind. -/
def serveKind (s : State) (i id : Nat) (p : HbmKind → Bool) : State :=
  match reqOf s i id with
  | some r => if p r.kind && servable s i r then serveReq (noteServed s i r) i r else s
  | none => s

/-- HBM_READ (R189, R192 to R197, R207). -/
def execHbmRead (ctrl id : Nat) (s : State) : Host.Outcome State Fault Refusal := .next (serveKind s ctrl id (· == .read))

/-- HBM_WRITE (R169, R189). -/
def execHbmWrite (ctrl id : Nat) (s : State) : Host.Outcome State Fault Refusal := .next (serveKind s ctrl id (· == .write))

/-- HBM_MASKED_WRITE (R169, R198). -/
def execHbmMaskedWrite (ctrl id : Nat) (s : State) : Host.Outcome State Fault Refusal :=
  .next (serveKind s ctrl id (· == .masked))

/-- HBM_ADD (R199 to R204). -/
def execHbmAdd (ctrl id : Nat) (s : State) : Host.Outcome State Fault Refusal :=
  .next (serveKind s ctrl id (fun k => match k with
    | .add _ => true
    | _ => false))

/-- ADD_ENTRY_TIMEOUT (R200): an entry idle for 256 controller cycles is written back. -/
def execAddEntryTimeout (ctrl cw : Nat) (s : State) : Host.Outcome State Fault Refusal :=
  if (ctrlOf s ctrl).adds.any (fun e => e.cw == cw) && !granHeld s (cw / 4) then .next (addFlushCw s ctrl cw) else .next s

/-- REQUEST_PROMOTE (R206): a request at level 3 or 4 goes to level 2. -/
def execRequestPromote (ctrl id : Nat) (s : State) : Host.Outcome State Fault Refusal :=
  match reqOf s ctrl id with
  | some r =>
    if r.level ≥ 3 then
      let s := updCtrl s ctrl (fun c => { c with queue := updWhere (fun q => q.id == id) (fun q => { q with level := 2, promoted := true }) c.queue })
      .next (addSat s (oMEMEVT ctrl) 47 32 1)
    else .next s
  | none => .next s

/-- Is there a pseudo-channel c of controller i? -/
def pchFitted (s : State) (i c : Nat) : Bool := (ctrlList s.asm).contains i && c < 64

/-- REFRESH (R188): the refresh interval of a pseudo-channel elapses and a refresh is issued. -/
def execRefresh (ctrl pch : Nat) (s : State) : Host.Outcome State Fault Refusal :=
  if pchFitted s ctrl pch then
    .next (updCtrl s ctrl (fun c => { c with refreshes := SMap.set 0 c.refreshes pch (SMap.get 0 c.refreshes pch + 1) }))
  else .next s

/-- REFRESH_MANAGEMENT (R188): a refresh management command in answer to the stack's request. -/
def execRefreshManagement (ctrl pch : Nat) (s : State) : Host.Outcome State Fault Refusal :=
  if pchFitted s ctrl pch then
    .next (updCtrl s ctrl (fun c => { c with rfm := SMap.set 0 c.rfm pch (SMap.get 0 c.rfm pch + 1) }))
  else .next s

/-- LOW_PROMOTE (R223): a LOW request that has waited AGE cycles at an arbiter on its way to its home goes to rank 2. -/
def execLowPromote (id : Nat) (s : State) : Host.Outcome State Fault Refusal :=
  if s.txns.any (fun x => x.id == id && x.low && !x.promoted && x.stage == .toHome) then
    .next (addSat (updTxn s id (fun x => { x with promoted := true })) oBWREVT 31 16 1)
  else .next s

/-! ### Runs (R209, R210, Table 7.13) -/

/-- A start through MEM_RTN by the PF (by_ = 0) or by Headland (by_ = 9, which waits while it is in reset, R367); no
other function reaches the register. -/
def startRun (s : State) (by_ i pch op : Nat) : State :=
  if !pchFitted s i pch || !(by_ == 0 || (by_ == 9 && !s.head.inReset)) then s
  else
    let s := setF (setF s (oMEMRTN i) 40 38 op) (oMEMRTN i) 37 32 pch
    if (ctrlOf s i).run.isSome then setF s (oMEMRTN i) 55 48 2
    else
      let s := setF (setF s (oMEMRTN i) 62 62 1) (oMEMRTN i) 55 48 0
      let s := setF (setF s (oMEMSTAT i) 37 32 pch) (oPCH i pch) 3 2 2
      updCtrl s i (fun c => { c with run := some ⟨op, pch, 0, false⟩ })

/-- MEM_RETRAIN. -/
def execMemRetrain (by_ ctrl pch : Nat) (s : State) : Host.Outcome State Fault Refusal := .next (startRun s by_ ctrl pch 0)
/-- READ_TIMING_MARGIN. -/
def execReadTimingMargin (by_ ctrl pch : Nat) (s : State) : Host.Outcome State Fault Refusal := .next (startRun s by_ ctrl pch 1)
/-- READ_VOLTAGE_MARGIN. -/
def execReadVoltageMargin (by_ ctrl pch : Nat) (s : State) : Host.Outcome State Fault Refusal := .next (startRun s by_ ctrl pch 2)
/-- WRITE_TIMING_MARGIN. -/
def execWriteTimingMargin (by_ ctrl pch : Nat) (s : State) : Host.Outcome State Fault Refusal := .next (startRun s by_ ctrl pch 3)
/-- WRITE_VOLTAGE_MARGIN. -/
def execWriteVoltageMargin (by_ ctrl pch : Nat) (s : State) : Host.Outcome State Fault Refusal := .next (startRun s by_ ctrl pch 4)

/-- The granule with index G of pseudo-channel c of controller i: the inverse of R190 and R191. -/
def granAt (asm : Assembly) (i c g : Nat) : Nat :=
  let w := pchBits asm
  let place := ((ctrlList asm).findIdx? (· == i)).getD 0
  let x := (64 * place + c) ^^^ pchOf asm (g * 2 ^ (8 + w))
  g * 2 ^ w + x

/-- Soft post-package repair of a row (R343), given by its place with bank group, bank and stack ID (R191): its four granules are read, the repair applied, and the granules written
back, uncorrectable codewords poisoned. -/
def softRepair (s : State) (i c row : Nat) : State :=
  let s := addOverlay s (shoalEntry 6 i c (row / 32) (sparesUsed s 6 i c))
  let s := (List.range 4).foldl (fun s k =>
    let g := granAt s.asm i c (row * 4 + k)
    (List.range 4).foldl (fun s j =>
      let r := cwRead s (4 * g + j) true
      cwPut r.1 (4 * g + j) r.2.1 r.2.2.isBad) (addFlushGran s g)) s
  updCtrl s i (fun x => { x with failRows := x.failRows.filter (· != (c, row)) })

/-- A completed retrain resets FAILPIN (R195). -/
def retrained (s : State) (i : Nat) (r : MemRun) : State := if r.op = 0 then setF s (oPCH i r.pch) 15 10 0x3F else s

/-- End a run with a status. -/
def endRun (s : State) (i : Nat) (r : MemRun) (status : Nat) : State :=
  let s := setF (setF s (oMEMRTN i) 62 62 0) (oMEMRTN i) 55 48 status
  updCtrl (setF s (oPCH i r.pch) 3 2 0) i (fun c => { c with run := none })

/-- The edges found on the pins (Table 7.13). -/
def putEyes (s : State) (i : Nat) (eyes : List (Int × Int)) : State :=
  ((List.range 36).zip eyes).foldl (fun s e =>
    setReg s (oEYE i e.1) (BitVec.ofNat 64 (twos 8 e.2.1 * 2 ^ 16 + twos 8 e.2.2 * 2 ^ 8 + twos 8 (e.2.2 - e.2.1)))) s

/-- RETRAIN_SLICE (R209, R210, R343): a slice of the run begins or ends. A retrain takes at most 40 slices; its slices
carry the repairs of failing rows of the pseudo-channel. -/
def execRetrainSlice (ctrl : Nat) (ev : RunEvent) (s : State) : Host.Outcome State Fault Refusal :=
  match (ctrlOf s ctrl).run with
  | none => .next s
  | some r =>
    match ev with
    | .begins =>
      if r.active || (r.op == 0 && r.slices ≥ 40) then .next s
      else
        let s := updCtrl s ctrl (fun c => { c with run := some { r with active := true, slices := r.slices + 1 } })
        let s := setF s (oPCH ctrl r.pch) 3 2 1
        let rows := ((ctrlOf s ctrl).failRows.filter (fun e => e.1 == r.pch)).map (·.2)
        .next (if r.op = 0 then rows.foldl (fun s row => softRepair s ctrl r.pch row) s else s)
    | .ends last eyes =>
      if !r.active then .next s
      else if last then .next (endRun (if r.op = 0 then retrained s ctrl r else putEyes s ctrl eyes) ctrl r 0)
      else
        let s := updCtrl s ctrl (fun c => { c with run := some { r with active := false } })
        .next (setF s (oPCH ctrl r.pch) 3 2 2)
    | .fails => .next (endRun s ctrl r 1)

/-! ### Controller reset (R208, R212) -/

/-- The granules that step 2 of R208 has to write: those of queued writes and adds and of the add buffer. -/
def unwritten (c : Ctrl) : List Nat :=
  nub ((c.queue.filter (fun r => r.kind != .read)).map (·.gran) ++ c.adds.map (fun e => e.cw / 4))

/-- Lose a granule's write (R208): the lost-write table, or a device uncorrectable event when it is full. -/
def loseWrite (s : State) (i gran : Nat) : State :=
  if isLost s i gran then s
  else if (ctrlOf s i).lost.length ≥ 64 then ueEvent s (32 + i) 1 gran
  else updCtrl s i (fun c => { c with lost := c.lost ++ [gran] })

/-- The lost writes that a reset has recorded are captured in MEM_ERR, which the reset has cleared (R208, R212). -/
def captureLost (s : State) (i : Nat) (before : List Nat) : State :=
  ((ctrlOf s i).lost.filter (fun g => !before.contains g)).foldl (fun s g =>
    memErrCapture s i true false true 0 (ctrlAt s.asm (g * 256)).2 0 g) s

/-- Answer a queued write or add that is lost: its sender sees it accepted. -/
def dropWrite (s : State) (i : Nat) (r : HbmReq) : State :=
  let s := dequeue s i r
  let s := match reqStack r with
    | some st => freeWb s st r.gran
    | none => s
  { s with txns := updWhere (fun x => some x.id == r.txn) (fun x => x.reply (nextRep s) none .ok) s.txns }

/-- Replies on their way under the old generation are discarded at the edge and counted (R207, R227); their reads are issued
again (R208). -/
def reissueFills (s : State) (i : Nat) : State :=
  let mine := s.fills.filter (fun f => f.data.isSome && (ctrlAt s.asm (f.sec * 256)).1 == i)
  let s := { s with fills := s.fills.map (fun f => if mine.contains f then { f with data := none } else f) }
  let s := addSat s oBWREVT 63 48 mine.length
  mine.foldl (fun s f => enqueue s ⟨0, f.sec, .read, 0, [], 0, 2, false, .stack f.stack, f.gen, some f.id, none⟩) s

/-- Registers of controller i after its reset: RL fields and GEN stay (R212), and so does what a pseudo-channel that failed its
training shows in STATE: it is still out of service (notes/assumptions/86.md). -/
def clearMem (s : State) (i : Nat) : State :=
  let gen := regF s (oMEMSTAT i) 11 8
  let keep (o : Nat) : Bool := o == oMEMCFG i || o == oMEMARB i || (memBase i + 0x100 ≤ o && o < memBase i + 0x180)
  let bad := (List.range 64).filter (fun c => regF s (oPCH i c) 3 2 == 3)
  bad.foldl (fun s c => setF s (oPCH i c) 3 2 3)
    (setF (clearRegs s (memBase i) (memBase i + 0x1_0000) (fun o => !keep o)) (oMEMSTAT i) 11 8 gen)

/-- Reset of HBM controller i (R208): accepted writes complete, or are lost when the PHY has failed. -/
def clearCtrl (s : State) (i : Nat) (phyOk : Bool) : State :=
  let s := endSlices s (fun b => b.unit == 32 + i)
  let c := ctrlOf s i
  let ws := c.queue.filter (fun r => r.kind != .read)
  let s := if phyOk then
      (c.adds).foldl (fun s e => addFlushCw s i e.cw) (ws.foldl (fun s r => serveReq s i r) s)
    else
      let s := ws.foldl (fun s r => dropWrite s i r) ((unwritten c).foldl (fun s g => loseWrite s i g) s)
      updCtrl s i (fun c => { c with adds := [] })
  let s := (ctrlOf s i).adds.foldl (fun s e => addFlushCw s i e.cw) s
  let s := nextGen (reissueFills s i) (.ctrl i)
  let s := captureLost (clearMem s i) i c.lost
  let s := setF s (oMEMSTAT i) 3 3 (b2n ((ctrlOf s i).lost != []))
  let s := updCtrl s i (fun c => { c with run := none, pinRun := [], lastCorr := [], stopped := true, rows := [], drain := [], turn := [] })
  { s with ras := { s.ras with scrubs := s.ras.scrubs.filter (fun e => e.1 != 32 + i) } }

/-- HBM_CONTROLLER_RESET (R208, R370, R377): a PHY fault resets the controller; `phyOk` says that step 2 completes. -/
def execHbmControllerReset (ctrl : Nat) (phyOk : Bool) (s : State) : Host.Outcome State Fault Refusal :=
  if (ctrlList s.asm).contains ctrl && !genBusy s (.ctrl ctrl) then
    .next (countReset (enterReset (clearCtrl s ctrl phyOk) (.ctrl ctrl)) (.ctrl ctrl))
  else .next s

end Sys2Proof.Machine
end

