-- ==== Sys2Proof/Machine/Boot.lean ====
section
/-! DEFINITION. Bring-up as it begins (R356 to R360, R362): the boot choice, the journal, the shutdown record, and what a
device reset clears (R370, R371, Table 14.6). -/

namespace Sys2Proof.Machine

/-! ### Shoal counts (R342, Table 13.9) -/

/-- RAS_SHOAL_STAT as the map stands. -/
def refreshShoal (s : State) : State :=
  setReg s oSHOALSTAT (BitVec.ofNat 64 (min 65535 s.ras.fuses.length * 2 ^ 48 + min 65535 s.ras.overlay.length * 2 ^ 32 +
    min 65535 (pendingShoal s).length * 2 ^ 16))

/-! ### The start of bring-up (R360) -/

/-- The Flood step with which bring-up begins: steps whose rail is good pass at once. -/
def firstFlood (s : State) : Nat :=
  match [2, 3, 4, 5, 6].find? (fun n => (floodRail n).any (fun r => !railOk s r)) with
  | some n => n
  | none => 7

/-- THM_REC comes from the event cells or the flash record; a valid one starts restricted mode (R308, R311, R326). -/
def readShutdown (s : State) : State :=
  let s := match s.power.cells.getLast?, s.head.flash.recValid with
    | some c, _ => setReg s oTHMREC (cellWord c)
    | none, some c => setReg s oTHMREC (cellWord c)
    | none, none => s
  setF s oTHMSTAT 63 63 (b2n (regB s oTHMREC 63))

/-- A register that the record loads: its RL fields. -/
def loadReg (s : State) (r : Nat × DWord) : State := setReg s r.1 (stageRL s.asm r.1 (reg s r.1) r.2)

/-- The PWR_RAIL values of a record (step 1 of the Flood sequence, Table 12.2). -/
def loadRails (s : State) (r : Record) : State := (r.regs.filter (fun e => (List.range 5).any (fun k => e.1 == oRAIL k))).foldl loadReg s

/-- Bring-up starts at stage 0: the images are chosen (R357), the journal is replayed, the trip record and the rail values are
read, the header waves run anew; the rail of the first Flood step that is not good is enabled. -/
def bootStart (s : State) : State :=
  let f := s.head.flash
  let bank := bankChoice f
  let slot := slotChoice f
  let staged := !s.pins.stagedN || (slot.any (fun x => (slotRecord f x.1).staged))
  let s := { s with
    power := { s.power with flood := firstFlood s, ebb := 0, headers := [] }
    head := { s.head with
      running := true, failed := false, waiting := false, contSeen := false, held := false, inReset := false
      clearDue := false, tgSeen := false
      bank := (bank.map (·.1)).getD 0, slot := (slot.map (·.1)).getD 0 } }
  let s := match floodRail s.power.flood with
    | some r => enableRail s r true
    | none => s
  let s := setF (setReg s oHLMSTAT 0) oHLMSTAT 23 23 (b2n staged)
  let s := setF s oHLMSTAT 18 18 (b2n (bank.any (·.2) || slot.any (·.2)))
  let s := match bank with
    | some b => setF (setF s oHLMSTAT 63 48 (bankVersion f b.1)) oHLMSTAT 19 19 b.1
    | none => s
  let s := readShutdown (match slot with
    | some k => loadRails s (slotRecord f k.1)
    | none => s)
  refreshShoal (replayJournal (setPwrState s (if railOk s 1 then 1 else 0)))

/-! ### Device reset (Table 14.6) -/

/-- The registers of the always-on island that a device reset leaves: Tidegauge but for the tide table and the commit
state (R257), and the sticky fields. -/
def keptRegister (o : Nat) : Bool :=
  (0x20_0000 ≤ o && o < 0x20_1000 && o != oTGCMT && !(oCMTST 0 ≤ o && o < oCMTST 8)) || o == oPWRSTAT || o == oTHMREC ||
    o == oESCCFG || (oESCLOG 0 ≤ o && o < oESCLOG 32)

/-- GEN of controllers and ports is not cleared but incremented (R212, R277). -/
def keepGens (s t : State) : State :=
  let t := (ctrlList s.asm).foldl (fun t c => setF t (oMEMSTAT c) 11 8 (regF s (oMEMSTAT c) 11 8)) t
  (List.range (surfPorts s.asm)).foldl (fun t p => setF t (oLNKSTAT p) 43 40 (regF s (oLNKSTAT p) 43 40)) t

/-- PWR_STAT after a device reset: RAILOK and STATE are the hardware's. -/
def keepPower (s : State) : State :=
  setReg s oPWRSTAT (BitVec.ofNat 64 (regF s oPWRSTAT 13 8 * 2 ^ 8 + regF s oPWRSTAT 2 0))

/-- Every unit but the always-on island is cleared, after the BIST slices have ended (R345), and every generation increments. -/
def clearDevice (s : State) : State :=
  let s := endSlices s (fun _ => true)
  let t := { s with
    bar0 := s.bar0.filter (fun e => keptRegister e.1)
    tiles := [], shelf := [], fills := [], upds := [], ctrls := [], txns := [], prevCfg := [], resetting := []
    tg := { s.tg with fired := [], commits := [], cupOpen := 0 }
    ports := SMap.mapv Port.reset s.ports (fun y => { Port.reset with sent := y.sent })
    surf := Surf.reset, parts := []
    power := { s.power with departed := [] }
    heat := ⟨[], []⟩
    ras := { s.ras with scrubs := [], bists := [], cursors := [], scans := [], streams := [], surf := [] }
    head := { s.head with polls := [], out := [], unusable := [], replays := [], tileFw := none }
    pins := { s.pins with alertN := true, linkTrain := false, portOn := false } }
  keepPower ((enclosed s .device).foldl bumpGen (keepGens s t))

/-- May a device reset run? During an Ebb sequence or while THERMTRIP_N is low it is ignored (R384); it waits for the counters of
the generations it would reach (R228). -/
def deviceResettable (s : State) : Bool :=
  s.power.aon && !(1 ≤ s.power.ebb && s.power.ebb ≤ 4) && s.pins.thermtripN && !genBusy s .device

/-- A device reset: bring-up starts again at stage 0. -/
def resetDevice (s : State) : State := bootStart (clearDevice s)

/-! ### VDD_AON (R311, R325, R360) -/

/-- The machine as it is without VDD_AON: what is not volatile stays. -/
def powerLost (s : State) : State :=
  { State.reset with
    asm := s.asm, pending := s.pending, fresh := s.fresh, nextId := s.nextId, hostMem := s.hostMem, peers := s.peers
    irqs := s.irqs, hostReads := s.hostReads
    ports := SMap.mapv Port.reset s.ports (fun y => { Port.reset with sent := y.sent })
    power := ⟨false, 2, 0, 0, [], [], 0, s.power.cells⟩
    tg := { Tidegauge.reset with stepOut := false }
    ras := { State.reset.ras with fuses := s.ras.fuses }
    head := { Headland.reset with running := false, flash := s.head.flash }
    pins := { s.pins with thermtripN := true, alertN := true, slowFallback := false, linkTrain := false, portOn := false } }

/-- VDD_AON_FALL (R310, R311, R325): the rail's failure is written to the event cells from the hold-up capacitance;
THERMTRIP_N is released; the ST fields are lost. -/
def execVddAonFall (s : State) : Host.Outcome State Fault Refusal :=
  if !s.power.aon then .next s
  else .next (powerLost (if 1 ≤ pwrState s && pwrState s ≤ 3 then writeCellFree s 3 4 else s))

/-- VDD_AON_RISE (R237, R257, R342, R360, R362): the straps are read, the overlay is the journal's, reported time and STEP_OUT
start, bring-up starts. -/
def execVddAonRise (stagedN haltInN : Bool) (s : State) : Host.Outcome State Fault Refusal :=
  if s.power.aon then .next s
  else
    let s := { powerLost s with pins := { (powerLost s).pins with stagedN := stagedN, haltInN := haltInN } }
    .next (bootStart (refreshOut { s with power := { s.power with aon := true } }))

/-! ### Device resets by their sources (R370, R377, R384) -/

/-- PERST_N: asserted. It is not counted. -/
def execPerstN (s : State) : Host.Outcome State Fault Refusal :=
  let s := { s with pins := { s.pins with perstN := false, linkTrain := false } }
  .next (if deviceResettable s then resetDevice s else s)

/-- PERST_N_RISE (R383): link training starts, or will start when stage 0 enables the port. -/
def execPerstNRise (s : State) : Host.Outcome State Fault Refusal :=
  .next { s with pins := { s.pins with perstN := true, linkTrain := s.pins.linkTrain || s.pins.portOn } }

/-- PF_FLR: counted. -/
def execPfFlr (s : State) : Host.Outcome State Fault Refusal :=
  .next (if deviceResettable s then resetDevice (countReset s .device) else s)

/-- DEVRST: a PF write of HLM_CTL.DEVRST, counted. -/
def execDevrst (fn : Nat) (s : State) : Host.Outcome State Fault Refusal :=
  .next (if fn == 0 && canWrite s fn 0x3F0_0008 && deviceResettable s then resetDevice (countReset s .device) else s)

/-- DEVICE_RESET: an uncorrectable error in I/O die 0, counted. -/
def execDeviceReset (s : State) : Host.Outcome State Fault Refusal :=
  .next (if deviceResettable s then resetDevice (countReset (pfIrq s 5) .device) else s)

/-! ### The other domains (R370, R371) -/

/-- VF_FLR (R287): the partition of VF vf is reset from any state but OUT; counted. -/
def execVfFlr (vf : Nat) (s : State) : Host.Outcome State Fault Refusal :=
  let p := vf - 1
  if vf = 0 || totalVFs s.asm < vf || pState s p = 6 || genBusy s (.part p) then .next s
  else .next (countReset (enterReset (clearPartition (endReplay s p) p) (.part p)) (.part p))

/-- PARTITION_RESET. -/
def execPartitionReset (part : Nat) (s : State) : Host.Outcome State Fault Refusal :=
  if totalVFs s.asm ≤ part || pState s part = 6 || genBusy s (.part part) then .next s
  else .next (enterReset (clearPartition (endReplay s part) part) (.part part))

/-- TILE_RESET. -/
def execTileReset (t : Nat) (s : State) : Host.Outcome State Fault Refusal :=
  if !tileFitted s.asm t || genBusy s (.tile t) then .next s else .next (resetTile s t)

/-- STACK_RESET. -/
def execStackReset (stack : Nat) (s : State) : Host.Outcome State Fault Refusal :=
  if crests s.asm ≤ stack || genBusy s (.stack stack) then .next s else .next (resetStack s stack)

/-- Clear I/O die d: its BIST slices end, then its controllers, ports and check-value channels. -/
def clearIoDie (s : State) (d : Nat) : State :=
  let s := endSlices s (fun b => b.unit == 96 + d)
  let s := ((ctrlList s.asm).filter (fun c => c / 2 == d)).foldl (fun s c => clearCtrl s c true) s
  let s := ((List.range (surfPorts s.asm)).filter (fun p => p / 12 == d)).foldl clearPort s
  let s := { s with ras := { s.ras with
    scans := s.ras.scans.filter (fun (e : Nat × List (Nat × Nat)) => e.1 / 8 != d) } }
  nextGen s (.ioDie d)

/-- Reset of I/O die d, which is not 0. -/
def resetIoDie (s : State) (d : Nat) : State := enterReset (clearIoDie s d) (.ioDie d)

/-- IO_DIE_RESET: a crossbar uncorrectable error, counted. -/
def execIoDieReset (die : Nat) (s : State) : Host.Outcome State Fault Refusal :=
  if die = 0 || ioDies s.asm ≤ die || genBusy s (.ioDie die) then .next s
  else
    let d := draw s
    .next (countReset (resetIoDie (ueEvent d.2 (96 + die) 1 d.1.toNat) die) (.ioDie die))

/-! ### Back into service (R371, step 5) -/

/-- A controller serves again. TRAINED is 1 when every pseudo-channel is trained (Table 7.7). -/
def ctrlBack (s : State) (c : Nat) : State :=
  setF (updCtrl s c (fun x => { x with stopped := false })) (oMEMSTAT c) 2 2
    (b2n ((List.range 64).all (fun k => regF s (oPCH c k) 3 2 != 3)))

/-- The state of partition p after its reset (Table 11.4, R365, R372). -/
def partBack (s : State) (p : Nat) : State :=
  if pState s p = 6 || ((partOf s p).replay.isSome && pState s p = 4) then s
  else setPState s p (if partValid s p && !s.head.unusable.any (ownsStack s p) then 1 else 0)

/-- DOMAIN_RESET_DONE. -/
def execDomainResetDone (dom : ResetDomain) (s : State) : Host.Outcome State Fault Refusal :=
  if !s.resetting.contains dom then .next s
  else
    let s := { s with resetting := s.resetting.filter (fun d => d != dom) }
    .next (match dom with
      | .ctrl c => ctrlBack s c
      | .part p => partBack s p
      | .ioDie d => ((ctrlList s.asm).filter (fun c => c / 2 == d)).foldl ctrlBack s
      | _ => s)

/-- SLOW_CLOCK_FALLBACK (R297). -/
def execSlowClockFallback (s : State) : Host.Outcome State Fault Refusal :=
  .next { s with pins := { s.pins with slowFallback := true } }

end Sys2Proof.Machine
end

