-- ==== Sys2Proof/Machine/Bringup.lean ====
section
/-! DEFINITION. The bring-up stages (R360 to R366): what each does, its report, staged and halted bring-up, failures. -/

namespace Sys2Proof.Machine

/-! ### The stage report (Table 14.4) -/

/-- Slices retired or absent. -/
def slicesOut (s : State) : Nat :=
  (List.range (crests s.asm)).foldl (fun n st => n + popcount 16 (regF s (oSHFSTAT st) 63 48)) 0

/-- Pseudo-channels out of service. -/
def pchsOut (s : State) : Nat :=
  (ctrlList s.asm).foldl (fun n i => n + ((List.range 64).filter (fun c => regF s (oPCH i c) 3 2 == 3)).length) 0

/-- Surf ports in OUT or MISWIRED. -/
def portsOut (s : State) : Nat :=
  ((List.range (surfPorts s.asm)).filter (fun p => portState s p == 4 || portState s p == 5)).length

/-- The kind 5 fuse entry of a die. -/
def hiddenFuse (s : State) (st : Nat) : Option Nat :=
  (s.ras.fuses.find? (fun e => fld e 63 60 == 5 && fld e 55 48 == st)).map (fun e => fld e 31 8)

/-- Tile columns hidden in this boot beyond the fuses. -/
def columnsHidden (s : State) : Nat :=
  ((List.range (crests s.asm)).filter (fun st => (hiddenFuse s st).isNone && hiddenCol s st != 16)).length

/-- The 64 bytes of a report. -/
def reportBytes (s : State) (stage result ms failcode : Nat) : List Byte :=
  leBytes 1 stage ++ leBytes 1 result ++ leBytes 2 (min 65535 ms) ++
    leBytes 1 (s.head.bank + (if regB s oHLMSTAT 18 then 128 else 0)) ++ leBytes 1 s.head.slot ++ leBytes 2 failcode ++
    leBytes 2 (columnsHidden s) ++ leBytes 2 (slicesOut s) ++ leBytes 2 (pchsOut s) ++ leBytes 1 (portsOut s) ++
    leBytes 2 (ofBits s.head.unusable) ++ leBytes 3 0 ++ leBytes 4 (slotRecord s.head.flash s.head.slot).seq ++
    leBytes 8 (reg s oTGNOW).toNat ++ leBytes 32 0

/-- Post a report: HLM_SREP, HLM_STAT.RESULT, PF vector 7 (R363). -/
def postReport (s : State) (stage result ms failcode : Nat) : State :=
  let b := reportBytes s stage result ms failcode
  let s := (List.range 8).foldl (fun s i => setReg s (oSREP i) (BitVec.ofNat 64 (eNat b (8 * i) 8))) s
  pfIrq (setF s oHLMSTAT 27 24 result) 7

/-! ### Failure (R361) -/

/-- The PCIe port is enabled: link training starts when PERST_N is high (R383). -/
def portOn (s : State) : State := { s with pins := { s.pins with portOn := true, linkTrain := s.pins.linkTrain || s.pins.perstN } }

/-- A failed stage ends the bring-up: result 2, and the Ebb sequence but for VDD_AON, the PCIe port and the mailbox. -/
def failStage (s : State) (ms failcode : Nat) : State :=
  let s := portOn (postReport s (stageNow s) 2 ms failcode)
  startEbb { s with head := { s.head with running := false, failed := true, waiting := false } }

/-- The limit of a stage in ms (Table 14.3). -/
def stageLimit : Nat → Nat
  | 0 => 500
  | 1 => 20
  | 2 => 1000
  | 3 => 1000
  | _ => 200

/-! ### Stage 0 -/

/-- The shutdown record as stage 0 leaves it: the cells go to flash when R328 permits and are cleared (R311, R326). -/
def loadShutdown (s : State) : State :=
  let s := readShutdown s
  if s.power.cells = [] then s
  else if flashWindow s then { recordShutdown s with power := { s.power with cells := [] } }
  else addSat s oTHMEVT 63 48 1

/-- Does an offset belong to the tide table, which is loaded in stage 4? -/
def isEntry (o : Nat) : Bool := 0x20_1000 ≤ o && o < 0x20_2000

/-- The RATE of a record (R187): the first that it gives a populated controller and that is not the reserved code. -/
def recordRate (s : State) (r : Record) : Option Nat :=
  ((r.regs.filter (fun e => (ctrlList s.asm).any (fun c => e.1 == oMEMCFG c))).map (fun e => fld e.2 1 0)).find? (fun v => v != 3)

/-- One RATE in every populated controller (R187): that of the record, else the reset value. -/
def loadRate (s : State) (r : Record) : State :=
  (ctrlList s.asm).foldl (fun s c => setF s (oMEMCFG c) 1 0 ((recordRate s r).getD 2)) s

/-- The record goes into force (R358, Table 14.2): partition table, HST_PCFG whole, registers; SHF_STAT takes the mapping in
force. -/
def loadRecord (s : State) (r : Record) : State :=
  let s := r.parts.foldl (fun s e => loadReg (loadReg s (oPTABA e.1, e.2.1)) (oPTABB e.1, e.2.2)) s
  let s := r.pcfg.foldl (fun s e => if e.1 < totalVFs s.asm then setReg s (oPCFG e.1) (BitVec.ofNat 64
      (fld e.2 63 32 * 2 ^ 32 + fld e.2 17 16 * 2 ^ 16 + fld e.2 0 0)) else s) s
  let s := (r.regs.filter (fun e => !isEntry e.1 && e.1 != oTGCFG)).foldl loadReg s
  let s := loadRate s r
  (List.range (crests s.asm)).foldl (fun s st =>
    let c := reg s (oSHFCFG st)
    setF (setF (setF s (oSHFSTAT st) 5 5 (fld c 1 1)) (oSHFSTAT st) 4 4 (fld c 0 0)) (oSHFSTAT st) 63 48 (fld c 63 48)) s

/-- The work of stage 0: result and FAILCODE. HALT_IN_N is sampled at its end (R364). -/
def stage0 (s : State) (x : StageFindings) : State × Nat × Nat :=
  let f := s.head.flash
  let s := portOn (loadShutdown s)
  let s := { s with pins := { s.pins with haltInN := x.haltInN } }
  match bankChoice f, slotChoice f with
  | some _, some (k, _) =>
    let s := refreshSlotted (loadRecord s (slotRecord f k))
    if s.head.devOut then (s, 4, 0)
    else if !x.haltInN then (setF s oHLMSTAT 21 21 1, 3, 0)
    else (s, 0, 0)
  | _, _ => (s, 2, 2)

/-! ### Stage 2 (R360, R365, R392) -/

/-- Is slice k of stack st absent by the Shoal map? -/
def sliceAbsent (s : State) (st k : Nat) : Bool :=
  (s.ras.fuses ++ s.ras.overlay).any (fun e => fld e 63 60 == 8 && fld e 55 48 == st && fld e 47 44 == k)

/-- Absent slices are retired from the start. -/
def retireAbsent (s : State) (st : Nat) : State :=
  let m := ofBits ((List.range 16).filter (sliceAbsent s st))
  setF s (oSHFSTAT st) 63 48 (regF s (oSHFSTAT st) 63 48 ||| m)

/-- Soft repairs become hard ones while the stack has resources (R343). -/
def convertRepairs (s : State) : State :=
  if !regB s oRASCFG 16 then s
  else
    let hard (i : Nat) (e : DWord) : DWord :=
      if fld e 63 60 = 6 ∧ Config.hardRepairLeft (fld e 55 48) i = true then setFld e 63 60 7 else e
    { s with ras := { s.ras with overlay := (List.range s.ras.overlay.length).zip s.ras.overlay |>.map (fun x => hard x.1 x.2) } }

/-- The breaks that the shelf march finds (R360, R341): a spare is mapped for each while one is left. -/
def marchRepair (s : State) (m : Nat × Nat × Nat × Bool × Nat) : State :=
  if crests s.asm ≤ m.1 || 16 ≤ m.2.1 || 3072 ≤ m.2.2.1 then s
  else if m.2.2.2.1 then (spareColumn s 2 m.1 (m.2.1 * 4096 + m.2.2.1) m.2.2.2.2 (16 + m.1)).1
  else (spareRow s 1 m.1 (m.2.1 * 4096 + m.2.2.1) m.2.2.2.2).1

/-- The results of the full trainings of stages 2 and 3 are in force and saved (R274, R360). -/
def saveTrainings (s : State) (x : StageFindings) (mine : Nat → Bool) : State :=
  (x.trained.filter (fun e => mine e.1)).foldl (fun s e => saveTraining s e.1 e.2) s

/-- A controller after training: every codeword is zero (R392). -/
def trainCtrl (bad : List (Nat × Nat)) (s : State) (i : Nat) : State :=
  let mine := bad.filter (fun e => e.1 == i && e.2 < 64)
  let s := updCtrl s i (fun _ => Ctrl.reset)
  let s := mine.foldl (fun s e => setF s (oPCH i e.2) 3 2 3) s
  if mine = [] then setF s (oMEMSTAT i) 2 2 1 else s

/-- The work of stage 2. -/
def stage2 (s : State) (x : StageFindings) : State × Nat × Nat :=
  let cs := ctrlList s.asm
  let slices := x.badSlices.filter (fun e => e.1 < crests s.asm && e.2 < 16 && !sliceAbsent s e.1 e.2)
  let bad := x.badPch.filter (fun e => cs.contains e.1 && e.2 < 64)
  let s := slices.foldl (fun s e => addOverlay s (shoalEntry 8 e.1 (e.2 * 4096) 0 0)) s
  let s := x.marches.foldl marchRepair s
  let s := (List.range (crests s.asm)).foldl (fun s st => setF (retireAbsent s st) (oSHFSTAT st) 2 2 1) s
  let s := saveTrainings s x (fun k => cs.any (fun i => pchTraining i 0 ≤ k && k < pchTraining i 64))
  let s := cs.foldl (trainCtrl bad) { s with dram := [], dramErr := [] }
  let s := refreshShoal (convertRepairs s)
  let s := bad.foldl (fun s _ => logFree s) s
  if cs.all (fun i => (List.range 64).all (fun c => bad.contains (i, c))) then (s, 2, 6)
  else (s, if slices = [] ∧ bad = [] then 0 else 1, 0)

/-! ### Stage 3 (R274) -/

/-- A Surf port at bring-up: UP or MISWIRED when it locked, OUT when its training failed three times. -/
def bringPort (x : StageFindings) (s : State) (p : Nat) : State :=
  if portMode s p = 0 || portState s p != 0 then s
  else
    let s := enterTrain s p
    match x.hellos.find? (fun h => h.1 == p) with
    | some h => trainedPort s p h.2.1 h.2.2
    | none => if x.badPorts.contains p then setPort6 (updPort s p (fun y => { y with fails := 3 })) p 5 else s

/-- The work of stage 3. -/
def stage3 (s : State) (x : StageFindings) : State × Nat × Nat :=
  let s := (List.range (surfPorts s.asm)).foldl (bringPort x) s
  let s := saveTrainings s x (fun k => k < surfPorts s.asm)
  ((List.range (portsOut s)).foldl (fun s _ => logFree s) s, if portsOut s = 0 then 0 else 1, 0)

/-! ### Stage 4 (R365, R366) -/

/-- The hidden column of a die before stage 4 decides: a kind 5 entry's, a fuse first, or 16. -/
def hiddenNow (s : State) (st : Nat) : Nat :=
  match (s.ras.fuses ++ s.ras.overlay.reverse).find? (fun e => fld e 63 60 == 5 && fld e 55 48 == st) with
  | some e => fld e 31 8
  | none => 16

/-- The column that hides the failing ones, if any does. -/
def decideColumn (s : State) (st : Nat) (cols : List Nat) : Option Nat :=
  let h := hiddenNow s st
  match nub (cols.filter (fun c => c != h)) with
  | [] => some h
  | [c] => if (hiddenFuse s st).isNone && cols.all (fun d => d == c) then some c else none
  | _ => none

/-- The failing columns of a die. -/
def failColumns (l : List (Nat × Nat × Nat)) (st : Nat) : List Nat :=
  (l.filter (fun e => e.1 == st && e.2.1 < 12 && e.2.2 < 17)).map (fun e => e.2.2)

/-- One die: its hidden column, or the stack is unusable. -/
def remapDie (x : StageFindings) (s : State) (st : Nat) : State :=
  let h := hiddenNow s st
  match decideColumn s st (failColumns (x.failTiles ++ x.fwFails) st) with
  | none => logFree { s with head := { s.head with hidden := SMap.set 16 s.head.hidden st h, unusable := s.head.unusable ++ [st] } }
  | some c =>
    let s := { s with head := { s.head with hidden := SMap.set 16 s.head.hidden st c } }
    if c = h then s else addOverlay s (shoalEntry 5 st 0 c 0)

/-- A tile whose firmware load failed is logged with cause 3 (Table 14.11). -/
def logFirmware (s : State) (e : Nat × Nat × Nat) : State :=
  let h := hiddenNow s e.1
  let x := 16 * (e.1 % gridW s.asm) + (if e.2.2 < h then e.2.2 else e.2.2 - 1)
  let t := (12 * (e.1 / gridW s.asm) + e.2.1) * 64 + x
  if e.1 < crests s.asm ∧ e.2.1 < 12 ∧ e.2.2 < 17 ∧ e.2.2 ≠ h then escLog s (.tile t) 3 else s

/-- The tide table as the record has it. -/
def loadTable (s : State) (r : Record) : State :=
  passNotices ((r.regs.filter (fun e => isEntry e.1 && e.1 < oENTA 248)).foldl loadReg s)

/-- The tiles of each hidden column switch off (R307). -/
def hideColumns (s : State) : State :=
  (List.range (crests s.asm)).foldl (fun s st =>
    (List.range 12).foldl (fun s r => setUnit s (.tile st r (hiddenCol s st)) 0) s) s

/-- The work of stage 4: tiles and their firmware, tide table, partitions to STOPPED, the hidden columns off. -/
def stage4 (s : State) (x : StageFindings) : State × Nat × Nat :=
  let n0 := s.ras.overlay.length
  let s := x.fwFails.foldl logFirmware s
  let s := (List.range (crests s.asm)).foldl (remapDie x) { s with head := { s.head with unusable := [] } }
  if s.head.unusable.length = crests s.asm then (s, 2, 5)
  else
    let s := { s with head := { s.head with tileFw := some (bankTileFw s.head.flash s.head.bank) } }
    let s := loadTable s (slotRecord s.head.flash s.head.slot)
    let s := hideColumns ((List.range (totalVFs s.asm)).foldl partBack s)
    (s, if s.head.unusable = [] ∧ s.ras.overlay.length = n0 then 0 else 1, 0)

/-! ### Going on (R362, R364) -/

/-- The work of the stage that runs. -/
def stageWork (s : State) (x : StageFindings) : State × Nat × Nat :=
  match stageNow s with
  | 0 => stage0 s x
  | 1 => match x.pllFail with
    | some u => (s, 2, 4 + u % 256 * 256)
    | none => (s, 0, 0)
  | 2 => stage2 s x
  | 3 => stage3 s x
  | _ => stage4 s x

/-- The next stage begins; after stage 4 bring-up is at its end. -/
def nextStage (s : State) : State :=
  let s := { s with head := { s.head with waiting := false, contSeen := false } }
  let s := setF (setF s oHLMSTAT 22 22 0) oHLMSTAT 21 21 0
  if stageNow s = 4 then
    setF { s with head := { s.head with running := false } } oHLMSTAT 31 28 15
  else setF s oHLMSTAT 31 28 (stageNow s + 1)

/-- A stage whose report stands goes on when HALT_IN_N and, in staged bring-up, CONTINUE allow. -/
def goOn (s : State) : State :=
  if !s.head.waiting then s
  else if regB s oHLMSTAT 21 && !s.pins.haltInN then s
  else if regB s oHLMSTAT 23 && !s.head.contSeen then s
  else nextStage s

/-- May the stage end now: Headland runs it, the rails are up, in stage 0 it has written TG_CFG in this bring-up (R235)? -/
def stageReady (s : State) : Bool :=
  s.head.running && !s.head.waiting && !s.head.held && !s.head.inReset && s.power.aon && pwrState s == 2 &&
    stageNow s ≤ 4 && (stageNow s != 0 || s.head.tgSeen)

/-- STAGE_COMPLETE (R360 to R366). When stage 4 completes READY is set and the device queue starts; in staged bring-up its report
waits for CONTINUE as each does (R362). -/
def execStageComplete (found : StageFindings) (s : State) : Host.Outcome State Fault Refusal :=
  if !stageReady s then .next s
  else if found.ms > stageLimit (stageNow s) then .next (failStage s found.ms 1)
  else
    let k := stageNow s
    let r := stageWork s found
    if r.2.1 = 2 then .next (failStage r.1 found.ms r.2.2)
    else
      let s := postReport r.1 k r.2.1 found.ms r.2.2
      if r.2.1 = 4 then .next { s with head := { s.head with held := true, running := false } }
      else
        let s := if k = 4 then advance (setF s oHLMSTAT 17 17 1) 8 else s
        let s := { s with head := { s.head with waiting := true, contSeen := false } }
        .next (goOn (setF s oHLMSTAT 22 22 (fld (reg s oHLMSTAT) 23 23)))

/-- STAGE_TIMEOUT (R361): the stage exceeds its limit. -/
def execStageTimeout (ms : Nat) (s : State) : Host.Outcome State Fault Refusal :=
  if s.head.running && !s.head.waiting && !s.head.held && s.power.aon && stageNow s ≤ 4 && ms > stageLimit (stageNow s) then
    .next (failStage s ms 1)
  else .next s

/-- FLOOD_TIMEOUT (R308, R311, R361): the Flood step exceeds its limit; the rails go down and stage 0 fails. -/
def execFloodTimeout (s : State) : Host.Outcome State Fault Refusal :=
  if s.power.aon && s.head.running && pwrState s ≤ 1 && s.power.ebb == 0 && 2 ≤ s.power.flood && s.power.flood ≤ 7 then
    let n := s.power.flood
    .next (failStage (railsDown (floodCell s)) 0 n)
  else .next s

/-- CONTINUE (R362, R364): ignored while no report waits. -/
def execContinue (fn : Nat) (s : State) : Host.Outcome State Fault Refusal :=
  if fn == 0 && canWrite s fn 0x3F0_0008 && s.head.waiting then
    .next (goOn (setF { s with head := { s.head with contSeen := true } } oHLMSTAT 22 22 0))
  else .next s

/-- HALT_IN_N_RISE (R364): it matters to a halted bring-up only. -/
def execHaltInNRise (s : State) : Host.Outcome State Fault Refusal :=
  .next (goOn { s with pins := { s.pins with haltInN := true } })

end Sys2Proof.Machine
end

