-- ==== Sys2Proof/Machine/Control.lean ====
section
/-! DEFINITION. The control instructions (R109, R110, R128, Table 4.7): one meaning each. -/

namespace Sys2Proof.Machine

/-- The threads of the active mask whose condition is true (R109). -/
def condMask (g : Group) (w : DWord) : BitVec 32 := BitVec.ofNat 32 (ofBits (acting g w))

/-- Branch to TGT, in instructions from the carrying one; a target outside the loaded code is cause 0x14. `g` is the
group as the instruction leaves it. -/
def branch (s : State) (t slot : Nat) (w : DWord) (g : Group) : Res :=
  let a : Int := g.pc.toNat + 8 * wTGT w
  if 0 ≤ a ∧ a < g.codeLen then .jump (setGroup s t slot { g with pc := BitVec.ofNat 32 a.toNat })
  else .trap s 0x14 0

/-- Branch when no thread is left active, else go on. -/
def branchIfEmpty (s : State) (t slot : Nat) (w : DWord) (g : Group) : Res :=
  if g.active = 0 then branch s t slot w g else .done (setGroup s t slot g)

/-- Run `k` when every active thread's condition is true, go on when every one is false (or none is active), fault with
cause 0x12 when they disagree. -/
def uniform (s : State) (t slot : Nat) (w : DWord) (k : Group → Res) : Res :=
  let g := grp s t slot
  let m := condMask g w
  if m = 0 then .done s
  else if m = g.active then k g
  else .trap s 0x12 0

/-- Push a mask-stack entry; a full stack is cause 0x13. -/
def pushMask (s : State) (g : Group) (e : MaskEntry) (k : Group → Res) : Res :=
  if g.masks.length ≥ 16 then .trap s 0x13 0 else k { g with masks := e :: g.masks }

/-- The entries above the innermost LOOP entry, and the LOOP entry with what lies below it. -/
def splitLoop (l : List MaskEntry) : List MaskEntry × List MaskEntry := (l.takeWhile (fun e => e.kind == .ifK), l.dropWhile (fun e => e.kind == .ifK))

def rowBra : Row := rowC 96 anyFields
/-- BRA. -/
def execBra (t slot : Nat) (w : DWord) (s : State) : Host.Outcome State Fault Refusal :=
  issue rowBra t slot w s (fun s => uniform s t slot w (branch s t slot w))

def rowIf : Row := rowC 97 anyFields
/-- IF. -/
def execIf (t slot : Nat) (w : DWord) (s : State) : Host.Outcome State Fault Refusal :=
  issue rowIf t slot w s (fun s =>
    let g := grp s t slot
    let m := condMask g w
    pushMask s g ⟨.ifK, g.active, g.active &&& ~~~ m⟩ (fun g => branchIfEmpty s t slot w { g with active := m }))

def rowElse : Row := rowC 98 anyFields
/-- ELSE. -/
def execElse (t slot : Nat) (w : DWord) (s : State) : Host.Outcome State Fault Refusal :=
  issue rowElse t slot w s (fun s =>
    let g := grp s t slot
    match g.masks with
    | ⟨.ifK, _, e⟩ :: _ => branchIfEmpty s t slot w { g with active := e }
    | _ => .trap s 0x13 0)

def rowEndif : Row := rowC 99 anyFields
/-- ENDIF. -/
def execEndif (t slot : Nat) (w : DWord) (s : State) : Host.Outcome State Fault Refusal :=
  issue rowEndif t slot w s (fun s =>
    let g := grp s t slot
    match g.masks with
    | ⟨.ifK, r, _⟩ :: rest => .done (setGroup s t slot { g with active := r, masks := rest })
    | _ => .trap s 0x13 0)

def rowLoop : Row := rowC 100 anyFields
/-- LOOP. -/
def execLoop (t slot : Nat) (w : DWord) (s : State) : Host.Outcome State Fault Refusal :=
  issue rowLoop t slot w s (fun s =>
    let g := grp s t slot
    pushMask s g ⟨.loopK, g.active, 0⟩ (fun g => .done (setGroup s t slot g)))

def rowBrk : Row := rowC 101 anyFields
/-- BRK. -/
def execBrk (t slot : Nat) (w : DWord) (s : State) : Host.Outcome State Fault Refusal :=
  issue rowBrk t slot w s (fun s =>
    let g := grp s t slot
    let sp := splitLoop g.masks
    let keep := ~~~ condMask g w
    match sp.2 with
    | [] => .trap s 0x13 0
    | _ =>
      let above := sp.1.map (fun e => { e with restore := e.restore &&& keep, els := e.els &&& keep })
      branchIfEmpty s t slot w { g with active := g.active &&& keep, masks := above ++ sp.2 })

def rowEndloop : Row := rowC 102 anyFields
/-- ENDLOOP. -/
def execEndloop (t slot : Nat) (w : DWord) (s : State) : Host.Outcome State Fault Refusal :=
  issue rowEndloop t slot w s (fun s =>
    let g := grp s t slot
    let sp := splitLoop g.masks
    match sp.2 with
    | [] => .trap s 0x13 0
    | l :: rest =>
      if g.active = 0 then .done (setGroup s t slot { g with active := l.restore, masks := rest })
      else if sp.1 = [] then branch s t slot w g
      else .trap s 0x13 0)

def rowCall : Row := rowC 103 anyFields
/-- CALL: guarded like BRA. -/
def execCall (t slot : Nat) (w : DWord) (s : State) : Host.Outcome State Fault Refusal :=
  issue rowCall t slot w s (fun s => uniform s t slot w (fun g =>
    if g.rets.length ≥ 8 then .trap s 0x13 0
    else branch s t slot w { g with rets := ⟨g.pc + 8, g.masks.length⟩ :: g.rets }))

def rowRet : Row := rowC 104 anyFields
/-- RET: with an empty return stack, or at another mask-stack depth than the CALL's, cause 0x13. -/
def execRet (t slot : Nat) (w : DWord) (s : State) : Host.Outcome State Fault Refusal :=
  issue rowRet t slot w s (fun s =>
    let g := grp s t slot
    match g.rets with
    | [] => .trap s 0x13 0
    | r :: rest =>
      if r.depth = g.masks.length then .jump (setGroup s t slot { g with pc := r.pc, rets := rest })
      else .trap s 0x13 0)

/-- The count that the groups waiting at a barrier named. -/
def barrierCount (x : Tile) (b : Nat) : Option Nat :=
  (atBarrier x b).findSome? (fun g => match (groupOf x g).wait with
    | .barrier _ c => some c
    | _ => none)

def rowBar : Row := rowC 105 (fun w => 1 ≤ wCNT w && wCNT w ≤ 8)
/-- BAR (R110): the arrival that completes the count releases every group that waits. -/
def execBar (t slot : Nat) (w : DWord) (s : State) : Host.Outcome State Fault Refusal :=
  issue rowBar t slot w s (fun s =>
    let x := tileOf s t
    let b := wBID w
    let c := wCNT w
    let ws := atBarrier x b
    if (barrierCount x b).any (fun d => d != c) then .trap s 0x15 0
    else if ws.length + 1 ≥ c then .done (ws.foldl (fun s g => updGroup s t g wake) s)
    else .done (updGroup s t slot (fun g => { g with st := .atBarrier, wait := .barrier b c })))

def rowEnd : Row := rowC 106 anyFields
/-- END: the group ends whatever its active mask; its arrays are released (R73). -/
def execEnd (t slot : Nat) (w : DWord) (s : State) : Host.Outcome State Fault Refusal :=
  issue rowEnd t slot w s (fun s => .done (stopGroup s t slot .ended))

def rowNop : Row := rowC 107 anyFields
/-- NOP. -/
def execNop (t slot : Nat) (w : DWord) (s : State) : Host.Outcome State Fault Refusal :=
  issue rowNop t slot w s (fun s => .done s)

end Sys2Proof.Machine
end

