-- ==== Sys2Proof/Machine/Headland.lean ====
section
/-! DEFINITION. Headland in service: its resets and the keeper (R367), unit polls and fences (R368), the mailbox (Table 14.7,
R357, R359, R366, R369), the journal (R342), and what the block does while no command waits. -/

namespace Sys2Proof.Machine

/-! ### Headland reset (R367) -/

/-- Headland goes into reset: the keeper starts at the first one. -/
def headlandReset (s : State) : State := setF { s with head := { s.head with inReset := true } } oHLMSTAT 20 20 1

/-- HLMRST: a PF write of HLM_CTL.HLMRST. -/
def execHlmrst (fn : Nat) (s : State) : Host.Outcome State Fault Refusal :=
  if fn == 0 && canWrite s fn 0x3F0_0008 then .next (headlandReset s) else .next s

/-- HEADLAND_WATCHDOG: the firmware watchdog expires. -/
def execHeadlandWatchdog (s : State) : Host.Outcome State Fault Refusal :=
  if s.power.aon then .next (headlandReset s) else .next s

/-- KEEPOK: Headland is back, and the keeper stops; a clear of the shutdown record that waited is done (R326). A write from
the host is ignored, so this is Headland's own. -/
def execKeepok (s : State) : Host.Outcome State Fault Refusal :=
  if !s.head.inReset then .next s
  else
    let due := s.head.clearDue
    let s := setF { s with head := { s.head with inReset := false, clearDue := false } } oHLMSTAT 20 20 0
    .next (if due then clearRecord s else s)

/-- KEEPER_EXPIRY: the power controller records cause 7 and runs the Ebb sequence. -/
def execKeeperExpiry (s : State) : Host.Outcome State Fault Refusal :=
  if s.power.aon && s.head.inReset && regB s oHLMSTAT 20 && s.power.ebb == 0 then
    .next (startEbb (writeCellFree (setF s oHLMSTAT 20 20 0) 7 0))
  else .next s

/-! ### Unit polls (R368) -/

/-- Is a domain instance in the assembly? -/
def domainHere (s : State) : ResetDomain → Bool
  | .tile t => tileFitted s.asm t
  | .stack st => st < crests s.asm
  | .part p => p < totalVFs s.asm
  | .port p => p < surfPorts s.asm
  | .ctrl c => (ctrlList s.asm).contains c
  | .ioDie d => d < ioDies s.asm
  | .device => true

/-- Reset a domain as a fence does; I/O die 0 is the device (R370). -/
def fenceReset (s : State) : ResetDomain → State
  | .tile t => resetTile s t
  | .stack st => resetStack s st
  | .part p => enterReset (clearPartition (endReplay s p) p) (.part p)
  | .port p => enterReset (clearPort s p) (.port p)
  | .ctrl c => enterReset (clearCtrl s c true) (.ctrl c)
  | .ioDie d => if d = 0 then (if deviceResettable s then resetDevice s else s) else resetIoDie s d
  | .device => if deviceResettable s then resetDevice s else s

/-- The disagreements of a unit in a row. -/
def pollCount (s : State) (d : ResetDomain) : Nat := ((s.head.polls.find? (fun e => e.1 == d)).map (·.2)).getD 0

def setPolls (s : State) (d : ResetDomain) (n : Nat) : State :=
  let l := s.head.polls.filter (fun e => e.1 != d)
  { s with head := { s.head with polls := if n = 0 then l else l ++ [(d, n)] } }

/-- A word of Headland's SRAM as Headland uses it (Table 13.1): corrected in place, or an uncorrectable error of the management
island, which resets Headland (R367). -/
def sramWord (s : State) (w : Nat × BitVec 72) : State :=
  match (eccRead 64 0 w.2.toNat).2.2.1 with
  | .clean => s
  | .fixed _ => corrError s 101
  | .bad => headlandReset (ueEvent s 101 1 (w.1 % 2 ^ 40))

/-- Headland's SRAM is read. -/
def readSram (s : State) : State := s.head.sramErr.foldl sramWord { s with head := { s.head with sramErr := [] } }

/-- A poll of unit `dom`. -/
def pollUnit (s : State) (dom : ResetDomain) (agrees : Bool) : State :=
  if isOut s dom then s
  else if agrees then setPolls s dom 0
  else if pollCount s dom < 7 then setPolls s dom (pollCount s dom + 1)
  else if genBusy s dom then s
  else takeOut (fenceReset (setPolls s dom 0) dom) dom 2

/-- UNIT_POLL: Headland reads its SRAM; adopts the hardware's value; the eighth disagreement in a row fences the unit. -/
def execUnitPoll (dom : ResetDomain) (agrees : Bool) (s : State) : Host.Outcome State Fault Refusal :=
  if !s.power.aon || s.head.inReset || !regB s oHLMSTAT 17 || !domainHere s dom then .next s
  else
    let s := readSram s
    if s.head.inReset then .next s else .next (pollUnit s dom agrees)

/-! ### The mailbox (Table 14.7) -/

/-- Does the mailbox answer: from the end of stage 0, and after a failed stage (R361)? -/
def mailUp (s : State) : Bool := s.power.aon && (stageDone s 0 || s.head.failed)

/-- The reply of a request: its bytes from the start of HLM_MBOX, STATUS, PF vector 7. -/
def mailDone (s : State) (status : Nat) (reply : List Byte) : State :=
  let n := cdiv reply.length 8
  let s := (List.range n).foldl (fun s i =>
    let old := leBytes 8 (reg s (oMBOX i)).toNat
    let new := (reply.drop (8 * i)).take 8
    setReg s (oMBOX i) (BitVec.ofNat 64 (leNat (new ++ old.drop new.length)))) s
  pfIrq (setF (setF s oHLMMBDB 62 62 0) oHLMMBDB 55 48 status) 7

/-- Run a mailbox request: none while another runs; status 4 while Headland is in reset (R367). -/
def mailbox (s : State) (body : State → State) : State :=
  if !mailUp s || regB s oHLMMBDB 62 then s
  else if s.head.inReset then mailDone s 4 []
  else body s

/-- A flash write that R328 refuses is counted. -/
def refuseFlash (s : State) : State := mailDone (addSat s oTHMEVT 63 48 1) 3 []

/-- READ_FLASH. -/
def execReadFlash (off len : Nat) (s : State) : Host.Outcome State Fault Refusal :=
  .next (mailbox s (fun s =>
    if len > 4000 || off + len > 0xF01_0000 then mailDone s 1 []
    else mailDone s 0 ((List.range len).map (fun i => flashRead s.head.flash (off + i)))))

/-- Set the written bytes of bank or slot i. -/
def pairAt {α : Type} (x : α × α) (i : Nat) : α := if i = 0 then x.1 else x.2
def pairPut {α : Type} (x : α × α) (i : Nat) (v : α) : α × α := if i = 0 then (v, x.2) else (x.1, v)

/-- Cells laid over written ones, zeros kept. -/
def rawWrite (m : List Host.Cell) (a : Nat) (bs : List Byte) : List Host.Cell :=
  (Mem.lay a bs).foldl (fun m c => SMap.put m c.1 c.2) m

/-- WRITE_INACTIVE_FIRMWARE_BANK (R359): the bank that this boot does not use. -/
def execWriteInactiveFirmwareBank (off : Nat) (bytes : List (BitVec 8)) (s : State) : Host.Outcome State Fault Refusal :=
  .next (mailbox s (fun s =>
    if off + bytes.length > 0x600_0000 || bytes.length > 4095 then mailDone s 1 []
    else if !flashWindow s then refuseFlash s
    else
      let i := 1 - s.head.bank
      let f := s.head.flash
      let raw := rawWrite (pairAt f.bankRaw i) off bytes
      let f := { f with
        bankRaw := pairPut f.bankRaw i raw
        banks := pairPut f.banks i (imageAccepted false i raw, imageField false i raw 2) }
      mailDone { s with head := { s.head with flash := f } } 0 []))

/-- WRITE_INACTIVE_RECORD_SLOT (R359): the slot that is not in use. -/
def execWriteInactiveRecordSlot (off : Nat) (bytes : List (BitVec 8)) (s : State) : Host.Outcome State Fault Refusal :=
  .next (mailbox s (fun s =>
    if off + bytes.length > 0x100_0000 || bytes.length > 4095 then mailDone s 1 []
    else if !flashWindow s then refuseFlash s
    else
      let i := 1 - s.head.slot
      let f := s.head.flash
      let raw := rawWrite (pairAt f.slotRaw i) off bytes
      let f := { f with slotRaw := pairPut f.slotRaw i raw, slots := pairPut f.slots i (parseRecord i raw) }
      mailDone { s with head := { s.head with flash := f } } 0 []))

/-- The boot header with a choice written into the copy that does not count (R357). -/
def writeHeader (f : Flash) (bank slot : Nat) : Flash :=
  let h := bootHeader f
  let first := f.boot.1.valid && (!f.boot.2.valid || f.boot.2.seq ≤ f.boot.1.seq)
  let n : BootHeader := ⟨true, h.seq + 1, bank, slot⟩
  { f with boot := if first then (f.boot.1, n) else (n, f.boot.2) }

/-- MAKE_PREFERRED (R357): the named bank and slot are authenticated first. -/
def execMakePreferred (bank slot : Nat) (s : State) : Host.Outcome State Fault Refusal :=
  .next (mailbox s (fun s =>
    if bank ≥ 2 || slot ≥ 2 then mailDone s 1 []
    else if !bankValid s.head.flash bank || !(slotRecord s.head.flash slot).valid then mailDone s 2 []
    else if !flashWindow s then refuseFlash s
    else mailDone { s with head := { s.head with flash := writeHeader s.head.flash bank slot } } 0 []))

/-- RETIRE_TILE (R369): the tile's column becomes the hidden one, and the owning partition is reset. -/
def execRetireTile (x y : Nat) (s : State) : Host.Outcome State Fault Refusal :=
  .next (mailbox s (fun s =>
    let st := stackOf s.asm (y * 64 + x)
    if x ≥ tilesX s.asm || y ≥ tilesY s.asm then mailDone s 1 []
    else
      let owner := partOfStack s st
      let idle := owner.all (fun p => pState s p ≤ 1 && !genBusy s (.part p))
      if hiddenCol s st != 16 || (hiddenFuse s st).isSome || !idle || (owner.isNone && genBusy s (.stack st)) then mailDone s 5 []
      else
        let s := { s with head := { s.head with hidden := SMap.set 16 s.head.hidden st (x % 16) } }
        let s := addOverlay s (shoalEntry 5 st 0 (x % 16) 0)
        let s := match owner with
          | some p => enterReset (clearPartition s p) (.part p)
          | none => resetStack s st
        mailDone s 0 []))

/-- Is a tile drained: no started group, no queued attention command? -/
def tileDrained (s : State) (t : Nat) : Bool :=
  !(slots8.any (fun g => (grp s t g).live)) && (tileOf s t).att.all (fun c => c.isFinal)

/-- A tile of a broadcast (R366): `bad` says how many of its checks of the CRC-32 fail. The image is sent up to 3 times more; a
tile whose four checks fail is taken out of service with cause 3. -/
def tileFirmware (s : State) (bad : List (Nat × Nat)) (t : Nat) : State :=
  let fails := ((bad.find? (fun e => e.1 == t)).map (·.2)).getD 0
  if 4 ≤ fails then takeOut s (.tile t) 3
  else updTile s t (fun x => { x with fwBusy := true, fw := some (bankTileFw s.head.flash s.head.bank) })

/-- BROADCAST_TILE_FIRMWARE (R366, R369): LAUNCHes that name the tiles are held until it ends. -/
def execBroadcastTileFirmware (fw : FwBroadcast) (s : State) : Host.Outcome State Fault Refusal :=
  .next (mailbox s (fun s =>
    let r := fw.rect.toNat
    let ts := rectTiles (r % 256) (r / 2 ^ 8 % 256) (r / 2 ^ 16 % 256) (r / 2 ^ 24)
    if ts = [] || ts.any (fun t => !tileFitted s.asm t) || r / 2 ^ 16 % 256 ≥ 64 then mailDone s 1 []
    else if ts.any (fun t => !tileDrained s t) then mailDone s 5 []
    else setF (ts.foldl (fun s t => tileFirmware s fw.bad t) s) oHLMMBDB 62 62 1))

/-- Does a broadcast run: it is the one request that stays in progress after its command? -/
def broadcasting (s : State) : Bool := s.tiles.any (fun e => e.2.fwBusy) || (mailUp s && regB s oHLMMBDB 62)

/-- The broadcast has reached its tiles. -/
def endBroadcast (s : State) : State :=
  mailDone { s with tiles := SMap.mapv Tile.reset s.tiles (fun x => { x with fwBusy := false }) } 0 []

/-- READ_EVENT_LOG (R326): THM_REC and an entry of the event log. -/
def execReadEventLog (idx : Nat) (s : State) : Host.Outcome State Fault Refusal :=
  .next (mailbox s (fun s =>
    match s.head.flash.log[idx]? with
    | some e => mailDone s 0 (leBytes 8 (reg s oTHMREC).toNat ++ leBytes 8 e.toNat)
    | none => mailDone s 1 (leBytes 8 (reg s oTHMREC).toNat)))

/-! ### The journal (R342) -/

/-- Does Headland hold something for the flash: repairs, training results, log entries? -/
def journalWaits (s : State) : Bool :=
  pendingShoal s != [] || s.head.training != journalTraining s.head.flash || s.head.pendLog != []

/-- JOURNAL_WRITE (R328, R342, R358): what waits goes to flash; outside the temperature window the write is refused and counted,
and what waits goes on waiting. -/
def execJournalWrite (s : State) : Host.Outcome State Fault Refusal :=
  if !s.power.aon || s.head.inReset || !journalWaits s then .next s
  else if !flashWindow s then .next (addSat s oTHMEVT 63 48 1)
  else
    let f := s.head.flash
    let f := { f with journal := newJournal f s.ras.overlay s.head.training, log := f.log ++ s.head.pendLog }
    .next (setF { s with head := { s.head with flash := f, pendLog := [] } } oSHOALSTAT 31 16 0)

/-! ### While no command waits -/

/-- What the block does on an empty queue (notes/assumptions/3.md): a firmware broadcast ends, else one tick of reported
time passes. -/
def idle (s : State) : State := if broadcasting s then endBroadcast s else tick s

end Sys2Proof.Machine
end

