-- ==== Sys2Proof/Machine/Lanes.lean ====
section
/-! DEFINITION. The lane-block instructions (Table 4.3, R99, R101 to R104, R391): one meaning each. -/

namespace Sys2Proof.Machine

/-- A two-operand 32-bit result. -/
def lane2 (w : DWord) (f : Word → Word → Word) : Group → Nat → LaneOut :=
  fun g th => .reg (wWD w) (f (rget g th (wWA w)) (opB g w th))

/-- A two-operand binary32 result with its exceptions. -/
def laneF (w : DWord) (f : Nat → Nat → Nat × FFlags) : Group → Nat → LaneOut :=
  fun g th => .regF (wWD w) (f (rget g th (wWA w)).toNat (opB g w th).toNat)

/-- A two-operand binary64 result with its exceptions. -/
def laneD (w : DWord) (f : Nat → Nat → Nat × FFlags) : Group → Nat → LaneOut :=
  fun g th => .pairF (wWD w) (f (rget2 g th (wWA w)).toNat (rget2 g th (wWB w)).toNat)

/-- The rounding code MOD[17:16]. -/
def rnd (w : DWord) : Nat := wMOD w % 4

/-- Is MOD[16] set (unsigned, IMULH, IMIN, IMAX)? -/
def unsig (w : DWord) : Bool := bit (wMOD w) 0

/-! ### Integer arithmetic and logic -/

def rowIadd : Row := rowR 0x00 true anyFields false
/-- IADD: wd = (wa + wb) mod 2^32. -/
def execIadd (t slot : Nat) (w : DWord) (s : State) : Host.Outcome State Fault Refusal :=
  issue rowIadd t slot w s (laneBody t slot w (lane2 w (fun a b => a + b)))

def rowIsub : Row := rowR 0x01 true anyFields false
/-- ISUB: wd = (wa - wb) mod 2^32. -/
def execIsub (t slot : Nat) (w : DWord) (s : State) : Host.Outcome State Fault Refusal :=
  issue rowIsub t slot w s (laneBody t slot w (lane2 w (fun a b => a - b)))

def rowImul : Row := rowR 0x02 true anyFields false
/-- IMUL: the low 32 bits of the product. -/
def execImul (t slot : Nat) (w : DWord) (s : State) : Host.Outcome State Fault Refusal :=
  issue rowImul t slot w s (laneBody t slot w (lane2 w (fun a b => a * b)))

/-- The high 32 bits of a signed or unsigned product. -/
def mulHigh (u : Bool) (a b : Word) : Word :=
  if u then BitVec.ofNat 32 (a.toNat * b.toNat / 2 ^ 32) else BitVec.ofInt 32 (a.toInt * b.toInt / 2 ^ 32)

def rowImulh : Row := rowR 0x03 true anyFields false
/-- IMULH: the high 32 bits of the product. -/
def execImulh (t slot : Nat) (w : DWord) (s : State) : Host.Outcome State Fault Refusal :=
  issue rowImulh t slot w s (laneBody t slot w (lane2 w (mulHigh (unsig w))))

def rowImad : Row := rowR 0x04 false anyFields true
/-- IMAD: wd = (wa * wb + wc) mod 2^32. -/
def execImad (t slot : Nat) (w : DWord) (s : State) : Host.Outcome State Fault Refusal :=
  issue rowImad t slot w s (laneBody t slot w (fun g th =>
    .reg (wWD w) (rget g th (wWA w) * rget g th (wWB w) + rget g th (wWC w))))

def rowAnd : Row := rowR 0x05 true anyFields false
/-- AND. -/
def execAnd (t slot : Nat) (w : DWord) (s : State) : Host.Outcome State Fault Refusal :=
  issue rowAnd t slot w s (laneBody t slot w (lane2 w (fun a b => a &&& b)))

def rowOr : Row := rowR 0x06 true anyFields false
/-- OR. -/
def execOr (t slot : Nat) (w : DWord) (s : State) : Host.Outcome State Fault Refusal :=
  issue rowOr t slot w s (laneBody t slot w (lane2 w (fun a b => a ||| b)))

def rowXor : Row := rowR 0x07 true anyFields false
/-- XOR. -/
def execXor (t slot : Nat) (w : DWord) (s : State) : Host.Outcome State Fault Refusal :=
  issue rowXor t slot w s (laneBody t slot w (lane2 w (fun a b => a ^^^ b)))

def rowShl : Row := rowR 0x08 true anyFields false
/-- SHL: shift left by wb mod 32. -/
def execShl (t slot : Nat) (w : DWord) (s : State) : Host.Outcome State Fault Refusal :=
  issue rowShl t slot w s (laneBody t slot w (lane2 w (fun a b => a <<< (b.toNat % 32))))

def rowShr : Row := rowR 0x09 true anyFields false
/-- SHR: logical shift right by wb mod 32. -/
def execShr (t slot : Nat) (w : DWord) (s : State) : Host.Outcome State Fault Refusal :=
  issue rowShr t slot w s (laneBody t slot w (lane2 w (fun a b => a >>> (b.toNat % 32))))

def rowSar : Row := rowR 0x0A true anyFields false
/-- SAR: arithmetic shift right by wb mod 32. -/
def execSar (t slot : Nat) (w : DWord) (s : State) : Host.Outcome State Fault Refusal :=
  issue rowSar t slot w s (laneBody t slot w (lane2 w (fun a b => a.sshiftRight (b.toNat % 32))))

/-- Is a below b, unsigned or signed? -/
def wless (u : Bool) (a b : Word) : Bool := if u then a.ult b else a.slt b

def rowImin : Row := rowR 0x0B true anyFields false
/-- IMIN: the smaller operand, signed or unsigned. -/
def execImin (t slot : Nat) (w : DWord) (s : State) : Host.Outcome State Fault Refusal :=
  issue rowImin t slot w s (laneBody t slot w (lane2 w (fun a b => if wless (unsig w) b a then b else a)))

def rowImax : Row := rowR 0x0C true anyFields false
/-- IMAX: the larger operand, signed or unsigned. -/
def execImax (t slot : Nat) (w : DWord) (s : State) : Host.Outcome State Fault Refusal :=
  issue rowImax t slot w s (laneBody t slot w (lane2 w (fun a b => if wless (unsig w) a b then b else a)))

def rowSel : Row := rowR 0x0D false anyFields false
/-- SEL: wa or wb by predicate MOD[18:16]. -/
def execSel (t slot : Nat) (w : DWord) (s : State) : Host.Outcome State Fault Refusal :=
  issue rowSel t slot w s (laneBody t slot w (fun g th =>
    .reg (wWD w) (if pget g (wMOD w % 8) th then rget g th (wWA w) else rget g th (wWB w))))

/-- Integer compare conditions 0 to 5 (Table 4.3). -/
def icmp (cond : Nat) (u : Bool) (a b : Word) : Bool :=
  match cond with
  | 0 => a == b
  | 1 => a != b
  | 2 => wless u a b
  | 3 => wless u a b || a == b
  | 4 => wless u b a
  | _ => wless u b a || a == b

def rowIsetp : Row := rowP 0x0E true 5 1
/-- ISETP: predicate WD[2:0] from an integer compare. -/
def execIsetp (t slot : Nat) (w : DWord) (s : State) : Host.Outcome State Fault Refusal :=
  issue rowIsetp t slot w s (laneBody t slot w (fun g th =>
    .predF (wWD w % 8) (icmp (wMOD w % 16) (bit (wMOD w) 4) (rget g th (wWA w)) (opB g w th), 0)))

/-- The BITOP functions: 0 population count, 1 leading zeros, 2 bit reversal. -/
def bitFn (f : Nat) (a : Word) : Word :=
  match f with
  | 0 => BitVec.ofNat 32 (popcount 32 a.toNat)
  | 1 => BitVec.ofNat 32 (if a = 0 then 32 else 31 - Nat.log2 a.toNat)
  | _ => a.reverse

def rowBitop : Row := rowU 0x0F (fun w => wMOD w % 4 != 3)
/-- BITOP. -/
def execBitop (t slot : Nat) (w : DWord) (s : State) : Host.Outcome State Fault Refusal :=
  issue rowBitop t slot w s (laneBody t slot w (fun g th => .reg (wWD w) (bitFn (wMOD w % 4) (rget g th (wWA w)))))

def rowIadd64 : Row := rowD 0x10 true false
/-- IADD64: pair wd = pair wa + pair wb mod 2^64; in the immediate class IMM is sign-extended. -/
def execIadd64 (t slot : Nat) (w : DWord) (s : State) : Host.Outcome State Fault Refusal :=
  issue rowIadd64 t slot w s (laneBody t slot w (fun g th =>
    let b : DWord := if isImm w then (BitVec.ofNat 32 (wIMM w)).signExtend 64 else rget2 g th (wWB w)
    .pairF (wWD w) ((rget2 g th (wWA w) + b).toNat, 0)))

/-! ### binary32 -/

def rowFadd : Row := rowR 0x11 true anyFields false
/-- FADD. -/
def execFadd (t slot : Nat) (w : DWord) (s : State) : Host.Outcome State Fault Refusal :=
  issue rowFadd t slot w s (laneBody t slot w (laneF w (fp32.add (rnd w))))

def rowFmul : Row := rowR 0x12 true anyFields false
/-- FMUL. -/
def execFmul (t slot : Nat) (w : DWord) (s : State) : Host.Outcome State Fault Refusal :=
  issue rowFmul t slot w s (laneBody t slot w (laneF w (fp32.mul (rnd w))))

def rowFfma : Row := rowR 0x13 false anyFields true
/-- FFMA: wd = wa * wb + wc with one rounding. -/
def execFfma (t slot : Nat) (w : DWord) (s : State) : Host.Outcome State Fault Refusal :=
  issue rowFfma t slot w s (laneBody t slot w (fun g th =>
    .regF (wWD w) (fp32.fma (rnd w) (rget g th (wWA w)).toNat (rget g th (wWB w)).toNat (rget g th (wWC w)).toNat)))

def rowFmin : Row := rowR 0x14 true anyFields false
/-- FMIN: minimumNumber. -/
def execFmin (t slot : Nat) (w : DWord) (s : State) : Host.Outcome State Fault Refusal :=
  issue rowFmin t slot w s (laneBody t slot w (laneF w (fp32.minmax false)))

def rowFmax : Row := rowR 0x15 true anyFields false
/-- FMAX: maximumNumber. -/
def execFmax (t slot : Nat) (w : DWord) (s : State) : Host.Outcome State Fault Refusal :=
  issue rowFmax t slot w s (laneBody t slot w (laneF w (fp32.minmax true)))

def rowFsetp : Row := rowP 0x16 true 6 1
/-- FSETP. -/
def execFsetp (t slot : Nat) (w : DWord) (s : State) : Host.Outcome State Fault Refusal :=
  issue rowFsetp t slot w s (laneBody t slot w (fun g th =>
    .predF (wWD w % 8) (fcmp (wMOD w % 16) (fp32.dec (rget g th (wWA w)).toNat) (fp32.dec (opB g w th).toNat))))

def rowFsfu : Row := rowU 0x17 (fun w => wMOD w % 16 < 5)
/-- FSFU: RCP, SQRT, RSQRT, EXP2, LOG2. -/
def execFsfu (t slot : Nat) (w : DWord) (s : State) : Host.Outcome State Fault Refusal :=
  issue rowFsfu t slot w s (laneBody t slot w (fun g th =>
    let r := fsfu (wMOD w % 16) (rget g th (wWA w))
    .regF (wWD w) (r.1.toNat, r.2)))

/-! ### Conversions -/

def rowCvt : Row :=
  { key := 0x18, imm := false, ok := fun w => wMOD w / 16 < 9 && wMOD w % 16 < 9,
    srcs := fun w => [sp (wWA w) (cvtRegs (wMOD w / 16))], dsts := fun w => [sp (wWD w) (cvtRegs (wMOD w % 16))],
    grp := false }
/-- CVT: source type MOD[23:20], destination type MOD[19:16]. -/
def execCvt (t slot : Nat) (w : DWord) (s : State) : Host.Outcome State Fault Refusal :=
  issue rowCvt t slot w s (laneBody t slot w (fun g th =>
    let v := if cvtRegs (wMOD w / 16) = 2 then (rget2 g th (wWA w)).toNat else (rget g th (wWA w)).toNat
    let r := cvt (wMOD w / 16) (wMOD w % 16) v
    if cvtRegs (wMOD w % 16) = 2 then .pairF (wWD w) r else .regF (wWD w) r))

def rowCvtraw : Row :=
  { key := 0x1D, imm := false, ok := anyFields, srcs := fun w => [sp (wWA w) 8], dsts := fun w => [sp (wWD w) 2], grp := false }
/-- CVTRAW (R103): a raw record to FP64. -/
def execCvtraw (t slot : Nat) (w : DWord) (s : State) : Host.Outcome State Fault Refusal :=
  issue rowCvtraw t slot w s (laneBody t slot w (fun g th =>
    .pairF (wWD w) (RawRec.ofBytes (rbytes g th (wWA w) 8)).toFp64))

/-! ### binary64 -/

def rowDadd : Row := rowD 0x19 false false
/-- DADD. -/
def execDadd (t slot : Nat) (w : DWord) (s : State) : Host.Outcome State Fault Refusal :=
  issue rowDadd t slot w s (laneBody t slot w (laneD w (fp64.add (rnd w))))

def rowDmul : Row := rowD 0x1A false false
/-- DMUL. -/
def execDmul (t slot : Nat) (w : DWord) (s : State) : Host.Outcome State Fault Refusal :=
  issue rowDmul t slot w s (laneBody t slot w (laneD w (fp64.mul (rnd w))))

def rowDfma : Row := rowD 0x1B false true
/-- DFMA. -/
def execDfma (t slot : Nat) (w : DWord) (s : State) : Host.Outcome State Fault Refusal :=
  issue rowDfma t slot w s (laneBody t slot w (fun g th =>
    .pairF (wWD w) (fp64.fma (rnd w) (rget2 g th (wWA w)).toNat (rget2 g th (wWB w)).toNat (rget2 g th (wWC w)).toNat)))

def rowDsetp : Row := rowP 0x1C false 6 2
/-- DSETP. -/
def execDsetp (t slot : Nat) (w : DWord) (s : State) : Host.Outcome State Fault Refusal :=
  issue rowDsetp t slot w s (laneBody t slot w (fun g th =>
    .predF (wWD w % 8) (fcmp (wMOD w % 16) (fp64.dec (rget2 g th (wWA w)).toNat) (fp64.dec (rget2 g th (wWB w)).toNat))))

/-! ### Across threads -/

def rowShfl : Row := rowR 0x1E true anyFields false
/-- SHFL: wa of thread (wb mod 32), active or not. -/
def execShfl (t slot : Nat) (w : DWord) (s : State) : Host.Outcome State Fault Refusal :=
  issue rowShfl t slot w s (laneBody t slot w (fun g th => .reg (wWD w) (rget g ((opB g w th).toNat % 32) (wWA w))))

end Sys2Proof.Machine
end

