-- ==== Sys2Proof/Machine/Replays.lean ====
section
/-! DEFINITION. Engine-fault isolation (R372 to R375): the replay of a faulted partition's contexts in quarantine, and its
report. -/

namespace Sys2Proof.Machine

/-- Is a context replayed: LAUNCH, COPY, ATTN_BATCH (R372)? -/
def replayable (c : Cmd) : Bool := let op := eOp c.entry; op == 1 || op == 2 || op == 3

/-- The replay limit of a context: its TIMEOUT when finite, else HLM_RCFG.RTO. -/
def replayLimit (s : State) (c : Cmd) : Nat :=
  match c.timeout with
  | some t => t
  | none => if eTimeout c.entry = 0 ∨ eTimeout c.entry = 0xFFFF_FFFF then regF s oHLMRCFG 31 0 else eTimeout c.entry

/-- A context as it starts again. -/
def freshCmd (s : State) (c : Cmd) : Cmd :=
  let t := replayLimit s c
  ⟨c.id, c.sq, c.idx, c.entry, some t, t, t, false, [], [], [], [], [], [], 0, 0, none, none, none, none⟩

/-- Run one context from its start. -/
def startContext (s : State) (p : Nat) (c : Cmd) : State :=
  let d := freshCmd s c
  let s := setInflight (updPart s p (fun x => { x with cmds := [d] })) p
  match eOp c.entry with
  | 1 => launchGo p s d
  | 2 => copyGo p s d
  | _ => batchGo p s d

/-! ### The report (Table 14.8) -/

/-- Entry i: a context with its fate. -/
def reportEntry (c : Cmd) (guilty : Bool) (rstat : Nat) : List Byte :=
  leBytes 1 c.sq ++ leBytes 1 (eOp c.entry) ++ leBytes 2 c.idx ++ leBytes 2 (eCid c.entry) ++
    leBytes 1 (if guilty then 1 else 2) ++ leBytes 1 rstat ++ eUser c.entry

/-- The whole report. -/
def replayReport (r : Replay) (guilty : Option Nat) : List Byte :=
  leBytes 1 (if guilty.isSome then 1 else 2) ++ leBytes 1 r.cause ++ leBytes 2 r.ctxs.length ++ leBytes 4 0 ++
    leBytes 8 r.at_.toNat ++ leBytes 48 0 ++
    (List.range r.ctxs.length).flatMap (fun i => match r.ctxs[i]? with
      | some c => reportEntry c (guilty == some i) (r.rstats.getD i 15)
      | none => [])

/-- Headland as it writes for partition p at address a: to host memory through the partition's host window (R27), to HBM as
itself, served by whoever owns the address, or directly when nobody does (R160, R161). -/
def headlandWho (s : State) (p a : Nat) : Who :=
  ⟨.headland, match decodeAddr s.asm a with
    | .host _ => some p
    | _ => none, 8, 4, 2⟩

/-- The end of a replay: the second reset, the report at HLM_RPT and HST_RPTADDR, REPORTED, vector 48. -/
def finishReplay (s : State) (p : Nat) (r : Replay) (guilty : Option Nat) : State :=
  let s := endReplay (clearPartition s p) p
  let b := replayReport r guilty
  let s := (List.range 256).foldl (fun s i => setReg s (oRPT p i) (BitVec.ofNat 64 (eNat b (8 * i) 8))) s
  let s := if bit r.report.toNat 63 then
      { (devWrite s (headlandWho s p (fld r.report 47 11 * 2048)) (fld r.report 47 11 * 2048) b).1 with stalled := s.stalled }
    else s
  if pState s p = 4 then partIrq (setPState s p 5) p 48 else s

/-- Go on with the first context from `place` on that is replayed, or end the replay. -/
def runReplay (s : State) (p : Nat) (r : Replay) (place : Nat) : State :=
  match (List.range r.ctxs.length).find? (fun i => place ≤ i && (r.ctxs[i]?).any replayable) with
  | none => finishReplay s p r none
  | some i =>
    let s := updPart s p (fun x => { x with replay := some { r with place := i, running := true, ended := none } })
    match r.ctxs[i]? with
    | some c => startContext s p c
    | none => s

/-- ENGINE_FAULT_REPLAY (R372 to R374): one at a time, in fault order, not while Headland is in reset, and once every command has
its completion (R291). The partition
is reset first. -/
def execEngineFaultReplay (part : Nat) (s : State) : Host.Outcome State Fault Refusal :=
  match (partOf s part).replay with
  | none => .next s
  | some r =>
    if !s.power.aon || s.head.inReset || s.head.replays.head? != some part || r.running ||
        s.parts.any (fun e => e.2.quarantine) || genBusy s (.part part) || (partOf s part).cmds != [] then .next s
    else
      let s' := updPart (clearPartition s part) part (fun x => { x with quarantine := true })
      .next (whole s (runReplay s' part { r with rstats := List.replicate r.ctxs.length 15 } 0))

/-- REPLAY_CONTEXT_END (R372): the context that runs has ended with RSTAT `rstat`. One that reproduces is guilty and ends
the replay. -/
def execReplayContextEnd (part rstat : Nat) (s : State) : Host.Outcome State Fault Refusal :=
  match (partOf s part).replay with
  | none => .next s
  | some r =>
    match r.ended with
    | none => .next s
    | some v =>
      if !r.running || v % 16 != rstat || s.head.inReset || genBusy s (.part part) then .next s
      else
        let r := { r with rstats := r.rstats.set r.place (v % 16) }
        if v = 2 ∨ v = 22 then .next (finishReplay s part r (some r.place))
        else .next (whole s (runReplay s part r (r.place + 1)))

end Sys2Proof.Machine
end

