-- ==== Sys2Proof/Machine/RegWrite.lean ====
section
/-! DEFINITION. A host write to a register of BAR0 that has no behaviour of its own (R9 to R11, R29, R282). -/

namespace Sys2Proof.Machine

/-- A write of v by function fn to one field (Table 0.4). Counters are RW: "writing 0 clears it". -/
def writeField (fn : Nat) (v r : DWord) (f : Nat × Nat × Acc0) : DWord :=
  match f.2.2 with
  | .rw => setFld r f.1 f.2.1 (fld v f.1 f.2.1)
  | .rwPf | .stPf => if fn = 0 then setFld r f.1 f.2.1 (fld v f.1 f.2.1) else r
  | .rw1c => setFld r f.1 f.2.1 (fld (r &&& ~~~ v) f.1 f.2.1)
  | .rl => r

/-- What a register holds after a write. -/
def written (d : RegDesc) (fn : Nat) (old v : DWord) : DWord := d.fields.foldl (writeField fn v) old

/-- Is an offset that of SQ_B or CQ_B, and the bit of its ERR? -/
def queueErr (o : Nat) : Option Nat :=
  let q := if 0x19_0000 ≤ o && o < 0x1A_0000 then o - 0x19_0000 else o % 0x1_0000
  if !(0x10_0000 ≤ o && o < 0x1A_0000 && (o < 0x18_0000 || 0x19_0000 ≤ o)) then none
  else if 0x1000 ≤ q && q < 0x1100 && q % 16 = 8 then some 61
  else if 0x2000 ≤ q && q < 0x2100 && q % 16 = 8 then some 62
  else none

/-- What comes with the write of a register beside its fields: MORE and CORR go with VALID (Tables 3.12, 4.13, 6.8, 13.8), a queue that is
enabled again loses ERR (R289), a written CAL ends BROKEN (R319). -/
def writeAlso (o : Nat) (old new : DWord) : DWord :=
  if (o = oRASUE || (0x300_0000 ≤ o && o < 0x3F0_0000 && [0x140, 0x820, 0xD00].contains (o % 0x1000))) && bit old.toNat 63 && !bit new.toNat 63 then
    setFld new 55 48 0
  else if oSENS 0 ≤ o && o < oSENS 312 then setFld new 63 63 0
  else match queueErr o with
    | some b => if bit new.toNat 63 then setFld new b b 0 else new
    | none => new

/-- The dispatcher whose page holds an offset. -/
def pageOf (o : Nat) : Option Nat :=
  if 0x10_0000 ≤ o && o < 0x18_0000 then some ((o - 0x10_0000) / 0x1_0000)
  else if 0x19_0000 ≤ o && o < 0x1A_0000 then some 8
  else none

/-- A written queue register may let completions out and commands start; a written Cupping register may raise its event. -/
def afterWrite (s : State) (o : Nat) : State :=
  match pageOf o with
  | some p => advance ((List.range 16).foldl (fun s q => drainWaiting s p q) s) p
  | none => if 0x5F_0000 ≤ o && o < 0x60_0000 then cupCheck s ((o - 0x5F_0000) / 0x100) else s

/-- Is a write held off: RUN of a channel with a scan (R350)? -/
def writeIgnored (s : State) (o : Nat) : Bool :=
  0x60_0000 ≤ o && o < 0x60_0800 && o % 0x40 = 0x18 && SMap.get [] s.ras.scans ((o - 0x60_0000) / 0x40) != []

/-- REGISTER_WRITE (R9 to R11, R29, R282): an access of `width` bytes. Only an aligned one of 8 bytes writes; absent
registers and those that the function does not see ignore it. The bits of a register that start something (START, GO, CANCEL,
CONTINUE ...) are no stored fields, and what they start is a row of its own, so a write that sets one writes the other fields
here (notes/assumptions/66.md). -/
def execRegisterWrite (fn off width : Nat) (v : BitVec 64) (s : State) : Host.Outcome State Fault Refusal :=
  match regDesc s.asm off with
  | none => .next s
  | some d =>
    if width != 8 || off % 8 != 0 || !s.power.aon || !canWrite s fn off || writeIgnored s off then .next s
    else .next (afterWrite (setReg s off (writeAlso off (reg s off) (written d fn (reg s off) v))) off)

end Sys2Proof.Machine
end

