-- ==== Sys2Proof/Machine/Dispatch.lean ====
section
/-! DEFINITION. The dispatch: one arm per command, each a direct call of its meaning. -/

namespace Sys2Proof.Machine

/-- The effect of a command on everything but the queue. -/
def exec (i : Instr) (s : State) : Host.Outcome State Fault Refusal :=
  match i with
  | .registerWrite fn off width v => Sys2Proof.Machine.execRegisterWrite fn off width v s
  | .iadd t slot w => Sys2Proof.Machine.execIadd t slot w s
  | .isub t slot w => Sys2Proof.Machine.execIsub t slot w s
  | .imul t slot w => Sys2Proof.Machine.execImul t slot w s
  | .imulh t slot w => Sys2Proof.Machine.execImulh t slot w s
  | .imad t slot w => Sys2Proof.Machine.execImad t slot w s
  | .andB t slot w => Sys2Proof.Machine.execAnd t slot w s
  | .orB t slot w => Sys2Proof.Machine.execOr t slot w s
  | .xorB t slot w => Sys2Proof.Machine.execXor t slot w s
  | .shl t slot w => Sys2Proof.Machine.execShl t slot w s
  | .shr t slot w => Sys2Proof.Machine.execShr t slot w s
  | .sar t slot w => Sys2Proof.Machine.execSar t slot w s
  | .imin t slot w => Sys2Proof.Machine.execImin t slot w s
  | .imax t slot w => Sys2Proof.Machine.execImax t slot w s
  | .sel t slot w => Sys2Proof.Machine.execSel t slot w s
  | .isetp t slot w => Sys2Proof.Machine.execIsetp t slot w s
  | .bitop t slot w => Sys2Proof.Machine.execBitop t slot w s
  | .iadd64 t slot w => Sys2Proof.Machine.execIadd64 t slot w s
  | .fadd t slot w => Sys2Proof.Machine.execFadd t slot w s
  | .fmul t slot w => Sys2Proof.Machine.execFmul t slot w s
  | .ffma t slot w => Sys2Proof.Machine.execFfma t slot w s
  | .fmin t slot w => Sys2Proof.Machine.execFmin t slot w s
  | .fmax t slot w => Sys2Proof.Machine.execFmax t slot w s
  | .fsetp t slot w => Sys2Proof.Machine.execFsetp t slot w s
  | .fsfu t slot w => Sys2Proof.Machine.execFsfu t slot w s
  | .cvt t slot w => Sys2Proof.Machine.execCvt t slot w s
  | .dadd t slot w => Sys2Proof.Machine.execDadd t slot w s
  | .dmul t slot w => Sys2Proof.Machine.execDmul t slot w s
  | .dfma t slot w => Sys2Proof.Machine.execDfma t slot w s
  | .dsetp t slot w => Sys2Proof.Machine.execDsetp t slot w s
  | .cvtraw t slot w => Sys2Proof.Machine.execCvtraw t slot w s
  | .shfl t slot w => Sys2Proof.Machine.execShfl t slot w s
  | .bra t slot w => Sys2Proof.Machine.execBra t slot w s
  | .ifC t slot w => Sys2Proof.Machine.execIf t slot w s
  | .elseC t slot w => Sys2Proof.Machine.execElse t slot w s
  | .endif t slot w => Sys2Proof.Machine.execEndif t slot w s
  | .loopC t slot w => Sys2Proof.Machine.execLoop t slot w s
  | .brk t slot w => Sys2Proof.Machine.execBrk t slot w s
  | .endloop t slot w => Sys2Proof.Machine.execEndloop t slot w s
  | .call t slot w => Sys2Proof.Machine.execCall t slot w s
  | .ret t slot w => Sys2Proof.Machine.execRet t slot w s
  | .bar t slot w => Sys2Proof.Machine.execBar t slot w s
  | .endC t slot w => Sys2Proof.Machine.execEnd t slot w s
  | .nop t slot w => Sys2Proof.Machine.execNop t slot w s
  | .ldt t slot w => Sys2Proof.Machine.execLdt t slot w s
  | .stt t slot w => Sys2Proof.Machine.execStt t slot w s
  | .ldd t slot w => Sys2Proof.Machine.execLdd t slot w s
  | .std t slot w => Sys2Proof.Machine.execStd t slot w s
  | .madd t slot w => Sys2Proof.Machine.execMadd t slot w s
  | .fence t slot w => Sys2Proof.Machine.execFence t slot w s
  | .send t slot w => Sys2Proof.Machine.execSend t slot w s
  | .recv t slot w => Sys2Proof.Machine.execRecv t slot w s
  | .mstat t slot w => Sys2Proof.Machine.execMstat t slot w s
  | .mcancel t slot w => Sys2Proof.Machine.execMcancel t slot w s
  | .mfree t slot w => Sys2Proof.Machine.execMfree t slot w s
  | .sread t slot w => Sys2Proof.Machine.execSread t slot w s
  | .attn t slot w => Sys2Proof.Machine.execAttn t slot w s
  | .attnw t slot w => Sys2Proof.Machine.execAttnw t slot w s
  | .azero t slot w => Sys2Proof.Machine.execAzero t slot w s
  | .aload t slot w => Sys2Proof.Machine.execAload t slot w s
  | .amul t slot w => Sys2Proof.Machine.execAmul t slot w s
  | .adrain t slot w => Sys2Proof.Machine.execAdrain t slot w s
  | .astat t slot w => Sys2Proof.Machine.execAstat t slot w s
  | .cuppingShadowDone t arr => Sys2Proof.Machine.execCuppingShadowDone t arr s
  | .deviceReply id => Sys2Proof.Machine.execDeviceReply id s
  | .tileProgramLoad t part cmd => Sys2Proof.Machine.execTileProgramLoad t part cmd s
  | .tileReport t part cmd => Sys2Proof.Machine.execTileReport t part cmd s
  | .reservation src h dst => Sys2Proof.Machine.execReservation src h dst s
  | .grant src h dst => Sys2Proof.Machine.execGrant src h dst s
  | .messageInject src h => Sys2Proof.Machine.execMessageInject src h s
  | .messageWrite src h dst => Sys2Proof.Machine.execMessageWrite src h dst s
  | .messageComplete src h => Sys2Proof.Machine.execMessageComplete src h s
  | .grantTimeout src h => Sys2Proof.Machine.execGrantTimeout src h s
  | .reservationRetry src h => Sys2Proof.Machine.execReservationRetry src h s
  | .grantRelease src h dst => Sys2Proof.Machine.execGrantRelease src h dst s
  | .recvTimeout t slot => Sys2Proof.Machine.execRecvTimeout t slot s
  | .scan t h => Sys2Proof.Machine.execScan t h s
  | .merge t h => Sys2Proof.Machine.execMerge t h s
  | .score t h => Sys2Proof.Machine.execScore t h s
  | .compact t h => Sys2Proof.Machine.execCompact t h s
  | .attnCommandFinal t h => Sys2Proof.Machine.execAttnCommandFinal t h s
  | .scoreUpdate id => Sys2Proof.Machine.execScoreUpdate id s
  | .ringStepEnd part cmd => Sys2Proof.Machine.execRingStepEnd part cmd s
  | .blockAbandon part cmd => Sys2Proof.Machine.execBlockAbandon part cmd s
  | .shelfRead id => Sys2Proof.Machine.execShelfRead id s
  | .shelfWrite id => Sys2Proof.Machine.execShelfWrite id s
  | .fillArrival id => Sys2Proof.Machine.execFillArrival id s
  | .shelfMadd id => Sys2Proof.Machine.execShelfMadd id s
  | .mergeEntryTimeout stack slice word => Sys2Proof.Machine.execMergeEntryTimeout stack slice word s
  | .sliceRetireDone stack slice => Sys2Proof.Machine.execSliceRetireDone stack slice s
  | .hbmRead ctrl id => Sys2Proof.Machine.execHbmRead ctrl id s
  | .hbmWrite ctrl id => Sys2Proof.Machine.execHbmWrite ctrl id s
  | .hbmMaskedWrite ctrl id => Sys2Proof.Machine.execHbmMaskedWrite ctrl id s
  | .hbmAdd ctrl id => Sys2Proof.Machine.execHbmAdd ctrl id s
  | .addEntryTimeout ctrl cw => Sys2Proof.Machine.execAddEntryTimeout ctrl cw s
  | .requestPromote ctrl id => Sys2Proof.Machine.execRequestPromote ctrl id s
  | .refresh ctrl pch => Sys2Proof.Machine.execRefresh ctrl pch s
  | .memRetrain by_ ctrl pch => Sys2Proof.Machine.execMemRetrain by_ ctrl pch s
  | .readTimingMargin by_ ctrl pch => Sys2Proof.Machine.execReadTimingMargin by_ ctrl pch s
  | .readVoltageMargin by_ ctrl pch => Sys2Proof.Machine.execReadVoltageMargin by_ ctrl pch s
  | .writeTimingMargin by_ ctrl pch => Sys2Proof.Machine.execWriteTimingMargin by_ ctrl pch s
  | .writeVoltageMargin by_ ctrl pch => Sys2Proof.Machine.execWriteVoltageMargin by_ ctrl pch s
  | .retrainSlice ctrl ev => Sys2Proof.Machine.execRetrainSlice ctrl ev s
  | .hbmControllerReset ctrl phyOk => Sys2Proof.Machine.execHbmControllerReset ctrl phyOk s
  | .hbmTempSample ctrl degC limit maximum => Sys2Proof.Machine.execHbmTempSample ctrl degC limit maximum s
  | .lowPromote id => Sys2Proof.Machine.execLowPromote id s
  | .tgCfgWrite v => Sys2Proof.Machine.execTgCfgWrite v s
  | .refQualified => Sys2Proof.Machine.execRefQualified s
  | .refLost => Sys2Proof.Machine.execRefLost s
  | .stepInEdge => Sys2Proof.Machine.execStepInEdge s
  | .stepMissed => Sys2Proof.Machine.execStepMissed s
  | .timeHold => Sys2Proof.Machine.execTimeHold s
  | .slotokClear => Sys2Proof.Machine.execSlotokClear s
  | .tgLoad fn v => Sys2Proof.Machine.execTgLoad fn v s
  | .tgNowRead fn => Sys2Proof.Machine.execTgNowRead fn s
  | .slotOpen n => Sys2Proof.Machine.execSlotOpen n s
  | .slotClose n => Sys2Proof.Machine.execSlotClose n s
  | .loadNotice n => Sys2Proof.Machine.execLoadNotice n s
  | .loadNoticeEnd => Sys2Proof.Machine.execLoadNoticeEnd s
  | .bistSlice n => Sys2Proof.Machine.execBistSlice n s
  | .scrubSlice n => Sys2Proof.Machine.execScrubSlice n s
  | .commitApply => Sys2Proof.Machine.execCommitApply s
  | .cupOpen n => Sys2Proof.Machine.execCupOpen n s
  | .cupClose n => Sys2Proof.Machine.execCupClose n s
  | .phase n => Sys2Proof.Machine.execPhase n s
  | .idleF port dev hdr pay => Sys2Proof.Machine.execIdleF port dev hdr pay s
  | .dataF port dev hdr pay => Sys2Proof.Machine.execDataF port dev hdr pay s
  | .openF port dev hdr pay => Sys2Proof.Machine.execOpenF port dev hdr pay s
  | .closeF port dev hdr pay => Sys2Proof.Machine.execCloseF port dev hdr pay s
  | .closeAck port dev hdr pay => Sys2Proof.Machine.execCloseAck port dev hdr pay s
  | .abandon port dev hdr pay => Sys2Proof.Machine.execAbandon port dev hdr pay s
  | .nak port dev hdr pay => Sys2Proof.Machine.execNak port dev hdr pay s
  | .credit port dev hdr pay => Sys2Proof.Machine.execCredit port dev hdr pay s
  | .hello port dev hdr pay => Sys2Proof.Machine.execHello port dev hdr pay s
  | .retrainReq port dev hdr pay => Sys2Proof.Machine.execRetrainReq port dev hdr pay s
  | .badFrame port why => Sys2Proof.Machine.execBadFrame port why s
  | .rtoExpiry port dev seq nak => Sys2Proof.Machine.execRtoExpiry port dev seq nak s
  | .helloTimer port => Sys2Proof.Machine.execHelloTimer port s
  | .frameSend port => Sys2Proof.Machine.execFrameSend port s
  | .trainingEnd port res => Sys2Proof.Machine.execTrainingEnd port res s
  | .blockLockLoss port => Sys2Proof.Machine.execBlockLockLoss port s
  | .fecErrorRatio rep => Sys2Proof.Machine.execFecErrorRatio rep s
  | .lnkRetrain fn port => Sys2Proof.Machine.execLnkRetrain fn port s
  | .lnkReset fn port => Sys2Proof.Machine.execLnkReset fn port s
  | .cvuScan part sq => Sys2Proof.Machine.execCvuScan part sq s
  | .cvuScanDone ch => Sys2Proof.Machine.execCvuScanDone ch s
  | .cvuTransferCheck id => Sys2Proof.Machine.execCvuTransferCheck id s
  | .clrstrm fn => Sys2Proof.Machine.execClrstrm fn s
  | .sqDoorbell fn part q v => Sys2Proof.Machine.execSqDoorbell fn part q v s
  | .cqDoorbell fn part q v => Sys2Proof.Machine.execCqDoorbell fn part q v s
  | .sqEntryFetch part sq => Sys2Proof.Machine.execSqEntryFetch part sq s
  | .launch part sq => Sys2Proof.Machine.execLaunch part sq s
  | .copy part sq => Sys2Proof.Machine.execCopy part sq s
  | .attnBatch part sq => Sys2Proof.Machine.execAttnBatch part sq s
  | .scrub part sq => Sys2Proof.Machine.execScrub part sq s
  | .fenceCommand part sq => Sys2Proof.Machine.execFenceCommand part sq s
  | .commit part sq => Sys2Proof.Machine.execCommit part sq s
  | .pin part sq => Sys2Proof.Machine.execPin part sq s
  | .unpin part sq => Sys2Proof.Machine.execUnpin part sq s
  | .note part sq => Sys2Proof.Machine.execNote part sq s
  | .commandTimeout part cnt => Sys2Proof.Machine.execCommandTimeout part cnt s
  | .watchdogTest part flagged => Sys2Proof.Machine.execWatchdogTest part flagged s
  | .start fn part => Sys2Proof.Machine.execStart fn part s
  | .stop fn part => Sys2Proof.Machine.execStop fn part s
  | .resume fn part => Sys2Proof.Machine.execResume fn part s
  | .hang fn part => Sys2Proof.Machine.execHang fn part s
  | .cancel fn part v => Sys2Proof.Machine.execCancel fn part v s
  | .bar2Read fn off len => Sys2Proof.Machine.execBar2Read fn off len s
  | .bar2Write fn off bytes => Sys2Proof.Machine.execBar2Write fn off bytes s
  | .vfFlr vf => Sys2Proof.Machine.execVfFlr vf s
  | .pfFlr => Sys2Proof.Machine.execPfFlr s
  | .perstN => Sys2Proof.Machine.execPerstN s
  | .vddAonRise stagedN haltInN => Sys2Proof.Machine.execVddAonRise stagedN haltInN s
  | .powerGood rail => Sys2Proof.Machine.execPowerGood rail s
  | .floodTimeout => Sys2Proof.Machine.execFloodTimeout s
  | .railFail rail belowRst => Sys2Proof.Machine.execRailFail rail belowRst s
  | .ebbStep => Sys2Proof.Machine.execEbbStep s
  | .headerSwitchGroup dom close => Sys2Proof.Machine.execHeaderSwitchGroup dom close s
  | .powerLoop volts amps => Sys2Proof.Machine.execPowerLoop volts amps s
  | .brownout rail => Sys2Proof.Machine.execBrownout rail s
  | .brownoutEnd => Sys2Proof.Machine.execBrownoutEnd s
  | .phaseScan amps faults => Sys2Proof.Machine.execPhaseScan amps faults s
  | .thermalSample unit codes => Sys2Proof.Machine.execThermalSample unit codes s
  | .sensorResample n code => Sys2Proof.Machine.execSensorResample n code s
  | .thmClear fn => Sys2Proof.Machine.execThmClear fn s
  | .bucketLeak => Sys2Proof.Machine.execBucketLeak s
  | .scrubSliceEnd engine done => Sys2Proof.Machine.execScrubSliceEnd engine done s
  | .bistSliceEnd unit res => Sys2Proof.Machine.execBistSliceEnd unit res s
  | .bistWaitTimeout unit => Sys2Proof.Machine.execBistWaitTimeout unit s
  | .stageComplete found => Sys2Proof.Machine.execStageComplete found s
  | .stageTimeout ms => Sys2Proof.Machine.execStageTimeout ms s
  | .continueCmd fn => Sys2Proof.Machine.execContinue fn s
  | .haltInNRise => Sys2Proof.Machine.execHaltInNRise s
  | .hlmrst fn => Sys2Proof.Machine.execHlmrst fn s
  | .devrst fn => Sys2Proof.Machine.execDevrst fn s
  | .keepok => Sys2Proof.Machine.execKeepok s
  | .headlandWatchdog => Sys2Proof.Machine.execHeadlandWatchdog s
  | .keeperExpiry => Sys2Proof.Machine.execKeeperExpiry s
  | .unitPoll dom agrees => Sys2Proof.Machine.execUnitPoll dom agrees s
  | .readFlash off len => Sys2Proof.Machine.execReadFlash off len s
  | .writeInactiveFirmwareBank off bytes => Sys2Proof.Machine.execWriteInactiveFirmwareBank off bytes s
  | .makePreferred bank slot => Sys2Proof.Machine.execMakePreferred bank slot s
  | .writeInactiveRecordSlot off bytes => Sys2Proof.Machine.execWriteInactiveRecordSlot off bytes s
  | .retireTile x y => Sys2Proof.Machine.execRetireTile x y s
  | .broadcastTileFirmware fw => Sys2Proof.Machine.execBroadcastTileFirmware fw s
  | .readEventLog idx => Sys2Proof.Machine.execReadEventLog idx s
  | .engineFaultReplay part => Sys2Proof.Machine.execEngineFaultReplay part s
  | .replayContextEnd part rstat => Sys2Proof.Machine.execReplayContextEnd part rstat s
  | .tileReset t => Sys2Proof.Machine.execTileReset t s
  | .stackReset stack => Sys2Proof.Machine.execStackReset stack s
  | .partitionReset part => Sys2Proof.Machine.execPartitionReset part s
  | .ioDieReset die => Sys2Proof.Machine.execIoDieReset die s
  | .deviceReset => Sys2Proof.Machine.execDeviceReset s
  | .domainResetDone dom => Sys2Proof.Machine.execDomainResetDone dom s
  | .vddAonFall => Sys2Proof.Machine.execVddAonFall s
  | .perstNRise => Sys2Proof.Machine.execPerstNRise s
  | .slowClockFallback => Sys2Proof.Machine.execSlowClockFallback s
  | .stepBoundary => Sys2Proof.Machine.execStepBoundary s
  | .stepOutEnd => Sys2Proof.Machine.execStepOutEnd s
  | .noneFire n => Sys2Proof.Machine.execNone n s
  | .refreshManagement ctrl pch => Sys2Proof.Machine.execRefreshManagement ctrl pch s
  | .journalWrite => Sys2Proof.Machine.execJournalWrite s

end Sys2Proof.Machine
end

