-- ==== Sys2Proof/Machine/View.lean ====
section
/-! DEFINITION. What a host read of BAR0 answers (R9, R11, R29, R282): the stored register, or the fields that follow
from the rest of the state; and what the device's JTAG instructions act as (R388). The opcode table has no row for either (but
TG_NOW_READ, which latches), so no command uses this file. -/

namespace Sys2Proof.Machine

/-- The code of a group state (Table 4.12). -/
def GroupState.code : GroupState → Nat
  | .free => 0
  | .ready => 1
  | .waitRegs => 2
  | .waitMem => 3
  | .waitMsg => 4
  | .waitArray => 5
  | .atBarrier => 6
  | .ended => 7
  | .faulted => 8

/-- Set fields of a 64-bit word from a list of ([hi:lo], value). -/
def fields (v : DWord) (l : List (Nat × Nat × Nat)) : DWord := l.foldl (fun v f => setFld v f.1 f.2.1 f.2.2) v

/-- The state in use of one ring (Table 4.14). -/
def ringUsed (r : Ring) : Nat := r.spaces.foldl (fun n x => n + x.units) 0

/-- A register of the TIL block of tile t (Tables 2.6, 3.11, 4.12, 4.14, 4.15, 5.10). DESIGN CHOICE: OWNER reads 0 while
an array is bound to BIST, which has no group slot (notes/assumptions/44.md). -/
def tilRead (s : State) (t o : Nat) (v : DWord) : DWord :=
  let x := tileOf s t
  if 0x100 ≤ o && o < 0x140 then
    let g := groupOf x ((o - 0x100) / 8)
    fields v [(63, 32, g.pc.toNat), (19, 16, g.st.code), (12, 8, g.masks.length), (3, 0, g.outst.length)]
  else if 0x200 ≤ o && o < 0x240 then
    let r := ringOf x ((o - 0x200) / 8)
    fields v [(62, 48, ringUsed r), (47, 40, min 0xFF r.held.length), (34, 20, r.size), (19, 0, r.base)]
  else if o = 0x240 then setFld v 5 0 x.sends.length
  else if 0x800 ≤ o && o < 0x820 then
    let a := arrayOf x ((o - 0x800) / 8)
    let own := match a.owner with
      | some (.group g) => g
      | _ => 0
    fields v [(7, 7, b2n a.owner.isSome), (6, 4, own), (2, 2, b2n a.shadow.isSome), (1, 1, b2n a.shadow.isSome)]
  else if o = 0xA00 then
    let q := x.att.filter (fun c => match c.phase with | .final _ => false | _ => true)
    let op := match q with
      | c :: _ => Mem.nat x.mem c.off 1 % 4
      | [] => 0
    fields v [(6, 4, q.length), (3, 2, op), (0, 0, b2n (q.head?.any (fun c => c.phase != .queued)))]
  else v

/-- A register of the SHF block of stack st (Tables 6.4, 6.6). -/
def shfRead (s : State) (st o : Nat) (v : DWord) : DWord :=
  if o = 0x08 then
    (match partOfStack s st with
     | some p => fields v [(12, 12, 1), (11, 8, p)]
     | none => v)
  else if 0x100 ≤ o && o < 0x180 then
    let k := (o - 0x100) / 8
    let x := sliceOf s st k
    let ret := regF s (oSHFSTAT st) 63 48
    fields v [(63, 48, (x.lines.filter (fun l => l.2.pinned)).length), (47, 40, x.wb.length), (39, 35, x.mb.length),
      (11, 8, servingSlice ret k), (1, 1, b2n (bit ret k)), (0, 0, b2n (s.fills.any (fun f => f.stack == st && f.slice == k)))]
  else v

/-- The hottest sensor, the lowest number of equal ones, and its reading. -/
def hottest (s : State) : Nat × Int :=
  ((List.range 312).filter (sensorFitted s.asm)).foldl (fun m n => if tempOf s n > m.2 then (n, tempOf s n) else m) (0, tempOf s 0)

/-- An entry of SHOAL_DATA: fuses from index 0, the overlay from 4096 (Table 13.10). -/
def shoalData (s : State) : DWord :=
  let i := regF s oSHOALIDX 12 0
  if i < 4096 then s.ras.fuses.getD i 0 else s.ras.overlay.getD (i - 4096) 0

/-- What the register at a BAR0 offset reads, for a function that sees it. -/
def regView (s : State) (o : Nat) : DWord :=
  let v := reg s o
  if 0x300_0000 ≤ o && o < 0x3F0_0000 then tilRead s ((o - 0x300_0000) / 0x1000) (o % 0x1000) v
  else if 0x100_0000 ≤ o && o < 0x200_0000 then shfRead s ((o - 0x100_0000) / 0x10_0000) (o % 0x10_0000) v
  else if 0x80_0000 ≤ o && o < 0x100_0000 && o % 0x1_0000 = 8 then
    let i := (o - 0x80_0000) / 0x1_0000
    setFld v 46 40 ((List.range 64).filter (fun c => regF s (oPCH i c) 15 10 != 0x3F)).length
  else if o = oSHOALDATA then shoalData s
  else if o = oBWRSTAT then setFld v 0 0 (b2n (!regB s oTGSTAT 7))
  else if o = oTHMSTAT then
    let m := hottest s
    fields v [(39, 32, min 255 ((List.range 312).filter (sensorBroken s)).length), (31, 20, m.1), (15, 0, twos 16 m.2)]
  else if oDUTY 0 ≤ o && o < oDUTY 12 then
    ofFields ((List.range 16).map (fun k => (4 * k, regionDuty s ((o - oDUTY 0) / 8) k)))
  else if 0x60_0000 ≤ o && o < 0x60_0800 && o % 0x40 = 0x20 then
    let n := (scansOf s ((o - 0x60_0000) / 0x40)).length
    fields v [(63, 63, b2n (n != 0)), (51, 48, n - 1)]
  else v
where
  /-- The word with values at bit positions. -/
  ofFields (l : List (Nat × Nat)) : DWord := BitVec.ofNat 64 (l.foldl (fun n e => n + e.2 * 2 ^ e.1) 0)

/-! ### JTAG (R388) -/

/-- The boundary-scan instructions. -/
inductive JtagInstr where
  | bypass
  | extest
  | other (code : Nat)
  deriving DecidableEq, Repr

/-- How an instruction in the TAP acts: EXTEST only while PERST_N is low and HLM_STAT.READY is 0, else as BYPASS. -/
def jtagActs (s : State) (i : JtagInstr) : JtagInstr :=
  if i = .extest ∧ (s.pins.perstN = true ∨ regB s oHLMSTAT 17 = true) then .bypass else i

/-- What a read of `width` bytes at an offset of BAR0 answers (R9): the whole register, one of its halves, and zero for
every other width, a misaligned access, an absent register and one the function does not see. -/
def regRead (s : State) (fn off width : Nat) : Nat :=
  if !s.power.aon || !canRead s fn off || (regDesc s.asm (off / 8 * 8)).isNone then 0
  else if width = 8 && off % 8 = 0 then (regView s off).toNat
  else if width = 4 && off % 4 = 0 then (regView s (off / 8 * 8)).toNat / 2 ^ (8 * (off % 8)) % 2 ^ 32
  else 0

end Sys2Proof.Machine
end

