-- ==== Sys2Proof/WellFormed.lean ====
section
/-! DEFINITION. Well-formed commands: every operand lies in the range its table gives it, for an assembly. A tile
instruction is well formed when its word decodes to it (R98), a frame when its header carries its type and its payload
has that type's length (R260, Table 10.2). -/

namespace Sys2Proof

open Sys2Proof.Machine

/-- A PCIe function: 0 the PF, v the VF of partition v - 1 (R280). -/
def fnOk (a : Assembly) (fn : Nat) : Bool := fn ≤ totalVFs a

/-- The size of a function's BAR2 (R282): 64 GiB for the PF, 8 GiB for a VF. -/
def windowSize (fn : Nat) : Nat := if fn = 0 then 2 ^ 36 else 2 ^ 33

/-- A partition, or 8 for the device queue (R296). -/
def partOk (a : Assembly) (p : Nat) : Bool := p < totalVFs a || p == 8

/-- A submission queue: 16 of a partition, one of the device (R288, R296). -/
def queueOk (a : Assembly) (p q : Nat) : Bool := if p = 8 then q == 0 else p < totalVFs a && q < 16

/-- A populated controller (R18). -/
def ctrlOk (a : Assembly) (i : Nat) : Bool := (ctrlList a).contains i

/-- The word of a tile instruction decodes to the command, in a fitted tile and a slot of Table 4.1. -/
def issueOk (a : Assembly) (i : Instr) (t slot : Nat) (w : BitVec 64) : Bool :=
  tileFitted a t && slot < 8 && tileDecode t slot w == some i

/-- A frame of type ty (R260, Table 10.2). -/
def frameOk (a : Assembly) (ty port dev : Nat) (hdr : BitVec 48) (pay : List (BitVec 8)) : Bool :=
  port < surfPorts a && dev < 256 && hTy hdr == ty && pay.length == payLen ty

/-- The edges of a run are signed bytes, one pair for each of the 36 pins (Table 7.13). -/
def eventOk (e : RunEvent) : Bool :=
  match e with
  | .begins => true
  | .ends _ eyes => eyes.length ≤ 36 && eyes.all (fun x => -128 ≤ x.1 && x.1 < 128 && -128 ≤ x.2 && x.2 < 128)
  | .fails => true

/-- The HELLO fields of Table 10.4. -/
def trainOk (r : TrainResult) : Bool :=
  match r with
  | .locked d p _ => d < 256 && p < 64
  | .failed => true

/-- The rows and columns of a subarray that BIST names (R339). -/
def bistOk (r : BistResult) : Bool :=
  match r with
  | .pass => true
  | .over => true
  | .column row col => row < 1024 && col < 576
  | .row row col => row < 1024 && col < 576
  | .fail _ => true

/-- A header-switched domain of the assembly (R307). -/
def headerOk (a : Assembly) (d : PowerDomain) : Bool :=
  match d with
  | .tile st r c => st < crests a && r < 12 && c < 17
  | .slice st k => st < crests a && k < 16
  | .port p => p < surfPorts a
  | .ctrl c => ctrlOk a c

/-- A reset domain of the assembly (Table 14.6). -/
def domainOk (a : Assembly) (d : ResetDomain) : Bool :=
  match d with
  | .tile t => tileFitted a t
  | .stack st => st < crests a
  | .part p => p < totalVFs a
  | .port p => p < surfPorts a
  | .ctrl c => ctrlOk a c
  | .ioDie d => d < ioDies a
  | .device => true

/-- What a bring-up stage finds names fitted units. -/
def findingsOk (a : Assembly) (f : StageFindings) : Bool :=
  f.badPch.all (fun e => ctrlOk a e.1 && e.2 < 64) && f.badSlices.all (fun e => e.1 < crests a && e.2 < 16) &&
  f.badPorts.all (· < surfPorts a) && f.hellos.all (fun e => e.1 < surfPorts a && e.2.1 < 256 && e.2.2 < 64) &&
  (f.failTiles ++ f.fwFails).all (fun e => e.1 < crests a && e.2.1 < 12 && e.2.2 < 17) &&
  f.marches.all (fun e => e.1 < crests a && e.2.1 < 16 && e.2.2.1 < 3072)

/-- Are the operands of a command in range on an assembly? -/
def Instr.wf (a : Assembly) (i : Instr) : Bool :=
  match i with
  | .registerWrite fn off width v => fnOk a fn && off < 0x400_0000 && [1, 2, 4, 8].contains width && v.toNat < 2 ^ (8 * width)
  | .iadd t slot w => issueOk a (.iadd t slot w) t slot w
  | .isub t slot w => issueOk a (.isub t slot w) t slot w
  | .imul t slot w => issueOk a (.imul t slot w) t slot w
  | .imulh t slot w => issueOk a (.imulh t slot w) t slot w
  | .imad t slot w => issueOk a (.imad t slot w) t slot w
  | .andB t slot w => issueOk a (.andB t slot w) t slot w
  | .orB t slot w => issueOk a (.orB t slot w) t slot w
  | .xorB t slot w => issueOk a (.xorB t slot w) t slot w
  | .shl t slot w => issueOk a (.shl t slot w) t slot w
  | .shr t slot w => issueOk a (.shr t slot w) t slot w
  | .sar t slot w => issueOk a (.sar t slot w) t slot w
  | .imin t slot w => issueOk a (.imin t slot w) t slot w
  | .imax t slot w => issueOk a (.imax t slot w) t slot w
  | .sel t slot w => issueOk a (.sel t slot w) t slot w
  | .isetp t slot w => issueOk a (.isetp t slot w) t slot w
  | .bitop t slot w => issueOk a (.bitop t slot w) t slot w
  | .iadd64 t slot w => issueOk a (.iadd64 t slot w) t slot w
  | .fadd t slot w => issueOk a (.fadd t slot w) t slot w
  | .fmul t slot w => issueOk a (.fmul t slot w) t slot w
  | .ffma t slot w => issueOk a (.ffma t slot w) t slot w
  | .fmin t slot w => issueOk a (.fmin t slot w) t slot w
  | .fmax t slot w => issueOk a (.fmax t slot w) t slot w
  | .fsetp t slot w => issueOk a (.fsetp t slot w) t slot w
  | .fsfu t slot w => issueOk a (.fsfu t slot w) t slot w
  | .cvt t slot w => issueOk a (.cvt t slot w) t slot w
  | .dadd t slot w => issueOk a (.dadd t slot w) t slot w
  | .dmul t slot w => issueOk a (.dmul t slot w) t slot w
  | .dfma t slot w => issueOk a (.dfma t slot w) t slot w
  | .dsetp t slot w => issueOk a (.dsetp t slot w) t slot w
  | .cvtraw t slot w => issueOk a (.cvtraw t slot w) t slot w
  | .shfl t slot w => issueOk a (.shfl t slot w) t slot w
  | .bra t slot w => issueOk a (.bra t slot w) t slot w
  | .ifC t slot w => issueOk a (.ifC t slot w) t slot w
  | .elseC t slot w => issueOk a (.elseC t slot w) t slot w
  | .endif t slot w => issueOk a (.endif t slot w) t slot w
  | .loopC t slot w => issueOk a (.loopC t slot w) t slot w
  | .brk t slot w => issueOk a (.brk t slot w) t slot w
  | .endloop t slot w => issueOk a (.endloop t slot w) t slot w
  | .call t slot w => issueOk a (.call t slot w) t slot w
  | .ret t slot w => issueOk a (.ret t slot w) t slot w
  | .bar t slot w => issueOk a (.bar t slot w) t slot w
  | .endC t slot w => issueOk a (.endC t slot w) t slot w
  | .nop t slot w => issueOk a (.nop t slot w) t slot w
  | .ldt t slot w => issueOk a (.ldt t slot w) t slot w
  | .stt t slot w => issueOk a (.stt t slot w) t slot w
  | .ldd t slot w => issueOk a (.ldd t slot w) t slot w
  | .std t slot w => issueOk a (.std t slot w) t slot w
  | .madd t slot w => issueOk a (.madd t slot w) t slot w
  | .fence t slot w => issueOk a (.fence t slot w) t slot w
  | .send t slot w => issueOk a (.send t slot w) t slot w
  | .recv t slot w => issueOk a (.recv t slot w) t slot w
  | .mstat t slot w => issueOk a (.mstat t slot w) t slot w
  | .mcancel t slot w => issueOk a (.mcancel t slot w) t slot w
  | .mfree t slot w => issueOk a (.mfree t slot w) t slot w
  | .sread t slot w => issueOk a (.sread t slot w) t slot w
  | .attn t slot w => issueOk a (.attn t slot w) t slot w
  | .attnw t slot w => issueOk a (.attnw t slot w) t slot w
  | .azero t slot w => issueOk a (.azero t slot w) t slot w
  | .aload t slot w => issueOk a (.aload t slot w) t slot w
  | .amul t slot w => issueOk a (.amul t slot w) t slot w
  | .adrain t slot w => issueOk a (.adrain t slot w) t slot w
  | .astat t slot w => issueOk a (.astat t slot w) t slot w
  | .cuppingShadowDone t arr => tileFitted a t && arr < 4
  | .deviceReply _ => true
  | .tileProgramLoad t part _ => tileFitted a t && part < totalVFs a
  | .tileReport t part _ => tileFitted a t && part < totalVFs a
  | .reservation src h dst => tileFitted a src && h < 32 && tileFitted a dst
  | .grant src h dst => tileFitted a src && h < 32 && tileFitted a dst
  | .messageInject src h => tileFitted a src && h < 32
  | .messageWrite src h dst => tileFitted a src && h < 32 && tileFitted a dst
  | .messageComplete src h => tileFitted a src && h < 32
  | .grantTimeout src h => tileFitted a src && h < 32
  | .reservationRetry src h => tileFitted a src && h < 32
  | .grantRelease src h dst => tileFitted a src && h < 32 && tileFitted a dst
  | .recvTimeout t slot => tileFitted a t && slot < 8
  | .scan t h => tileFitted a t && h < 4
  | .merge t h => tileFitted a t && h < 4
  | .score t h => tileFitted a t && h < 4
  | .compact t h => tileFitted a t && h < 4
  | .attnCommandFinal t h => tileFitted a t && h < 4
  | .scoreUpdate _ => true
  | .ringStepEnd part _ => part < totalVFs a
  | .blockAbandon part _ => part < totalVFs a
  | .shelfRead _ => true
  | .shelfWrite _ => true
  | .fillArrival _ => true
  | .shelfMadd _ => true
  | .mergeEntryTimeout stack slice word => stack < crests a && slice < 16 && word < 2 ^ 44
  | .sliceRetireDone stack slice => stack < crests a && slice < 16
  | .hbmRead ctrl _ => ctrlOk a ctrl
  | .hbmWrite ctrl _ => ctrlOk a ctrl
  | .hbmMaskedWrite ctrl _ => ctrlOk a ctrl
  | .hbmAdd ctrl _ => ctrlOk a ctrl
  | .addEntryTimeout ctrl cw => ctrlOk a ctrl && cw < 2 ^ 42
  | .requestPromote ctrl _ => ctrlOk a ctrl
  | .refresh ctrl pch => ctrlOk a ctrl && pch < 64
  | .memRetrain by_ ctrl pch => (by_ == 9 || fnOk a by_) && ctrlOk a ctrl && pch < 64
  | .readTimingMargin by_ ctrl pch => (by_ == 9 || fnOk a by_) && ctrlOk a ctrl && pch < 64
  | .readVoltageMargin by_ ctrl pch => (by_ == 9 || fnOk a by_) && ctrlOk a ctrl && pch < 64
  | .writeTimingMargin by_ ctrl pch => (by_ == 9 || fnOk a by_) && ctrlOk a ctrl && pch < 64
  | .writeVoltageMargin by_ ctrl pch => (by_ == 9 || fnOk a by_) && ctrlOk a ctrl && pch < 64
  | .retrainSlice ctrl ev => ctrlOk a ctrl && eventOk ev
  | .hbmControllerReset ctrl _ => ctrlOk a ctrl
  | .hbmTempSample ctrl degC _ _ => ctrlOk a ctrl && -128 ≤ degC && degC < 128
  | .lowPromote _ => true
  | .tgCfgWrite _ => true
  | .refQualified => true
  | .refLost => true
  | .stepInEdge => true
  | .stepMissed => true
  | .timeHold => true
  | .slotokClear => true
  | .tgLoad fn v => fnOk a fn && bit v.toNat 63
  | .tgNowRead fn => fnOk a fn
  | .slotOpen n => n < 256
  | .slotClose n => n < 256
  | .loadNotice n => n < 256
  | .loadNoticeEnd => true
  | .bistSlice n => n < 256
  | .scrubSlice n => n < 256
  | .commitApply => true
  | .cupOpen n => n < 256
  | .cupClose n => n < 256
  | .phase n => n < 256
  | .idleF port dev hdr pay => frameOk a 0 port dev hdr pay
  | .dataF port dev hdr pay => frameOk a 1 port dev hdr pay
  | .openF port dev hdr pay => frameOk a 2 port dev hdr pay
  | .closeF port dev hdr pay => frameOk a 3 port dev hdr pay
  | .closeAck port dev hdr pay => frameOk a 4 port dev hdr pay
  | .abandon port dev hdr pay => frameOk a 5 port dev hdr pay
  | .nak port dev hdr pay => frameOk a 8 port dev hdr pay
  | .credit port dev hdr pay => frameOk a 9 port dev hdr pay
  | .hello port dev hdr pay => frameOk a 10 port dev hdr pay
  | .retrainReq port dev hdr pay => frameOk a 11 port dev hdr pay
  | .badFrame port _ => port < surfPorts a
  | .rtoExpiry port dev seq _ => port < surfPorts a && dev < 256 && seq < 4096
  | .helloTimer port => port < surfPorts a
  | .frameSend port => port < surfPorts a
  | .trainingEnd port res => port < surfPorts a && trainOk res
  | .blockLockLoss port => port < surfPorts a
  | .fecErrorRatio rep => rep.port < surfPorts a
  | .lnkRetrain fn port => fnOk a fn && port < surfPorts a
  | .lnkReset fn port => fnOk a fn && port < surfPorts a
  | .cvuScan part sq => queueOk a part sq
  | .cvuScanDone ch => cvuFitted a ch
  | .cvuTransferCheck _ => true
  | .clrstrm fn => fnOk a fn
  | .sqDoorbell fn part q _ => fnOk a fn && queueOk a part q
  | .cqDoorbell fn part q _ => fnOk a fn && queueOk a part q
  | .sqEntryFetch part sq => queueOk a part sq
  | .launch part sq => queueOk a part sq
  | .copy part sq => queueOk a part sq
  | .attnBatch part sq => queueOk a part sq
  | .scrub part sq => queueOk a part sq
  | .fenceCommand part sq => queueOk a part sq
  | .commit part sq => queueOk a part sq
  | .pin part sq => queueOk a part sq
  | .unpin part sq => queueOk a part sq
  | .note part sq => queueOk a part sq
  | .commandTimeout part _ => partOk a part
  | .watchdogTest part _ => part < totalVFs a
  | .start fn part => fnOk a fn && part < totalVFs a
  | .stop fn part => fnOk a fn && part < totalVFs a
  | .resume fn part => fnOk a fn && part < totalVFs a
  | .hang fn part => fnOk a fn && part < totalVFs a
  | .cancel fn part v => fnOk a fn && part < totalVFs a && bit v.toNat 63
  | .bar2Read fn off len => fnOk a fn && off + len ≤ windowSize fn && 0 < len
  | .bar2Write fn off bytes => fnOk a fn && off + bytes.length ≤ windowSize fn && bytes != []
  | .vfFlr vf => 1 ≤ vf && vf ≤ totalVFs a
  | .pfFlr => true
  | .perstN => true
  | .vddAonRise _ _ => true
  | .powerGood rail => rail < 6
  | .floodTimeout => true
  | .railFail rail _ => rail < 6
  | .ebbStep => true
  | .headerSwitchGroup dom _ => headerOk a dom.1 && supplyOk dom.1 dom.2
  | .powerLoop volts amps => volts.monitor.length == 5 && amps.length == 5 && volts.pmbus.length == 5
  | .brownout rail => rail < 5
  | .brownoutEnd => true
  | .phaseScan amps faults => amps.length == 4 && faults.length == 4
  | .thermalSample unit codes => unitFitted a unit && codes.length ≤ 16
  | .sensorResample n _ => sensorFitted a n
  | .thmClear fn => fnOk a fn
  | .bucketLeak => true
  | .scrubSliceEnd engine done => unitFitted a engine && done < 2 ^ 24
  | .bistSliceEnd unit res => unitFitted a unit && bistOk res
  | .bistWaitTimeout unit => unitFitted a unit
  | .stageComplete found => findingsOk a found
  | .stageTimeout _ => true
  | .continueCmd fn => fnOk a fn
  | .haltInNRise => true
  | .hlmrst fn => fnOk a fn
  | .devrst fn => fnOk a fn
  | .keepok => true
  | .headlandWatchdog => true
  | .keeperExpiry => true
  | .unitPoll dom _ => domainOk a dom
  | .readFlash off len => off + len ≤ 2 ^ 28
  | .writeInactiveFirmwareBank off bytes => off + bytes.length ≤ 2 ^ 28
  | .makePreferred bank slot => bank < 2 && slot < 2
  | .writeInactiveRecordSlot off bytes => off + bytes.length ≤ 2 ^ 28
  | .retireTile x y => x < tilesX a && y < tilesY a
  | .broadcastTileFirmware fw => fw.bad.all (fun e => tileFitted a e.1)
  | .readEventLog idx => idx < 65536
  | .engineFaultReplay part => part < totalVFs a
  | .replayContextEnd part rstat => part < totalVFs a && rstat ≤ 4
  | .tileReset t => tileFitted a t
  | .stackReset stack => stack < crests a
  | .partitionReset part => part < totalVFs a
  | .ioDieReset die => 0 < die && die < ioDies a
  | .deviceReset => true
  | .domainResetDone dom => domainOk a dom
  | .vddAonFall => true
  | .perstNRise => true
  | .slowClockFallback => true
  | .stepBoundary => true
  | .stepOutEnd => true
  | .noneFire n => n < 256
  | .refreshManagement ctrl pch => ctrlOk a ctrl && pch < 64
  | .journalWrite => true

end Sys2Proof
end

