-- ==== Sys2Proof/Safety.lean ====
section
/-! DEFINITION. The vocabulary of the statements: when a command can run normally, what it leaves alone, the invariants
that every step keeps. -/

namespace Sys2Proof.Machine

/-! ### Frames -/

/-- Every register of BAR0 but those of the list is as before. -/
def RegsBut (s s' : State) (l : List Nat) : Prop := ∀ o, o ∉ l → reg s' o = reg s o

/-- The state with one group of a tile replaced and the scheduler's pointer after it (R107). -/
def afterGroup (s : State) (t slot : Nat) (g : Group) : State := movePtr (setGroup s t slot g) t slot

/-! ### Issuing (R95, R98, R106, R109, R117, R332) -/

/-- Nothing stored in the tile's memory or in the group's word registers is damaged. -/
def Undamaged (s : State) (t slot : Nat) : Prop := (tileOf s t).memErr = [] ∧ (grp s t slot).regErr = []

/-- The tile memory address of a group's next instruction. -/
def nextAt (s : State) (t slot : Nat) : Nat := (grp s t slot).codeAt + (grp s t slot).pc.toNat

/-- The group can issue the word as the instruction of the row: it is ready, its next instruction lies in the loaded
code and stands in the instruction buffer, the word's reserved bits and fields and its registers are legal, and no
register it names awaits a load. -/
def CanIssue (row : Row) (t slot : Nat) (w : DWord) (s : State) : Prop :=
  issuable s t slot = true ∧ (grp s t slot).st = .ready ∧ (grp s t slot).pc.toNat + 8 ≤ (grp s t slot).codeLen ∧ Undamaged s t slot ∧
  ibufHas (tileOf s t) (nextAt s t slot) = true ∧
  formatOk row w = true ∧ spansOk row w = true ∧ regsPending s t slot (row.srcs w ++ row.dsts w) = false

/-- In the threads where a class R, I or M instruction acts (R99), registers r to r + n - 1 hold `v thread index`; every
other word register of the group is as before. -/
def LanesGive (g g' : Group) (w : DWord) (r n : Nat) (v : Nat → Nat → Word) : Prop :=
  ∀ th < 32, ∀ k < 128, rget g' th k = if th ∈ acting g w ∧ r ≤ k ∧ k < r + n then v th (k - r) else rget g th k

/-- The results of a group instruction go to every active thread (R100). -/
def ActiveGive (g g' : Group) (r n : Nat) (v : Nat → Nat → Word) : Prop :=
  ∀ th < 32, ∀ k < 128, rget g' th k = if bit g.active.toNat th = true ∧ r ≤ k ∧ k < r + n then v th (k - r) else rget g th k

/-- The group goes on to its next instruction, and only its word registers may differ. -/
def NextInstr (g g' : Group) : Prop := { g' with pc := g.pc, regs := g.regs } = g ∧ g'.pc = g.pc + 8

/-- As NextInstr, with the sticky floating-point flags joined by the exceptions of the acting threads (R104). -/
def NextInstrFp (g g' : Group) (w : DWord) (f : Nat → FFlags) : Prop :=
  { g' with pc := g.pc, regs := g.regs, fp := g.fp } = g ∧ g'.pc = g.pc + 8 ∧
  g'.fp = (acting g w).foldl (fun x th => x ||| f th) g.fp

/-! ### Messages, registers, events -/

/-- Only rings, send lists, releases and injection numbers of tiles change: what the message engines hold (R119 to R121). -/
def MsgOnly (s s' : State) : Prop :=
  { s' with tiles := s.tiles } = s ∧ ∀ u, { tileOf s' u with
    rings := (tileOf s u).rings
    sends := (tileOf s u).sends
    rels := (tileOf s u).rels
    serial := (tileOf s u).serial } = tileOf s u

/-- As MsgOnly, where registers of the list may change too. -/
def MsgAnd (s s' : State) (l : List Nat) : Prop := MsgOnly { s with bar0 := [] } { s' with bar0 := [] } ∧ RegsBut s s' l

/-! ### Commands of the queues (R288 to R293, R296) -/

/-- The completion queue of SQ sq of dispatcher p; the device queue (p = 8) has one. -/
def cqOf (s : State) (p sq : Nat) : Nat := if p = 8 then 0 else regF s (oSQB p sq) 59 56

/-- The completion queue of SQ sq of dispatcher p can take an entry now, and its next entry lies in host memory at
`key`. -/
def CqOpen (s : State) (p sq key : Nat) : Prop :=
  let q := cqOf s p sq
  let a := (reg s (oCQA p q)).toNat + 32 * regF s (oCQB p q) 27 16
  p ≤ 8 ∧ sq < 16 ∧ cqRoom s p q = true ∧ (∀ w ∈ (partOf s p).waiting, w.1 ≠ q) ∧ (partOf s p).quarantine = false ∧
    a % 32 = 0 ∧ routeOf s (if p = 8 then none else some p) a = .host key

/-- Vector k of partition p as it is signalled: through its VF, or through the PF while VIAPF is 1; the device queue
signals PF vector 9 (R284, R296). -/
def vectorOf (s : State) (p k : Nat) : Nat × Nat :=
  if p = 8 then (0, 9) else if regB s (oPCFG p) 17 = true then (0, 64 + 64 * p + k) else (p + 1, k)

/-- The registers a completion may change: head and tail of the queues, PSTAT, the Breakwater count of the write. -/
def queueRegs (s : State) (p sq : Nat) : List Nat :=
  [oSQB p sq, oCQB p (cqOf s p sq), oBWRCNT p 3] ++ (if p = 8 then [] else [oPSTAT p])

/-- The 32 bytes of a completion (Table 11.7) stand in host memory with the phase bit of the pass, the tail of the CQ
has moved on, PROGRESS has counted it, and its vector is signalled if the entry asked for that (R284, R291), before the
vectors `more`. -/
def Completed (s s' : State) (p sq key : Nat) (b : List Byte) (irq : Bool) (more : List (Nat × Nat)) : Prop :=
  let q := cqOf s p sq
  let o := oCQB p q
  let tail := regF s o 27 16
  let d := depthOf (regF s o 43 40)
  let phase : Byte := BitVec.ofNat 8 ((SMap.get 0 (partOf s p).pass q + 1) % 2)
  (∀ a, Mem.byte s'.hostMem a =
    if key ≤ a ∧ a < key + 32 then (if a = key + 5 then b.getD 5 0 ||| phase else b.getD (a - key) 0) else Mem.byte s.hostMem a) ∧
  regF s' o 27 16 = (tail + 1) % d ∧ (p ≠ 8 → regF s' (oPSTAT p) 63 32 = (regF s (oPSTAT p) 63 32 + 1) % 2 ^ 32) ∧
  SMap.get 0 (partOf s' p).pass q = SMap.get 0 (partOf s p).pass q + (if tail + 1 = d then 1 else 0) ∧
  s'.irqs = s.irqs ++ (if irq = true then [vectorOf s p (min 47 (regF s o 53 48))] else []) ++ more

/-- What a command of dispatcher p leaves alone whose completion is all it writes: the requests to host memory join those
before (R281). -/
def OnlyQueue (s s' : State) (p sq : Nat) : Prop :=
  { s' with parts := s.parts, bar0 := s.bar0, hostMem := s.hostMem, hostReqs := s.hostReqs, irqs := s.irqs } = s ∧
  (∀ u ≠ p, partOf s' u = partOf s u) ∧ RegsBut s s' (queueRegs s p sq)

/-- Entry e is the only one that waits at dispatcher p, it can start now, and no FENCE is in flight (R290, R293). Between
commands the mark `stalled` is clear. -/
def CanStart (s : State) (p sq : Nat) (e : SqEntry) : Prop :=
  s.stalled = false ∧ p ≤ 8 ∧ sq < 16 ∧ startable s p sq = some e ∧ entriesOf s p sq = [e] ∧ (∀ q ≠ sq, entriesOf s p q = []) ∧ e.bytes.length = 128 ∧
    ∀ d ∈ (partOf s p).cmds, d.id ≠ (partOf s p).serial ∧ eOp d.entry ≠ 6 ∧ d.awaits = []

/-- An entry starts and completes within one step: it leaves its queue, and its completion carries the status and
detail. -/
def StartsAndCompletes (s s' : State) (p sq key : Nat) (e : SqEntry) (status detail : Nat) (more : List (Nat × Nat)) : Prop :=
  Completed s s' p sq key (cqEntry s sq e.idx e.bytes status detail false (timeoutOf s p e.bytes).isNone) (bit (eFlags e.bytes) 0)
    more ∧
  entriesOf s' p sq = [] ∧ (partOf s' p).cmds = (partOf s p).cmds ∧ (p ≠ 8 → pState s' p = 2)

/-- An entry starts and becomes a command in flight with its counters loaded (R290, R297). -/
def StartsAs (s s' : State) (p sq : Nat) (e : SqEntry) (c : Cmd) : Prop :=
  entriesOf s' p sq = [] ∧ (partOf s' p).cmds = (partOf s p).cmds ++ [c] ∧ c.id = (partOf s p).serial ∧ c.sq = sq ∧
  c.idx = e.idx ∧ c.entry = e.bytes ∧ c.timeout = timeoutOf s p e.bytes ∧ c.cntA = c.timeout.getD 0 ∧ c.cntB = c.cntA ∧
  (p ≠ 8 → pState s' p = 2)

/-- Command c of dispatcher p ends: it is no longer in flight, and its completion carries the status and detail. -/
def Ends (s s' : State) (p key : Nat) (c : Cmd) (status detail : Nat) (more : List (Nat × Nat)) : Prop :=
  Completed s s' p c.sq key (cqEntry s c.sq c.idx c.entry status detail c.late c.timeout.isNone) (bit (eFlags c.entry) 0) more ∧
  (partOf s' p).cmds = (partOf s p).cmds.filter (fun d => d.id != c.id)

/-- Command c is in flight at dispatcher p, which runs with no other entry waiting and no FENCE in flight. -/
def InFlight (s : State) (p : Nat) (c : Cmd) : Prop :=
  p ≤ 8 ∧ cmdOf s p c.id = some c ∧ (p ≠ 8 → pState s p = 2) ∧ (∀ q, entriesOf s p q = []) ∧ c.entry.length = 128 ∧
    ∀ d ∈ (partOf s p).cmds, eOp d.entry ≠ 6 ∧ d.awaits = []

/-- n bytes of device address space from `a` lie in host memory from `key`, for a master that acts for partition p. -/
def HostRange (s : State) (p : Option Nat) (a n key : Nat) : Prop := ∀ i < n, routeOf s p (a + i) = .host (key + i)

/-! ### The shelf and the controllers (R160 to R168, R182, R189) -/

/-- Request x has reached its home and nothing keeps it waiting there: its set, its sectors, an earlier request of its tile or
group (R115, R219), or one that goes before it (R223). -/
def AtHome (s : State) (x : Txn) (hm : Home) : Prop :=
  txnOf s x.id = some x ∧ x.stage = .toHome ∧ homeOfTxn s x = some hm ∧ x.gen = genOf s (domainOf x.src) ∧
    sliceBusy s hm = false ∧ earlierOverlap s x = false ∧ earlierArrival s x hm = false ∧ outranked s x hm = false ∧ quarantined s hm.st = false ∧
    ∀ y ∈ s.txns, y.id = x.id → y = x

/-- The next read of byte a of a line through its slice gives v, with no error. -/
def LineByte (s : State) (st k key a : Nat) (v : Byte) : Prop :=
  (lineRead s st k key [a]).2.1 = [(a, v)] ∧ (lineRead s st k key [a]).2.2 = []

/-- No codeword of a granule has an error, an add-buffer entry or a lost write. -/
def CleanGran (s : State) (gran : Nat) : Prop :=
  let i := (ctrlAt s.asm (gran * 256)).1
  isLost s i gran = false ∧ ∀ k < 4, cwErr s (gran * 4 + k) = [] ∧ ∀ e ∈ (ctrlOf s i).adds, e.cw ≠ gran * 4 + k

/-! ### The tide table (R247 to R249) -/

/-- Entry n has spent the firing of step st: COUNT falls, VALID is cleared after the last firing. -/
def Spent (s s' : State) (n st : Nat) : Prop :=
  let last := entRepeat s n = 0 ∨ entCount s n = 1
  entCount s' n = entCount s n - 1 ∧ (entValid s' n = true ↔ ¬ last) ∧
  (unhandled s' n = st + 1 ∨ last ∧ unhandled s' n = 0)

/-- No entry of the tide table can fire and no commit waits. -/
def NoTides (s : State) : Prop := (∀ n < 248, entValid s n = false) ∧ s.tg.commits = []

/-! ### Surf ports (R262 to R277) -/

/-- Nothing changes but port p beside its registers. -/
def PortOnly (s s' : State) (p : Nat) : Prop := { s' with ports := s.ports } = s ∧ ∀ q ≠ p, portOf s' q = portOf s q

/-- Port p has no sequenced frame to send and none that is not acknowledged. -/
def NoFrames (s : State) (p : Nat) : Prop :=
  (portOf s p).txq = [] ∧ (∀ e ∈ (portOf s p).ctl, sequenced e.2.ty = false ∧ e.2.seq < 4096) ∧
  ∀ e ∈ (portOf s p).spaces, e.2.replay = []

/-- A frame put on the wire of port p, the last one: header and payload with their CRC-32, in Ethernet frames behind the
addresses of R261 (R260). -/
def Sent (s s' : State) (p dev : Nat) (f : Frame) (seq : Nat) (pay : List Byte) : Prop :=
  (portOf s' p).sent = (portOf s p).sent ++ [wireFrame s p dev (frameHeader f seq (spaceOf s p dev).expect) pay]

/-! ### Whole lines (R178) -/

/-- Line lam is present at its home, wholly valid and undamaged, and nothing that touches it is on its way. -/
def WholeLine (s : State) (lam st k key : Nat) : Prop :=
  homeOf s (2048 * lam) = some (st, k) ∧ keyOf s st k lam = some key ∧ (lineAt (sliceOf s st k) key).tagErr = 0 ∧
  (sliceOf s st k).mb = [] ∧ (sliceOf s st k).wb = [] ∧ setInBist s st k (lineSet lam) = false ∧ (∀ j, (sliceOf s st j).retiring = false) ∧ s.fills = [] ∧ (∀ i, (ctrlOf s i).queue = []) ∧
  ∀ c < 8, (getSec s st k key c).valid = BitVec.ofNat 256 (2 ^ 256 - 1) ∧ (getSec s st k key c).err = []

/-! ### Escalation (R377) -/

/-- No reset takes anything out of service: bring-up is not complete, or THRESH is 0. -/
def NoEscalation (s : State) : Prop := regB s oHLMSTAT 17 = false ∨ regF s oESCCFG 7 0 = 0

/-- What a device reset leaves (R370, R371, Table 14.6): bring-up starts at stage 0, the units are clear, no domain is in
reset, the generations have moved on; the always-on registers, reported time, the flash and host memory stay. -/
def DeviceReset (s s' : State) : Prop :=
  s'.tiles = [] ∧ s'.shelf = [] ∧ s'.ctrls = [] ∧ s'.txns = [] ∧ s'.fills = [] ∧ s'.parts = [] ∧ s'.surf = Surf.reset ∧
  s'.resetting = [] ∧ s'.tg.commits = [] ∧ s'.head.running = true ∧ s'.head.inReset = false ∧ stageNow s' = 0 ∧
  regB s' oHLMSTAT 17 = false ∧ s'.pins.alertN = true ∧
  (∀ o, keptRegister o = true → o ≠ oPWRSTAT → o ≠ oTHMREC → reg s' o = reg s o) ∧
  (s.power.cells = [] → s.head.flash.recValid = none → reg s' oTHMREC = reg s oTHMREC) ∧ regF s' oPWRSTAT 13 8 = regF s oPWRSTAT 13 8 ∧
  (∀ d ∈ enclosed s .device, (∀ t, d ≠ .tile t) → genOf s' d = genOf s d + 1) ∧
  s'.head.flash = s.head.flash ∧ s'.hostMem = s.hostMem ∧ s'.asm = s.asm

/-! ### The mailbox (Table 14.7) -/

/-- Headland has answered a request: STATUS, the reply from the start of HLM_MBOX, PF vector 7. -/
def MailReply (s s' : State) (status : Nat) (reply : List Byte) (more : List Nat) : Prop :=
  regB s' oHLMMBDB 62 = false ∧ regF s' oHLMMBDB 55 48 = status ∧ s'.irqs = s.irqs ++ [(0, 7)] ∧
  (∀ i < reply.length, regF s' (oMBOX (i / 8)) (8 * (i % 8) + 7) (8 * (i % 8)) = (reply.getD i 0).toNat) ∧
  RegsBut s s' (oHLMMBDB :: (List.range (cdiv reply.length 8)).map oMBOX ++ more)

/-- The mailbox takes a request: it answers, no request runs, Headland is not in reset. -/
def MailReady (s : State) : Prop := mailUp s = true ∧ regB s oHLMMBDB 62 = false ∧ s.head.inReset = false

/-! ### Identity (R3 to R5) -/

/-- GLB_ID and GLB_REV, which say which device this is, read as Tables 0.2 and 0.3 give them for the assembly. -/
def IdentityHolds (s : State) : Prop :=
  reg s 0 = BitVec.ofNat 64 (0x4E4D_0009_0000_0000 + crests s.asm * 2 ^ 24 + hbms s.asm * 2 ^ 16 + ioDies s.asm * 2 ^ 8) ∧
  reg s 8 = 0x0000_0100_A0A0_A000

end Sys2Proof.Machine
end

