-- ==== Sys2Proof/Certificates/Slice0/Obligations.lean ====
section
/-! DEFINITION. The statements for the provers. Each docstring names the rules of spec/ that the statement formalises. -/

open Sys2Proof Sys2Proof.Machine

/-! ### Tile instructions (chapters 3 to 5) -/

/-- Two-operand integer instructions (Table 4.3): each acting thread's wd gets the named function of wa and wb (or IMM);
nothing else of the machine changes but the program counter and the scheduler's pointer. -/
def Obligations.IntegerResults : Prop :=
  ∀ (t slot : Nat) (w : DWord) (s : State),
    ∀ e ∈ ([(.iadd t slot w, rowIadd, fun a b => a + b),
            (.isub t slot w, rowIsub, fun a b => a - b),
            (.imul t slot w, rowImul, fun a b => a * b),
            (.imulh t slot w, rowImulh, fun a b =>
              if bit (wMOD w) 0 = true then (a.zeroExtend 64 * b.zeroExtend 64).extractLsb' 32 32
              else (a.signExtend 64 * b.signExtend 64).extractLsb' 32 32),
            (.andB t slot w, rowAnd, fun a b => a &&& b),
            (.orB t slot w, rowOr, fun a b => a ||| b),
            (.xorB t slot w, rowXor, fun a b => a ^^^ b),
            (.shl t slot w, rowShl, fun a b => a <<< (b.toNat % 32)),
            (.shr t slot w, rowShr, fun a b => a >>> (b.toNat % 32)),
            (.sar t slot w, rowSar, fun a b => a.sshiftRight (b.toNat % 32)),
            (.imin t slot w, rowImin, fun a b =>
              if bit (wMOD w) 0 = true then (if a.toNat ≤ b.toNat then a else b) else (if a.toInt ≤ b.toInt then a else b)),
            (.imax t slot w, rowImax, fun a b =>
              if bit (wMOD w) 0 = true then (if a.toNat ≤ b.toNat then b else a) else (if a.toInt ≤ b.toInt then b else a))]
            : List (Instr × Row × (Word → Word → Word))),
      CanIssue e.2.1 t slot w s →
      ∃ g', exec e.1 s = .next (afterGroup s t slot g') ∧ NextInstr (grp s t slot) g' ∧
        LanesGive (grp s t slot) g' w (wWD w) 1
          (fun th _ => e.2.2 (rget (grp s t slot) th (wWA w)) (opB (grp s t slot) w th))

/-- IMAD, SEL, SHFL, BITOP and IADD64 (Table 4.3): the result of each acting thread and the frame. -/
def Obligations.IntegerSpecialResults : Prop :=
  ∀ (t slot : Nat) (w : DWord) (s : State),
    let g := grp s t slot
    (CanIssue rowImad t slot w s → ∃ g', exec (.imad t slot w) s = .next (afterGroup s t slot g') ∧ NextInstr g g' ∧
      LanesGive g g' w (wWD w) 1 (fun th _ => rget g th (wWA w) * rget g th (wWB w) + rget g th (wWC w))) ∧
    (CanIssue rowSel t slot w s → ∃ g', exec (.sel t slot w) s = .next (afterGroup s t slot g') ∧ NextInstr g g' ∧
      LanesGive g g' w (wWD w) 1
        (fun th _ => if pget g (wMOD w % 8) th = true then rget g th (wWA w) else rget g th (wWB w))) ∧
    (CanIssue rowShfl t slot w s → ∃ g', exec (.shfl t slot w) s = .next (afterGroup s t slot g') ∧ NextInstr g g' ∧
      LanesGive g g' w (wWD w) 1 (fun th _ => rget g ((opB g w th).toNat % 32) (wWA w))) ∧
    (CanIssue rowBitop t slot w s → ∃ g' v, exec (.bitop t slot w) s = .next (afterGroup s t slot g') ∧ NextInstr g g' ∧
      LanesGive g g' w (wWD w) 1 v ∧ ∀ th, let a := rget g th (wWA w)
        (wMOD w % 4 = 0 → (v th 0).toNat = (setBits 32 a.toNat).length) ∧
        (wMOD w % 4 = 1 → (a = 0 → v th 0 = 32) ∧
          (a ≠ 0 → (v th 0).toNat < 32 ∧ 2 ^ (31 - (v th 0).toNat) ≤ a.toNat ∧ a.toNat < 2 ^ (32 - (v th 0).toNat))) ∧
        (wMOD w % 4 = 2 → ∀ i < 32, bit (v th 0).toNat i = bit a.toNat (31 - i))) ∧
    (CanIssue rowIadd64 t slot w s → ∃ g', exec (.iadd64 t slot w) s = .next (afterGroup s t slot g') ∧ NextInstr g g' ∧
      LanesGive g g' w (wWD w) 2 (fun th i =>
        (rget2 g th (wWA w) + (if isImm w = true then (BitVec.ofNat 32 (wIMM w)).signExtend 64 else rget2 g th (wWB w))).extractLsb'
          (32 * i) 32))

/-- ISETP, FSETP and DSETP (Table 4.3, R96): the predicate of each acting thread, no write to p0, and the frame; a
floating compare joins its exceptions to the flags. -/
def Obligations.CompareResults : Prop :=
  ∀ (t slot : Nat) (w : DWord) (s : State),
    let g := grp s t slot
    ∀ e ∈ ([(.isetp t slot w, rowIsetp, fun th =>
              (let x : Int := if bit (wMOD w) 4 = true then (rget g th (wWA w)).toNat else (rget g th (wWA w)).toInt
               let y : Int := if bit (wMOD w) 4 = true then (opB g w th).toNat else (opB g w th).toInt
               match wMOD w % 16 with
               | 0 => decide (x = y)
               | 1 => decide (x ≠ y)
               | 2 => decide (x < y)
               | 3 => decide (x ≤ y)
               | 4 => decide (y < x)
               | _ => decide (y ≤ x), 0)),
            (.fsetp t slot w, rowFsetp, fun th =>
              fcmp (wMOD w % 16) (fp32.dec (rget g th (wWA w)).toNat) (fp32.dec (opB g w th).toNat)),
            (.dsetp t slot w, rowDsetp, fun th =>
              fcmp (wMOD w % 16) (fp64.dec (rget2 g th (wWA w)).toNat) (fp64.dec (rget2 g th (wWB w)).toNat))]
            : List (Instr × Row × (Nat → Bool × FFlags))),
      CanIssue e.2.1 t slot w s →
      ∃ g', exec e.1 s = .next (afterGroup s t slot g') ∧ { g' with pc := g.pc, preds := g.preds, fp := g.fp } = g ∧
        g'.pc = g.pc + 8 ∧ g'.fp = (acting g w).foldl (fun x th => x ||| (e.2.2 th).2) g.fp ∧
        (∀ th < 32, pget g' 0 th = true) ∧
        ∀ th < 32, ∀ p < 8, pget g' p th =
          if th ∈ acting g w ∧ p = wWD w % 8 ∧ p ≠ 0 then (e.2.2 th).1 else pget g p th

/-- The floating instructions (Table 4.3, R101 to R104): each acting thread's register or pair gets the IEEE operation's
result, its exceptions join the sticky flags, and nothing else changes. -/
def Obligations.FloatResults : Prop :=
  ∀ (t slot : Nat) (w : DWord) (s : State),
    let g := grp s t slot
    let a (th : Nat) := (rget g th (wWA w)).toNat
    let b (th : Nat) := (opB g w th).toNat
    let pa (th : Nat) := (rget2 g th (wWA w)).toNat
    let pb (th : Nat) := (rget2 g th (wWB w)).toNat
    let r := wMOD w % 4
    ∀ e ∈ ([(.fadd t slot w, rowFadd, 1, fun th => fp32.add r (a th) (b th)),
            (.fmul t slot w, rowFmul, 1, fun th => fp32.mul r (a th) (b th)),
            (.ffma t slot w, rowFfma, 1, fun th => fp32.fma r (a th) (rget g th (wWB w)).toNat (rget g th (wWC w)).toNat),
            (.fmin t slot w, rowFmin, 1, fun th => fp32.minmax false (a th) (b th)),
            (.fmax t slot w, rowFmax, 1, fun th => fp32.minmax true (a th) (b th)),
            (.fsfu t slot w, rowFsfu, 1, fun th =>
              ((fsfu (wMOD w % 16) (rget g th (wWA w))).1.toNat, (fsfu (wMOD w % 16) (rget g th (wWA w))).2)),
            (.dadd t slot w, rowDadd, 2, fun th => fp64.add r (pa th) (pb th)),
            (.dmul t slot w, rowDmul, 2, fun th => fp64.mul r (pa th) (pb th)),
            (.dfma t slot w, rowDfma, 2, fun th => fp64.fma r (pa th) (pb th) (rget2 g th (wWC w)).toNat),
            (.cvtraw t slot w, rowCvtraw, 2, fun th => (RawRec.ofBytes (rbytes g th (wWA w) 8)).toFp64),
            (.cvt t slot w, rowCvt, cvtRegs (wMOD w % 16), fun th =>
              cvt (wMOD w / 16) (wMOD w % 16) (if cvtRegs (wMOD w / 16) = 2 then pa th else a th))]
            : List (Instr × Row × Nat × (Nat → Nat × FFlags))),
      CanIssue e.2.1 t slot w s →
      ∃ g', exec e.1 s = .next (afterGroup s t slot g') ∧ NextInstrFp g g' w (fun th => (e.2.2.2 th).2) ∧
        LanesGive g g' w (wWD w) e.2.2.1 (fun th i => BitVec.ofNat 32 ((e.2.2.2 th).1 / 2 ^ (32 * i)))

/-- A NaN result is always the one quiet NaN of R101, whatever NaN came in: binary32 and binary64 addition,
multiplication and fused multiply-add with a NaN operand; invalid is raised exactly for a signalling one in an
addition. -/
def Obligations.NanResults : Prop :=
  ∀ f ∈ [fp32, fp64], ∀ (r x y z : Nat),
    ((f.dec x).isNan = true ∨ (f.dec y).isNan = true →
      (f.add r x y).1 = f.qnan ∧ (f.mul r x y).1 = f.qnan ∧ (f.fma r x y z).1 = f.qnan ∧
      ((f.add r x y).2 = fInvalid ↔ (f.dec x).isSig = true ∨ (f.dec y).isSig = true)) ∧
    ((f.dec z).isNan = true → (f.fma r x y z).1 = f.qnan) ∧
    fp32.qnan = 0x7FC0_0000 ∧ fp64.qnan = 0x7FF8_0000_0000_0000

/-- Rounding an exact value that the format holds gives its code back, in every rounding mode, with no exception: for
every finite code of binary32, binary64, binary16 and BF16, subnormals and zeros of both signs included. -/
def Obligations.ExactRounding : Prop :=
  ∀ f ∈ [fp32, fp64, fp16, bf16], ∀ (mode v : Nat), v < 2 ^ f.width → mode < 4 →
    match f.dec v with
    | .fin neg m e => f.round mode neg m e = (v, 0)
    | _ => True

/-- BRA, CALL, RET and NOP (R109, Table 4.7): where the group goes, what the return stack holds, and the frame. A target
counts in instructions from the one that carries it. An instruction that the instruction buffer does not hold, of whatever
form, runs as it does when its word has come into the buffer (R94, R117). -/
def Obligations.Branching : Prop :=
  ∀ (t slot : Nat) (w : DWord) (s : State),
    let g := grp s t slot
    let a : Int := g.pc.toNat + 8 * wTGT w
    (∀ c, tileDecode t slot w = some c → issuable s t slot = true → g.st = .ready → g.pc.toNat + 8 ≤ g.codeLen →
      (tileOf s t).memErr = [] → ibufWord (tileOf s t) (nextAt s t slot / 64) = none → (tileOf s t).ibuf.length < 256 →
      nextAt s t slot % 8 = 0 → exec c s = exec c (fillIbuf s t (nextAt s t slot / 64) 0)) ∧
    (CanIssue rowBra t slot w s → acting g w = setBits 32 g.active.toNat → acting g w ≠ [] → 0 ≤ a → a < g.codeLen →
      exec (.bra t slot w) s = .next (afterGroup s t slot { g with pc := BitVec.ofInt 32 a })) ∧
    (CanIssue rowBra t slot w s → acting g w = [] →
      exec (.bra t slot w) s = .next (afterGroup s t slot { g with pc := g.pc + 8 })) ∧
    (CanIssue rowCall t slot w s → acting g w = setBits 32 g.active.toNat → acting g w ≠ [] → g.rets.length < 8 → 0 ≤ a →
      a < g.codeLen →
      exec (.call t slot w) s =
        .next (afterGroup s t slot { g with pc := BitVec.ofInt 32 a, rets := ⟨g.pc + 8, g.masks.length⟩ :: g.rets })) ∧
    (∀ r rest, CanIssue rowRet t slot w s → g.rets = r :: rest → r.depth = g.masks.length →
      exec (.ret t slot w) s = .next (afterGroup s t slot { g with pc := r.pc, rets := rest })) ∧
    (CanIssue rowNop t slot w s → exec (.nop t slot w) s = .next (afterGroup s t slot { g with pc := g.pc + 8 }))

/-- IF, ELSE, ENDIF, LOOP, BRK and ENDLOOP (R109, Table 4.7): the active mask, the mask stack and the program counter
after each, and the frame. -/
def Obligations.MaskStack : Prop :=
  ∀ (t slot : Nat) (w : DWord) (s : State),
    let g := grp s t slot
    let m := condMask g w
    let a : Int := g.pc.toNat + 8 * wTGT w
    let go (x : BitVec 32) : BitVec 32 := if x = 0 then BitVec.ofInt 32 a else g.pc + 8
    (∀ i < 32, m.getLsbD i = true ↔ i ∈ acting g w) ∧
    (CanIssue rowIf t slot w s → g.masks.length < 16 → (m = 0 → 0 ≤ a ∧ a < g.codeLen) →
      exec (.ifC t slot w) s = .next (afterGroup s t slot
        { g with active := m, masks := ⟨.ifK, g.active, g.active &&& ~~~ m⟩ :: g.masks, pc := go m })) ∧
    (∀ r e rest, CanIssue rowElse t slot w s → g.masks = ⟨.ifK, r, e⟩ :: rest → (e = 0 → 0 ≤ a ∧ a < g.codeLen) →
      exec (.elseC t slot w) s = .next (afterGroup s t slot { g with active := e, pc := go e })) ∧
    (∀ r e rest, CanIssue rowEndif t slot w s → g.masks = ⟨.ifK, r, e⟩ :: rest →
      exec (.endif t slot w) s = .next (afterGroup s t slot { g with active := r, masks := rest, pc := g.pc + 8 })) ∧
    (CanIssue rowLoop t slot w s → g.masks.length < 16 →
      exec (.loopC t slot w) s = .next (afterGroup s t slot
        { g with masks := ⟨.loopK, g.active, 0⟩ :: g.masks, pc := g.pc + 8 })) ∧
    (∀ above l rest, CanIssue rowBrk t slot w s → g.masks = above ++ l :: rest → (∀ e ∈ above, e.kind = .ifK) →
      l.kind = .loopK → (g.active &&& ~~~ m = 0 → 0 ≤ a ∧ a < g.codeLen) →
      exec (.brk t slot w) s = .next (afterGroup s t slot
        { g with active := g.active &&& ~~~ m, pc := go (g.active &&& ~~~ m),
                 masks := above.map (fun e => { e with restore := e.restore &&& ~~~ m, els := e.els &&& ~~~ m }) ++ l :: rest })) ∧
    (∀ l rest, CanIssue rowEndloop t slot w s → g.active ≠ 0 → g.masks = l :: rest → l.kind = .loopK → 0 ≤ a → a < g.codeLen →
      exec (.endloop t slot w) s = .next (afterGroup s t slot { g with pc := BitVec.ofInt 32 a })) ∧
    (∀ above l rest, CanIssue rowEndloop t slot w s → g.active = 0 → g.masks = above ++ l :: rest →
      (∀ e ∈ above, e.kind = .ifK) → l.kind = .loopK →
      exec (.endloop t slot w) s = .next (afterGroup s t slot { g with active := l.restore, masks := rest, pc := g.pc + 8 }))

/-- Instructions that fault (R95, R98, R109 to R112, R120, R125): the cause of each, the group faulted and stopped, the
capture in an empty TIL_GRP_FAULT (Table 4.13), no effect on any other group of the tile; the fault then ends the
group's LAUNCH (R129), if it belongs to one. -/
def Obligations.InstructionFaults : Prop :=
  ∀ (t slot : Nat) (w : DWord) (s : State),
    let g := grp s t slot
    let a : Int := g.pc.toNat + 8 * wTGT w
    ∀ e ∈ ([(.ifC t slot w, rowIf, 0x13, g.masks.length ≥ 16),
            (.loopC t slot w, rowLoop, 0x13, g.masks.length ≥ 16),
            (.elseC t slot w, rowElse, 0x13, g.masks = []),
            (.endif t slot w, rowEndif, 0x13, g.masks = []),
            (.brk t slot w, rowBrk, 0x13, g.masks = []),
            (.endloop t slot w, rowEndloop, 0x13, g.masks = []),
            (.ret t slot w, rowRet, 0x13, g.rets = []),
            (.bra t slot w, rowBra, 0x12, acting g w ≠ [] ∧ ∃ i < 32, g.active.getLsbD i = true ∧ guard g w i = false),
            (.bra t slot w, rowBra, 0x14, acting g w = setBits 32 g.active.toNat ∧ acting g w ≠ [] ∧ g.codeLen ≤ a),
            (.ldt t slot w, rowLdt, 0x16, ∃ th ∈ acting g w, tmAddrOk g w th = false),
            (.stt t slot w, rowStt, 0x16, ∃ th ∈ acting g w, tmAddrOk g w th = false),
            (.bar t slot w, rowBar, 0x15, atBarrier (tileOf s t) (wBID w) ≠ [] ∧
              ∀ h < 8, ∀ c, (grp s t h).wait = .barrier (wBID w) c → (grp s t h).st = .atBarrier → c ≠ wCNT w),
            (.mfree t slot w, rowMfree, 0x1B, oldestDelivered (ringOf (tileOf s t) (wQ w)) = none)]
            : List (Instr × Row × Nat × Prop)),
      CanIssue e.2.1 t slot w s → e.2.2.2 → regB s (oGRPFAULT t) 63 = false →
      ∃ s1, exec e.1 s = .next (movePtr (match g.launch with
          | some l => launchFault s1 t l e.2.2.1
          | none => s1) t slot) ∧
        (grp s1 t slot).st = .faulted ∧ (grp s1 t slot).wait = .none ∧ (grp s1 t slot).regs = g.regs ∧
        regB s1 (oGRPFAULT t) 63 = true ∧ regF s1 (oGRPFAULT t) 47 40 = e.2.2.1 ∧ regF s1 (oGRPFAULT t) 39 37 = slot ∧
        regF s1 (oGRPFAULT t) 31 0 = g.pc.toNat ∧ (∀ h ≠ slot, grp s1 t h = grp s t h) ∧
        (∀ u ≠ t, tileOf s1 u = tileOf s u) ∧ (tileOf s1 t).mem = (tileOf s t).mem ∧
        RegsBut s s1 (oGRPFAULT t :: (List.range 4).map (oARRSTAT t)) ∧ { s1 with tiles := s.tiles, bar0 := s.bar0 } = s

/-- BAR and END (R110, R128, R73): an arrival short of the count waits at its barrier, the arrival that completes it
releases every group waiting there, and a group that ends gives its arrays back empty. -/
def Obligations.BarrierAndEnd : Prop :=
  ∀ (t slot : Nat) (w : DWord) (s : State),
    let g := grp s t slot
    let x := tileOf s t
    (CanIssue rowBar t slot w s → (∀ h < 8, ∀ c, (groupOf x h).wait = .barrier (wBID w) c → (groupOf x h).st = .atBarrier → c = wCNT w) →
      (atBarrier x (wBID w)).length + 1 < wCNT w →
      exec (.bar t slot w) s = .next (afterGroup s t slot
        { g with st := .atBarrier, wait := .barrier (wBID w) (wCNT w), pc := g.pc + 8 })) ∧
    (CanIssue rowBar t slot w s → (∀ h < 8, ∀ c, (groupOf x h).wait = .barrier (wBID w) c → (groupOf x h).st = .atBarrier → c = wCNT w) →
      wCNT w ≤ (atBarrier x (wBID w)).length + 1 →
      ∃ s', exec (.bar t slot w) s = .next s' ∧ { s' with tiles := s.tiles } = s ∧
        grp s' t slot = { g with pc := g.pc + 8 } ∧ (∀ u ≠ t, tileOf s' u = tileOf s u) ∧
        ∀ h < 8, h ≠ slot → grp s' t h = if h ∈ atBarrier x (wBID w) then { grp s t h with st := .ready, wait := .none } else grp s t h) ∧
    (CanIssue rowEnd t slot w s →
      ∃ s', exec (.endC t slot w) s = .next s' ∧ (grp s' t slot).st = .ended ∧ (∀ h ≠ slot, grp s' t h = grp s t h) ∧
        (∀ u ≠ t, tileOf s' u = tileOf s u) ∧ (tileOf s' t).mem = x.mem ∧
        (∀ n < 4, (arr s t n).owner = some (.group slot) → (arr s' t n).owner = none ∧ (arr s' t n).accs = []) ∧
        (∀ n < 4, (arr s t n).owner ≠ some (.group slot) → arr s' t n = arr s t n) ∧
        RegsBut s s' ((List.range 4).map (oARRSTAT t)) ∧ { s' with tiles := s.tiles, bar0 := s.bar0 } = s)

/-- LDT and STT (R111 to R113, R117): loaded bytes come zero-extended into WD and after; a store writes exactly the bytes
of its threads, the highest-numbered thread winning, and leaves every other byte of the tile alone. -/
def Obligations.TileMemoryAccess : Prop :=
  ∀ (t slot : Nat) (w : DWord) (s : State),
    let g := grp s t slot
    let at_ (th : Nat) : Nat := (tmAddr g w th).toNat
    let n := sizeBytes w
    (CanIssue rowLdt t slot w s → (∀ th ∈ acting g w, tmAddrOk g w th = true) →
      ∃ g', exec (.ldt t slot w) s = .next (afterGroup s t slot g') ∧ NextInstr g g' ∧
        LanesGive g g' w (wWD w) (max 1 (n / 4)) (fun th i =>
          BitVec.ofNat 32 (leNat (((Mem.read (tileOf s t).mem (at_ th) n).drop (4 * i)).take 4)))) ∧
    (CanIssue rowStt t slot w s → (∀ th ∈ acting g w, tmAddrOk g w th = true) →
      ∃ s', exec (.stt t slot w) s = .next s' ∧ { s' with tiles := s.tiles } = s ∧ (∀ u ≠ t, tileOf s' u = tileOf s u) ∧
        grp s' t slot = { g with pc := g.pc + 8 } ∧ (∀ h ≠ slot, grp s' t h = grp s t h) ∧
        { tileOf s' t with mem := (tileOf s t).mem, groups := (tileOf s t).groups, ptr := (tileOf s t).ptr } = tileOf s t ∧
        ∀ b, Mem.byte (tileOf s' t).mem b =
          match (acting g w).reverse.find? (fun th => decide (at_ th ≤ b ∧ b < at_ th + n)) with
          | some th => (storeBytes g w th).getD (b - at_ th) 0
          | none => Mem.byte (tileOf s t).mem b)

/-- LDD, STD, MADD and FENCE (R28, R111 to R116, R222, R226): one request for each line touched sets out, in order of first
touch, with the bytes each acting thread reads, stores or adds there and where a loaded value goes, addresses of the device's
own peer window standing for its HBM; the instruction counts as outstanding, and the count of its class rises by the requests.
With eight outstanding the instruction waits. An illegal address is a tile program fault. A FENCE waits while a store or an
add is outstanding. -/
def Obligations.DeviceAccess : Prop :=
  ∀ (t slot : Nat) (w : DWord) (s : State),
    let g := grp s t slot
    (∀ e ∈ ([(.ldd t slot w, rowLdd, .load, false), (.std t slot w, rowStd, .store, false),
             (.madd t slot w, rowMadd, .madd (wTYPE w), true)] : List (Instr × Row × TxnKind × Bool)),
      (CanIssue e.2.1 t slot w s → g.outst.length < 8 → acting g w = [] →
        exec e.1 s = .next (afterGroup s t slot { g with pc := g.pc + 8 })) ∧
      (CanIssue e.2.1 t slot w s → g.outst.length < 8 → acting g w ≠ [] → devTrap s g w e.2.2.2 = none →
       let own (a : Nat) : Nat := hbmAddr s a
       let at_ (l : Nat) : List Nat := (acting g w).filter (fun th => devAddr g w th / 2048 == l)
       ∃ s' new, exec e.1 s = .next s' ∧ s'.txns = s.txns ++ new ∧ new.length = (linesOf g w).length ∧
        (∀ x ∈ new, x.kind = e.2.2.1 ∧ x.src = .tile t slot ∧ x.stage = .toHome ∧ x.part = groupPart g ∧ x.got = [] ∧
          x.serial = (tileOf s t).serial ∧ x.gen = genOf s (.tile t) ∧ x.epoch = epochNow s ∧ x.cls = 0) ∧
        new.map (·.id) = (List.range new.length).map (fun i => s.nextId + i) ∧
        (e.2.2.1 = .load → ∀ i < new.length, ∀ x, new[i]? = some x → ∀ l, (linesOf g w)[i]? = some l →
          x.bytes = [] ∧ x.adds = [] ∧
          (∀ a, a ∈ x.want ↔ ∃ th ∈ at_ l, ∃ k < sizeBytes w, a = own (devAddr g w th + k)) ∧
          x.dests = (at_ l).map (fun th => ⟨th, wWD w, own (devAddr g w th), sizeBytes w⟩)) ∧
        (e.2.2.1 = .store → ∀ i < new.length, ∀ x, new[i]? = some x → ∀ l, (linesOf g w)[i]? = some l →
          x.want = [] ∧ x.adds = [] ∧ x.dests = [] ∧
          ∀ a v, (a, v) ∈ x.bytes ↔ ∃ b, a = own b ∧ ∃ th,
            (at_ l).reverse.find? (fun th => decide (devAddr g w th ≤ b ∧ b < devAddr g w th + sizeBytes w)) = some th ∧
            v = (storeBytes g w th).getD (b - devAddr g w th) 0) ∧
        (e.2.2.2 = true → ∀ i < new.length, ∀ x, new[i]? = some x → ∀ l, (linesOf g w)[i]? = some l →
          x.want = [] ∧ x.bytes = [] ∧ x.dests = [] ∧ x.adds = (at_ l).map (fun th => (own (devAddr g w th), storeBytes g w th))) ∧
        (groupPart g ≤ 8 → regF s' (oBWRCNT (groupPart g) 0) 19 0 =
          (regF s (oBWRCNT (groupPart g) 0) 19 0 + new.length) % 2 ^ 20) ∧
        (tileOf s' t).serial = (tileOf s t).serial + 1 ∧
        grp s' t slot = { g with pc := g.pc + 8,
                                 outst := g.outst ++ [⟨(tileOf s t).serial, e.2.2.1 != .load, (linesOf g w).length, g.pc⟩] } ∧
        (∀ h ≠ slot, grp s' t h = grp s t h) ∧ (∀ u ≠ t, tileOf s' u = tileOf s u) ∧
        (tileOf s' t).mem = (tileOf s t).mem ∧ RegsBut s s' [oBWRCNT (groupPart g) 0] ∧
        { s' with tiles := s.tiles, bar0 := s.bar0, txns := s.txns, nextId := s.nextId } = s) ∧
      (CanIssue e.2.1 t slot w s → 8 ≤ g.outst.length → exec e.1 s = .next (setGroup s t slot { g with st := .waitMem })) ∧
      (∀ c th, CanIssue e.2.1 t slot w s → g.outst.length < 8 → devTrap s g w e.2.2.2 = some (c, th) →
        exec e.1 s = .next (movePtr (tileFault s t slot c th) t slot))) ∧
    (CanIssue rowFence t slot w s → (∀ o ∈ g.outst, o.store = false) →
      exec (.fence t slot w) s = .next (afterGroup s t slot { g with pc := g.pc + 8 })) ∧
    (CanIssue rowFence t slot w s → (∃ o ∈ g.outst, o.store = true) →
      exec (.fence t slot w) s = .next (afterGroup s t slot { g with st := .waitMem, wait := .fence, pc := g.pc + 8 }))

/-- SEND, RECV, MSTAT, MCANCEL and MFREE (R119 to R125): the send list, what a delivery writes to the active threads
(Table 4.11), the status of a final message, and the frame of the other groups. -/
def Obligations.MessageInstructions : Prop :=
  ∀ (t slot : Nat) (w : DWord) (s : State),
    let g := grp s t slot
    let x := tileOf s t
    (CanIssue rowSend t slot w s → (∃ h < 32, ∀ m ∈ x.sends, m.h ≠ h) → sendOk s t (sendEntry g slot (wWA w) 0) = true →
      ∃ s' h, exec (.send t slot w) s = .next s' ∧ { s' with tiles := s.tiles, fresh := s.fresh } = s ∧
        (tileOf s' t).sends = x.sends ++ [sendEntry g slot (wWA w) h] ∧ (tileOf s' t).mem = x.mem ∧
        (∀ m ∈ x.sends, m.h ≠ h) ∧ h < 32 ∧ (grp s' t slot).pc = g.pc + 8 ∧
        ActiveGive g (grp s' t slot) (wWD w) 1 (fun _ _ => BitVec.ofNat 32 h) ∧
        (∀ k ≠ slot, grp s' t k = grp s t k) ∧ ∀ u ≠ t, tileOf s' u = tileOf s u) ∧
    (∀ m, CanIssue rowRecv t slot w s → oldestWritten (ringOf x (wQ w)) = some m →
      ∃ s', exec (.recv t slot w) s = .next s' ∧ { s' with tiles := s.tiles } = s ∧ (grp s' t slot).pc = g.pc + 8 ∧
        ActiveGive g (grp s' t slot) (wWD w) 4 (fun _ i =>
          if i = 0 then m.info else if i = 1 then BitVec.ofNat 32 m.len
          else if i = 2 then BitVec.ofNat 32 (m.tag.toNat * 2 ^ 16)
          else BitVec.ofNat 32 ((ringOf x (wQ w)).base + (m.start + 1) * 64)) ∧
        (ringOf (tileOf s' t) (wQ w)).spaces =
          (ringOf x (wQ w)).spaces.map (fun y => if y = m then { y with st := .delivered } else y) ∧
        (∀ k ≠ slot, grp s' t k = grp s t k) ∧ (tileOf s' t).mem = x.mem ∧ ∀ u ≠ t, tileOf s' u = tileOf s u) ∧
    (CanIssue rowRecv t slot w s → oldestWritten (ringOf x (wQ w)) = none → (rget g 0 (wWA w)).toNat % 2 ^ 20 = 0 →
      ∃ g', exec (.recv t slot w) s = .next (afterGroup s t slot g') ∧ NextInstr g g' ∧
        ActiveGive g g' (wWD w) 4 (fun _ i => if i = 0 then 0x2000_0000 else 0)) ∧
    (CanIssue rowRecv t slot w s → oldestWritten (ringOf x (wQ w)) = none → (rget g 0 (wWA w)).toNat % 2 ^ 20 ≠ 0 →
      ∃ s', exec (.recv t slot w) s = .next s' ∧ { s' with tiles := s.tiles } = s ∧
        grp s' t slot = { g with st := .waitMsg, wait := .recv (wQ w) (wWD w) ((rget g 0 (wWA w)).toNat % 2 ^ 20), pc := g.pc + 8 } ∧
        ringOf (tileOf s' t) (wQ w) = { ringOf x (wQ w) with waiters := (ringOf x (wQ w)).waiters ++ [slot] } ∧
        ∀ k ≠ slot, grp s' t k = grp s t k) ∧
    (∀ m st, CanIssue rowMstat t slot w s → codeSend s t ((rget g 0 (wWA w)).toNat % 32) = some m → m.phase = .final st →
      ∃ s', exec (.mstat t slot w) s = .next s' ∧ { s' with tiles := s.tiles } = s ∧ (grp s' t slot).pc = g.pc + 8 ∧
        ActiveGive g (grp s' t slot) (wWD w) 1 (fun _ _ => BitVec.ofNat 32 st) ∧
        (tileOf s' t).sends = x.sends.filter (fun y => y.h != (rget g 0 (wWA w)).toNat % 32) ∧
        ∀ k ≠ slot, grp s' t k = grp s t k) ∧
    (∀ m, CanIssue rowMstat t slot w s → codeSend s t ((rget g 0 (wWA w)).toNat % 32) = some m → (∀ st, m.phase ≠ .final st) →
      exec (.mstat t slot w) s = .next (afterGroup s t slot
        { g with st := .waitMsg, wait := .mstat ((rget g 0 (wWA w)).toNat % 32) (wWD w), pc := g.pc + 8 })) ∧
    (CanIssue rowMstat t slot w s → codeSend s t ((rget g 0 (wWA w)).toNat % 32) = none →
      ∃ g', exec (.mstat t slot w) s = .next (afterGroup s t slot g') ∧ NextInstr g g' ∧ ActiveGive g g' (wWD w) 1 (fun _ _ => 15)) ∧
    (∀ m, CanIssue rowMcancel t slot w s → codeSend s t ((rget g 0 (wWA w)).toNat % 32) = some m → m.phase = .injected →
      ∃ s', exec (.mcancel t slot w) s = .next s' ∧ { s' with tiles := s.tiles } = s ∧
        grp s' t slot = { g with pc := g.pc + 8 } ∧
        (tileOf s' t).sends = x.sends.map (fun y =>
          if y.h = (rget g 0 (wWA w)).toNat % 32 then { y with late := true } else y) ∧
        ∀ k ≠ slot, grp s' t k = grp s t k) ∧
    (∀ m, CanIssue rowMcancel t slot w s → codeSend s t ((rget g 0 (wWA w)).toNat % 32) = some m → m.phase ≠ .injected →
      (∀ st, m.phase ≠ .final st) → mstatWaiters x m.h = [] →
      ∃ s', exec (.mcancel t slot w) s = .next s' ∧ grp s' t slot = { g with pc := g.pc + 8 } ∧
        (∀ y ∈ (tileOf s' t).sends, y.h = m.h → y.phase = .final 1) ∧
        regF s' (oMSGSTAT t) 47 32 = min 0xFFFF (regF s (oMSGSTAT t) 47 32 + 1) ∧ RegsBut s s' [oMSGSTAT t] ∧
        (∀ k ≠ slot, grp s' t k = grp s t k) ∧ { s' with tiles := s.tiles, bar0 := s.bar0 } = s) ∧
    (∀ m, CanIssue rowMfree t slot w s → oldestDelivered (ringOf x (wQ w)) = some m → (ringOf x (wQ w)).held = [] →
      ∃ s', exec (.mfree t slot w) s = .next s' ∧ { s' with tiles := s.tiles } = s ∧
        (ringOf (tileOf s' t) (wQ w)).spaces = (dropSpace (ringOf x (wQ w)) m).spaces ∧
        (ringOf (tileOf s' t) (wQ w)).wpos = (if (dropSpace (ringOf x (wQ w)) m).spaces = [] then 0 else (ringOf x (wQ w)).wpos) ∧
        grp s' t slot = { g with pc := g.pc + 8 } ∧ (tileOf s' t).mem = x.mem ∧ ∀ k ≠ slot, grp s' t k = grp s t k)

/-- SREAD, ATTN and ATTNW (R105, R132): the system value or the handle in every active thread, the attention queue, and
the frame. Selector 0x0E returns the flags and clears them; the crest cycle count (0x0B) is the free value of
notes/assumptions/12.md, and ATTN's handle is any free one. -/
def Obligations.SystemInstructions : Prop :=
  ∀ (t slot : Nat) (w : DWord) (s : State),
    let g := grp s t slot
    let x := tileOf s t
    (CanIssue rowSread t slot w s → wSEL w ≠ 0x0B → wSEL w ≠ 0x0C →
      ∃ g', exec (.sread t slot w) s = .next (afterGroup s t slot g') ∧ g'.pc = g.pc + 8 ∧
        { g' with pc := g.pc, regs := g.regs, fp := g.fp } = g ∧ g'.fp = (if wSEL w = 0x0E then 0 else g.fp) ∧
        ActiveGive g g' (wWD w) 1 (fun th _ => BitVec.ofNat 32 (match wSEL w with
          | 0x00 => th
          | 0x01 => slot
          | 0x02 => t % 64
          | 0x03 => t / 64
          | 0x04 => tilesX s.asm
          | 0x05 => tilesY s.asm
          | 0x06 => (partOfTile s t).getD 8
          | 0x07 => regF s oLNKDEV 7 0
          | 0x08 => g.argAt
          | 0x09 => (g.launch.getD ⟨8, 0, 0, 0⟩).tag.toNat
          | 0x0A => (g.launch.getD ⟨8, 0, 0, 0⟩).rect.toNat
          | _ => g.fp.toNat))) ∧
    (CanIssue rowSread t slot w s → wSEL w = 0x0C →
      ∃ g', exec (.sread t slot w) s = .next (afterGroup s t slot g') ∧ NextInstr g g' ∧
        ActiveGive g g' (wWD w) 2 (fun _ i => (reg s oTGNOW).extractLsb' (32 * i) 32)) ∧
    (CanIssue rowSread t slot w s → wSEL w = 0x0B →
      ∃ g', exec (.sread t slot w) s = .next (afterGroup { s with fresh := s.fresh + 1 } t slot g') ∧ NextInstr g g' ∧
        ActiveGive g g' (wWD w) 2 (fun _ i => (Config.freeWord s.fresh).extractLsb' (32 * i) 32)) ∧
    (CanIssue rowAttn t slot w s → (∃ h < 4, ∀ c ∈ x.att, c.h ≠ h) → (rget g 0 (wWA w)).toNat % 2 ^ 20 % 64 = 0 →
      ∃ s' h, exec (.attn t slot w) s = .next s' ∧ { s' with tiles := s.tiles, fresh := s.fresh } = s ∧
        (grp s' t slot).pc = g.pc + 8 ∧ h < 4 ∧ (∀ c ∈ x.att, c.h ≠ h) ∧
        (tileOf s' t).att = x.att ++ [⟨h, slot, false, (rget g 0 (wWA w)).toNat % 2 ^ 20, .queued, [], [], [], none, 0⟩] ∧
        ActiveGive g (grp s' t slot) (wWD w) 1 (fun _ _ => BitVec.ofNat 32 h) ∧ (tileOf s' t).mem = x.mem ∧
        ∀ k ≠ slot, grp s' t k = grp s t k) ∧
    (∀ c st, CanIssue rowAttnw t slot w s → attOf s t (rget g 0 (wWA w)).toNat = some c → c.phase = .final st →
      ∃ s', exec (.attnw t slot w) s = .next s' ∧ { s' with tiles := s.tiles } = s ∧ (grp s' t slot).pc = g.pc + 8 ∧
        ActiveGive g (grp s' t slot) (wWD w) 1 (fun _ _ => st) ∧
        (tileOf s' t).att = x.att.filter (fun y => y.h != (rget g 0 (wWA w)).toNat) ∧
        ∀ k ≠ slot, grp s' t k = grp s t k) ∧
    (∀ c, CanIssue rowAttnw t slot w s → attOf s t (rget g 0 (wWA w)).toNat = some c → (∀ st, c.phase ≠ .final st) →
      exec (.attnw t slot w) s = .next (afterGroup s t slot
        { g with st := .waitMsg, wait := .attnw (rget g 0 (wWA w)).toNat (wWD w), pc := g.pc + 8 }))

/-- AZERO, ALOAD, AMUL, ADRAIN and ASTAT (R42, R57, R72, R80 to R86): what each does to its array and writes, when the
array is the group's own (or free, for AZERO) and no shadow runs on it. -/
def Obligations.ArrayInstructions : Prop :=
  ∀ (t slot : Nat) (w : DWord) (s : State),
    let g := grp s t slot
    let no := aARR w
    let a := arr s t no
    (CanIssue (rowA 160) t slot w s → fld w 45 0 = 0 → (a.owner = none ∨ a.owner = some (.group slot)) → a.shadow = none →
      ∃ s', exec (.azero t slot w) s = .next s' ∧ { s' with tiles := s.tiles } = s ∧
        arr s' t no = { a with owner := some (.group slot), m := aM w, n := aN w, accs := [], blk := 0, amuls := 0,
                               narrow := true, kTot := 0 } ∧
        grp s' t slot = { g with pc := g.pc + 8 } ∧ (tileOf s' t).mem = (tileOf s t).mem ∧ ∀ k ≠ no, arr s' t k = arr s t k) ∧
    (let bind := bit w.toNat 45
     let raw := bit w.toNat 44
     let r := fld w 43 37
     let a0 : ArrayUnit := if bind = true then
         { a with owner := some (.group slot), m := aM w, n := aN w, accs := [], blk := 0, amuls := 0, narrow := true, kTot := 0 }
       else a
     let at_ := (rget g 0 r).toNat % 2 ^ 20
     CanIssue (rowA 161) t slot w s → fld w 36 0 = 0 →
      (a.owner = some (.group slot) ∨ (bind = true ∧ a.owner = none)) → a.shadow = none → pendingRegs s t slot = [] →
      (raw = false → r + a0.n ≤ 128) → (raw = true → at_ % 32 = 0 ∧ at_ + (8 * (a0.m - 1) + a0.n) * 32 ≤ 2 ^ 20 ∧ 0 < a0.n) →
      ∃ s', exec (.aload t slot w) s = .next s' ∧ { s' with tiles := s.tiles } = s ∧
        arr s' t no = loadAll a0 (fun i j x => if raw = true then
            loadRaw x (Mem.read (tileOf s t).mem (at_ + (8 * i + j) * 32) 32)
          else loadFp32 x (rget g i (r + j)).toNat) ∧
        grp s' t slot = { g with pc := g.pc + 8 } ∧ (tileOf s' t).mem = (tileOf s t).mem ∧ ∀ k ≠ no, arr s' t k = arr s t k) ∧
    (let o := amulOp w
     let b := bDesc (rget2 g 0 o.wb)
     CanIssue (rowA 162) t slot w s → firstCause (amulCauses w o a slot b) = none → a.shadow = none → pendingRegs s t slot = [] →
      ∃ s', exec (.amul t slot w) s = .next s' ∧ { s' with tiles := s.tiles } = s ∧
        arr s' t no = (if o.k = 0 then
            { a with amuls := a.amuls + 1, narrow := a.narrow && decide (o.fa < 5) && decide (o.fb < 5),
                     fmtA := BitVec.ofNat 4 o.fa, fmtB := BitVec.ofNat 4 o.fb }
          else (amulApply o a ((List.range a.m).map (fun i => regVec o g i o.wa o.fa))
            ((List.range a.n).map (fun j => if o.mem = true then memVec o (tileOf s t).mem b j else regVec o g j o.wb o.fb)))) ∧
        grp s' t slot = { g with pc := g.pc + 8 } ∧ (tileOf s' t).mem = (tileOf s t).mem ∧ ∀ k ≠ no, arr s' t k = arr s t k) ∧
    (let o := drainOp w
     let desc := rget2 g 0 o.w
     let seed := if o.seeded = true then (rget2 g 0 o.seed).toNat else 0
     CanIssue (rowA 163) t slot w s → firstCause (drainCauses w o a slot desc) = none → a.shadow = none → pendingRegs s t slot = [] →
      ∃ s', exec (.adrain t slot w) s = .next s' ∧ { s' with tiles := s.tiles } = s ∧
        (grp s' t slot).pc = g.pc + 8 ∧
        (arr s' t no).owner = (if o.keep = true then a.owner else none) ∧
        (arr s' t no).accs = (if o.keep = true then a.accs else []) ∧ (∀ k ≠ no, arr s' t k = arr s t k) ∧
        (∀ h ≠ slot, grp s' t h = grp s t h) ∧
        (o.mem = true → grp s' t slot = { g with pc := g.pc + 8 } ∧
          (tileOf s' t).mem = Mem.cells (tileOf s t).mem
            (drainCells o a seed t no (fld desc 19 0) (fld desc 35 20)).1) ∧
        (o.mem = false → (tileOf s' t).mem = (tileOf s t).mem ∧
          (o.fmt = 0 → ∀ i < 32, ∀ k < 128, rget (grp s' t slot) i k =
            if i < a.m ∧ o.w ≤ k ∧ k < o.w + a.n then
              BitVec.ofNat 32 ((accAt a i (k - o.w)).drain fp32 (drainRnd o seed t no (8 * i + (k - o.w)))).1
            else rget g i k))) ∧
    (CanIssue (rowA 164) t slot w s → fld w 45 0 = 0 → a.shadow = none → pendingRegs s t slot = [] →
      ∃ s', exec (.astat t slot w) s = .next s' ∧ { s' with tiles := s.tiles } = s ∧ (grp s' t slot).pc = g.pc + 8 ∧
        ActiveGive g (grp s' t slot) (fld w 52 46) 1 (fun _ _ => BitVec.ofNat 32 (a.blk.toNat + 256 * a.cum.toNat)) ∧
        arr s' t no = { a with cum := if bit w.toNat 53 = true then 0 else a.cum } ∧ ∀ k ≠ no, arr s' t k = arr s t k)

/-! ### Messages (chapter 4) -/

/-- RESERVATION, GRANT, GRANT_TIMEOUT, RESERVATION_RETRY and GRANT_RELEASE (R119, R121): a destination refuses what its
ring could never hold (status 5), holds what does not fit now, grants in order of arrival; the last grant makes the
message eligible; a time-out gives every grant back and backs off; a release frees space and the reservation. -/
def Obligations.MessageReservation : Prop :=
  ∀ (src h dst : Nat) (m : Send) (s : State), sendOf s src h = some m →
    let x := tileOf s src
    let r := ringOf (tileOf s dst) m.q
    (m.phase = .reserving → dst ∈ m.asked → (h, dst) ∉ x.rels → reserveBlocked s src h dst = false → ResetDomain.tile dst ∉ s.resetting →
      (m.len + 64 ≤ r.size * 64 → r.spaces = [] → r.held = [] →
        ∃ s', exec (.reservation src h dst) s = .next s' ∧ MsgOnly s s' ∧
          sendOf s' src h = some { m with asked := m.asked.filter (fun d => d != dst), grants := m.grants ++ [dst] } ∧
          ringOf (tileOf s' dst) m.q =
            { r with wpos := msgUnits m.len, spaces := [⟨0, 0, msgUnits m.len, .granted, src, h, 0, m.len, 0⟩] }) ∧
      (m.len + 64 ≤ r.size * 64 → (∀ v, (r.held ++ [(⟨src, h, m.len⟩ : Resv)]).head? = some v → r.settle.place (msgUnits v.len) = none) →
        ∃ s', exec (.reservation src h dst) s = .next s' ∧ MsgOnly s s' ∧
          sendOf s' src h = some { m with asked := m.asked.filter (fun d => d != dst) } ∧
          ringOf (tileOf s' dst) m.q = { r.settle with held := r.held ++ [⟨src, h, m.len⟩] }) ∧
      (r.size * 64 < m.len + 64 → mstatWaiters x h = [] →
        ∃ s', exec (.reservation src h dst) s = .next s' ∧ MsgOnly s s' ∧
          sendOf s' src h = some { m with phase := .final 5, asked := [], grants := [], granted := [] } ∧
          (tileOf s' src).rels = x.rels ++
            (m.dests.filter (fun d => d != dst && !m.asked.contains d && !m.written.contains d && !m.lost.contains d)).map
              (fun d => (h, d)))) ∧
    (m.phase = .reserving → dst ∈ m.grants →
      ∃ s', exec (.grant src h dst) s = .next s' ∧ MsgOnly s s' ∧
        sendOf s' src h = some { m with
          grants := m.grants.filter (fun d => d != dst)
          granted := m.granted ++ [dst]
          phase := if ∀ d ∈ m.dests, d ∈ m.granted ∨ d = dst ∨ d ∈ m.lost then .eligible else .reserving }) ∧
    (m.phase = .reserving →
      ∃ s', exec (.grantTimeout src h) s = .next s' ∧ MsgAnd s s' [oMSGSTAT src] ∧
        sendOf s' src h = some { m with phase := .backoff, asked := [], grants := [], granted := [] } ∧
        regF s' (oMSGSTAT src) 63 48 = min 0xFFFF (regF s (oMSGSTAT src) 63 48 + 1) ∧
        (tileOf s' src).rels = x.rels ++
          (m.dests.filter (fun d => !m.asked.contains d && !m.written.contains d && !m.lost.contains d)).map (fun d => (h, d))) ∧
    (m.phase = .backoff →
      ∃ s', exec (.reservationRetry src h) s = .next s' ∧ MsgOnly s s' ∧
        sendOf s' src h = some { m with phase := .reserving, asked := m.dests.filter (fun d => !m.lost.contains d) } ∧
        (tileOf s' src).sends = x.sends.filter (fun n => n.h != h) ++
          [{ m with phase := .reserving, asked := m.dests.filter (fun d => !m.lost.contains d) }]) ∧
    ((h, dst) ∈ x.rels →
      ∃ s', exec (.grantRelease src h dst) s = .next s' ∧ MsgOnly s s' ∧
        (tileOf s' src).rels = dropOne (h, dst) x.rels ∧
        ∀ q < 8, (∀ y ∈ (ringOf (tileOf s' dst) q).spaces, ¬ (y.st = .granted ∧ y.src = src ∧ y.h = h)) ∧
          (∀ v ∈ (ringOf (tileOf s' dst) q).held, ¬ (v.src = src ∧ v.h = h)) ∧
          ∀ y ∈ (ringOf (tileOf s dst) q).spaces, y.st = .written ∨ y.st = .delivered → y ∈ (ringOf (tileOf s' dst) q).spaces)

/-- MESSAGE_INJECT, MESSAGE_WRITE, MESSAGE_COMPLETE and RECV_TIMEOUT (R119, R121 to R124, R394): the payload is read once,
written whole behind its record at each destination, delivered to a waiting RECV, and the status is final when every
destination has it or is lost. -/
def Obligations.MessageTransfer : Prop :=
  ∀ (src h dst : Nat) (m : Send) (s : State), sendOf s src h = some m →
    let x := tileOf s src
    let y := tileOf s dst
    let r := ringOf y m.q
    (m.phase = .eligible → x.memErr = [] →
      ∃ s', exec (.messageInject src h) s = .next s' ∧ MsgOnly s s' ∧ (tileOf s' src).serial = x.serial + 1 ∧
        sendOf s' src h = some { m with
          phase := .injected
          payload := Mem.read x.mem m.off m.len
          damaged := false
          inj := x.serial }) ∧
    (∀ sp, m.phase = .injected → dst ∈ m.granted → dst ∉ m.written → dst ∉ m.lost → writeBlocked s src dst m = false →
      bankInBist s dst = false →
      r.spaces.find? (fun z => z.st == .granted && z.src == src && z.h == h) = some sp →
      (∀ z ∈ r.spaces, z.st = .skip → ¬ (z.src = src ∧ z.h = h)) → y.memErr = [] →
      m.payload.length = m.len → sp.units = msgUnits m.len → sp.len = m.len →
      let a := r.base + 64 * sp.start
      let info := msgInfo src m.slot m.damaged
      let rec_ := leBytes 4 info.toNat ++ leBytes 4 m.len ++ leBytes 4 (m.tag.toNat * 2 ^ 16) ++ leBytes 4 (a + 64) ++ leBytes 48 0
      ∃ s', exec (.messageWrite src h dst) s = .next s' ∧ { s' with tiles := s.tiles } = s ∧
        (∀ b, Mem.byte (tileOf s' dst).mem b =
          if a ≤ b ∧ b < a + 64 * sp.units then (rec_ ++ m.payload).getD (b - a) 0 else Mem.byte y.mem b) ∧
        (∀ u ≠ dst, (tileOf s' u).mem = (tileOf s u).mem) ∧
        sendOf s' src h = some { m with written := m.written ++ [dst] } ∧
        (r.waiters = [] → (∃ n, (ringOf (tileOf s' dst) m.q).spaces = r.spaces.map (fun z =>
            if z = sp then { sp with st := .written, info := info, tag := m.tag, age := n } else z) ∧ ∀ z ∈ r.spaces, z.age < n) ∧
          ∀ u k, grp s' u k = grp s u k) ∧
        (∀ slot wd lim, r.waiters = [slot] → (grp s dst slot).wait = .recv m.q wd lim → wd + 4 ≤ 128 →
          (∀ z ∈ r.spaces, z.st ≠ .written) →
          (grp s' dst slot).st = .ready ∧ (grp s' dst slot).wait = .none ∧ (grp s' dst slot).pc = (grp s dst slot).pc ∧
          (∀ k ≠ slot, grp s' dst k = grp s dst k) ∧
          ActiveGive (grp s dst slot) (grp s' dst slot) wd 4 (fun _ i =>
            if i = 0 then info else if i = 1 then BitVec.ofNat 32 m.len else if i = 2 then BitVec.ofNat 32 (m.tag.toNat * 2 ^ 16)
            else BitVec.ofNat 32 (a + 64)))) ∧
    (m.phase = .injected → (∀ d ∈ m.dests, d ∈ m.written ∨ d ∈ m.lost) →
      let st := if m.lost ≠ [] then 7 else if m.damaged = true then 6 else if m.late = true then 2 else 0
      (mstatWaiters x h = [] →
        ∃ s', exec (.messageComplete src h) s = .next s' ∧ MsgAnd s s' [oMSGSTAT src] ∧
          sendOf s' src h = some { m with phase := .final st } ∧
          regF s' (oMSGSTAT src) 47 32 = min 0xFFFF (regF s (oMSGSTAT src) 47 32 + (if st = 2 then 1 else 0))) ∧
      (∀ g wd, mstatWaiters x h = [(g, wd)] → wd < 128 →
        ∃ s', exec (.messageComplete src h) s = .next s' ∧ sendOf s' src h = none ∧ (grp s' src g).st = .ready ∧
          (grp s' src g).wait = .none ∧ ActiveGive (grp s src g) (grp s' src g) wd 1 (fun _ _ => BitVec.ofNat 32 st) ∧
          (∀ k ≠ g, grp s' src k = grp s src k) ∧ RegsBut s s' [oMSGSTAT src] ∧ { s' with tiles := s.tiles, bar0 := s.bar0 } = s)) ∧
    (∀ t slot q wd lim, (grp s t slot).wait = .recv q wd lim → lim ≠ 0xF_FFFF → wd + 4 ≤ 128 →
      ∃ s', exec (.recvTimeout t slot) s = .next s' ∧ { s' with tiles := s.tiles } = s ∧ (∀ u ≠ t, tileOf s' u = tileOf s u) ∧
        (∀ k ≠ slot, grp s' t k = grp s t k) ∧ (∀ n, slot ∉ (ringOf (tileOf s' t) n).waiters) ∧
        (tileOf s' t).mem = (tileOf s t).mem ∧
        { grp s' t slot with st := (grp s t slot).st, wait := (grp s t slot).wait, regs := (grp s t slot).regs, regErr := (grp s t slot).regErr }
          = grp s t slot ∧ (grp s' t slot).st = .ready ∧ (grp s' t slot).wait = .none ∧
        ActiveGive (grp s t slot) (grp s' t slot) wd 4 (fun _ i => if i = 0 then 0x1000_0000 else 0))

/-! ### Replies and LAUNCH at the tiles (chapters 4, 8) -/

/-- DEVICE_REPLY (R26, R111, R115, R116, R219, R222, R227, R228, R281): when no earlier one of its slice or to host memory is on
its way, the count falls; a reply of the current generation brings its
bytes, zero-extended, or lets a FENCE go on; a failed load is cause 0x18; an old generation's reply is discarded and
counted; an address that decodes nowhere answers zeros and is captured. -/
def Obligations.DeviceReplies : Prop :=
  ∀ (t slot : Nat) (x : Txn) (o : OutInst) (s : State), txnOf s x.id = some x → x.src = .tile t slot → slot < 8 → x.part ≤ 8 → x.cls < 8 →
    let g := grp s t slot
    let count (s' : State) : Prop := s'.txns = s.txns.filter (fun y => y.id != x.id) ∧
      regF s' (oBWRCNT x.part x.cls) 19 0 = regF s (oBWRCNT x.part x.cls) 19 0 - 1
    let fewer : List OutInst := if o.left ≤ 1 then g.outst.filter (fun y => y.serial != x.serial)
      else g.outst.map (fun y => if y.serial = x.serial then { y with left := y.left - 1 } else y)
    let others (s' : State) : Prop := (∀ u ≠ t, tileOf s' u = tileOf s u) ∧ (∀ k ≠ slot, grp s' t k = grp s t k) ∧
      (tileOf s' t).mem = (tileOf s t).mem
    let gets (s' : State) (d : LoadDest) (v : Nat → Byte) : Prop := ∀ th < 32, ∀ k < 128, rget (grp s' t slot) th k =
      if th = d.thread ∧ d.reg ≤ k ∧ k < d.reg + max 1 (d.size / 4) then
        BitVec.ofNat 32 (leNat ((List.range (min 4 d.size)).map (fun i => v (d.addr + 4 * (k - d.reg) + i))))
      else rget g th k
    (x.gen = genOf s (.tile t) → g.outst.find? (fun y => y.serial == x.serial) = some o → g.live = true →
      (∀ d, x.kind = .load → x.stage = .replied .ok → earlierReply s x = false → g.wait ≠ .fence → x.dests = [d] → d.thread < 32 → d.reg + max 1 (d.size / 4) ≤ 128 →
        ∃ s', exec (.deviceReply x.id) s = .next s' ∧ count s' ∧ others s' ∧ (grp s' t slot).outst = fewer ∧
          gets s' d (fun a => SMap.get 0 x.got a) ∧ (grp s' t slot).st = g.st ∧ (grp s' t slot).pc = g.pc ∧
          RegsBut s s' [oBWRCNT x.part x.cls] ∧ { s' with tiles := s.tiles, bar0 := s.bar0, txns := s.txns } = s) ∧
      (x.kind ≠ .load → x.stage = .replied .ok → earlierReply s x = false → x.dests = [] →
        ∃ s', exec (.deviceReply x.id) s = .next s' ∧ count s' ∧ others s' ∧
          grp s' t slot = (if g.wait = .fence ∧ ∀ y ∈ fewer, y.store = false then { g with outst := fewer, st := .ready, wait := .none }
            else { g with outst := fewer }) ∧
          RegsBut s s' [oBWRCNT x.part x.cls] ∧ { s' with tiles := s.tiles, bar0 := s.bar0, txns := s.txns } = s) ∧
      (∀ st, x.kind = .load → x.stage = .replied st → st = .uncorr ∨ st = .dropped → earlierReply s x = false → g.launch = none → regB s (oGRPFAULT t) 63 = false →
        ∃ s', exec (.deviceReply x.id) s = .next s' ∧ count s' ∧ (grp s' t slot).st = .faulted ∧ (grp s' t slot).regs = g.regs ∧
          regF s' (oGRPFAULT t) 47 40 = 0x18 ∧ regF s' (oGRPFAULT t) 31 0 = o.pc.toNat ∧ (∀ u ≠ t, tileOf s' u = tileOf s u) ∧
          (∀ k ≠ slot, grp s' t k = grp s t k)) ∧
      (∀ d key, x.kind = .load → x.stage = .toHome → earlierOverlap s x = false → earlierHost s x = false → routeOfTxn s x = .host key →
        g.wait ≠ .fence → x.dests = [d] → d.thread < 32 → d.reg + max 1 (d.size / 4) ≤ 128 →
        x.want = (List.range d.size).map (fun i => d.addr + i) → 0 < d.size → x.bytes = [] → x.adds = [] →
        ∃ s', exec (.deviceReply x.id) s = .next s' ∧ count s' ∧ others s' ∧ (grp s' t slot).outst = fewer ∧
          gets s' d (fun a => if a < d.addr + d.size then Mem.byte s.hostMem (a - d.addr + key) else 0) ∧
          s'.hostReqs = s.hostReqs ++ [(requester s (some x.part), key, false)] ∧
          RegsBut s s' [oBWRCNT x.part x.cls] ∧
          { s' with tiles := s.tiles, bar0 := s.bar0, txns := s.txns, hostReqs := s.hostReqs } = s) ∧
      (∀ d, x.kind = .load → x.stage = .toHome → earlierOverlap s x = false → earlierHost s x = false → routeOfTxn s x = .decode →
        g.wait ≠ .fence → x.dests = [d] → d.thread < 32 → d.reg + max 1 (d.size / 4) ≤ 128 →
        x.want = (List.range d.size).map (fun i => d.addr + i) → 0 < d.size → x.bytes = [] → x.adds = [] → regB s oRASDECODE 63 = false →
        ∃ s', exec (.deviceReply x.id) s = .next s' ∧ count s' ∧ others s' ∧ (grp s' t slot).outst = fewer ∧
          gets s' d (fun _ => 0) ∧ regB s' oRASDECODE 63 = true ∧ regF s' oRASDECODE 47 0 = x.dev % 2 ^ 48 ∧
          RegsBut s s' [oBWRCNT x.part x.cls, oRASDECODE] ∧ { s' with tiles := s.tiles, bar0 := s.bar0, txns := s.txns } = s)) ∧
    (∀ st, x.gen ≠ genOf s (.tile t) → x.stage = .replied st → earlierReply s x = false →
      ∃ s', exec (.deviceReply x.id) s = .next s' ∧ count s' ∧ { s' with bar0 := s.bar0, txns := s.txns } = s ∧
        regF s' oBWREVT 63 48 = min 0xFFFF (regF s oBWREVT 63 48 + 1) ∧
        regF s' oBWREVT 15 0 = min 0xFFFF (regF s oBWREVT 15 0 + x.ledger) ∧
        RegsBut s s' [oBWRCNT x.part x.cls, oBWREVT]) ∧
    (∀ st, x.stage = .replied st → earlierReply s x = true → exec (.deviceReply x.id) s = .next s)

/-- TILE_PROGRAM_LOAD and TILE_REPORT (R97, R126 to R128, R291): a tile receives code, data, arguments and rings and its
groups start as R97 says; a tile that has ended reports; the last report completes the LAUNCH with status 0. -/
def Obligations.LaunchAtTiles : Prop :=
  ∀ (t part : Nat) (c : Cmd) (s : State), cmdOf s part c.id = some c →
    let x := tileOf s t
    let b := c.image
    let l : LaunchRef := ⟨part, c.id, BitVec.ofNat 32 (eNat c.entry 28 4), BitVec.ofNat 32 (eNat c.entry 24 4)⟩
    let inCode (a : Nat) : Prop := iLoadAt b ≤ a ∧ a < iLoadAt b + iCodeLen b
    let inData (a : Nat) : Prop := iDataAt b ≤ a ∧ a < iDataAt b + iDataLen b
    let inArgs (a : Nat) : Prop := iArgAt b ≤ a ∧ a < iArgAt b + c.args.length
    (t ∈ c.loads → tileHeld s t = false → x.fwBusy = false → bankInBist s t = false → x.memErr = [] → imageOk b c.args.length = true →
      b.length = imageLen b →
      ∃ s', exec (.tileProgramLoad t part c.id) s = .next s' ∧ { s' with tiles := s.tiles, parts := s.parts } = s ∧
        (∀ n ∈ iSlots b, grp s' t n = { Group.reset with
          st := .ready
          pc := BitVec.ofNat 32 (iEntry b n)
          active := 0xFFFF_FFFF
          launch := some l
          codeAt := iLoadAt b
          codeLen := iCodeLen b
          argAt := iArgAt b }) ∧
        (∀ n, n ∉ iSlots b → grp s' t n = grp s t n) ∧ (∀ u ≠ t, tileOf s' u = tileOf s u) ∧
        (∀ q ∈ iApplied b, ringOf (tileOf s' t) q =
          { Ring.reset with base := bits (iRing b q) 19 0, size := bits (iRing b q) 34 20, waiters := (ringOf x q).waiters }) ∧
        (∀ q, q ∉ iApplied b → ringOf (tileOf s' t) q = ringOf x q) ∧
        (∀ a, (inCode a → Mem.byte (tileOf s' t).mem a = b.getD (iCodeOff b + (a - iLoadAt b)) 0) ∧
          (inData a → Mem.byte (tileOf s' t).mem a = b.getD (iDataOff b + (a - iDataAt b)) 0) ∧
          (inArgs a → Mem.byte (tileOf s' t).mem a = c.args.getD (a - iArgAt b) 0) ∧
          (¬ inCode a → ¬ inData a → ¬ inArgs a → Mem.byte (tileOf s' t).mem a = Mem.byte x.mem a)) ∧
        (cmdOf s' part c.id).map (·.loads) = some (c.loads.filter (fun u => u != t)) ∧
        (cmdOf s' part c.id).map (·.reports) = some c.reports) ∧
    (c.fault = none → t ∈ c.reports → t ∉ c.loads → launchLive s t part c.id = false → storesOpen s t part c.id = false →
      (∀ u ∈ c.reports, u ≠ t →
        ∃ s', exec (.tileReport t part c.id) s = .next s' ∧ { s' with parts := s.parts } = s ∧
          cmdOf s' part c.id = some { c with reports := c.reports.filter (fun u => u != t) } ∧ (∀ p ≠ part, partOf s' p = partOf s p)) ∧
      (∀ key, (∀ u ∈ c.reports, u = t) → InFlight s part c → CqOpen s part c.sq key →
        ∃ s', exec (.tileReport t part c.id) s = .next s' ∧ Ends s s' part key c 0 0 [] ∧ OnlyQueue s s' part c.sq))

/-! ### Cupping and the attention pipe (chapters 3 and 5) -/

/-- CUPPING_SHADOW_DONE (R60 to R63): the shadow ends and its block's bin counts in the owning partition's histogram, or
it is discarded when its operands lie outside tile memory; the partition's event and vector 50 are raised when the tail
of its histogram passes the threshold. -/
def Obligations.CuppingEvents : Prop :=
  (∀ (t n p : Nat) (sh : Shadow) (s : State), (arr s t n).shadow = some sh → partOfTile s t = some p → (tileOf s t).memErr = [] →
    let ba := regF s (oSHADOWA t) 19 0
    let pa := regF s (oSHADOWA t) 47 32
    let bb := regF s (oSHADOWB t) 19 0
    let pb := regF s (oSHADOWB t) 47 32
    let xs := (List.range sh.m).map (fun i => shadowVec (tileOf s t).mem (ba + i * pa) sh.kTot sh.intA)
    let ys := (List.range sh.n).map (fun j => shadowVec (tileOf s t).mem (bb + j * pb) sh.kTot sh.intB)
    let c8 := (List.range 256).map (fun i =>
      if i / 8 < sh.m ∧ i % 8 < sh.n then shadowElem (xs.getD (i / 8) []) (ys.getD (i % 8) []) else 0)
    let bin := cupBin sh.c4 c8
    shadowRange ba pa sh.m sh.kTot = true → shadowRange bb pb sh.n sh.kTot = true →
    ∃ s', exec (.cuppingShadowDone t n) s = .next s' ∧ bin < 16 ∧ arr s' t n = { arr s t n with shadow := none } ∧
      (∀ k ≠ n, arr s' t k = arr s t k) ∧ (∀ u ≠ t, tileOf s' u = tileOf s u) ∧
      { tileOf s' t with arrays := (tileOf s t).arrays } = tileOf s t ∧
      { s' with tiles := s.tiles } = cupCheck (addSat s (oCUPHIST p bin) 31 0 1) p ∧
      regF s' (oCUPHIST p bin) 31 0 = min (2 ^ 32 - 1) (regF s (oCUPHIST p bin) 31 0 + 1) ∧
      RegsBut s s' [oCUPHIST p bin, oCUPEVT p] ∧ { s' with tiles := s.tiles, bar0 := s.bar0, irqs := s.irqs } = s ∧
      (regB s (oCUPEVT p) 4 = false → RegsBut s s' [oCUPHIST p bin] ∧ s'.irqs = s.irqs)) ∧
  (∀ (t n : Nat) (sh : Shadow) (s : State), (arr s t n).shadow = some sh →
    shadowRange (regF s (oSHADOWA t) 19 0) (regF s (oSHADOWA t) 47 32) sh.m sh.kTot = false ∨
      shadowRange (regF s (oSHADOWB t) 19 0) (regF s (oSHADOWB t) 47 32) sh.n sh.kTot = false →
    ∃ s', exec (.cuppingShadowDone t n) s = .next s' ∧ arr s' t n = { arr s t n with shadow := none } ∧
      { s' with tiles := s.tiles } = s) ∧
  (∀ (p : Nat) (s : State), p < 8 → regB s (oCUPEVT p) 4 = true → regB s (oCUPEVT p) 8 = false → (partOf s p).quarantine = false →
    regF s (oCUPEVT p) 63 32 <
      (((List.range 16).filter (fun n => regF s (oCUPEVT p) 3 0 ≤ n)).map (fun n => regF s (oCUPHIST p n) 31 0)).sum →
    ∃ s', cupCheck s p = s' ∧ regB s' (oCUPEVT p) 8 = true ∧ RegsBut s s' [oCUPEVT p] ∧
      s'.irqs = s.irqs ++ [if regB s (oPCFG p) 17 = true then (0, 64 + 64 * p + 50) else (p + 1, 50)])

/-- The merge of two rows (R142): a NaN on either side stays a NaN; two rows with no token give the row with no token;
the maximum of the two is the result's, and merging does not change how many outputs a row has. -/
def Obligations.AttentionMergeRows : Prop :=
  ∀ (a b : AttRow),
    (a.nan = true ∨ b.nan = true → (mergeRow a b).nan = true) ∧
    (a.nan = false → b.nan = false → isNan32 a.m = false → isNan32 b.m = false → isNan32 a.l = false → isNan32 b.l = false →
      (∀ v ∈ a.o, isNan32 v = false) → (∀ v ∈ b.o, isNan32 v = false) →
      (mergeRow a b).nan = false ∧
      (attMax a.m b.m = fNegInf → (mergeRow a b).m = fNegInf ∧ (mergeRow a b).l = 0 ∧ ∀ v ∈ (mergeRow a b).o, v = 0) ∧
      (attMax a.m b.m ≠ fNegInf → (mergeRow a b).m = attMax a.m b.m)) ∧
    (a.o.length = b.o.length → (mergeRow a b).o.length = a.o.length)

/-- SCAN, MERGE, SCORE and COMPACT (R133, R138 to R143, R146 to R149): what a valid command leaves in its queue entry when its
pages are done, and that an invalid block ends with code 4. SCAN, SCORE and COMPACT read device memory page by page
(`scanCore`, `scoreCore`, `compactCore`); MERGE reads tile memory alone. -/
def Obligations.AttentionPasses : Prop :=
  ∀ (t h : Nat) (c : AttCmd) (s : State), attOf s t h = some c → c.phase = .queued → attHead s t h = true → ebbing s = false →
    pipeInBist s t = false → (tileOf s t).memErr = [] → s.stalled = false → c.off + 128 ≤ 2 ^ 20 →
    let mem := (tileOf s t).mem
    let b := Mem.read mem c.off 128
    let p := parOf b
    let w := pipeWho s t
    let qs := (List.range p.m).map (fun i => queryRow p.qf p.d (Mem.read mem (eNat b 16 4 + i * eNat b 20 2) (queryBytes p.qf p.d)))
    let put (s1 : State) (rows : List AttRow) (s' : State) : Prop :=
      (tileOf s' t).att = updWhere (fun y => y.h == h) (fun y => { y with
        phase := .done (attStatus 0 (rowFlags p.m rows) 0)
        outs := if bOUT b ≤ 1 then [(bOUTADDR b, partialBytes p.d rows)] else (List.range p.m).map (fun i =>
          (bOUTADDR b + i * bOPITCH b, finalRow (bOUT b == 3) (rows.getD i (AttRow.init p.d))))
        msg := if bOUT b = 1 then some ⟨bDEST b, eNat b 65 1, BitVec.ofNat 16 (eNat b 50 2), bOUTADDR b, partialLen p.d⟩ else none })
        (tileOf s1 t).att ∧
      regF s' (oATTCNT t) 15 0 = min 0xFFFF (regF s1 (oATTCNT t) 15 0 + ((rows.take p.m).filter (·.nan)).length) ∧
      RegsBut s1 s' [oATTCNT t] ∧ (∀ u ≠ t, tileOf s' u = tileOf s1 u) ∧
      { tileOf s' t with att := (tileOf s1 t).att } = tileOf s1 t ∧
      { s' with tiles := s1.tiles, bar0 := s1.bar0 } = s1
    let ends (s1 : State) (st : BitVec 32) (s' : State) : Prop :=
      (tileOf s' t).att = updWhere (fun y => y.h == h) (fun y => { y with phase := .done st }) (tileOf s1 t).att ∧
      { s' with tiles := s1.tiles } = s1
    (bOP b = 0 → blockOk s t b = true →
      (p.npages = 0 → ∃ s', exec (.scan t h) s = .next s' ∧ put s (List.replicate 32 (AttRow.init p.d)) s') ∧
      (let r := scanCore s w p qs (fun s => countPage s t)
       (r.1.stalled = false → r.2.2.1 = 0 → ∃ s', exec (.scan t h) s = .next s' ∧
         put r.1 (if bOUT b ≤ 1 then r.2.1 else r.2.1.map AttRow.closed) s') ∧
       (r.1.stalled = false → r.2.2.1 ≠ 0 → ∃ s', exec (.scan t h) s = .next s' ∧ ends r.1 (attStatus r.2.2.1 0 r.2.2.2) s') ∧
       (r.1.stalled = true → exec (.scan t h) s = .next s))) ∧
    (bOP b = 1 → blockOk s t b = true →
      let x := partialRows p.d p.m (Mem.read mem (eNat b 72 4) (partialLen p.d))
      let y := partialRows p.d p.m (Mem.read mem (eNat b 76 4) (partialLen p.d))
      ∃ s', exec (.merge t h) s = .next s' ∧ put s ((x.zip y).map (fun r => mergeRow r.1 r.2)) s') ∧
    (bOP b = 2 → blockOk s t b = true →
      let r := scoreCore s w t h (eNat b 72 1) (eNat b 68 4) p (Mem.read mem (eNat b 64 4) 256) qs (fun s => countPage s t)
      (r.1.stalled = false → ∃ s', exec (.score t h) s = .next s' ∧ { s' with tiles := r.1.tiles } = r.1 ∧
        (tileOf s' t).att = updWhere (fun y => y.h == h) (fun y => { y with
          phase := .updating (attStatus r.2.2.1 0 r.2.2.2), freeOut := eNat b 76 4 }) (tileOf r.1 t).att) ∧
      (p.npages = 0 → r.1 = s ∧ r.2.2.1 = 0)) ∧
    (bOP b = 3 → blockOk s t b = true →
      let r := compactCore s w p (eNat b 64 6) (eNat b 72 4) (eNat b 76 4)
      let x := r.2.1.close (eNat b 64 6)
      (r.1.stalled = false → ∃ s', exec (.compact t h) s = .next s' ∧ { s' with tiles := r.1.tiles } = r.1 ∧
        (tileOf s' t).att = updWhere (fun y => y.h == h) (fun y => { y with
          phase := .done (if x.code = 0 ∨ x.code = 5 then attStatus x.code 0 x.done
            else attStatus x.code 0 (if x.code = 4 then 0 else r.2.2))
          devOuts := if x.code = 0 ∨ x.code = 5 then x.outs else [] }) (tileOf r.1 t).att) ∧
      (p.npages = 0 → r.1 = s ∧ x.code = 0 ∧ x.done = 0 ∧ x.outs = [])) ∧
    (blockOk s t b = false → ∀ e ∈ [(Instr.scan t h, 0), (.merge t h, 1), (.score t h, 2), (.compact t h, 3)], bOP b = e.2 →
      ∃ s', exec e.1 s = .next s' ∧ ends s (attStatus 4 0 0) s')

/-- SCORE sends one update for each valid token of a page, in order (R147, R148): where the token's score stands, which
bitmap its eviction clears, and what the page says. -/
def Obligations.ScoreUpdatesSetOut : Prop :=
  ∀ (t h decay age part : Nat) (p : AttPar) (st : List (Nat × Nat × Nat × List Elem)) (s : State) (c : PageDesc) (g : PageData),
    ∃ new, (scorePage t h decay age part p st s c g).upds = s.upds ++ new ∧ new.map (·.tok) = setBits 256 g.valid ∧
      { scorePage t h decay age part p st s c g with upds := s.upds, nextId := s.nextId, fresh := s.fresh, bar0 := s.bar0 } = s ∧
      RegsBut s (scorePage t h decay age part p st s c g) [oBWRCNT part 1] ∧
      regF (scorePage t h decay age part p st s c g) (oBWRCNT part 1) 19 0 = (regF s (oBWRCNT part 1) 19 0 + new.length) % 2 ^ 20 ∧
      (new.map (·.id)) = (List.range new.length).map (fun i => s.nextId + i) ∧
      ∀ u ∈ new, u.t = t ∧ u.h = h ∧ u.n = c.n ∧ u.score = c.page + 256 * (rowBytes p.kf p.d + rowBytes p.vf p.d) + 2 * u.tok ∧
        u.bitmap = c.vbmp ∧ u.clear = false ∧ u.decay = decay ∧ u.escore = c.escore ∧ u.part = part ∧
        (∀ n, scoreInc p c g.valid (g.ks.getD u.tok []) u.tok st = some n → u.inc = n) ∧
        (u.old = true ↔ age ≠ 0xFFFF_FFFF ∧ (age : Int) < (p.rowPos (p.m - 1) : Int) - c.pos u.tok)

/-- SCORE_UPDATE (R147, R148, R174, R222): one read-modify-write of the score with the decayed old score and saturation at
0xFFFF; an eviction sends the clear of the token's bit; a clear takes the bit and one from LIVE, and the one that brings
LIVE to 0 releases the page. The update is outstanding no longer. While its access must wait it stays as it is. -/
def Obligations.ScoreUpdates : Prop :=
  ∀ (u : ScoreUpd) (s : State), s.upds.find? (fun y => y.id == u.id) = some u →
    let s0 := retire { s with upds := s.upds.filter (fun y => y.id != u.id) } u.part 1
    (u.clear = false →
      let r := readAt s0 (updWho u) u.score 2
      let old := leNat r.2.1
      let v := min 0xFFFF ((if u.decay = 0 then old else old - old / 2 ^ u.decay) + u.inc)
      let s1 := (writeAt r.1 (updWho u) u.score (leBytes 2 v)).1
      let s2 := (inject s1 u.part 1).1
      r.2.2.st = .ok → s1.stalled = false →
      (¬ (u.escore ≠ 0 ∧ u.old = true ∧ v < u.escore) → exec (.scoreUpdate u.id) s = .next s1) ∧
      (u.escore ≠ 0 → u.old = true → v < u.escore →
        exec (.scoreUpdate u.id) s =
          .next { s2 with upds := s2.upds ++ [{ u with id := s2.nextId, clear := true }], nextId := s2.nextId + 1 })) ∧
    (u.clear = true →
      let r := readAt s0 (updWho u) u.bitmap 64
      let b := leNat r.2.1
      let live := bits b 271 256
      r.2.2.st = .ok → r.1.stalled = false →
      (bit b u.tok = false → exec (.scoreUpdate u.id) s = .next r.1) ∧
      (∀ v1, v1 = (writeAt r.1 (updWho u) u.bitmap (leBytes 64 (b - 2 ^ u.tok - 2 ^ 256 + (if live = 1 ∧ bit b 272 = false then 2 ^ 272 else 0)))).1 →
        v1.stalled = false → bit b u.tok = true → u.tok < 256 → 0 < live → ∃ s' v, exec (.scoreUpdate u.id) s = .next s' ∧
        (∀ i < 256, bit v i = (bit b i && i != u.tok)) ∧ bits v 271 256 = live - 1 ∧ bit v 272 = (bit b 272 || live == 1) ∧
        (∀ i < 512, 272 < i → bit v i = bit b i) ∧
        (let s1 := addSat (writeAt r.1 (updWho u) u.bitmap (leBytes 64 v)).1 (oATTCNT u.t) 63 32 1
         (live ≠ 1 → s' = s1) ∧
         (live = 1 → s' = updAtt (addSat s1 (oATTCNT u.t) 31 16 1) u.t u.h (fun c => { c with released := c.released ++ [u.n] })))))

/-- ATTN_COMMAND_FINAL (R132 to R134, R141, R147): the output is written and the command is final; a waiting ATTNW takes
the status and the handle; a partial sent as a message makes the command final with the message's fate; SCORE lists the
pages released. -/
def Obligations.AttentionFinal : Prop :=
  ∀ (t h : Nat) (c : AttCmd) (s : State), attOf s t h = some c → s.stalled = false →
    let x := tileOf s t
    let waits (g wd : Nat) : Prop := (grp s t g).wait = .attnw h wd
    let lastst (s' : State) (st : BitVec 32) : Prop :=
      regF s' (oATTSTAT t) 15 12 = (if st.toNat / 2 ^ 28 = 0 then regF s (oATTSTAT t) 15 12 else st.toNat / 2 ^ 28) ∧
      RegsBut s s' [oATTSTAT t] ∧ { s' with tiles := s.tiles, bar0 := s.bar0 } = s
    (∀ st a bs, c.phase = .done st → c.msg = none → c.devOuts = [] → c.outs = [(a, bs)] → x.memErr = [] →
      let mem' (s' : State) : Prop := ∀ b, Mem.byte (tileOf s' t).mem b =
        if a ≤ b ∧ b < a + bs.length then bs.getD (b - a) 0 else Mem.byte x.mem b
      ((∀ g < 8, ∀ wd, ¬ waits g wd) → c.orphan = false →
        ∃ s', exec (.attnCommandFinal t h) s = .next s' ∧ lastst s' st ∧ mem' s' ∧
          attOf s' t h = some { c with phase := .final st, outs := [] } ∧ ∀ k, grp s' t k = grp s t k) ∧
      (∀ g < 8, ∀ wd, waits g wd → wd < 128 → (∀ k < 8, k ≠ g → ∀ wd', ¬ waits k wd') →
        ∃ s', exec (.attnCommandFinal t h) s = .next s' ∧ lastst s' st ∧ mem' s' ∧ attOf s' t h = none ∧
          (grp s' t g).st = .ready ∧ (grp s' t g).wait = .none ∧ (grp s' t g).pc = (grp s t g).pc ∧
          ActiveGive (grp s t g) (grp s' t g) wd 1 (fun _ _ => st) ∧ ∀ k ≠ g, grp s' t k = grp s t k)) ∧
    (∀ st m a bs, c.phase = .done st → c.msg = some m → c.devOuts = [] → c.outs = [(a, bs)] ∧ x.memErr = [] ∨ c.outs = [] ∧ bs = [] →
      (∃ k < 32, ∀ y ∈ x.sends, y.h ≠ k) →
      ∃ s' k, exec (.attnCommandFinal t h) s = .next s' ∧ { s' with tiles := s.tiles, fresh := s.fresh } = s ∧ k < 32 ∧
        (∀ y ∈ x.sends, y.h ≠ k) ∧ attOf s' t h = some { c with phase := .sending k st, outs := [], msg := none } ∧
        (∀ b, Mem.byte (tileOf s' t).mem b = if a ≤ b ∧ b < a + bs.length then bs.getD (b - a) 0 else Mem.byte x.mem b) ∧
        ∃ e : Send, (tileOf s' t).sends = x.sends ++ [e] ∧ e.h = k ∧ e.off = m.off ∧ e.len = m.len ∧ e.dests = [m.dst] ∧
          e.asked = [m.dst] ∧ e.q = m.q ∧ e.tag = m.tag ∧ e.phase = .reserving) ∧
    (∀ st k y e, c.phase = .sending k st → sendOf s t k = some e → e.phase = .final y → (∀ g < 8, ∀ wd, ¬ waits g wd) → c.orphan = false →
      let st' := if y = 0 then st else BitVec.ofNat 32 (9 * 2 ^ 28 + st.toNat % 2 ^ 28)
      ∃ s', exec (.attnCommandFinal t h) s = .next s' ∧ lastst s' st' ∧
        attOf s' t h = some { c with phase := .final st', outs := [], devOuts := [] } ∧ sendOf s' t k = none) ∧
    (∀ st, c.phase = .updating st → (∀ u ∈ s.upds, ¬ (u.t = t ∧ u.h = h)) → (∀ g < 8, ∀ wd, ¬ waits g wd) → c.orphan = false →
      st.toNat / 2 ^ 28 = 0 → x.memErr = [] →
      ∃ s', exec (.attnCommandFinal t h) s = .next s' ∧ { s' with tiles := s.tiles } = s ∧
        attOf s' t h = some { c with phase := .final (attStatus 0 0 c.released.length), outs := [], devOuts := [] } ∧
        ∀ b, Mem.byte (tileOf s' t).mem b = if c.freeOut ≤ b ∧ b < c.freeOut + 4 * c.released.length then
          (c.released.flatMap (fun n => leBytes 4 n)).getD (b - c.freeOut) 0 else Mem.byte x.mem b)

/-! ### The shelf (chapter 6) -/

/-- SHELF_READ, SHELF_WRITE and SHELF_MADD (R165 to R167, R170 to R173, R182): a read of bytes that are all valid is
answered from the line; a read that misses allocates the line and issues one fill for each named sector; a store is written
without a fetch; adds are forwarded to the controllers; a request of an old generation is dropped and counted, a fill reply
of an old generation is discarded and writes nothing (FILL_ARRIVAL). -/
def Obligations.ShelfRequests : Prop :=
  ∀ (x : Txn) (hm : Home) (s : State),
    let sl := sliceOf s hm.st hm.k
    (AtHome s x hm →
      (∀ key, x.kind = .load → keyOf s hm.st hm.k hm.lam = some key → (lineAt sl key).tagErr = 0 → sl.mb = [] →
        (∀ a ∈ x.want, a / 2048 = hm.lam) →
        (∀ c ∈ hm.secs, secHas (getSec s hm.st hm.k key (c % 8)) (maskOf x.want c) = true ∧ (getSec s hm.st hm.k key (c % 8)).err = []) →
        ∃ s', exec (.shelfRead x.id) s = .next s' ∧ { s' with txns := s.txns, shelf := s.shelf, bar0 := s.bar0 } = s ∧
          txnOf s' x.id = some ({ x with
            got := x.want.map (fun a => (a, Mem.byte (getSec s hm.st hm.k key (a / 256 % 8)).bytes (a % 256)))
            lost := []
            awaits := [] }.reply (nextRep s) (some (hm.st, hm.k)) .ok) ∧
          (∀ j ≠ x.id, txnOf s' j = txnOf s j) ∧ (sliceOf s' hm.st hm.k).lines = sl.lines ∧
          regF s' (oSHFCNT hm.st hm.k 0) 47 0 = min (2 ^ 48 - 1) (regF s (oSHFCNT hm.st hm.k 0) 47 0 + hm.secs.length) ∧
          RegsBut s s' [oSHFCNT hm.st hm.k 0]) ∧
      (x.kind = .load → sl.lines = [] → sl.mb = [] → s.fills = [] → x.want ≠ [] → x.bytes = [] → x.adds = [] →
        (∀ a ∈ x.want, a / 2048 = hm.lam) →
        ∃ s' key, exec (.shelfRead x.id) s = .next s' ∧ keyOf s' hm.st hm.k hm.lam = some key ∧
          (∀ c, getSec s' hm.st hm.k key c = Sector.reset) ∧
          s'.fills.map (fun f => (f.sec, f.stack, f.slice, f.gen, f.data, f.live)) =
            hm.secs.map (fun c => (c, hm.st, hm.k, genOf s (.stack hm.st), none, true)) ∧
          (∀ f ∈ s'.fills, ∃ r ∈ (ctrlOf s' (ctrlAt s.asm (f.sec * 256)).1).queue, r.gran = f.sec ∧ r.kind = .read ∧ r.fill = some f.id) ∧
          txnOf s' x.id = some { x with stage := .atSlice, got := [], lost := [], awaits := s'.fills.map (·.id) } ∧
          { s' with txns := s.txns, shelf := s.shelf, fills := s.fills, ctrls := s.ctrls, nextId := s.nextId } = s) ∧
      (x.kind = .store → sl.lines = [] → sl.mb = [] → (∀ c ∈ x.bytes, c.1 / 2048 = hm.lam) → (x.bytes.map (·.1)).Nodup →
        ∃ s' key, exec (.shelfWrite x.id) s = .next s' ∧ keyOf s' hm.st hm.k hm.lam = some key ∧
          (∀ c ∈ x.bytes, LineByte s' hm.st hm.k key c.1 c.2 ∧ (getSec s' hm.st hm.k key (c.1 / 256 % 8)).dirty = true ∧
            bit (getSec s' hm.st hm.k key (c.1 / 256 % 8)).valid.toNat (c.1 % 256) = true) ∧
          txnOf s' x.id = some (x.reply (nextRep s) (some (hm.st, hm.k)) .ok) ∧ RegsBut s s' [oSHFEVT hm.st] ∧
          { s' with txns := s.txns, shelf := s.shelf, bar0 := s.bar0 } = s) ∧
      (∀ ty, x.kind = .madd ty → keyOf s hm.st hm.k hm.lam = none →
        ∃ s', exec (.shelfMadd x.id) s = .next s' ∧
          txnOf s' x.id = some { x with stage := .toCtrl, ledger := x.ledger + 1 + hm.secs.length } ∧
          (∀ c ∈ hm.secs, ∃ r ∈ (ctrlOf s' (ctrlAt s.asm (c * 256)).1).queue, r.gran = c ∧ r.kind = .add ty ∧ r.txn = some x.id ∧ r.gen = x.gen) ∧
          { s' with txns := s.txns, ctrls := s.ctrls, nextId := s.nextId } = s) ∧
      (∀ ty key, x.kind = .madd ty → keyOf s hm.st hm.k hm.lam = some key → sl.mb = [] → sl.wb.length ≤ 32 →
        (∀ c ∈ hm.secs, (getSec s hm.st hm.k key (c % 8)).dirty = false) →
        ∃ s', exec (.shelfMadd x.id) s = .next s' ∧
          txnOf s' x.id = some { x with stage := .toCtrl, ledger := x.ledger + 1 + hm.secs.length } ∧
          (∀ c ∈ hm.secs, getSec s' hm.st hm.k key (c % 8) = Sector.reset ∧
            (∀ f ∈ s'.fills, f.stack = hm.st → f.slice = hm.k → f.sec = c → f.live = false) ∧
            ∃ r ∈ (ctrlOf s' (ctrlAt s.asm (c * 256)).1).queue, r.gran = c ∧ r.kind = .add ty ∧ r.txn = some x.id ∧ r.gen = x.gen) ∧
          { s' with txns := s.txns, ctrls := s.ctrls, nextId := s.nextId, shelf := s.shelf, fills := s.fills } = s)) ∧
    (txnOf s x.id = some x → x.stage = .toHome → homeOfTxn s x = some hm → x.gen ≠ genOf s (domainOf x.src) →
      ∀ e ∈ ([(.shelfRead x.id, x.kind = .load), (.shelfWrite x.id, x.kind = .store), (.shelfMadd x.id, ∃ ty, x.kind = .madd ty)]
          : List (Instr × Prop)), e.2 →
        ∃ s', exec e.1 s = .next s' ∧ txnOf s' x.id = some (x.reply (nextRep s) (some (hm.st, hm.k)) .dropped) ∧
          regF s' (oSHFEVT hm.st) 63 48 = min 0xFFFF (regF s (oSHFEVT hm.st) 63 48 + 1) ∧ RegsBut s s' [oSHFEVT hm.st] ∧
          { s' with txns := s.txns, bar0 := s.bar0 } = s) ∧
    (∀ f : Fill, s.fills.find? (fun y => y.id == f.id) = some f → f.data ≠ none → f.gen ≠ genOf s (.stack f.stack) →
      exec (.fillArrival f.id) s = .next (addSat { s with fills := s.fills.filter (fun y => y.id != f.id) } oBWREVT 63 48 1))

/-- FILL_ARRIVAL, MERGE_ENTRY_TIMEOUT and SLICE_RETIRE_DONE (R165, R170, R171, R180): fill data comes where the sector is not
valid, valid bytes stay; it writes nothing where the sector no longer stands; the reads that wait for it take the bytes they
lack, and one that waits for no other fill has its reply; a retiring merge entry overlays its bytes; a retired slice has nothing left and requests go on at its partner. -/
def Obligations.ShelfEvents : Prop :=
  (∀ (f : Fill) (data : List Byte) (bad : BitVec 4) (s : State), s.fills.find? (fun y => y.id == f.id) = some f → f.data = some (data, bad) →
    (∀ key, f.gen = genOf s (.stack f.stack) → f.live = true → keyOf s f.stack f.slice (f.sec / 8) = some key → bad = 0 →
      (getSec s f.stack f.slice key (f.sec % 8)).err = [] →
      let old := getSec s f.stack f.slice key (f.sec % 8)
      ∃ s', exec (.fillArrival f.id) s = .next s' ∧
        (getSec s' f.stack f.slice key (f.sec % 8)).valid = BitVec.allOnes 256 ∧
        (getSec s' f.stack f.slice key (f.sec % 8)).dirty = old.dirty ∧ (getSec s' f.stack f.slice key (f.sec % 8)).err = [] ∧
        (∀ i < 256, Mem.byte (getSec s' f.stack f.slice key (f.sec % 8)).bytes i =
          if bit old.valid.toNat i = true then Mem.byte old.bytes i else data.getD i 0) ∧
        s'.fills = s.fills.filter (fun y => y.id != f.id) ∧ s'.txns = (answerFill s f data 0 []).txns ∧
        regF s' (oSHFCNT f.stack f.slice 1) 47 0 = min (2 ^ 48 - 1) (regF s (oSHFCNT f.stack f.slice 1) 47 0 + 1) ∧
        RegsBut s s' [oSHFCNT f.stack f.slice 1] ∧
        { s' with fills := s.fills, txns := s.txns, shelf := s.shelf, fresh := s.fresh, bar0 := s.bar0 } = s) ∧
    (f.gen = genOf s (.stack f.stack) → f.live = false ∨ keyOf s f.stack f.slice (f.sec / 8) = none →
      ∃ s', exec (.fillArrival f.id) s = .next s' ∧ s'.fills = s.fills.filter (fun y => y.id != f.id) ∧
        s'.txns = (answerFill s f data bad []).txns ∧ { s' with fills := s.fills, txns := s.txns } = s) ∧
    ((∀ y ∈ s.txns, ¬ (y.stage = .atSlice ∧ f.id ∈ y.awaits)) → answerFill s f data bad [] = s) ∧
    (∀ y, s.txns.filter (fun z => z.stage == .atSlice && z.awaits.contains f.id) = [y] → (∀ z ∈ s.txns, z.id = y.id → z = y) →
      y.awaits = [f.id] → y.lost = [] → bad = 0 →
      let mine := y.want.filter (fun a => a / 256 == f.sec && !y.got.any (fun c => c.1 == a))
      txnOf (answerFill s f data bad []) y.id =
        some ({ y with awaits := [], got := y.got ++ mine.map (fun a => (a, data.getD (a % 256) 0)) }.reply (nextRep s)
          (some (f.stack, f.slice)) .ok))) ∧
  (∀ (st k key : Nat) (e : MbEntry) (s : State), (sliceOf s st k).mb.find? (fun y => y.word == e.word) = some e →
    keyOf s st k (e.word / 128) = some key →
    let old := getSec s st k key (e.word / 16 % 8)
    (∀ i < 16, bit old.valid.toNat (16 * (e.word % 16) + i) = true ∨ bit e.mask.toNat i = true) → old.err = [] →
    ∃ s', exec (.mergeEntryTimeout st k e.word) s = .next s' ∧ (∀ y ∈ (sliceOf s' st k).mb, y.word ≠ e.word) ∧
      (∀ i < 256, Mem.byte (getSec s' st k key (e.word / 16 % 8)).bytes i =
        if i / 16 = e.word % 16 then
          (if bit e.mask.toNat (i % 16) = true then Mem.byte e.bytes (i % 16) else if e.mask = 0xFFFF then 0 else Mem.byte old.bytes i)
        else Mem.byte old.bytes i) ∧
      (∀ j ≠ e.word / 16 % 8, getSec s' st k key j = getSec s st k key j) ∧ { s' with shelf := s.shelf } = s) ∧
  (∀ (st k : Nat) (s : State), (sliceOf s st k).retiring = true → flushHeld s st k = true → exec (.sliceRetireDone st k) s = .next s) ∧
  (∀ (st k : Nat) (s : State), (sliceOf s st k).retiring = true → flushHeld s st k = false →
    ∃ s', exec (.sliceRetireDone st k) s = .next s' ∧ (sliceOf s' st k).retiring = false ∧ (sliceOf s' st k).lines = [] ∧
      (sliceOf s' st k).mb = [] ∧ (sliceOf s' st k).wb = [] ∧
      ((sliceOf s st k).lines = [] → (sliceOf s st k).mb = [] → (sliceOf s st k).wb = [] →
        RegsBut s s' [oSHFSTAT st] ∧ { s' with shelf := s.shelf, fills := s.fills, bar0 := s.bar0 } = s ∧
        (∀ f ∈ s'.fills, f.stack = st → f.slice = k → f.live = false) ∧
        regB s' (oSHFSTAT st) 3 = (regB s (oSHFSTAT st) 3 && (List.range 16).any (fun j => j != k && (sliceOf s st j).retiring))))

/-! ### The HBM controllers (chapter 7) -/

/-- HBM_READ, HBM_WRITE, HBM_MASKED_WRITE and HBM_ADD (R169, R189, R194, R197 to R202, R207): what the controller reads
from or writes to DRAM, how it counts, and that the request leaves the queue. A request of an old generation is dropped. -/
def Obligations.ControllerRequests : Prop :=
  ∀ (i : Nat) (r : HbmReq) (s : State), reqOf s i r.id = some r → servable s i r = true → (ctrlAt s.asm (r.gran * 256)).1 = i →
    let taken (s' : State) : Prop := (ctrlOf s' i).queue = (ctrlOf s i).queue.filter (fun q => q.id != r.id)
    let full : BitVec 256 := BitVec.allOnes 256
    let c := (ctrlAt s.asm (r.gran * 256)).2
    let within (b : Nat) : Prop := 256 * r.gran ≤ b ∧ b < 256 * r.gran + 256
    (r.gen = genOf s r.dom → r.kind = .read → CleanGran s r.gran →
      ∃ s', exec (.hbmRead i r.id) s = .next s' ∧ taken s' ∧ { s' with ctrls := s.ctrls, fills := s.fills } = s ∧
        s'.fills = updWhere (fun f => some f.id == r.fill) (fun f => { f with data := some (Mem.read s.dram (256 * r.gran) 256, 0) }) s.fills) ∧
    (∀ k < 4, r.gen = genOf s r.dom → r.kind = .read → isLost s i r.gran = false → (∀ e ∈ (ctrlOf s i).adds, e.cw / 4 ≠ r.gran) →
      (∀ j < 4, j ≠ k → cwErr s (r.gran * 4 + j) = []) →
      (cwErr s (r.gran * 4 + k) ≠ [] → withinBound (cwErr s (r.gran * 4 + k)) (pinSymbols (regF s (oPCH i c) 15 10)) (edLimit s i) = true →
        ∃ s', exec (.hbmRead i r.id) s = .next s' ∧ taken s' ∧
          regF s' (oPCH i c) 63 48 = min 0xFFFF (regF s (oPCH i c) 63 48 + 1) ∧
          s'.fills = updWhere (fun f => some f.id == r.fill) (fun f => { f with data := some (Mem.read s.dram (256 * r.gran) 256, 0) }) s.fills) ∧
      (cwErr s (r.gran * 4 + k) = poisonPat →
        ∃ s' d, exec (.hbmRead i r.id) s = .next s' ∧ taken s' ∧
          regF s' (oPCH i c) 47 32 = min 0xFFFF (regF s (oPCH i c) 47 32 + 1) ∧
          s'.fills = updWhere (fun f => some f.id == r.fill) (fun f => { f with data := some (d, BitVec.ofNat 4 (2 ^ k)) }) s.fills)) ∧
    (r.gen = genOf s r.dom → r.kind = .write → r.mask = full → r.poison = 0 →
      ∃ s', exec (.hbmWrite i r.id) s = .next s' ∧ taken s' ∧ isLost s' i r.gran = false ∧ (∀ k < 4, cwErr s' (r.gran * 4 + k) = []) ∧
        (∀ b, (within b → Mem.byte s'.dram b = Mem.byte r.bytes (b - 256 * r.gran)) ∧ (¬ within b → Mem.byte s'.dram b = Mem.byte s.dram b)) ∧
        (∀ st, r.dom = .stack st → ∀ k < 16, ∀ e ∈ (sliceOf s' st k).wb, e.sec ≠ r.gran) ∧
        RegsBut s s' [oMEMSTAT i] ∧
        { s' with ctrls := s.ctrls, dram := s.dram, dramErr := s.dramErr, shelf := s.shelf, bar0 := s.bar0 } = s) ∧
    (r.gen = genOf s r.dom → r.kind = .masked → r.mask ≠ full → r.poison = 0 → CleanGran s r.gran →
      ∃ s', exec (.hbmMaskedWrite i r.id) s = .next s' ∧ taken s' ∧
        (∀ b, (within b → Mem.byte s'.dram b =
            if bit r.mask.toNat (b - 256 * r.gran) = true then Mem.byte r.bytes (b - 256 * r.gran) else Mem.byte s.dram b) ∧
          (¬ within b → Mem.byte s'.dram b = Mem.byte s.dram b)) ∧
        regF s' (oMEMEVT i) 31 0 = min (2 ^ 32 - 1) (regF s (oMEMEVT i) 31 0 +
          ((List.range 4).filter (fun k => let m := bits r.mask.toNat (64 * k + 63) (64 * k); m != 0 && m != 2 ^ 64 - 1)).length) ∧
        RegsBut s s' [oMEMEVT i] ∧
        { s' with ctrls := s.ctrls, dram := s.dram, dramErr := s.dramErr, shelf := s.shelf, bar0 := s.bar0 } = s) ∧
    (∀ ty x a bs, r.gen = genOf s r.dom → r.kind = .add ty → ty ≤ 4 → s.txns.find? (fun y => some y.id == r.txn) = some x →
      x.adds = [(a, bs)] → a / 256 = r.gran → a % maddBytes ty = 0 → xcWindow s i a = none → CleanGran s r.gran →
      (ctrlOf s i).adds.length < 64 → (∀ e ∈ s.ctrls, ∀ q ∈ e.2.queue, q.txn = r.txn → q.id = r.id ∧ e.1 = i) →
      let old := Mem.read s.dram (64 * (a / 64)) 64
      let w := maddBytes ty
      let o := a % 64
      let m := leNat ((old.drop o).take w)
      let n := leNat bs % 2 ^ (8 * w)
      let sum := match ty with
        | 0 => (m + n) % 2 ^ 32
        | 1 => (m + n) % 2 ^ 64
        | 2 => (fp32.add 0 m n).1
        | 3 => (fp64.add 0 m n).1
        | _ => (bf16.add 0 (m % 2 ^ 16) (n % 2 ^ 16)).1 + 2 ^ 16 * (bf16.add 0 (m / 2 ^ 16) (n / 2 ^ 16)).1
      ∃ s', exec (.hbmAdd i r.id) s = .next s' ∧ taken s' ∧
        (ctrlOf s' i).adds = (ctrlOf s i).adds ++ [⟨a / 64, old.take o ++ leBytes w sum ++ old.drop (o + w)⟩] ∧
        s'.txns = updWhere (fun y => y.id == x.id) (fun y => y.reply (nextRep s) none .ok) s.txns ∧
        { s' with ctrls := s.ctrls, txns := s.txns } = s) ∧
    (∀ st, r.gen ≠ genOf s r.dom → r.dom = .stack st →
      ∀ e ∈ ([(.hbmRead i r.id, r.kind = .read), (.hbmWrite i r.id, r.kind = .write), (.hbmMaskedWrite i r.id, r.kind = .masked),
          (.hbmAdd i r.id, ∃ ty, r.kind = .add ty)] : List (Instr × Prop)), e.2 →
        ∃ s', exec e.1 s = .next s' ∧ taken s' ∧ regF s' (oMEMEVT i) 63 48 = min 0xFFFF (regF s (oMEMEVT i) 63 48 + 1) ∧
          regF s' oBWREVT 63 48 = min 0xFFFF (regF s oBWREVT 63 48 + 1) ∧ s'.fills = s.fills.filter (fun f => some f.id != r.fill) ∧
          RegsBut s s' [oMEMEVT i, oBWREVT] ∧
          { s' with ctrls := s.ctrls, shelf := s.shelf, txns := s.txns, fills := s.fills, bar0 := s.bar0 } = s) ∧
    (∀ t ty, r.gen ≠ genOf s r.dom → r.dom = .tile t → r.kind = .add ty →
      ∃ s', exec (.hbmAdd i r.id) s = .next s' ∧ taken s' ∧ regF s' (oMEMEVT i) 63 48 = min 0xFFFF (regF s (oMEMEVT i) 63 48 + 1) ∧
        s'.txns = updWhere (fun y => some y.id == r.txn) (fun y => y.reply (nextRep s) none .dropped) s.txns ∧
        RegsBut s s' [oMEMEVT i] ∧ { s' with ctrls := s.ctrls, txns := s.txns, bar0 := s.bar0 } = s)

/-- An exact cell (R202): an INT32 add to an address in window n adds the operand times 2^FRAC to the 128-bit cell, which
wraps, and no flag of the window is set. -/
def Obligations.ExactCells : Prop :=
  ∀ (i n a x : Nat) (b : List Byte) (s : State), xcWindow s i a = some n → b.length = 64 → x < 2 ^ 32 →
    let frac := regF s (oXCLO i n) 54 48
    let o := a % 64 / 16 * 16
    frac ≤ 94 →
      (addApply s i 0 a x b).1 = s ∧
      (addApply s i 0 a x b).2 = b.take o ++ leBytes 16 (twos 128 (sext 128 (leNat ((b.drop o).take 16)) + sext 32 x * 2 ^ frac)) ++ b.drop (o + 16) ∧
      (addApply s i 0 a x b).2.length = 64

/-- ADD_ENTRY_TIMEOUT, REQUEST_PROMOTE, LOW_PROMOTE, REFRESH, REFRESH_MANAGEMENT and HBM_TEMP_SAMPLE (R188, R200, R206,
R223, R324, R325). -/
def Obligations.ControllerUpkeep : Prop :=
  ∀ (i : Nat) (s : State),
    (∀ e, (ctrlOf s i).adds.find? (fun y => y.cw == e.cw) = some e → granHeld s (e.cw / 4) = true →
      exec (.addEntryTimeout i e.cw) s = .next s) ∧
    (∀ e, (ctrlOf s i).adds.find? (fun y => y.cw == e.cw) = some e → e.bytes.length = 64 → granHeld s (e.cw / 4) = false →
      ∃ s', exec (.addEntryTimeout i e.cw) s = .next s' ∧ (ctrlOf s' i).adds = (ctrlOf s i).adds.filter (fun y => y.cw != e.cw) ∧
        cwErr s' e.cw = [] ∧
        (∀ b, Mem.byte s'.dram b = if 64 * e.cw ≤ b ∧ b < 64 * e.cw + 64 then e.bytes.getD (b - 64 * e.cw) 0 else Mem.byte s.dram b) ∧
        { s' with ctrls := s.ctrls, dram := s.dram, dramErr := s.dramErr } = s) ∧
    (∀ r, reqOf s i r.id = some r → 3 ≤ r.level →
      ∃ s', exec (.requestPromote i r.id) s = .next s' ∧ reqOf s' i r.id = some { r with level := 2, promoted := true } ∧
        regF s' (oMEMEVT i) 47 32 = min 0xFFFF (regF s (oMEMEVT i) 47 32 + 1) ∧ RegsBut s s' [oMEMEVT i] ∧
        (ctrlOf s' i).queue.map (·.id) = (ctrlOf s i).queue.map (·.id) ∧ { s' with ctrls := s.ctrls, bar0 := s.bar0 } = s) ∧
    (∀ x, txnOf s x.id = some x → x.low = true → x.promoted = false → x.stage = .toHome →
      ∃ s', exec (.lowPromote x.id) s = .next s' ∧ txnOf s' x.id = some { x with promoted := true } ∧
        regF s' oBWREVT 31 16 = min 0xFFFF (regF s oBWREVT 31 16 + 1) ∧ RegsBut s s' [oBWREVT] ∧
        { s' with txns := s.txns, bar0 := s.bar0 } = s) ∧
    (∀ c < 64, i ∈ ctrlList s.asm →
      (∃ s', exec (.refresh i c) s = .next s' ∧ SMap.get 0 (ctrlOf s' i).refreshes c = SMap.get 0 (ctrlOf s i).refreshes c + 1 ∧
        { ctrlOf s' i with refreshes := (ctrlOf s i).refreshes } = ctrlOf s i ∧ { s' with ctrls := s.ctrls } = s) ∧
      (∃ s', exec (.refreshManagement i c) s = .next s' ∧ SMap.get 0 (ctrlOf s' i).rfm c = SMap.get 0 (ctrlOf s i).rfm c + 1 ∧
        { ctrlOf s' i with rfm := (ctrlOf s i).rfm } = ctrlOf s i ∧ { s' with ctrls := s.ctrls } = s)) ∧
    (∀ degC limit maximum : Int, s.power.aon = true → i ∈ ctrlList s.asm → -128 ≤ degC → degC < 128 →
      ∃ s', exec (.hbmTempSample i degC limit maximum) s = .next s' ∧
        sext 8 (regF s' (oMEMSTAT i) 63 56) = degC ∧ tempOf s' (304 + i) = 4 * degC ∧
        (ctrlOf s' i).halfRate = (if limit ≤ degC then true else if degC ≤ limit - 2 then false else (ctrlOf s i).halfRate) ∧
        (degC < maximum → RegsBut s s' [oMEMSTAT i, oSENS (304 + i)] ∧ { s' with ctrls := s.ctrls, bar0 := s.bar0 } = s) ∧
        (maximum ≤ degC → s.power.ebb = 0 → s'.pins.thermtripN = false ∧ s'.power.ebb = 1 ∧ pwrState s' = 3))

/-- MEM_RETRAIN, the four margining runs and RETRAIN_SLICE (R209, R210, Table 7.13): a run starts on a free controller or is
turned away with status 2; its slices hold the pseudo-channel; the last slice writes the eyes it found and ends the run. -/
def Obligations.MemoryRuns : Prop :=
  ∀ (i c : Nat) (s : State), i ∈ ctrlList s.asm → c < 64 →
    (∀ e ∈ [(Instr.memRetrain 0 i c, 0), (.readTimingMargin 0 i c, 1), (.readVoltageMargin 0 i c, 2), (.writeTimingMargin 0 i c, 3),
        (.writeVoltageMargin 0 i c, 4)],
      ((ctrlOf s i).run = none →
        ∃ s', exec e.1 s = .next s' ∧ (ctrlOf s' i).run = some ⟨e.2, c, 0, false⟩ ∧ regF s' (oMEMRTN i) 40 38 = e.2 ∧
          regF s' (oMEMRTN i) 37 32 = c ∧ regB s' (oMEMRTN i) 62 = true ∧ regF s' (oMEMRTN i) 55 48 = 0 ∧
          regF s' (oMEMSTAT i) 37 32 = c ∧ regF s' (oPCH i c) 3 2 = 2 ∧ RegsBut s s' [oMEMRTN i, oMEMSTAT i, oPCH i c] ∧
          { s' with ctrls := s.ctrls, bar0 := s.bar0 } = s) ∧
      (∀ r, (ctrlOf s i).run = some r →
        ∃ s', exec e.1 s = .next s' ∧ regF s' (oMEMRTN i) 55 48 = 2 ∧ RegsBut s s' [oMEMRTN i] ∧ { s' with bar0 := s.bar0 } = s)) ∧
    (∀ op n eyes, (ctrlOf s i).run = some ⟨op, c, n, true⟩ → eyes.length = 36 →
      (∀ e ∈ eyes, -128 ≤ e.1 ∧ e.1 < 128 ∧ -128 ≤ e.2 ∧ e.2 < 128) →
      ∃ s', exec (.retrainSlice i (.ends true eyes)) s = .next s' ∧ (ctrlOf s' i).run = none ∧ regB s' (oMEMRTN i) 62 = false ∧
        regF s' (oMEMRTN i) 55 48 = 0 ∧ regF s' (oPCH i c) 3 2 = 0 ∧ (op = 0 → regF s' (oPCH i c) 15 10 = 0x3F) ∧
        (0 < op → ∀ p < 36, sext 8 (regF s' (oEYE i p) 23 16) = (eyes.getD p (0, 0)).1 ∧
          sext 8 (regF s' (oEYE i p) 15 8) = (eyes.getD p (0, 0)).2) ∧
        RegsBut s s' ([oMEMRTN i, oPCH i c] ++ (if op = 0 then [] else (List.range 36).map (oEYE i))) ∧
        { s' with ctrls := s.ctrls, bar0 := s.bar0 } = s) ∧
    (∀ op n, (ctrlOf s i).run = some ⟨op, c, n, false⟩ → (op = 0 → n < 40) → (∀ e ∈ (ctrlOf s i).failRows, e.1 ≠ c) →
      ∃ s', exec (.retrainSlice i .begins) s = .next s' ∧ (ctrlOf s' i).run = some ⟨op, c, n + 1, true⟩ ∧ regF s' (oPCH i c) 3 2 = 1 ∧
        RegsBut s s' [oPCH i c] ∧ { s' with ctrls := s.ctrls, bar0 := s.bar0 } = s) ∧
    (∀ op n eyes, (ctrlOf s i).run = some ⟨op, c, n, true⟩ →
      ∃ s', exec (.retrainSlice i (.ends false eyes)) s = .next s' ∧ (ctrlOf s' i).run = some ⟨op, c, n, false⟩ ∧
        regF s' (oPCH i c) 3 2 = 2 ∧ RegsBut s s' [oPCH i c] ∧ { s' with ctrls := s.ctrls, bar0 := s.bar0 } = s) ∧
    (∀ op n a, (ctrlOf s i).run = some ⟨op, c, n, a⟩ →
      ∃ s', exec (.retrainSlice i .fails) s = .next s' ∧ (ctrlOf s' i).run = none ∧ regB s' (oMEMRTN i) 62 = false ∧
        regF s' (oMEMRTN i) 55 48 = 1 ∧ { s' with ctrls := s.ctrls, bar0 := s.bar0 } = s)

/-- HBM_CONTROLLER_RESET (R208, R212, R226): the generation moves on, the run, the queue of writes and the add buffer are
gone, the RL fields stay, and the controller is in reset. With a failed PHY every accepted write that was not in DRAM is
in the lost-write table, as far as its 64 entries go. -/
def Obligations.ControllerReset : Prop :=
  ∀ (i : Nat) (ok : Bool) (s : State), i ∈ ctrlList s.asm → genBusy s (.ctrl i) = false → (ctrlOf s i).adds = [] →
    (ctrlOf s i).queue = [] →
    ∃ s', exec (.hbmControllerReset i ok) s = .next s' ∧ regF s' (oMEMSTAT i) 11 8 = (regF s (oMEMSTAT i) 11 8 + 1) % 16 ∧
      (ctrlOf s' i).run = none ∧ (ctrlOf s' i).stopped = true ∧ (ctrlOf s' i).lost = (ctrlOf s i).lost ∧
      ResetDomain.ctrl i ∈ s'.resetting ∧ reg s' (oMEMCFG i) = reg s (oMEMCFG i) ∧ reg s' (oMEMARB i) = reg s (oMEMARB i) ∧
      s'.dram = s.dram ∧ s'.dramErr = s.dramErr ∧ s'.tiles = s.tiles ∧ s'.shelf = s.shelf

/-! ### Tidegauge (chapter 9) -/

/-- TG_CFG_WRITE, REF_QUALIFIED, REF_LOST, TG_LOAD and TG_NOW_READ (R233, R235, R236, R239, R240, R257): the configuration of
stage 0 sets CFGD, and STEPUS and REFF stay once Tidegauge has left FREE; STEP_OUT follows SOEN; a reference comes and goes with its state changes, each signalled on PF vector 1; an armed step; the
read of reported time and the fraction it latches. -/
def Obligations.TidegaugeReferences : Prop :=
  ∀ (s : State), s.power.aon = true →
    let st := tgState s
    let rest (s' : State) (l : List Nat) : Prop := RegsBut s s' l ∧ { s' with bar0 := s.bar0, tg := s.tg, irqs := s.irqs } = s
    (∀ v, s.head.running = true → stageNow s = 0 → s.head.inReset = false → fld v 50 0 = fld (tgCfgDue s) 50 0 →
      ∃ s', exec (.tgCfgWrite v) s = .next s' ∧ regB s' oTGCFG 50 = bit v.toNat 50 ∧ regF s' oTGCFG 35 0 = fld v 35 0 ∧
        regF s' oTGCFG 49 36 = (if st = 0 then fld v 49 36 else regF s oTGCFG 49 36) ∧ regB s' oTGSTAT 9 = true ∧
        (st = 0 → regF s' oTGCFG 50 0 = fld v 50 0) ∧ tgState s' = st ∧
        s'.tg = { s.tg with stepOut := bit v.toNat 50 && decide (nowTick s < 64) } ∧ s'.head = { s.head with tgSeen := true } ∧
        RegsBut s s' [oTGCFG, oTGSTAT, oTGERR] ∧ { s' with bar0 := s.bar0, tg := s.tg, head := s.head } = s) ∧
    (regB s oTGSTAT 9 = true → regB s oTGSTAT 4 = false →
      ∃ s', exec .refQualified s = .next s' ∧ regB s' oTGSTAT 4 = true ∧ rest s' [oTGSTAT, oTGERR] ∧
        tgState s' = (if st = 0 then 1 else if st = 4 then 3 else st) ∧
        s'.irqs = s.irqs ++ (if st = 0 ∨ st = 4 then [(0, 1)] else [])) ∧
    (regB s oTGSTAT 4 = true →
      ∃ s', exec .refLost s = .next s' ∧ regB s' oTGSTAT 4 = false ∧ regB s' oTGSTAT 5 = false ∧ rest s' [oTGSTAT, oTGERR] ∧
        tgState s' = (if st = 1 then 0 else if st = 2 ∨ st = 3 then 4 else st) ∧
        s'.irqs = s.irqs ++ (if st = 1 ∨ st = 2 ∨ st = 3 then [(0, 1)] else []) ∧
        (st = 2 ∨ st = 3 → s'.tg.errBase = errOf (setF (setF s oTGSTAT 4 4 0) oTGSTAT 5 5 0) ∧ s'.tg.errTicks = 0) ∧
        (st = 1 → s'.tg.aligned = false)) ∧
    (∀ v, canWrite s 0 (oTGCFG + 0x28) = true → bit v.toNat 63 = true →
      exec (.tgLoad 0 v) s = .next { s with tg := { s.tg with armed := some (fld v 51 0) } }) ∧
    (∀ fn, canRead s fn oTGNOW = true →
      ∃ s', exec (.tgNowRead fn) s = .next s' ∧ s'.hostReads = s.hostReads ++ [(fn, leBytes 8 (reg s oTGNOW).toNat)] ∧
        reg s' oTGFRAC = s'.tg.frac.setWidth 64 ∧ s.tg.frac ≤ s'.tg.frac ∧ RegsBut s s' [oTGFRAC] ∧
        { s' with bar0 := s.bar0, tg := s.tg, hostReads := s.hostReads, fresh := s.fresh } = s ∧
        { s'.tg with frac := s.tg.frac } = s.tg)

/-- STEP_IN_EDGE and STEP_MISSED (R234, R239, R241 to R244): the first alignment, a small phase in LOCKED, a glitch, an
armed load in FREE taken or rejected, and the loss of STEP_IN after MISS boundaries. The phase comes from the instant of
the edge within its tick, which is free (notes/assumptions/2.md). -/
def Obligations.TidegaugeEdges : Prop :=
  ∀ (s : State), s.power.aon = true →
    let d := drawInstant s
    let p := phaseNow d
    let st := tgState s
    (timeHeld s = false → st = 0 → s.tg.armed = none → exec .stepInEdge s = .next d) ∧
    (timeHeld s = false → st = 1 → s.tg.aligned = false → s.tg.armed = none → NoTides s → nowStep s + 1 < 2 ^ 52 → slotOk s = false →
      ∃ s', exec .stepInEdge s = .next s' ∧ nowStep s' = nowStep s + 1 ∧ nowTick s' = 0 ∧ s'.tg.frac = 0 ∧ s'.tg.aligned = true ∧
        regF s' oTGERR 63 32 = 0 ∧ s'.tg.stepOut = regB s oTGCFG 50 ∧ tgState s' = 1 ∧ RegsBut s s' [oTGNOW, oTGERR] ∧
        { s' with bar0 := s.bar0, tg := s.tg, fresh := s.fresh } = s) ∧
    (∀ v, timeHeld s = false → st = 0 → s.tg.armed = some v → NoTides s → slotOk s = false → v < 2 ^ 52 →
      (nowStep s < v → ∃ s', exec .stepInEdge s = .next s' ∧ nowStep s' = v ∧ nowTick s' = 0 ∧ s'.tg.armed = none ∧
        regF s' oTGEVT 31 16 = min 0xFFFF (regF s oTGEVT 31 16 + 1) ∧ regB s' oTGSTAT 8 = regB s oTGSTAT 8) ∧
      (v ≤ nowStep s → ∃ s', exec .stepInEdge s = .next s' ∧ reg s' oTGNOW = reg s oTGNOW ∧ s'.tg.armed = none ∧ regB s' oTGSTAT 8 = true ∧
        RegsBut s s' [oTGSTAT])) ∧
    (timeHeld s = false → st ≠ 0 → s.tg.aligned = true → s.tg.edgeSeen = true ∨ 512 * 256 < p.natAbs →
      ∃ s', exec .stepInEdge s = .next s' ∧ regF s' oTGEVT 15 0 = min 0xFFFF (regF s oTGEVT 15 0 + 1) ∧
        RegsBut s s' [oTGEVT] ∧ { s' with bar0 := s.bar0 } = d) ∧
    (timeHeld s = false → st = 2 → s.tg.aligned = true → s.tg.edgeSeen = false → s.tg.armed = none →
      p.natAbs ≤ 128 * guardOf s → p.natAbs ≤ 512 * 256 → ¬ (s.tg.forward = true ∧ p < 0) →
      ∃ s', exec .stepInEdge s = .next s' ∧ s'.tg.slew = p ∧ s'.tg.edgeSeen = true ∧ s'.tg.missed = 0 ∧ s'.tg.forward = false ∧
        s'.tg.holdDue = false ∧ sext 32 (regF s' oTGERR 63 32) = p ∧ tgState s' = 2 ∧ RegsBut s s' [oTGERR] ∧
        { s' with bar0 := s.bar0, tg := s.tg, fresh := s.fresh } = s) ∧
    (missPending s = true →
      let n := s.tg.missed + 1
      ∃ s', exec .stepMissed s = .next s' ∧ regF s' oTGEVT 63 48 = min 0xFFFF (regF s oTGEVT 63 48 + 1) ∧
        (n < missOf s → s'.tg.missed = n ∧ tgState s' = st ∧ s'.irqs = s.irqs ∧ RegsBut s s' [oTGEVT]) ∧
        (missOf s ≤ n → s'.tg.missed = 0 ∧ regB s' oTGSTAT 5 = false ∧ tgState s' = (if st = 2 then 3 else st) ∧
          s'.irqs = s.irqs ++ (if st = 2 then [(0, 1)] else []) ∧ RegsBut s s' [oTGEVT, oTGSTAT, oTGERR]) ∧
        { s' with bar0 := s.bar0, tg := s.tg, irqs := s.irqs } = s)

/-- TIME_HOLD, SLOTOK_CLEAR, STEP_BOUNDARY and STEP_OUT_END (R237, R243, R245, R251, R257), and what a step of the block does
on an empty queue: one tick of reported time passes (the model's choice, notes/assumptions/3.md). -/
def Obligations.ReportedTime : Prop :=
  ∀ (s : State),
    (s.power.aon = true →
      (s.tg.holdDue = true → nowTick s = 4095 → timeHeld s = false → anyDue s = false →
        ∃ s', exec .timeHold s = .next s' ∧ timeHeld s' = true ∧ s'.tg = { s.tg with holdDue := false } ∧
          regF s' oTGEVT 31 16 = min 0xFFFF (regF s oTGEVT 31 16 + 1) ∧ RegsBut s s' [oTGSTAT, oTGEVT] ∧
          { s' with bar0 := s.bar0, tg := s.tg } = s) ∧
      (slotOk s = true → 256 * guardOf s < errOf s →
        ∃ s', exec .slotokClear s = .next s' ∧ slotOk s' = false ∧ s'.irqs = s.irqs ++ [(0, 1)] ∧
          (s.head.inReset = false → regF s' oTGLNCFG 15 12 = 0 ∧ s'.tg = { s.tg with noticeEnd := none }) ∧
          (s.head.inReset = true → reg s' oTGLNCFG = reg s oTGLNCFG ∧ s'.tg = s.tg) ∧
          RegsBut s s' ([oTGSTAT, oTGLNCFG] ++ (List.range (surfPorts s.asm)).map oLNKSTAT) ∧
          { s' with bar0 := s.bar0, tg := s.tg, irqs := s.irqs } = s) ∧
      (nowTick s = 4095 → timeHeld s = false → s.tg.holdDue = false → anyDue s = false → nowStep s + 1 < 2 ^ 52 →
        ∃ s', exec .stepBoundary s = .next s' ∧ nowStep s' = nowStep s + 1 ∧ nowTick s' = 0 ∧ s'.tg.frac = 0 ∧
          s'.tg.stepOut = regB s oTGCFG 50 ∧ tgState s' = tgState s ∧
          (tgState s ≠ 2 → slotOk s' = slotOk s ∧ s'.irqs = s.irqs ∧ s'.fresh = s.fresh ∧ RegsBut s s' [oTGNOW, oTGERR]) ∧
          (tgState s = 2 → s.tg.slew = 0 → slotOk s = false →
            (slotOk s' = true ↔ 2 * regF s oTGCFG 27 20 ≤ guardOf s)) ∧
          { s' with bar0 := s.bar0, tg := s.tg, irqs := s.irqs, fresh := s.fresh } = s) ∧
      (s.tg.stepOut = true → 64 ≤ nowTick s →
        exec .stepOutEnd s = .next { s with tg := { s.tg with stepOut := false } })) ∧
    (s.pending = [] → broadcasting s = false →
      (tickBlocked s = true → step s = .next s) ∧
      (tickBlocked s = false →
        ∃ s', step s = .next s' ∧ nowStep s' = nowStep s ∧ nowTick s' = nowTick s + 1 ∧ s'.tg.frac = 0 ∧
          RegsBut s s' [oTGNOW, oTGERR] ∧ { s' with bar0 := s.bar0, tg := s.tg } = s))

/-- The firing of a tide-table entry whose turn has come (R58, R247 to R249, R252, R268, R323, R337, R344): SLOT_OPEN,
SLOT_CLOSE, NONE, CUP_OPEN, CUP_CLOSE, PHASE, BIST_SLICE and SCRUB_SLICE spend one firing and do what Table 9.2 says; an
entry with QREQ that finds SLOTOK 0 is skipped and counted (not for SLOT_OPEN, SLOT_CLOSE and NONE). -/
def Obligations.TideFirings : Prop :=
  ∀ (n st : Nat) (s : State), turnOf s n = some st → n < 248 →
    let a := entAct s n
    let p := entTarget s n % 64
    let k := entArg s n
    let ents : List Nat := [oENTA n, oENTB n]
    let keeps (s' : State) : Prop := { s'.tg with fired := s.tg.fired } = s.tg
    (a = 0 → ∃ s', exec (.noneFire n) s = .next s' ∧ Spent s s' n st ∧ keeps s' ∧ RegsBut s s' ents ∧
      { s' with bar0 := s.bar0, tg := s.tg } = s) ∧
    (a = 1 → p < surfPorts s.asm →
      ∃ s', exec (.slotOpen n) s = .next s' ∧ Spent s s' n st ∧ keeps s' ∧
        (k < 16 → regF s' (oLNKSTAT p) 35 32 = k ∧ regB s' (oLNKSTAT p) 31 = true ∧ (portOf s' p).slotAt = nowTicks s ∧
          RegsBut s s' (oLNKSTAT p :: ents) ∧ { s' with bar0 := s.bar0, tg := s.tg, ports := s.ports } = s) ∧
        (16 ≤ k → regF s' (oLNKEVT p) 15 0 = min 0xFFFF (regF s (oLNKEVT p) 15 0 + 1) ∧ RegsBut s s' (oLNKEVT p :: ents) ∧
          { s' with bar0 := s.bar0, tg := s.tg } = s)) ∧
    (a = 2 → p < surfPorts s.asm →
      ∃ s', exec (.slotClose n) s = .next s' ∧ Spent s s' n st ∧ keeps s' ∧
        (k < 16 → regB s' (oLNKSTAT p) 31 = (regB s (oLNKSTAT p) 31 && regF s (oLNKSTAT p) 35 32 != k) ∧
          RegsBut s s' (oLNKSTAT p :: ents)) ∧
        (16 ≤ k → regF s' (oLNKEVT p) 15 0 = min 0xFFFF (regF s (oLNKEVT p) 15 0 + 1) ∧ RegsBut s s' (oLNKEVT p :: ents)) ∧
        { s' with bar0 := s.bar0, tg := s.tg } = s) ∧
    (∀ e ∈ [(Instr.slotOpen n, 1), (.slotClose n, 2)], a = e.2 → surfPorts s.asm ≤ p →
      ∃ s', exec e.1 s = .next s' ∧ Spent s s' n st ∧ keeps s' ∧ RegsBut s s' ents ∧ { s' with bar0 := s.bar0, tg := s.tg } = s) ∧
    (∀ e ∈ [(Instr.cupOpen n, 7), (.cupClose n, 8), (.phase n, 9), (.bistSlice n, 4), (.scrubSlice n, 5)], a = e.2 → qSkip s n = true →
      ∃ s', exec e.1 s = .next s' ∧ Spent s s' n st ∧ keeps s' ∧ regF s' oTGEVT 47 32 = min 0xFFFF (regF s oTGEVT 47 32 + 1) ∧
        RegsBut s s' (oTGEVT :: ents) ∧ { s' with bar0 := s.bar0, tg := s.tg } = s) ∧
    (qSkip s n = false →
      (a = 7 → ∃ s', exec (.cupOpen n) s = .next s' ∧ Spent s s' n st ∧ s'.tg.cupOpen = s.tg.cupOpen ||| BitVec.ofNat 8 (entTarget s n) ∧
        { s'.tg with fired := s.tg.fired, cupOpen := s.tg.cupOpen } = s.tg ∧ RegsBut s s' ents ∧ { s' with bar0 := s.bar0, tg := s.tg } = s) ∧
      (a = 8 → ∃ s', exec (.cupClose n) s = .next s' ∧ Spent s s' n st ∧
        s'.tg.cupOpen = s.tg.cupOpen &&& ~~~ BitVec.ofNat 8 (entTarget s n) ∧
        { s'.tg with fired := s.tg.fired, cupOpen := s.tg.cupOpen } = s.tg ∧ RegsBut s s' ents ∧ { s' with bar0 := s.bar0, tg := s.tg } = s) ∧
      (a = 9 → ∃ s', exec (.phase n) s = .next s' ∧ Spent s s' n st ∧ keeps s' ∧
        (∀ i < 12, regF s' oTHMPHASE (2 * i + 1) (2 * i) =
          if i < crests s.asm ∧ bit (entTarget s n) i = true then k % 4 else regF s oTHMPHASE (2 * i + 1) (2 * i)) ∧
        RegsBut s s' (oTHMPHASE :: ents) ∧ { s' with bar0 := s.bar0, tg := s.tg } = s) ∧
      (let u := entTarget s n
       let el := SMap.get 0 s.ras.cursors (u * 8 + k)
       a = 4 → 12 ≤ u → bistCount s.asm u k ≠ 0 → (∀ b ∈ s.ras.bists, b.unit ≠ u) →
        ∃ s', exec (.bistSlice n) s = .next s' ∧ Spent s s' n st ∧ keeps s' ∧ s'.ras = { s.ras with bists := s.ras.bists ++ [⟨u, k, el, false, []⟩] } ∧
          RegsBut s s' ents ∧ { s' with bar0 := s.bar0, tg := s.tg, ras := s.ras } = s) ∧
      (let u := entTarget s n
       let el := SMap.get 0 s.ras.cursors (u * 8 + k)
       a = 4 → u < 12 → bistCount s.asm u k ≠ 0 → (∀ b ∈ s.ras.bists, b.unit ≠ u) →
        ∃ s', exec (.bistSlice n) s = .next s' ∧ Spent s s' n st ∧ keeps s' ∧
          s'.ras = { s.ras with bists := s.ras.bists ++ [⟨u, k, el, elemBusy s u k el, []⟩] } ∧ RegsBut s s' ents ∧
          (elemBusy s u k el = true → { s' with bar0 := s.bar0, tg := s.tg, ras := s.ras } = s) ∧
          (∀ t, elemBusy s u k el = false → k = 1 → el % 5 < 4 → tileAtPhys s u (el / 5) = some t →
            arr s' t (el % 5) = { arr s t (el % 5) with owner := some .bist } ∧ ∀ j ≠ el % 5, arr s' t j = arr s t j)) ∧
      (let u := entTarget s n
       a = 4 → bistCount s.asm u k ≠ 0 → (∃ b ∈ s.ras.bists, b.unit = u) →
        ∃ s', exec (.bistSlice n) s = .next s' ∧ Spent s s' n st ∧ keeps s' ∧ regF s' oBISTSTAT 15 0 = min 0xFFFF (regF s oBISTSTAT 15 0 + 1) ∧
          RegsBut s s' (oBISTSTAT :: ents) ∧ { s' with bar0 := s.bar0, tg := s.tg } = s) ∧
      (a = 4 → bistCount s.asm (entTarget s n) k = 0 → ∃ s', exec (.bistSlice n) s = .next s' ∧ Spent s s' n st ∧ keeps s' ∧
        RegsBut s s' ents ∧ { s' with bar0 := s.bar0, tg := s.tg } = s) ∧
      (let u := entTarget s n
       a = 5 → ¬ (unitFitted s.asm u = true ∧ 16 ≤ u ∧ u < 40 ∧ k < 4 ∧ regB s (oSCRA u k) 63 = true) →
        ∃ s', exec (.scrubSlice n) s = .next s' ∧ Spent s s' n st ∧ keeps s' ∧
          RegsBut s s' ents ∧ { s' with bar0 := s.bar0, tg := s.tg } = s) ∧
      (let u := entTarget s n
       a = 5 → unitFitted s.asm u = true → 16 ≤ u → u < 40 → k < 4 → regB s (oSCRA u k) 63 = true →
        ((∀ x ∈ s.ras.scrubs, x.1 ≠ u) → ∃ s', exec (.scrubSlice n) s = .next s' ∧ Spent s s' n st ∧ keeps s' ∧
          s'.ras = { s.ras with scrubs := s.ras.scrubs ++ [(u, k)] } ∧ RegsBut s s' ents ∧
          { s' with bar0 := s.bar0, tg := s.tg, ras := s.ras } = s) ∧
        ((∃ x ∈ s.ras.scrubs, x.1 = u) → ∃ s', exec (.scrubSlice n) s = .next s' ∧ Spent s s' n st ∧ keeps s' ∧
          regF s' oBISTSTAT 15 0 = min 0xFFFF (regF s oBISTSTAT 15 0 + 1) ∧ RegsBut s s' (oBISTSTAT :: ents) ∧
          { s' with bar0 := s.bar0, tg := s.tg } = s)))

/-- LOAD_NOTICE and LOAD_NOTICE_END (R251, R309): at its drive time the code stands on LOAD_NOTICE[3:0] for HOLD ticks, 0b0000
during an Ebb sequence; a firing without SLOTOK or while Headland is in reset is skipped and counted; then the pins return to 0b0000. -/
def Obligations.LoadNotices : Prop :=
  ∀ (n st : Nat) (s : State),
    (turnOf s n = some st → n < 248 → entAct s n = 3 →
      (slotOk s = true → s.head.inReset = false →
        let e := nowTicks s + regF s oTGLNCFG 27 16
        ∃ s', exec (.loadNotice n) s = .next s' ∧ Spent s s' n st ∧
          regF s' oTGLNCFG 15 12 = (if ebbing s = true ∨ entArg s n % 16 = 8 then 0 else entArg s n % 16) ∧ s'.tg.noticeEnd = some (e / 4096, e % 4096) ∧
          { s'.tg with fired := s.tg.fired, noticeEnd := s.tg.noticeEnd } = s.tg ∧
          RegsBut s s' [oENTA n, oENTB n, oTGLNCFG] ∧ { s' with bar0 := s.bar0, tg := s.tg } = s) ∧
      (slotOk s = false ∨ s.head.inReset = true →
        ∃ s', exec (.loadNotice n) s = .next s' ∧ Spent s s' n st ∧ regF s' oTGEVT 47 32 = min 0xFFFF (regF s oTGEVT 47 32 + 1) ∧
          { s'.tg with fired := s.tg.fired } = s.tg ∧ RegsBut s s' [oENTA n, oENTB n, oTGEVT] ∧ { s' with bar0 := s.bar0, tg := s.tg } = s)) ∧
    (∀ a b, s.head.inReset = false → s.tg.noticeEnd = some (a, b) → 4096 * a + b ≤ nowTicks s →
      ∃ s', exec .loadNoticeEnd s = .next s' ∧ regF s' oTGLNCFG 15 12 = 0 ∧ s'.tg = { s.tg with noticeEnd := none } ∧
        RegsBut s s' [oTGLNCFG] ∧ { s' with bar0 := s.bar0, tg := s.tg } = s)

/-- COMMIT (R253, R295): a list that passes every check is accepted into a free slot and waits for its step; one
that fails completes with status 9 and its result. -/
def Obligations.CommitCommand : Prop :=
  ∀ (p sq key lst : Nat) (e : SqEntry) (s : State), CanStart s p sq e → eOp e.bytes = 7 → commitEntryOk e.bytes = true →
    HostRange s (if p = 8 then none else some p) (eNat e.bytes 24 6) (16 * eNat e.bytes 32 4) lst →
    let n := eNat e.bytes 32 4
    let rs := recsOf (Mem.read s.hostMem lst (16 * n)) n
    let at_ := if eNat e.bytes 16 8 = 0 then nowStep s + 2 else eNat e.bytes 16 8
    let priv := p == 8 || regB s (oSQB p sq) 62
    (checksOk s p priv at_ rs = true → nowStep s + 2 ≤ at_ → (∀ c ∈ s.tg.commits, c.step ≤ at_) → at_ < 2 ^ 52 →
      (∃ j < 8, regB s oTGCMT j = false) →
      ∃ s' c j, exec (.commit p sq) s = .next s' ∧ StartsAs s s' p sq e c ∧ c.slot = some j ∧ j < 8 ∧ regB s oTGCMT j = false ∧
        s'.tg = { s.tg with commits := s.tg.commits ++ [⟨j, at_, rs, p, c.id, s.tg.sealed⟩], sealed := s.tg.sealed + 1 } ∧
        regF s' (oCMTST j) 63 60 = 1 ∧ regF s' (oCMTST j) 51 0 = at_ ∧ regB s' oTGCMT j = true ∧
        entValid s' (248 + j) = true ∧ entAct s' (248 + j) = 6 ∧ entStart s' (248 + j) = at_ ∧
        RegsBut s s' ([oCMTST j, oTGCMT, oENTA (248 + j), oENTB (248 + j)] ++ queueRegs s p sq) ∧ s'.hostMem = s.hostMem ∧
        s'.tiles = s.tiles ∧ s'.shelf = s.shelf ∧ s'.dram = s.dram) ∧
    (checksOk s p priv at_ rs = false → CqOpen s p sq key → (∃ j < 8, regB s oTGCMT j = false) →
      ∃ s' j, exec (.commit p sq) s = .next s' ∧ j < 8 ∧ regB s oTGCMT j = false ∧
        StartsAndCompletes s s' p sq key e 9 (3 + 16 * j)
          (if p = 8 then (if bit (eFlags e.bytes) 0 = true then [] else [(0, 9)]) else [vectorOf s p 51]) ∧
        regF s' (oCMTST j) 63 60 = 3 ∧ s'.tg = s.tg ∧ RegsBut s s' (oCMTST j :: queueRegs s p sq))

/-- COMMIT_APPLY (R254, R255): at tick 0 a due commit applies: its staged fields stand in their registers, what they held
before is kept for the requests of the previous epoch, the epoch increments, TG_CMTST
shows it and the command completes with status 0 (a commit that changes the partition table, SHF_CFG or LNK_CFG does more; it
is not stated here); while a transaction of the epoch before is outstanding the application
is put off to the next boundary and counted. -/
def Obligations.CommitApplication : Prop :=
  ∀ (s : State), s.power.aon = true → nowTick s = 0 →
    (∀ (c : Commit) (m : Cmd) (key : Nat), s.tg.commits = [c] → c.step ≤ nowStep s → c.slot < 8 → c.cmd = m.id → epochBusy s = false →
      InFlight s c.part m → CqOpen s c.part m.sq key →
      (∀ r ∈ c.recs, holdsRL s.asm r.1 = true ∧ ∀ u, r.1 ≠ oPTABA u ∧ r.1 ≠ oPTABB u ∧ r.1 ≠ oSHFCFG u ∧ r.1 ≠ oLNKCFG u) →
      (∀ n < 248, entAct (putRecs s c.recs) n ≠ 3) →
      let e := (epochNow s).toNat + 1
      ∃ s', exec .commitApply s = .next s' ∧ Ends s s' c.part key m 0 (2 + 16 * c.slot)
          (if c.part = 8 then (if bit (eFlags m.entry) 0 = true then [] else [(0, 9)]) else [vectorOf s c.part 51]) ∧
        (∀ r ∈ c.recs, reg s' r.1 = reg (putRecs s c.recs) r.1) ∧
        (∀ o, reg s o ≠ reg (putRecs s c.recs) o → (o, reg s o) ∈ s'.prevCfg) ∧
        regF s' oTGCMT 51 48 = e % 16 ∧ regB s' oTGCMT c.slot = false ∧ regF s' (oCMTST c.slot) 63 60 = 2 ∧
        regF s' (oCMTST c.slot) 59 56 = e % 16 ∧ regF s' (oCMTST c.slot) 51 0 = nowStep s ∧ entValid s' (248 + c.slot) = false ∧
        s'.tg.commits = [] ∧ s'.tiles = s.tiles ∧ s'.shelf = s.shelf ∧ s'.dram = s.dram) ∧
    (epochBusy s = true → dueCommits s ≠ [] →
      ∃ s', exec .commitApply s = .next s' ∧ regF s' oTGCMT 47 32 = min 0xFFFF (regF s oTGCMT 47 32 + 1) ∧
        s'.tg = { s.tg with commits := s.tg.commits.map (fun c => if c.step ≤ nowStep s then { c with step := nowStep s + 1 } else c) } ∧
        RegsBut s s' (oTGCMT :: (s.tg.commits.flatMap (fun c => [oENTA (248 + c.slot), oENTB (248 + c.slot)]))) ∧
        { s' with bar0 := s.bar0, tg := s.tg } = s)

/-! ### Surf (chapter 10) -/

/-- IDLE, NAK, CREDIT, HELLO, RETRAIN_REQ and BAD_FRAME on a port that is UP (R259, R263, R267, R273, R275): the acknowledged
frames leave the replay buffer, then the frame does what its type says. On a port that is not UP no frame does anything. -/
def Obligations.SurfReceiving : Prop :=
  ∀ (p dev : Nat) (h : BitVec 48) (pay : List Byte) (s : State),
    (portUp s p = true →
      let d := remoteOf s p dev
      let a := takeAck s p d (hAck h)
      (spaceOf a p d = { spaceOf s p d with replay := (spaceOf s p d).replay.filter (fun f => !seqBefore f.seq (hAck h)) } ∧ PortOnly s a p ∧
        { portOf a p with spaces := (portOf s p).spaces } = portOf s p) ∧
      (hTy h = 0 → pay = [] → exec (.idleF p dev h pay) s = .next a) ∧
      (∀ f, hTy h = 8 → pay = [] → (spaceOf a p d).replay.find? (fun g => g.seq == hSeq h) = some f → f.fresh = false →
        let g : Frame := { f with resends := 0, err := 0 }
        (f.resends < regF s (oLNKCFG p) 34 32 →
          ∃ s', exec (.nak p dev h pay) s = .next s' ∧ PortOnly a s' p ∧ { portOf s' p with ctl := (portOf a p).ctl } = portOf a p ∧
            (portOf s' p).ctl = (portOf a p).ctl ++ (if (d, g) ∈ (portOf a p).ctl then [] else [(d, g)])) ∧
        (regF s (oLNKCFG p) 34 32 ≤ f.resends → exec (.nak p dev h pay) s = .next a)) ∧
      (hTy h = 9 → pay.length = 16 →
        ∃ s', exec (.credit p dev h pay) s = .next s' ∧ PortOnly a s' p ∧ { portOf s' p with back := (portOf a p).back } = portOf a p ∧
          (∀ q < 8, SMap.get 0 (portOf s' p).back (8 * d + q) = eNat pay (2 * q) 2) ∧
          ∀ k, k / 8 ≠ d → SMap.get 0 (portOf s' p).back k = SMap.get 0 (portOf a p).back k) ∧
      (hTy h = 10 → pay.length = 16 →
        let ours := portMode s p ≠ 1 ∨ eNat pay 0 1 = regF s (oLNKCFG p) 63 56 ∧ eNat pay 1 1 = regF s (oLNKCFG p) 55 50
        (ours → ∃ s', exec (.hello p dev h pay) s = .next s' ∧ regF s' (oLNKSTAT p) 63 56 = eNat pay 0 1 ∧
          regF s' (oLNKSTAT p) 55 50 = eNat pay 1 1 % 64 ∧ portState s' p = 2 ∧ RegsBut a s' [oLNKSTAT p] ∧ { s' with bar0 := a.bar0 } = a) ∧
        (¬ ours → NoFrames s p → ∃ s', exec (.hello p dev h pay) s = .next s' ∧ portState s' p = 4 ∧ s'.irqs = s.irqs ++ [(0, 6)] ∧
          RegsBut s s' [oLNKSTAT p] ∧ (∀ q ≠ p, portOf s' q = portOf s q) ∧
          { s' with bar0 := s.bar0, irqs := s.irqs, ports := s.ports } = s)) ∧
      (hTy h = 11 → pay = [] → NoFrames s p →
        ∃ s', exec (.retrainReq p dev h pay) s = .next s' ∧ portState s' p = 3 ∧ s'.irqs = s.irqs ++ [(0, 6)] ∧
          regF s' (oLNKFEC p) 15 0 = min 0xFFFF (regF s (oLNKFEC p) 15 0 + 1) ∧
          Sent a s' p (remoteOf s p 0) (plainFrame 11 0) 0 [] ∧ RegsBut s s' [oLNKSTAT p, oLNKFEC p] ∧
          (∀ q ≠ p, portOf s' q = portOf s q) ∧ { s' with bar0 := s.bar0, irqs := s.irqs, ports := s.ports } = s) ∧
      (∀ why : BadFrame,
        (why = .fec ∨ why = .crc ∨ (∃ t, why = .ty t ∧ (t = 6 ∨ t = 7 ∨ 12 ≤ t)) ∨
            (∃ dst et, why = .eth dst et ∧ portMode s p = 2 ∧ (et ≠ regF s oLNKETH 63 48 ∨ dst ≠ surfMac s (devId s) p)) →
          ∃ s', exec (.badFrame p why) s = .next s' ∧ regF s' (oLNKEVT p) 31 16 = min 0xFFFF (regF s (oLNKEVT p) 31 16 + 1) ∧
            regF s' (oLNKFEC p) 31 16 = (if why = .fec then min 0xFFFF (regF s (oLNKFEC p) 31 16 + 1) else regF s (oLNKFEC p) 31 16) ∧
            regF s' (oLNKFEC p) 63 32 = regF s (oLNKFEC p) 63 32 ∧ regF s' (oLNKFEC p) 15 0 = regF s (oLNKFEC p) 15 0 ∧
            RegsBut s s' [oLNKEVT p, oLNKFEC p] ∧ { s' with bar0 := s.bar0 } = s) ∧
        (frameBad s p why = false → exec (.badFrame p why) s = .next s))) ∧
    (portUp s p = false → ∀ c ∈ [Instr.idleF p dev h pay, .dataF p dev h pay, .openF p dev h pay, .closeF p dev h pay,
      .closeAck p dev h pay, .abandon p dev h pay, .nak p dev h pay, .credit p dev h pay, .hello p dev h pay, .retrainReq p dev h pay,
      .badFrame p .fec, .badFrame p .crc], exec c s = .next s)

/-- DATA, OPEN, CLOSE, CLOSE_ACK and ABANDON on a port that is UP (R262, R263, R266, R270, R271): sequence numbers and NAKs,
frames seen before, frames that wait for their OPEN, the bytes of a sector, the admission of a push and of a pull, and the
end of a transfer on either side. -/
def Obligations.SurfTransfers : Prop :=
  ∀ (p dev : Nat) (h : BitVec 48) (pay : List Byte) (s : State), portUp s p = true →
    let d := remoteOf s p dev
    let n := hSeq h
    let a := takeAck s p d (hAck h)
    let b := noteSeq a p d n
    let x0 := spaceOf a p d
    let gap := (n + 4096 - x0.expect) % 4096
    let waits (s' : State) (ty : Nat) : Prop := { s' with ports := b.ports } = b ∧
      (portOf s' p).ingress = (portOf b p).ingress ++ [(d, ⟨ty, n, hXid h, hIdx h, pay, 0, 0, 0, false, 0⟩)] ∧
      { portOf s' p with ingress := (portOf b p).ingress } = portOf b p
    let acks (s0 s' : State) (q status : Nat) (gaps : List Nat) : Prop := ∃ f, SMap.get [] (portOf s' p).txq q =
      SMap.get [] (portOf s0 p).txq q ++ [(d, f)] ∧ f.ty = 4 ∧ f.xid = hXid h ∧ f.xfer = 0 ∧ eNat f.payload 0 1 = status ∧
      eNat f.payload 1 2 = gaps.length ∧ (gaps ≠ [] → eNat f.payload 4 4 = gaps.foldl min 255)
    (x0.expect < 4096 → x0.beyond = [] → x0.naks = [] → gap < 2048 → PortOnly a b p ∧
      (gap = 0 → spaceOf b p d = { x0 with expect := (n + 1) % 4096 }) ∧
      (0 < gap → spaceOf b p d = { x0 with beyond := [n], naks := (List.range gap).map (fun i => (x0.expect + i) % 4096) } ∧
        ∀ i < gap, (d, plainFrame 8 ((x0.expect + i) % 4096)) ∈ (portOf b p).ctl) ∧
      (portMode s p = 2 → (d, plainFrame 0 0) ∈ (portOf b p).ctl)) ∧
    (seqSeen x0 n = true →
      ∀ e ∈ [(Instr.dataF p dev h pay, 1, 256), (.openF p dev h pay, 2, 16), (.closeF p dev h pay, 3, 16), (.closeAck p dev h pay, 4, 16),
          (.abandon p dev h pay, 5, 0)], hTy h = e.2.1 → pay.length = e.2.2 →
        exec e.1 s = .next (if portMode s p = 2 then addCtl a p d (plainFrame 0 0) else a)) ∧
    (seqSeen x0 n = false →
      (inOf s d (hXid h) = none →
        (hTy h = 1 → pay.length = 256 → ∃ s', exec (.dataF p dev h pay) s = .next s' ∧ waits s' 1) ∧
        (hTy h = 3 → pay.length = 16 → ∃ s', exec (.closeF p dev h pay) s = .next s' ∧ waits s' 3) ∧
        (hTy h = 5 → pay = [] → ∃ s', exec (.abandon p dev h pay) s = .next s' ∧ waits s' 5)) ∧
      (∀ x, inOf s d (hXid h) = some x → (∀ y ∈ s.surf.ins, y.id = x.id → y = x) → x.refused = false → x.closed = none →
        let i := hIdx h
        let lo := if i = 0 then x.head else 0
        let hi := if i + 1 = x.nsec then x.tail else 255
        (hTy h = 1 → pay.length = 256 → i < x.nsec → i ∉ x.done →
          let w := devWrite b (surfWho p x.part) (x.dst + 256 * i + lo) ((pay.drop lo).take (hi + 1 - lo))
          ∃ s', exec (.dataF p dev h pay) s = .next s' ∧
            { s' with ports := w.1.ports, surf := w.1.surf, stalled := w.1.stalled } = w.1 ∧ s'.stalled = s.stalled ∧
            s'.surf = { w.1.surf with ins := w.1.surf.ins.map (fun y => if y.id = x.id then
              { y with done := y.done ++ [i], gaps := y.gaps.filter (· != i) } else y) } ∧
            SMap.get 0 (portOf s' p).freed (8 * d + x.queue % 8) = (SMap.get 0 (portOf w.1 p).freed (8 * d + x.queue % 8) + 1) % 65536 ∧
            (d, plainFrame 9 0) ∈ (portOf s' p).ctl) ∧
        (hTy h = 5 → pay = [] → i < x.nsec → i ∉ x.done → i ∉ x.gaps →
          exec (.abandon p dev h pay) s = .next { b with surf := { b.surf with
            ins := b.surf.ins.map (fun y => if y.id = x.id then { y with gaps := y.gaps ++ [i] } else y) } }) ∧
        (hTy h = 3 → pay.length = 16 → x.prot = false → x.gaps.length < 2 ^ 16 → (∀ j < x.nsec, j ∈ x.done ∨ j ∈ x.gaps) → pullOf s x = none →
          (∀ m ∈ (partOf s x.part).cmds, m.ring = none) →
          ∃ s', exec (.closeF p dev h pay) s = .next s' ∧ s'.surf = { s.surf with ins := s.surf.ins.filter (fun y => y.id != x.id) } ∧
            acks b s' x.queue (if x.gaps = [] then 0 else 2) x.gaps ∧
            { s' with ports := b.ports, surf := b.surf, fresh := b.fresh } = b ∧ ∀ q ≠ p, portOf s' q = portOf s q) ∧
        (hTy h = 3 → pay.length = 16 → (∃ j < x.nsec, j ∉ x.done ∧ j ∉ x.gaps) →
          exec (.closeF p dev h pay) s = .next { b with surf := { b.surf with ins := b.surf.ins.map (fun y => if y.id = x.id then { y with closed := some (BitVec.ofNat 64 (leNat (pay.take 8)), p) } else y) } })) ∧
      (let addr := 256 * eNat pay 0 5
       let nsec := if eNat pay 5 1 = 0 then 256 else eNat pay 5 1
       let q := eNat pay 9 1 % 8
       let part := regF s (oQCFG p q) 2 0
       hTy h = 2 → pay.length = 16 →
        (bit (eNat pay 9 1) 3 = false → (∀ r < surfPorts s.asm, ∀ e ∈ (portOf b r).ingress, ¬ (e.1 = d ∧ e.2.xid = hXid h)) →
          let x (refused : Bool) : XferIn := ⟨s.nextId, p, d, hXid h, addr, nsec, eNat pay 6 1, eNat pay 7 1, q, part, bit (eNat pay 9 1) 4,
            eNat pay 10 2, [], [], none, refused⟩
          let ins := s.surf.ins.filter (fun y => !(y.dev == d && y.xid == hXid h))
          (rangeAdmitted s part addr nsec = true →
            exec (.openF p dev h pay) s = .next { b with nextId := s.nextId + 1, surf := { s.surf with ins := ins ++ [x false] } }) ∧
          (rangeAdmitted s part addr nsec = false →
            ∃ s', exec (.openF p dev h pay) s = .next s' ∧ s'.surf = { s.surf with ins := ins ++ [x true] } ∧ acks b s' q 3 [] ∧
              { s' with ports := b.ports, surf := b.surf, fresh := b.fresh, nextId := b.nextId } = b)) ∧
        (bit (eNat pay 9 1) 3 = true →
          (rangeAdmitted s part addr nsec = true → s.surf.outs = [] → laneSets s d ≠ [] →
            ∃ s' x, exec (.openF p dev h pay) s = .next s' ∧ s'.surf.outs = [x] ∧ x.started = true ∧ x.id = s.nextId ∧ x.dev = d ∧ x.queue = q ∧
              x.src = addr ∧ x.dst = 256 * eNat pay 10 5 ∧ x.nsec = nsec ∧ x.head = eNat pay 6 1 ∧ x.tail = eNat pay 7 1 ∧ x.part = part ∧
              x.pull = false ∧ x.prot = bit (eNat pay 9 1) 4 ∧ x.cmd = none ∧ x.txn = none ∧ x.data = [] ∧ x.lower ∈ laneSets s d ∧ s'.surf.ins = s.surf.ins ∧
              (∃ e ∈ SMap.get [] (portOf s' (endPort s' x)).txq q, e.1 = d ∧ e.2.ty = 2 ∧ e.2.xfer = x.id + 1) ∧
              { s' with ports := s.ports, surf := s.surf, nextId := s.nextId, fresh := s.fresh } = s) ∧
          (rangeAdmitted s part addr nsec = false →
            ∃ s', exec (.openF p dev h pay) s = .next s' ∧ acks b s' q 3 [] ∧ { s' with ports := b.ports, fresh := b.fresh } = b))) ∧
      (∀ y c pp key, hTy h = 4 → pay.length = 16 → s.surf.outs = [y] → y.started = true → y.dev = d → y.xid = hXid h → y.cmd = some (pp, c.id) → y.txn = none →
        InFlight s pp c → CqOpen s pp c.sq key → eOp c.entry = 2 → c.xfers = [y.id] → c.fail = none → c.worst = 0 → c.gaps = 0 →
        let status := eNat pay 0 1
        ∃ s', exec (.closeAck p dev h pay) s = .next s' ∧ s'.surf = { s.surf with outs := [] } ∧
          Ends s s' pp key c (if status = 0 then 0 else 8) (if status = 0 then 0 else status * 2 ^ 28 + eNat pay 1 2) [] ∧
          RegsBut s s' (queueRegs s pp c.sq) ∧
          { s' with ports := s.ports, surf := s.surf, parts := s.parts, bar0 := s.bar0, hostMem := s.hostMem, hostReqs := s.hostReqs,
                    irqs := s.irqs } = s) ∧
      (∀ y z worst, hTy h = 4 → pay.length = 16 → s.surf.outs = [y] → y.started = true → y.dev = d → y.xid = hXid h → y.cmd = none →
        y.txn = some z.id → s.txns = [z] → z.stage = .toPeer 1 worst →
        let status := max worst (eNat pay 0 1)
        ∃ s', exec (.closeAck p dev h pay) s = .next s' ∧ s'.surf = { s.surf with outs := [] } ∧
          s'.txns = [z.reply (nextRep s) none (if status ≤ 1 then .ok else if status = 3 then .decode else .uncorr)] ∧
          { s' with ports := s.ports, surf := s.surf, txns := s.txns } = s))

/-- FRAME_SEND, HELLO_TIMER and RTO_EXPIRY on a port that is UP (R260 to R264, R267, R269, R273): what goes on the wire, the number
and the credit that a new DATA frame takes, a frame sent again, and the one abandoned after RETRY resends; the addresses, the tag
and the EtherType of an Ethernet frame (R261), and the CRC-32 of a native one. -/
def Obligations.SurfSending : Prop :=
  ∀ (p : Nat) (s : State), portUp s p = true → s.stalled = false →
    let y := portOf s p
    (y.ctl = [] → y.txq = [] →
      (portMode s p = 1 → ∃ s', exec (.frameSend p) s = .next s' ∧ Sent s s' p (remoteOf s p 0) (plainFrame 0 0) 0 [] ∧ PortOnly s s' p ∧
        { portOf s' p with sent := y.sent } = y) ∧
      (portMode s p ≠ 1 → exec (.frameSend p) s = .next s)) ∧
    (∀ d f rest, y.ctl = (d, f) :: rest → sequenced f.ty = false →
      ∃ s', exec (.frameSend p) s = .next s' ∧ (portOf s' p).ctl = rest ∧ PortOnly s s' p ∧
        Sent s s' p d f f.seq (if f.ty = 9 then (List.range 8).flatMap (fun q => leBytes 2 (SMap.get 0 y.freed (8 * d + q)))
          else if f.ty = 10 then leBytes 1 (devId s) ++ leBytes 1 p ++ leBytes 1 (regF s oLNKDEV 15 8) ++ leBytes 1 (portMode s p) ++ leBytes 12 0
          else f.payload)) ∧
    (∀ d f g rest, y.ctl = (d, f) :: rest → sequenced f.ty = true → f.seq < 4096 →
      (spaceOf s p d).replay.find? (fun k => k.seq == f.seq) = some g → sequenced g.ty = true → g.fresh = false → g.err = 0 →
      ∃ s', exec (.frameSend p) s = .next s' ∧ (portOf s' p).ctl = rest ∧ Sent s s' p d g g.seq g.payload ∧
        (∃ k, (spaceOf s' p d).replay.find? (fun k => k.seq == f.seq) = some k ∧ k = { g with resends := g.resends + 1 }) ∧
        regF s' (oLNKEVT p) 63 48 = min 0xFFFF (regF s (oLNKEVT p) 63 48 + 1) ∧ RegsBut s s' [oLNKEVT p, oLB (48 + p)] ∧
        { s' with bar0 := s.bar0, irqs := s.irqs, ports := s.ports } = s) ∧
    (∀ d f q x lo hi bs, y.ctl = [] → y.txq = [(q, [(d, f)])] → q < 8 → f.ty = 1 → f.payload = [] → f.xfer = x.id + 1 → outOf s x.id = some x →
      slotted s p = false → creditFor s p d f.queue = true → (spaceOf s p d).replay.length < 2048 →
      lo = (if f.idx = 0 then x.head else 0) → hi = (if f.idx + 1 = x.nsec then x.tail else 255) → lo ≤ hi → hi < 256 →
      (x.data = [] ∧ (∃ key, HostRange s (if x.part = 8 then none else some x.part) (x.src + 256 * f.idx + lo - x.head) (hi + 1 - lo) key ∧
          bs = Mem.read s.hostMem key (hi + 1 - lo)) ∨
        x.data ≠ [] ∧ 256 * f.idx + hi + 1 ≤ x.head + x.data.length ∧ x.head ≤ 256 * f.idx + lo ∧
          bs = (x.data.drop (256 * f.idx + lo - x.head)).take (hi + 1 - lo)) →
      let n := (spaceOf s p d).next
      ∃ s' pay, exec (.frameSend p) s = .next s' ∧ pay.length = 256 ∧ (pay.drop lo).take (hi + 1 - lo) = bs ∧
        (portOf s' p).sent = y.sent ++ [wireFrame s p d (frameHeader f n (spaceOf s p d).expect) pay] ∧ (portOf s' p).txq = [] ∧
        (spaceOf s' p d).next = (n + 1) % 4096 ∧
        (spaceOf s' p d).replay = (spaceOf s p d).replay ++ [{ f with seq := n, fresh := false, payload := pay }] ∧
        SMap.get 0 (portOf s' p).used (8 * d + f.queue % 8) = (SMap.get 0 y.used (8 * d + f.queue % 8) + 1) % 65536 ∧
        (∀ r ≠ p, portOf s' r = portOf s r) ∧ s'.hostMem = s.hostMem ∧ s'.surf = s.surf ∧ s'.parts = s.parts) ∧
    (∀ d f q, y.ctl = [] → y.txq = [(q, [(d, f)])] → q < 8 → f.ty = 1 ∨ f.ty = 2 → slotted s p = true → regB s (oLNKSTAT p) 31 = false → portMode s p = 1 →
      ∃ s', exec (.frameSend p) s = .next s' ∧ (portOf s' p).txq = y.txq ∧ Sent s s' p (remoteOf s p 0) (plainFrame 0 0) 0 [] ∧ PortOnly s s' p) ∧
    (portMode s p = 1 →
      ∃ s', exec (.helloTimer p) s = .next s' ∧ PortOnly s s' p ∧ { portOf s' p with ctl := y.ctl } = y ∧
        (portOf s' p).ctl = y.ctl ++ (if (remoteOf s p 0, plainFrame 10 0) ∈ y.ctl then [] else [(remoteOf s p 0, plainFrame 10 0)])) ∧
    (∀ dev seq,
      let d := remoteOf s p dev
      let x := spaceOf s p d
      (seq ∈ x.naks → ∃ s', exec (.rtoExpiry p dev seq true) s = .next s' ∧ PortOnly s s' p ∧ { portOf s' p with ctl := y.ctl } = y ∧
        (d, plainFrame 8 seq) ∈ (portOf s' p).ctl) ∧
      (∀ f, x.replay.find? (fun f => f.seq == seq) = some f → f.fresh = false → (∀ e ∈ y.ctl, ¬ (e.1 = d ∧ sequenced e.2.ty = true ∧ e.2.seq = seq)) →
        (f.resends < regF s (oLNKCFG p) 34 32 → ∃ s', exec (.rtoExpiry p dev seq false) s = .next s' ∧ PortOnly s s' p ∧
          (∃ e ∈ (portOf s' p).ctl, e.1 = d ∧ e.2.seq = seq ∧ e.2.ty = f.ty) ∧ { portOf s' p with ctl := y.ctl } = y) ∧
        (regF s (oLNKCFG p) 34 32 ≤ f.resends → f.ty = 1 → ∃ s', exec (.rtoExpiry p dev seq false) s = .next s' ∧
          regF s' (oLNKEVT p) 47 32 = min 0xFFFF (regF s (oLNKEVT p) 47 32 + 1) ∧ RegsBut s s' [oLNKEVT p] ∧
          (∃ g, (spaceOf s' p d).replay.find? (fun f => f.seq == seq) = some g ∧ g.ty = 5 ∧ g.xid = f.xid ∧ g.idx = f.idx ∧
            (d, g) ∈ (portOf s' p).ctl) ∧
          (∀ q ≠ p, portOf s' q = portOf s q) ∧ { s' with bar0 := s.bar0, ports := s.ports } = s))) ∧
    (∀ d head pay,
      let f := wireFrame s p d head pay
      let mac (dev port : Nat) : Nat := 0x024E_4D00_0000 + regF s oLNKDEV 15 8 * 2 ^ 16 + dev % 256 * 2 ^ 8 + port % 256
      f.dev = d ∧ f.head = head ∧ f.pay = pay ∧
      (portMode s p = 2 → ∃ e, f.eth = some e ∧ e.dst = mac d (Config.routePort d).toNat ∧ e.src = mac (devId s) p ∧
        e.etype = regF s oLNKETH 63 48 ∧
        e.tag = if regB s oLNKETH 44 = true then some (regF s oLNKETH 47 45 * 2 ^ 13 + regF s oLNKETH 43 32) else none) ∧
      (portMode s p ≠ 2 → f.eth = none ∧ f.crc = frameCrc ((leBytes 6 head).reverse ++ pay)))

/-- TRAINING_END, BLOCK_LOCK_LOSS, FEC_ERROR_RATIO, LNK_RETRAIN and LNK_RESET (R273 to R277, R370): the states a port takes, each
change signalled on PF vector 6; three failed full trainings lead to OUT; a reset clears the counters and the frames. -/
def Obligations.PortEvents : Prop :=
  ∀ (p : Nat) (s : State), p < surfPorts s.asm →
    let rest (s' : State) (l : List Nat) : Prop := RegsBut s s' l ∧ (∀ q ≠ p, portOf s' q = portOf s q) ∧
      { s' with bar0 := s.bar0, irqs := s.irqs, ports := s.ports } = s
    (portHeld s p = false → portState s p = 1 ∨ portState s p = 3 →
      ((portOf s p).full = false → ∃ s', exec (.trainingEnd p .failed) s = .next s' ∧ portOf s' p = { portOf s p with full := true } ∧
        s'.irqs = s.irqs ∧ rest s' []) ∧
      ((portOf s p).full = true → ∃ s', exec (.trainingEnd p .failed) s = .next s' ∧
        portOf s' p = { portOf s p with fails := (portOf s p).fails + 1 } ∧
        portState s' p = (if (portOf s p).fails + 1 < 3 then portState s p else 5) ∧
        s'.irqs = s.irqs ++ (if (portOf s p).fails + 1 < 3 then [] else [(0, 6)]) ∧ rest s' [oLNKSTAT p]) ∧
      (∀ d q eq, portMode s p = 1 → d < 256 → q < 64 →
        let kept : Headland := if (portOf s p).full = true then { s.head with training := SMap.set [] s.head.training p eq } else s.head
        (d = regF s (oLNKCFG p) 63 56 ∧ q = regF s (oLNKCFG p) 55 50 → s.surf.outs = [] →
          ∃ s', exec (.trainingEnd p (.locked d q eq)) s = .next s' ∧ portState s' p = 2 ∧ regF s' (oLNKSTAT p) 63 56 = d ∧
            regF s' (oLNKSTAT p) 55 50 = q ∧ (portOf s' p).fails = 0 ∧ (d, plainFrame 10 0) ∈ (portOf s' p).ctl ∧
            s'.irqs = s.irqs ++ [(0, 6)] ∧ s'.head = kept ∧ rest { s' with head := s.head } [oLNKSTAT p]) ∧
        (¬ (d = regF s (oLNKCFG p) 63 56 ∧ q = regF s (oLNKCFG p) 55 50) →
          ∃ s', exec (.trainingEnd p (.locked d q eq)) s = .next s' ∧ portState s' p = 4 ∧ (portOf s' p).ctl = (portOf s p).ctl ∧
            s'.irqs = s.irqs ++ [(0, 6)] ∧ s'.head = kept ∧ rest { s' with head := s.head } [oLNKSTAT p]))) ∧
    (portUp s p = true → NoFrames s p →
      ∃ s', exec (.blockLockLoss p) s = .next s' ∧ portState s' p = 3 ∧
        regF s' (oLNKFEC p) 15 0 = min 0xFFFF (regF s (oLNKFEC p) 15 0 + 1) ∧ s'.irqs = s.irqs ++ [(0, 6)] ∧ rest s' [oLNKSTAT p, oLNKFEC p]) ∧
    (portUp s p = false → exec (.blockLockLoss p) s = .next s) ∧
    (∀ corr high, portMode s p ≠ 0 →
      let n := min 0xFFFF_FFFF (regF s (oLNKFEC p) 63 32 + corr)
      (high = false ∨ portUp s p = false → ∃ s', exec (.fecErrorRatio ⟨p, corr, high⟩) s = .next s' ∧ regF s' (oLNKFEC p) 63 32 = n ∧
        regF s' (oLNKFEC p) 31 0 = regF s (oLNKFEC p) 31 0 ∧ RegsBut s s' [oLNKFEC p] ∧ { s' with bar0 := s.bar0 } = s) ∧
      (high = true → portUp s p = true → NoFrames s p → ∃ s', exec (.fecErrorRatio ⟨p, corr, high⟩) s = .next s' ∧ portState s' p = 3 ∧
        regF s' (oLNKFEC p) 63 32 = n ∧ regF s' (oLNKFEC p) 15 0 = min 0xFFFF (regF s (oLNKFEC p) 15 0 + 1) ∧
        s'.irqs = s.irqs ++ [(0, 6)] ∧ rest s' [oLNKSTAT p, oLNKFEC p])) ∧
    (∀ fn ≠ 0, exec (.lnkRetrain fn p) s = .next s ∧ exec (.lnkReset fn p) s = .next s) ∧
    (canWrite s 0 (lnkBase p + 0x10) = true →
      (portState s p = 5 → isOut s (.port p) = false →
        ∃ s', exec (.lnkRetrain 0 p) s = .next s' ∧ portState s' p = 1 ∧ (portOf s' p).fails = 0 ∧ s'.irqs = s.irqs ++ [(0, 6)] ∧
          rest s' [oLNKSTAT p]) ∧
      (portState s p = 5 → isOut s (.port p) = true → exec (.lnkRetrain 0 p) s = .next s) ∧
      (portUp s p = true → NoFrames s p →
        ∃ s', exec (.lnkRetrain 0 p) s = .next s' ∧ portState s' p = 3 ∧ Sent s s' p (remoteOf s p 0) (plainFrame 11 0) 0 [] ∧
          regF s' (oLNKFEC p) 15 0 = min 0xFFFF (regF s (oLNKFEC p) 15 0 + 1) ∧ s'.irqs = s.irqs ++ [(0, 6)] ∧
          rest s' [oLNKSTAT p, oLNKFEC p]) ∧
      (NoFrames s p → portState s p ∈ [1, 2, 3] → NoEscalation s → genBusy s (.port p) = false → (∀ x ∈ s.txns, x.ledger = 0) →
        (∀ b ∈ s.ras.bists, b.unit ≠ 48 + p) →
        ∃ s', exec (.lnkReset 0 p) s = .next s' ∧ portState s' p = 3 ∧ reg s' (oLNKEVT p) = 0 ∧ reg s' (oLNKFEC p) = 0 ∧
          genOf s' (.port p) = genOf s (.port p) + 1 ∧ ResetDomain.port p ∈ s'.resetting ∧
          portOf s' p = { Port.reset with
            fails := (portOf s p).fails
            full := !(SMap.get [] s.head.training p != [])
            slotAt := (portOf s p).slotAt
            sent := (portOf s p).sent } ∧
          s'.irqs = s.irqs ++ (if portState s p = 3 then [] else [(0, 6)]) ∧
          RegsBut s s' [oLNKSTAT p, oLNKEVT p, oLNKFEC p, oBWREVT] ∧ (∀ q ≠ p, portOf s' q = portOf s q) ∧ s'.tiles = s.tiles ∧ s'.shelf = s.shelf))

/-! ### Check-value units (chapter 13) -/

/-- CVU_SCAN, CVU_SCAN_DONE, CVU_TRANSFER_CHECK and CLRSTRM (R347 to R352): a scan reads its result block and runs; at its end the
check value, the result of the comparison and of the alive-counter rule stand in the result block and the command
completes; a protected transfer ends with status 0 or 1. -/
def Obligations.CheckValues : Prop :=
  (∀ (p sq blk : Nat) (e : SqEntry) (s : State), CanStart s p sq e → p ≠ 8 → eOp e.bytes = 5 → scanEntryOk s e.bytes = true →
    HostRange s (some p) (eNat e.bytes 40 6) 64 blk →
    let ch := eNat e.bytes 32 1
    let b := Mem.read s.hostMem blk 64
    let mode := eNat b 0 1
    scansOf s ch = [] → ¬ (bit mode 1 = true ∧ (bit mode 2 = true ∨ bit mode 3 = true)) →
      ∃ s' c, exec (.cvuScan p sq) s = .next s' ∧ StartsAs s s' p sq e c ∧ c.args = b ∧ scansOf s' ch = [(p, c.id)] ∧
        RegsBut s s' (oBWRCNT p 5 :: queueRegs s p sq) ∧
        { s' with parts := s.parts, bar0 := s.bar0, ras := s.ras, hostReqs := s.hostReqs } = s) ∧
  (∀ (ch p a0 blk key : Nat) (c : Cmd) (s : State), s.stalled = false → cvuFitted s.asm ch = true → p ≠ 8 → scansOf s ch = [(p, c.id)] → InFlight s p c →
    CqOpen s p c.sq key → c.args ≠ [] →
    let n := eNat c.entry 24 8
    HostRange s (some p) (eNat c.entry 16 6) n a0 → HostRange s (some p) (eNat c.entry 40 6) 64 blk →
    let b := c.args
    let mode := eNat b 0 1
    let f := profileOf s ch
    let run := f.run (scanFrom s ch f b) (Mem.read s.hostMem a0 n)
    let cv := if bit mode 1 = true then run else f.final run
    let k := 8 * p + eNat b 1 1 % 8
    let old := scanStream s ch k
    let wrong := bit mode 1 = false ∧ bit mode 2 = true ∧ cv ≠ eNat b 16 8
    let alive := bit mode 1 = false ∧ bit mode 3 = true ∧ ¬ wrong
    let r := aliveStep (regF s (oCVCFG ch) 52 48) old (eNat b 2 2) (some (BitVec.ofNat 64 cv))
    old.err = 0 →
    let out (res gaps : Nat) := Mem.write (Mem.write s.hostMem (blk + 24) (leBytes 8 cv ++ leBytes 1 res)) (blk + 34) (leBytes 2 gaps)
    ∃ s' res gaps, exec (.cvuScanDone ch) s = .next s' ∧
      (wrong → res = 1 ∧ gaps = old.gaps ∧ regF s' (oCVSTAT ch) 47 32 = min 0xFFFF (regF s (oCVSTAT ch) 47 32 + 1)) ∧
      (alive → res = r.2.code ∧ gaps = r.1.gaps ∧ scanStream s' ch k = r.1) ∧
      (¬ wrong → ¬ alive → res = 0 ∧ gaps = old.gaps) ∧ (¬ alive → scanStream s' ch k = old) ∧
      reg s' (oCVRUN ch) = BitVec.ofNat 64 run ∧ scansOf s' ch = [] ∧
      Ends { s with hostMem := Mem.write (out res gaps) (blk + 40) (leBytes 8 n) } s' p key c 0 0 [] ∧
      RegsBut s s' ([oCVRUN ch, oCVSTAT ch, oCVEVT ch, oBWRCNT p 5] ++ queueRegs s p c.sq) ∧
      { s' with parts := s.parts, bar0 := s.bar0, hostMem := s.hostMem, hostReqs := s.hostReqs, irqs := s.irqs, ras := s.ras } = s) ∧
  (∀ (x : XferIn) (cv : BitVec 64) (port : Nat) (s : State), s.surf.ins.find? (fun y => y.id == x.id) = some x → x.closed = some (cv, port) →
    x.prot = true → x.gaps = [] → x.refused = false → (∀ j < x.nsec, j ∈ x.done) → pullOf s x = none →
    let r := readWritten s port x
    let ch := servingChannel s port
    let good := r.2.2.st = .ok ∧ BitVec.ofNat 64 ((profileOf s ch).check r.2.1) = cv
    let old := SMap.get Stream.reset r.1.ras.surf (surfKey x)
    let a := aliveStep (regF r.1 oCVSURF 52 48) old x.ctr (some cv)
    (r.1.stalled = true → exec (.cvuTransferCheck x.id) s = .next s) ∧
    (r.1.stalled = false → old.err = 0 → ∃ s' f, exec (.cvuTransferCheck x.id) s = .next s' ∧
      s'.surf.ins = r.1.surf.ins.filter (fun y => y.id != x.id) ∧
      SMap.get [] (portOf s' port).txq x.queue = SMap.get [] (portOf r.1 port).txq x.queue ++ [(x.dev, f)] ∧ f.ty = 4 ∧ f.xid = x.xid ∧
      eNat f.payload 0 1 = (if good ∧ (a.2 = .ok ∨ a.2 = .sameCtr) then 0 else 1) ∧ eNat f.payload 1 2 = 0 ∧
      (¬ good → regF s' (oCVSTAT ch) 47 32 = min 0xFFFF (regF r.1 (oCVSTAT ch) 47 32 + 1) ∧ s'.ras = r.1.ras) ∧
      (good → s'.ras = { r.1.ras with surf := SMap.set Stream.reset r.1.ras.surf (surfKey x) a.1 }) ∧
      RegsBut r.1 s' [oCVSTAT ch, oCVEVT ch] ∧
      { s' with ports := s.ports, surf := s.surf, bar0 := s.bar0, ras := s.ras, fresh := s.fresh } =
        { r.1 with ports := s.ports, surf := s.surf, bar0 := s.bar0, ras := s.ras, fresh := s.fresh })) ∧
  (∀ (fn : Nat) (s : State),
    (fn = 0 → canWrite s 0 oCVSURF = true →
      exec (.clrstrm fn) s = .next { s with ras := { s.ras with surf := [] }, surf := { s.surf with sendCtr := [] } }) ∧
    (fn ≠ 0 → exec (.clrstrm fn) s = .next s))

/-! ### The host interface (chapter 11) -/

/-- SQ_DOORBELL, CQ_DOORBELL, SQ_ENTRY_FETCH, BAR2_READ and BAR2_WRITE (R283, R289 to R291, R302): the tail and head indices and
their errors, waiting completions, the fetched entry, a cancelled entry, and accesses through the BAR2 window. -/
def Obligations.QueueTraffic : Prop :=
  ∀ (s : State), s.stalled = false →
    (∀ fn p q v, queueFitted s p q = true → canWrite s fn (queuePage p + 0x8000 + 8 * q) = true → sqLive s p q = true →
      let d := depthOf (regF s (oSQB p q) 51 48)
      let head := regF s (oSQB p q) 27 16
      let old := tailAt s p q
      let new := fld v 11 0
      let bad := d ≤ new ∨ d - 1 < (old + d - head) % d + (new + d - old) % d
      (¬ bad → ∃ s', exec (.sqDoorbell fn p q v) s = .next s' ∧ tailAt s' p q = new ∧ (∀ j ≠ q, tailAt s' p j = tailAt s p j) ∧
        { partOf s' p with tails := (partOf s p).tails } = partOf s p ∧ (∀ u ≠ p, partOf s' u = partOf s u) ∧ { s' with parts := s.parts } = s) ∧
      (bad → ∃ s', exec (.sqDoorbell fn p q v) s = .next s' ∧ regB s' (oSQB p q) 63 = false ∧ regB s' (oSQB p q) 61 = true ∧
        RegsBut s s' [oSQB p q] ∧ { s' with bar0 := s.bar0 } = s)) ∧
    (∀ fn p q v, queueFitted s p q = true → canWrite s fn (queuePage p + 0x8100 + 8 * q) = true → regB s (oCQB p q) 63 = true → regB s (oCQB p q) 62 = false →
      let d := depthOf (regF s (oCQB p q) 43 40)
      let tail := regF s (oCQB p q) 27 16
      let old := SMap.get 0 (partOf s p).heads q
      let new := fld v 11 0
      let bad := d ≤ new ∨ (tail + d - old) % d < (new + d - old) % d
      let x : Part := { partOf s p with heads := SMap.set 0 (partOf s p).heads q new }
      (bad → ∃ s', exec (.cqDoorbell fn p q v) s = .next s' ∧ regB s' (oCQB p q) 63 = false ∧ regB s' (oCQB p q) 62 = true ∧
        RegsBut s s' [oCQB p q] ∧ { s' with bar0 := s.bar0 } = s) ∧
      (¬ bad → (∀ j, entriesOf s p j = []) → p = 8 ∨ pState s p = 2 → (partOf s p).quarantine = false →
        ((∀ w ∈ (partOf s p).waiting, w.1 ≠ q) → exec (.cqDoorbell fn p q v) s = .next (setPart s p x)) ∧
        (∀ sq b irq key, (partOf s p).waiting = [(q, b, irq)] → b.length = 32 → cqOf s p sq = q → cqRoom (setPart s p x) p q = true →
          let a := (reg s (oCQA p q)).toNat + 32 * tail
          a % 32 = 0 → routeOf s (if p = 8 then none else some p) a = .host key →
          ∃ s', exec (.cqDoorbell fn p q v) s = .next s' ∧ Completed (setPart s p x) s' p sq key b irq [] ∧ (partOf s' p).waiting = [] ∧
            RegsBut s s' (queueRegs s p sq)))) ∧
    (∀ p q base, queueFitted s p q = true → sqLive s p q = true → mayFetch s p = true → fetchAt s p q ≠ tailAt s p q → (∀ j, entriesOf s p j = []) →
      let i := fetchAt s p q
      let d := depthOf (regF s (oSQB p q) 51 48)
      let e : SqEntry := ⟨i, Mem.read s.hostMem base 128⟩
      HostRange s (if p = 8 then none else some p) ((reg s (oSQA p q)).toNat + 128 * i) 128 base →
      ((partOf s p).marks = [] → opAccepted p (eOp e.bytes) = true →
        ∃ s', exec (.sqEntryFetch p q) s = .next s' ∧ entriesOf s' p q = [e] ∧ fetchAt s' p q = (i + 1) % d ∧ regF s' (oSQB p q) 27 16 = i % 2 ^ 12 ∧
          (∀ j ≠ q, entriesOf s' p j = [] ∧ fetchAt s' p j = fetchAt s p j) ∧ (partOf s' p).cmds = (partOf s p).cmds ∧
          RegsBut s s' [oSQB p q, oBWRCNT p 3] ∧ { s' with parts := s.parts, bar0 := s.bar0, hostReqs := s.hostReqs } = s) ∧
      (∀ key, (partOf s p).marks = [(q, i)] → CqOpen s p q key →
        ∃ s', exec (.sqEntryFetch p q) s = .next s' ∧ (partOf s' p).marks = [] ∧ fetchAt s' p q = (i + 1) % d ∧ entriesOf s' p q = [] ∧
          Completed s s' p q key (cqEntry s q i e.bytes 1 0 false (timeoutOf s p e.bytes).isNone) (bit (eFlags e.bytes) 0) [] ∧
          (partOf s' p).cmds = (partOf s p).cmds ∧ OnlyQueue s s' p q)) ∧
    (∀ fn off len t o, bar2Ok s fn off len = true → 0 < len →
      let w := bar2Who fn
      let a := bar2Base s fn + off
      (∀ i < len, routeOf s w.p (a + i) = .window t (o + i)) → (tileOf s t).memErr = [] → bankInBist s t = false →
        ∃ s', exec (.bar2Read fn off len) s = .next s' ∧ s'.hostReads = s.hostReads ++ [(fn, Mem.read (tileOf s t).mem o len)] ∧
          RegsBut s s' [oBWRCNT w.cnt 3] ∧ { s' with hostReads := s.hostReads, bar0 := s.bar0 } = s) ∧
    (∀ fn off bs t o, bar2Ok s fn off bs.length = true →
      let w := bar2Who fn
      let a := bar2Base s fn + off
      (∀ i < bs.length, routeOf s w.p (a + i) = .window t (o + i)) → (tileOf s t).memErr = [] → bankInBist s t = false →
        ∃ s', exec (.bar2Write fn off bs) s = .next s' ∧
          (∀ b, Mem.byte (tileOf s' t).mem b = if o ≤ b ∧ b < o + bs.length then bs.getD (b - o) 0 else Mem.byte (tileOf s t).mem b) ∧
          { tileOf s' t with mem := (tileOf s t).mem } = tileOf s t ∧ (∀ u ≠ t, tileOf s' u = tileOf s u) ∧
          RegsBut s s' [oBWRCNT w.cnt 3] ∧ { s' with tiles := s.tiles, bar0 := s.bar0 } = s) ∧
    (∀ fn off, bar2Ok s fn off 1 = true → bar2Target s (bar2Base s fn + off) = false → regB s oRASDECODE 63 = false →
      (∃ s', exec (.bar2Read fn off 1) s = .next s' ∧ s'.hostReads = s.hostReads ++ [(fn, [0])] ∧ regB s' oRASDECODE 63 = true ∧
        regF s' oRASDECODE 47 0 = (bar2Base s fn + off) % 2 ^ 48 ∧ RegsBut s s' [oRASDECODE]) ∧
      (∀ b, ∃ s', exec (.bar2Write fn off [b]) s = .next s' ∧ regB s' oRASDECODE 63 = true ∧ RegsBut s s' [oRASDECODE] ∧
        { s' with bar0 := s.bar0 } = s))

/-- START, STOP, RESUME, HANG, CANCEL, COMMAND_TIMEOUT and WATCHDOG_TEST (R287, R297, R298, R300 to R302, Table 11.4): each
moves the partition from the state that its row of the table names and does nothing in another state; an engine fault
completes the expired command with status 2 and the others with 3, records the cause and signals vector 48; the two counters of
a command move together, expire together, and are a self-fault when they differ. -/
def Obligations.PartitionControl : Prop :=
  ∀ (fn p : Nat) (s : State), p < 8 → p < totalVFs s.asm → (∀ j, entriesOf s p j = []) → (partOf s p).quarantine = false →
    let only (s' : State) : Prop := RegsBut s s' [oPSTAT p] ∧ { s' with bar0 := s.bar0 } = s ∧
      regF s' (oPSTAT p) 63 3 = regF s (oPSTAT p) 63 3
    (canWrite s fn (hstPage p) = true →
      (pState s p = 1 → entryPending s p = false → p = 0 ∨ regB s oTHMSTAT 63 = false →
        ∃ s', exec (.start fn p) s = .next s' ∧ pState s' p = 2 ∧ only s') ∧
      (pState s p ≠ 1 ∨ entryPending s p = true → exec (.start fn p) s = .next s) ∧
      (pState s p = 2 → ∃ s', exec (.stop fn p) s = .next s' ∧ pState s' p = (if (partOf s p).cmds = [] then 1 else 3) ∧ only s') ∧
      (pState s p ≠ 2 → exec (.stop fn p) s = .next s) ∧
      (pState s p = 5 → ∃ s', exec (.resume fn p) s = .next s' ∧ pState s' p = 2 ∧ only s') ∧
      (pState s p ≠ 5 → exec (.resume fn p) s = .next s)) ∧
    (canWrite s fn (hstPage p + 0x18) = true → pState s p = 2 ∨ pState s p = 3 → (partOf s p).cmds = [] → NoEscalation s →
      ∃ s', exec (.hang fn p) s = .next s' ∧ pState s' p = 4 ∧ regB s' (oFAULT p) 63 = true ∧ regF s' (oFAULT p) 43 40 = 2 ∧
        s'.irqs = s.irqs ++ [vectorOf s p 48] ∧ s'.head.replays = s.head.replays ++ [p] ∧
        (∃ r, (partOf s' p).replay = some r ∧ r.cause = 2 ∧ r.ctxs = [] ∧ r.running = false) ∧ RegsBut s s' [oPSTAT p, oFAULT p] ∧
        { s' with bar0 := s.bar0, parts := s.parts, irqs := s.irqs, head := s.head } = s) ∧
    (∀ c a b, (partOf s p).cmds = [c] → c.timeout.isSome = true →
      (a ≠ b → ∃ s', exec (.commandTimeout p ⟨c.id, a, b⟩) s = .next s' ∧ regB s' (oPSTAT p) 8 = true ∧ regB s' (oPSTAT p) 9 = true ∧
        s'.irqs = s.irqs ++ [vectorOf s p 49] ∧ (partOf s' p).cmds = [{ c with timeout := none }] ∧ RegsBut s s' [oPSTAT p] ∧
        { s' with bar0 := s.bar0, parts := s.parts, irqs := s.irqs } = s) ∧
      (a = b → a ≠ 0 → ∃ s', exec (.commandTimeout p ⟨c.id, a, b⟩) s = .next s' ∧ (partOf s' p).cmds = [{ c with cntA := a, cntB := a }] ∧
        { partOf s' p with cmds := (partOf s p).cmds } = partOf s p ∧ (∀ u ≠ p, partOf s' u = partOf s u) ∧ { s' with parts := s.parts } = s)) ∧
    (∀ c key, (partOf s p).cmds = [c] → c.timeout.isSome = true → c.idx < 2 ^ 12 → pState s p = 2 ∨ pState s p = 3 → NoEscalation s → CqOpen s p c.sq key →
      c.fault = none → (∀ t ∈ c.reports, storesOpen s t p c.id = false) →
      ∃ s', exec (.commandTimeout p ⟨c.id, 0, 0⟩) s = .next s' ∧ pState s' p = 4 ∧ regF s' (oFAULT p) 43 40 = 1 ∧
        regF s' (oFAULT p) 35 32 = c.sq % 16 ∧ (partOf s' p).cmds = [] ∧
        Completed s s' p c.sq key (cqEntry s c.sq c.idx c.entry 2 0 c.late false) (bit (eFlags c.entry) 0) [vectorOf s p 48] ∧
        RegsBut s s' (oFAULT p :: queueRegs s p c.sq)) ∧
    (partValid s p = true →
      (∃ s', exec (.watchdogTest p false) s = .next s' ∧ regB s' (oPSTAT p) 8 = true ∧ regB s' (oPSTAT p) 9 = true ∧
        s'.irqs = s.irqs ++ [vectorOf s p 49] ∧ (∀ c ∈ (partOf s' p).cmds, c.timeout = none) ∧ RegsBut s s' [oPSTAT p] ∧
        { s' with bar0 := s.bar0, parts := s.parts, irqs := s.irqs } = s) ∧
      ((∃ c ∈ (partOf s p).cmds, c.timeout.isSome = true ∧ c.cntA ≠ c.cntB) → exec (.watchdogTest p true) s = exec (.watchdogTest p false) s) ∧
      ((∀ c ∈ (partOf s p).cmds, c.cntA = c.cntB) → exec (.watchdogTest p true) s = .next s)) ∧
    (∀ v, canWrite s fn (hstPage p + 0x20) = true →
      let sq := fld v 19 16
      let idx := fld v 11 0
      let r := cancelResult s p sq idx
      (r = 3 → ∃ s', exec (.cancel fn p v) s = .next s' ∧ regF s' (oCANCEL p) 63 60 = 3 ∧ RegsBut s s' [oCANCEL p] ∧ { s' with bar0 := s.bar0 } = s) ∧
      (∀ c, r = 2 → (partOf s p).cmds = [c] → c.sq = sq → c.idx = idx → (partOf s p).waiting = [] →
        ∃ s', exec (.cancel fn p v) s = .next s' ∧ regF s' (oCANCEL p) 63 60 = 2 ∧ (partOf s' p).cmds = [{ c with late := true }] ∧
          RegsBut s s' [oCANCEL p] ∧ { s' with bar0 := s.bar0, parts := s.parts } = s) ∧
      (r = 1 → (sq, idx) ∉ (partOf s p).marks →
        ∃ s', exec (.cancel fn p v) s = .next s' ∧ regF s' (oCANCEL p) 63 60 = 1 ∧ (partOf s' p).marks = (partOf s p).marks ++ [(sq, idx)] ∧
          RegsBut s s' [oCANCEL p] ∧ { s' with bar0 := s.bar0, parts := s.parts } = s))

/-- LAUNCH, COPY, SCRUB, FENCE_COMMAND, PIN, UNPIN and NOTE at their start (R126, R127, R178, R290, R292, R293, R336, Table 11.6): an
entry that is not valid completes with status 4; a LAUNCH sets out for its tiles; a COPY within host memory moves its
bytes, one to a peer becomes a transfer or ends with status 8; a SCRUB reports what it found; a FENCE waits for the
commands before it; PIN and UNPIN set and clear the bit of a line. -/
def Obligations.QueueCommands : Prop :=
  ∀ (p sq key : Nat) (e : SqEntry) (s : State), CanStart s p sq e → p ≠ 8 →
    let b := e.bytes
    let host := HostRange s (some p)
    let range (n lam : Nat) : Prop := eNat b 24 8 = 2048 * n ∧ eNat b 16 6 = 2048 * lam
    (CqOpen s p sq key → ∀ x ∈ ([(.launch p sq, 1, launchEntryOk s p b = false), (.copy p sq, 2, copyEntryOk b = false),
        (.attnBatch p sq, 3, batchEntryOk s p b = false ∧ batchWaits s e = false), (.scrub p sq, 4, scrubEntryOk s p b = false),
        (.cvuScan p sq, 5, scanEntryOk s b = false), (.fenceCommand p sq, 6, flagsOk b = false), (.pin p sq, 8, pinEntryOk s p b = false),
        (.unpin p sq, 9, pinEntryOk s p b = false), (.note p sq, 10, flagsOk b = false)] : List (Instr × Nat × Prop)), eOp b = x.2.1 → x.2.2 →
      ∃ s', exec x.1 s = .next s' ∧ StartsAndCompletes s s' p sq key e 4 0 [] ∧ OnlyQueue s s' p sq) ∧
    (∀ ki ka, eOp b = 1 → launchEntryOk s p b = true → launchHeld p s e = false →
      let h := Mem.read s.hostMem ki 128
      imageOk h (eNat b 40 4) = true → (∀ t ∈ entryRect b 24, ∀ q ∈ iApplied h, ringBusy s t q = false) →
      host (eNat b 16 6) (imageLen h) ki → host (eNat b 32 6) (eNat b 40 4) ka →
      ∃ s' c, exec (.launch p sq) s = .next s' ∧ StartsAs s s' p sq e c ∧ c.loads = entryRect b 24 ∧ c.reports = entryRect b 24 ∧
        c.image = Mem.read s.hostMem ki (imageLen h) ∧ c.args = Mem.read s.hostMem ka (eNat b 40 4) ∧
        RegsBut s s' (queueRegs s p sq) ∧ { s' with parts := s.parts, bar0 := s.bar0, hostReqs := s.hostReqs } = s) ∧
    (∀ ka kb, eOp b = 2 → copyEntryOk b = true → CqOpen s p sq key → host (copySrc b) (copyLen b) ka → host (copyDst b) (copyLen b) kb →
      let s1 := { s with hostMem := Mem.write s.hostMem kb (Mem.read s.hostMem ka (copyLen b)) }
      ∃ s', exec (.copy p sq) s = .next s' ∧ StartsAndCompletes s1 s' p sq key e 0 0 [] ∧ OnlyQueue s1 s' p sq) ∧
    (∀ d off k1, eOp b = 2 → copyEntryOk b = true → routeOf s (some p) (copySrc b) = .host k1 → routeOf s (some p) (copyDst b) = .remote d off →
      s.surf.outs = [] → (partOf s p).quarantine = false →
      (laneSets s d = [] → CqOpen s p sq key → ∃ s', exec (.copy p sq) s = .next s' ∧ StartsAndCompletes s s' p sq key e 8 (3 * 2 ^ 28) [] ∧
        RegsBut s s' (queueRegs s p sq) ∧ s'.surf.outs = [] ∧ s'.tiles = s.tiles ∧ s'.shelf = s.shelf) ∧
      (laneSets s d ≠ [] → copyLen b ≤ 256 → ∃ s' c x, exec (.copy p sq) s = .next s' ∧ StartsAs s s' p sq e c ∧ c.xfers = [x.id] ∧
        s'.surf.outs = [x] ∧ x.dev = d ∧ x.queue = p ∧ x.src = copySrc b ∧ x.dst = off / 256 * 256 ∧ x.head = off % 256 ∧
        x.tail = (off + copyLen b - 1) % 256 ∧ x.nsec = (off % 256 + copyLen b + 255) / 256 ∧ x.pull = false ∧ x.started = true ∧
        x.lower ∈ laneSets s d ∧ x.cmd = some (p, c.id) ∧ RegsBut s s' (queueRegs s p sq) ∧
        { s' with parts := s.parts, bar0 := s.bar0, ports := s.ports, surf := s.surf, nextId := s.nextId, fresh := s.fresh } = s)) ∧
    (∀ kb, eOp b = 4 → scrubEntryOk s p b = true → eNat b 32 1 = 0 → CqOpen s p sq key → host (eNat b 40 6) 320 kb → s.fills = [] →
      (∀ i, (ctrlOf s i).queue = []) →
      let n := eNat b 24 8 / 256
      (∀ i < n, CleanGran s (eNat b 16 6 / 256 + i) ∧ granHeld s (eNat b 16 6 / 256 + i) = false) →
      let s1 := { s with hostMem := Mem.write s.hostMem kb (leBytes 8 (4 * n) ++ leBytes 312 0) }
      ∃ s', exec (.scrub p sq) s = .next s' ∧ StartsAndCompletes s1 s' p sq key e 0 0 [] ∧
        RegsBut s s' (oBWRCNT p 5 :: queueRegs s p sq) ∧
        { s' with parts := s.parts, bar0 := s.bar0, hostMem := s.hostMem, hostReqs := s.hostReqs, irqs := s.irqs } = s) ∧
    (eOp b = 6 → flagsOk b = true → restZero b [(0, 17)] = true → eNat b 16 1 < 2 →
      let l := ((partOf s p).cmds.filter (fun d => decide (eNat b 16 1 = 1) || d.sq == sq)).map (·.id)
      (l = [] → CqOpen s p sq key → ∃ s', exec (.fenceCommand p sq) s = .next s' ∧ StartsAndCompletes s s' p sq key e 0 0 [] ∧ OnlyQueue s s' p sq) ∧
      (l ≠ [] → ∃ s' c, exec (.fenceCommand p sq) s = .next s' ∧ StartsAs s s' p sq e c ∧ c.awaits = l ∧ RegsBut s s' (queueRegs s p sq) ∧
        { s' with parts := s.parts, bar0 := s.bar0 } = s)) ∧
    (eOp b = 10 → flagsOk b = true → restZero b [(0, 16)] = true → CqOpen s p sq key →
      ∃ s', exec (.note p sq) s = .next s' ∧ StartsAndCompletes s s' p sq key e 0 0 [] ∧ OnlyQueue s s' p sq) ∧
    (∀ lam st k ky, pinEntryOk s p b = true → range 1 lam → CqOpen s p sq key → WholeLine s lam st k ky → st < 12 → k < 16 →
      let x := sliceOf s st k
      let others (s' : State) : Prop := (∀ j ≠ ky, lineAt (sliceOf s' st k) j = lineAt x j) ∧
        RegsBut s s' ([oBWRCNT p 3, oSHFCNT st k 0] ++ queueRegs s p sq) ∧ s'.dram = s.dram ∧ s'.tiles = s.tiles
      (eOp b = 8 →
        ((lineAt x ky).pinned = true ∨ pinnedIn x (lineSet lam) < regF s (oSHFCFG st) 11 8 →
          ∃ s', exec (.pin p sq) s = .next s' ∧ StartsAndCompletes s s' p sq key e 0 0 [] ∧
            lineAt (sliceOf s' st k) ky = { lineAt x ky with pinned := true } ∧ others s') ∧
        ((lineAt x ky).pinned = false → regF s (oSHFCFG st) 11 8 ≤ pinnedIn x (lineSet lam) →
          ∃ s', exec (.pin p sq) s = .next s' ∧ StartsAndCompletes s s' p sq key e 0 1 [] ∧
            regF s' (oSHFEVT st) 31 16 = min 0xFFFF (regF s (oSHFEVT st) 31 16 + 1) ∧ s'.shelf = s.shelf)) ∧
      (eOp b = 9 → ∃ s', exec (.unpin p sq) s = .next s' ∧ StartsAndCompletes s s' p sq key e 0 0 [] ∧
        lineAt (sliceOf s' st k) ky = { lineAt x ky with pinned := false } ∧ others s'))

/-- ATTN_BATCH, RING_STEP_END and BLOCK_ABANDON (R150, R152, R155, R156): a batch without sequences ends with status 0 and an
invalid header with status 10, code 4; a batch on a ring waits for its steps, none of which ends while the block it receives is
not whole or the Ebb sequence runs; an abandoned block ends it with code 6 and sends the successor a notice. At the
end queue 7 of its tiles is disabled and the lower half of their memories is as before. -/
def Obligations.AttentionBatches : Prop :=
  ∀ (p sq key : Nat) (s : State), p ≠ 8 →
    let released (s' : State) (ts : List Nat) : Prop := (∀ t ∈ ts, ringOf (tileOf s' t) 7 = Ring.reset ∧
        (∀ a < 0x8_0000, Mem.byte (tileOf s' t).mem a = Mem.byte (tileOf s t).mem a) ∧ (tileOf s' t).groups = (tileOf s t).groups ∧
        (tileOf s' t).arrays = (tileOf s t).arrays) ∧ ∀ t, t ∉ ts → tileOf s' t = tileOf s t
    (∀ e kh, CanStart s p sq e → CqOpen s p sq key → eOp e.bytes = 3 → batchEntryOk s p e.bytes = true → batchWaits s e = false →
      HostRange s (some p) (eNat e.bytes 16 6) 64 kh →
      let h := Mem.read s.hostMem kh 64
      let ts := entryRect e.bytes 24
      (hdrOk h = false → ∃ s', exec (.attnBatch p sq) s = .next s' ∧ StartsAndCompletes s s' p sq key e 10 (4 * 2 ^ 28) [] ∧
        released s' ts ∧ RegsBut s s' (queueRegs s p sq)) ∧
      (hdrOk h = true → eNat h 12 4 = 0 → hRing h = false →
        ∃ s', exec (.attnBatch p sq) s = .next s' ∧ StartsAndCompletes s s' p sq key e 0 0 [] ∧ released s' ts ∧ RegsBut s s' (queueRegs s p sq)) ∧
      (hdrOk h = true → eNat h 12 4 = 0 → hRing h = true →
        ∃ s' c, exec (.attnBatch p sq) s = .next s' ∧ StartsAs s s' p sq e c ∧ c.ring = some 0 ∧ c.args = h ∧
          (∀ t ∈ ts, ringOf (tileOf s' t) 7 = { Ring.reset with base := 0xC_0000, size := 4096 }) ∧
          (∀ t, t ∉ ts → tileOf s' t = tileOf s t) ∧ RegsBut s s' (queueRegs s p sq))) ∧
    (∀ c r, cmdOf s p c.id = some c → c.ring = some r →
      let ts := entryRect c.entry 24
      (s.stalled = false → r + 1 < hDevs c.args → eNat c.args 12 4 = 0 → ebbing s = false →
        ∃ s', exec (.ringStepEnd p c.id) s = .next s' ∧ cmdOf s' p c.id = some { c with ring := some (r + 1) } ∧ { s' with parts := s.parts } = s) ∧
      (recvOpen s c r = true ∨ ebbing s = true → exec (.ringStepEnd p c.id) s = .next s) ∧
      (InFlight s p c → CqOpen s p c.sq key →
        (s.stalled = false → hDevs c.args ≤ r + 1 → eNat c.args 12 4 = 0 → ebbing s = false →
          ∃ s', exec (.ringStepEnd p c.id) s = .next s' ∧ Ends s s' p key c 0 0 [] ∧ released s' ts ∧ RegsBut s s' (queueRegs s p c.sq)) ∧
        (∃ s', exec (.blockAbandon p c.id) s = .next s' ∧ Ends s s' p key c 10 (6 * 2 ^ 28) [] ∧ released s' ts ∧
          RegsBut s s' (queueRegs s p c.sq) ∧ s'.surf = { s.surf with notices := s.surf.notices ++ [(p, hNext c.args)] })))

/-! ### Power and heat (chapter 12) -/

/-- POWER_GOOD, FLOOD_TIMEOUT, RAIL_FAIL, EBB_STEP, HEADER_SWITCH_GROUP, VDD_AON_RISE, VDD_AON_FALL and SLOW_CLOCK_FALLBACK (R237,
R297, R307 to R311, R342, R360, R361): the rails rise and fall in their order, a failure is recorded in an event cell and takes
every rail down, and what survives the loss of VDD_AON. -/
def Obligations.PowerEvents : Prop :=
  ∀ (s : State),
    let cells (s' : State) (cause : Nat) (ok : Nat → Prop) : Prop := s.power.cells.length < 8 →
      ∃ c, s'.power.cells = s.power.cells ++ [c] ∧ c.cause = cause ∧ ok c.src
    let down (s' : State) : Prop := (∀ r ∈ [0, 1, 2, 3, 5], railOk s' r = false) ∧ pwrState s' = 5 ∧ s'.power.ebb = 5 ∧ s'.power.headers = [] ∧
      s'.power.enabled = 0 ∧ regF s' oTGLNCFG 15 12 = 0
    (s.power.aon = true → ∃ s', exec (.powerGood 4) s = .next s' ∧ railOk s' 4 = true ∧ RegsBut s s' [oPWRSTAT] ∧ { s' with bar0 := s.bar0 } = s) ∧
    (∀ r, s.power.aon = true → s.power.ebb = 0 → pwrState s ≤ 1 → floodRail s.power.flood = some r →
      ∃ s', exec (.powerGood r) s = .next s' ∧ railOk s' r = true ∧ pwrState s' = 1 ∧
        s'.power = { s.power with flood := s.power.flood + 1, enabled := s'.power.enabled } ∧
        (∀ q < 4, bit s'.power.enabled.toNat q = (bit s.power.enabled.toNat q || decide (floodRail (s.power.flood + 1) = some q))) ∧
        RegsBut s s' [oPWRSTAT] ∧ { s' with bar0 := s.bar0, power := s.power } = s) ∧
    (∀ r, r ≠ 4 → floodRail s.power.flood ≠ some r → exec (.powerGood r) s = .next s) ∧
    (s.power.aon = true → s.head.running = true → pwrState s ≤ 1 → s.power.ebb = 0 → 2 ≤ s.power.flood → s.power.flood ≤ 7 →
      ∃ s', exec .floodTimeout s = .next s' ∧ down s' ∧ cells s' 6 (fun x => ∀ r, floodRail s.power.flood = some r → x = r) ∧
        s'.head.running = false ∧ s'.head.failed = true ∧ regF s' oHLMSTAT 27 24 = 2 ∧ regF s' (oSREP 0) 15 8 = 2 ∧
        regF s' (oSREP 0) 63 48 = s.power.flood ∧ s'.irqs = s.irqs ++ [(0, 7)]) ∧
    (∀ r b, r ≠ 4 → railOk s r = true →
      ∃ s', exec (.railFail r b) s = .next s' ∧ down s' ∧ cells s' (if b = true ∧ r < 4 then 4 else 3) (fun x => x = r) ∧
        RegsBut s s' [oPWRSTAT, oTGLNCFG] ∧
        { s' with bar0 := s.bar0, power := s.power, tg := s.tg, head := s.head, fresh := s.fresh } = s) ∧
    (∀ r b, r = 4 ∨ railOk s r = false → exec (.railFail r b) s = .next s) ∧
    (pwrState s = 3 →
      let off (rails : List Nat) (s' : State) (n : Nat) : Prop :=
        s'.power = { s.power with
          ebb := n
          enabled := s'.power.enabled
          headers := s.power.headers.filter (fun e => !rails.contains (feedRail e.1.2)) } ∧
        (∀ r < 4, bit s'.power.enabled.toNat r = (bit s.power.enabled.toNat r && !rails.contains r)) ∧
        ∀ r < 6, railOk s' r = (railOk s r && !rails.contains r)
      let seq (n : Nat) (rails : List Nat) : Prop := s.power.ebb = n → ∃ s', exec .ebbStep s = .next s' ∧ off rails s' (n + 1) ∧
        pwrState s' = 3 ∧ RegsBut s s' [oPWRSTAT] ∧ { s' with bar0 := s.bar0, power := s.power } = s
      ((∀ e ∈ s.power.headers, isTile e.1.1 = false ∧ isSlice e.1.1 = false) → seq 1 [2]) ∧
      ((∃ e ∈ s.power.headers, isTile e.1.1 = true ∨ isSlice e.1.1 = true) → s.power.ebb = 1 → exec .ebbStep s = .next s) ∧
      seq 2 [3, 5] ∧ seq 3 [0] ∧
      (s.power.ebb = 4 → ∃ s', exec .ebbStep s = .next s' ∧ off [1] s' 5 ∧ pwrState s' = 5 ∧ RegsBut s s' [oPWRSTAT])) ∧
    (∀ d u, (domainFitted s.asm d = false ∨ supplyOk d u = false) → ∀ b, exec (.headerSwitchGroup (d, u) b) s = .next s) ∧
    (∀ d u, domainFitted s.asm d = true → supplyOk d u = true →
      let gr (s' : State) (v : BitVec 4) : Prop := groupsOf s' d u = v ∧ ∀ e w, (e, w) ≠ (d, u) → groupsOf s' e w = groupsOf s e w
      (pwrState s = 2 →
        (∃ s', exec (.headerSwitchGroup (d, u) true) s = .next s' ∧ gr s' (groupsOf s d u <<< 1 ||| 1) ∧ { s' with power := s.power } = s) ∧
        (∃ s', exec (.headerSwitchGroup (d, u) false) s = .next s' ∧ gr s' (groupsOf s d u >>> 1) ∧ { s' with power := s.power } = s)) ∧
      (pwrState s = 1 → s.power.flood = 7 → isTile d = false ∨ slicesOn s = true →
        ∃ s', exec (.headerSwitchGroup (d, u) true) s = .next s' ∧ gr s' (groupsOf s d u <<< 1 ||| 1) ∧
          pwrState s' = (if allOn s' = true then 2 else 1)) ∧
      (pwrState s = 1 → isTile d = true → slicesOn s = false → exec (.headerSwitchGroup (d, u) true) s = .next s) ∧
      (pwrState s = 3 → s.power.ebb = 1 → isSlice d = false ∨ (∀ e ∈ s.power.headers, isTile e.1.1 = false) →
        ∃ s', exec (.headerSwitchGroup (d, u) false) s = .next s' ∧ gr s' (groupsOf s d u >>> 1) ∧ { s' with power := s.power } = s) ∧
      (pwrState s = 3 → isSlice d = true → (∃ e ∈ s.power.headers, isTile e.1.1 = true) → exec (.headerSwitchGroup (d, u) false) s = .next s)) ∧
    (∀ st ha, s.power.aon = false →
      ∃ s', exec (.vddAonRise st ha) s = .next s' ∧ s'.power.aon = true ∧ nowStep s' = 0 ∧ nowTick s' = 0 ∧ stageNow s' = 0 ∧ s'.head.running = true ∧
        s'.tiles = [] ∧ s'.shelf = [] ∧ s'.parts = [] ∧ s'.pins.stagedN = st ∧ s'.pins.haltInN = ha ∧ s'.ras.overlay = journalOverlay s.head.flash ∧
        s'.head.training = journalTraining s.head.flash ∧
        (∀ b, bankChoice s.head.flash = some b → regF s' oHLMSTAT 63 48 = bankVersion s.head.flash b.1 % 2 ^ 16) ∧
        s'.ras.fuses = s.ras.fuses ∧ s'.head.flash = s.head.flash ∧ s'.power.cells = s.power.cells ∧ s'.hostMem = s.hostMem ∧ s'.asm = s.asm) ∧
    (∀ st ha, s.power.aon = true → exec (.vddAonRise st ha) s = .next s) ∧
    (s.power.aon = true →
      ∃ s', exec .vddAonFall s = .next s' ∧ s'.power.aon = false ∧ s'.bar0 = [] ∧ s'.pins.thermtripN = true ∧ s'.head.flash = s.head.flash ∧
        (1 ≤ pwrState s → pwrState s ≤ 3 → cells s' 3 (fun x => x = 4)) ∧ s'.ras.fuses = s.ras.fuses ∧ s'.hostMem = s.hostMem ∧ s'.asm = s.asm) ∧
    (s.power.aon = false → exec .vddAonFall s = .next s) ∧
    exec .slowClockFallback s = .next { s with pins := { s.pins with slowFallback := true } }

/-- POWER_LOOP, BROWNOUT, BROWNOUT_END, PHASE_SCAN, THERMAL_SAMPLE, SENSOR_RESAMPLE and THM_CLEAR (R312, R315 to R317, R319, R321,
R322, R325, R326, R328): the duties, the alerts, a failed phase, a sample of a die, a broken sensor, and the end of
restricted mode. -/
def Obligations.PowerAndHeat : Prop :=
  ∀ (s : State),
    (∀ mv amps pm, pwrState s = 1 ∨ pwrState s = 2 →
      let a (r : Nat) : Nat := amps.getD r 0
      let v (r : Nat) : Nat := if bit s.power.pmRails.toNat r = true then pm.getD r 0 else mv.getD r 0
      let w := worstShare s
      let share (r : Nat) : Nat × Nat := ((phasesOf s r).1 - (phasesOf s r).2, (phasesOf s r).1)
      let mw := ((List.range 5).map (fun r => v r * a r)).sum
      let total := ((List.range 5).map a).sum
      let high := (∃ r < 5, above (a r) (regF s (oRAIL r) 63 52) (share r) = true) ∨ above mw (regF s oPWRCFG 63 48 * 1000) w = true ∨
        above total (regF s oPWRCFG 31 20) w = true
      let low := (∀ r < 5, below95 (a r) (regF s (oRAIL r) 63 52) (share r) = true) ∧ below95 mw (regF s oPWRCFG 63 48 * 1000) w = true ∧
        below95 total (regF s oPWRCFG 31 20) w = true
      ∃ s', exec (.powerLoop ⟨mv, pm⟩ amps) s = .next s' ∧ (∀ r < 5, regF s' (oRAIL r) 23 12 = min 4095 (a r)) ∧
        (high → powerDuty s' = min 15 (powerDuty s + 1) ∧
          regF s' oPWREVT 39 8 = (if powerDuty s < 15 then min (2 ^ 32 - 1) (regF s oPWREVT 39 8 + 1) else regF s oPWREVT 39 8)) ∧
        (¬ high → low → powerDuty s' = powerDuty s - 1 ∧ reg s' oPWREVT = reg s oPWREVT) ∧
        (¬ high → ¬ low → powerDuty s' = powerDuty s ∧ reg s' oPWREVT = reg s oPWREVT) ∧
        RegsBut s s' ([oPWRSTAT, oPWREVT] ++ (List.range 5).map oRAIL) ∧ { s' with bar0 := s.bar0 } = s) ∧
    (∀ r, r < 4 → railOk s r = true →
      ∃ s', exec (.brownout r) s = .next s' ∧ regF s' oPWREVT 63 48 = min 0xFFFF (regF s oPWREVT 63 48 + 1) ∧ regB s' oPWRSTAT 24 = true ∧
        s'.pins.alertN = false ∧ s'.irqs = s.irqs ++ [(0, 2)] ∧ RegsBut s s' [oPWREVT, oPWRSTAT] ∧
        { s' with bar0 := s.bar0, irqs := s.irqs, pins := s.pins } = s) ∧
    (∃ s', exec .brownoutEnd s = .next s' ∧ regB s' oPWRSTAT 24 = false ∧ RegsBut s s' [oPWRSTAT] ∧ { s' with bar0 := s.bar0 } = s) ∧
    (∀ r amps faults, pwrState s = 2 → s.head.inReset = false → s.power.ebb = 0 → r < 4 →
      (∀ j < 4, j ≠ r → evaluated s j (amps.getD j []) = false) → evaluated s r (amps.getD r []) = true →
      let dep := departing s r (amps.getD r [])
      let failed := (livePhases s r).filter (fun k => bit (faults.getD r 0).toNat k || (dep.contains k && bit (SMap.get 0 s.power.departed r).toNat k))
      ∃ s', exec (.phaseScan amps faults) s = .next s' ∧
        (∀ k < 64, bit (reg s' (oPHFAIL r)).toNat k = (bit (reg s (oPHFAIL r)).toNat k || failed.contains k)) ∧
        (∀ k < 64, bit (SMap.get 0 s'.power.departed r).toNat k = (dep.contains k && !failed.contains k)) ∧
        (∀ j < 4, j ≠ r → SMap.get 0 s'.power.departed j = 0) ∧
        (failed = [] → RegsBut s s' [] ∧ s'.irqs = s.irqs ∧ { s' with power := s.power } = s) ∧
        (failed ≠ [] →
          let f := popcount 64 (reg s' (oPHFAIL r)).toNat
          regF s' (oRAIL r) 43 40 = min 15 f ∧ regB s' oPWRSTAT (16 + r) = true ∧ powerDuty s' = max (powerDuty s) (regF s oPWRCFG 7 4) ∧
          regF s' oPWREVT 47 40 = min 0xFF (regF s oPWREVT 47 40 + failed.length) ∧ s'.pins.alertN = false ∧ s'.irqs = s.irqs ++ [(0, 2)] ∧
          RegsBut s s' [oPHFAIL r, oRAIL r, oPWRSTAT, oPWREVT, oTGLNCFG] ∧
          (f ≤ regF s oPWRCFG 39 36 → s'.power.ebb = 0 ∧ pwrState s' = 2) ∧ (regF s oPWRCFG 39 36 < f → s'.power.ebb = 1 ∧ pwrState s' = 3))) ∧
    (s.power.aon = true →
      ∀ u b k, dieSensors s.asm u = some (b, k) →
      (∀ temps : List Int, temps.length = k → (∀ i < k, sensorBroken s (b + i) = false) →
        let t (i : Nat) : Int := temps.getD i 0 + calOf s (b + i)
        (∀ i < k, -32768 ≤ t i ∧ t i < 32768) →
        ∃ s', exec (.thermalSample u (temps.map some)) s = .next s' ∧ (∀ i < k, tempOf s' (b + i) = t i ∧ sensorBroken s' (b + i) = false ∧
            termOf s' (b + i) = (if throttleAt s ≤ t i then (if termOf s (b + i) < 15 then termOf s (b + i) + 1 else termOf s (b + i))
              else if t i < throttleAt s - hystAt s then termOf s (b + i) - 1 else termOf s (b + i)) ∧ b + i ∉ s'.heat.suspect) ∧
          ((∀ i < k, t i < 460) → RegsBut s s' (oTHMEVT :: (List.range k).map (fun i => oSENS (b + i))) ∧
            { s' with bar0 := s.bar0, heat := s.heat } = s) ∧
          ((∃ i < k, 460 ≤ t i) → s.pins.thermtripN = true → s'.pins.thermtripN = false ∧
            (if s.power.ebb = 0 then s'.power.ebb = 1 ∧ pwrState s' = 3 else s'.power.ebb = s.power.ebb ∧ pwrState s' = pwrState s) ∧
            s'.irqs = s.irqs ++ [(0, 3)] ∧ (s.power.cells = [] → ∃ c, s'.power.cells = [c] ∧ c.cause = 1)) ∧
          ((∃ i < k, 460 ≤ t i) → s.pins.thermtripN = false → s'.power = s.power ∧ s'.irqs = s.irqs ∧ s'.pins = s.pins)) ∧
      (∀ i < k, sensorBroken s (b + i) = false → b + i ∉ s.heat.suspect → (∀ j < k, tempOf s (b + j) < 460) →
        ∃ s', exec (.thermalSample u (List.replicate k none)) s = .next s' ∧ b + i ∈ s'.heat.suspect ∧ tempOf s' (b + i) = tempOf s (b + i))) ∧
    (∀ n, n ∈ s.heat.suspect →
      (∀ v, -32768 ≤ v + calOf s n → v + calOf s n < 460 →
        ∃ s', exec (.sensorResample n (some v)) s = .next s' ∧ tempOf s' n = v + calOf s n ∧ s'.heat = { s.heat with suspect := s.heat.suspect.filter (· != n) } ∧
          RegsBut s s' [oSENS n] ∧ { s' with bar0 := s.bar0, heat := s.heat } = s) ∧
      (∃ s', exec (.sensorResample n none) s = .next s' ∧ sensorBroken s' n = true ∧ tempOf s' n = 460 ∧
        (s.power.ebb = 0 → s.power.aon = true → s.pins.thermtripN = true → s'.pins.thermtripN = false ∧ s'.power.ebb = 1))) ∧
    (∀ n c, n ∉ s.heat.suspect → exec (.sensorResample n c) s = .next s) ∧
    (canWrite s 0 0x40_0018 = true → regB s oTHMSTAT 63 = true →
      (flashWindow s = true → s.head.inReset = false →
        ∃ s', exec (.thmClear 0) s = .next s' ∧ regB s' oTHMREC 63 = false ∧ regB s' oTHMSTAT 63 = false ∧ s'.head.flash.recValid = none ∧
          s'.power = { s.power with cells := [] } ∧
          RegsBut s s' [oTHMREC, oTHMSTAT] ∧ { s' with bar0 := s.bar0, head := s.head, power := s.power } = s) ∧
      (s.head.inReset = true → exec (.thmClear 0) s = .next { s with head := { s.head with clearDue := true } }) ∧
      (flashWindow s = false → s.head.inReset = false →
        ∃ s', exec (.thmClear 0) s = .next s' ∧ regF s' oTHMEVT 63 48 = min 0xFFFF (regF s oTHMEVT 63 48 + 1) ∧ RegsBut s s' [oTHMEVT] ∧
          { s' with bar0 := s.bar0 } = s)) ∧
    (∀ fn ≠ 0, exec (.thmClear fn) s = .next s)

/-! ### Integrity (chapter 13) -/

/-- BUCKET_LEAK, SCRUB_SLICE_END, BIST_SLICE_END, BIST_WAIT_TIMEOUT and JOURNAL_WRITE (R334, R337, R342, R344 to R346): the buckets
leak, a scrub slice moves its cursor, a BIST slice passes, is over its time, or fails, and what waits for the flash goes
there when it may. -/
def Obligations.IntegrityEvents : Prop :=
  ∀ (s : State),
    (∃ s', exec .bucketLeak s = .next s' ∧ (∀ u < 128, unitFitted s.asm u = true → regF s' (oLB u) 15 0 = regF s (oLB u) 15 0 - 1 ∧
        regF s' (oLB u) 63 16 = regF s (oLB u) 63 16) ∧
      RegsBut s s' (((List.range 128).filter (unitFitted s.asm)).map oLB) ∧ { s' with bar0 := s.bar0 } = s) ∧
    (∀ e k done, s.stalled = false → s.ras.scrubs.find? (fun x => x.1 == e) = some (e, k) → 32 ≤ e → e < 40 → k < 4 → regF s (oSCRB e k) 63 40 ≠ 0 →
      (∀ i, (ctrlOf s i).queue = []) → s.fills = [] →
      let len := regF s (oSCRB e k) 63 40
      let n := min done (regF s (oSCRB e k) 15 0)
      let c := regF s (oSCRB e k) 39 16
      (∀ i < n, let g := regF s (oSCRA e k) 39 0 + (c + i) % len
        hbmGiB s.asm * 2 ^ 22 ≤ g ∨ (ctrlAt s.asm (g * 256)).1 ≠ e - 32 ∨ CleanGran s g ∧ granHeld s g = false) →
      ∃ s', exec (.scrubSliceEnd e done) s = .next s' ∧ regF s' (oSCRB e k) 39 16 = (c + n) % len % 2 ^ 24 ∧
        s'.ras = { s.ras with scrubs := s.ras.scrubs.filter (fun x => x.1 != e) } ∧ RegsBut s s' [oSCRB e k, oBWRCNT 8 5] ∧
        { s' with bar0 := s.bar0, ras := s.ras } = s) ∧
    (∀ b, s.ras.bists.find? (fun x => x.unit == b.unit) = some b →
      let n := bistCount s.asm b.unit b.kind
      let rest := s.ras.bists.filter (fun x => x.unit != b.unit)
      let moved := SMap.set 0 s.ras.cursors (b.unit * 8 + b.kind) ((b.elem + 1) % max 1 n)
      (b.waits = true → elemBusy s b.unit b.kind b.elem = true →
        (∀ r, exec (.bistSliceEnd b.unit r) s = .next s) ∧
        ∃ s', exec (.bistWaitTimeout b.unit) s = .next s' ∧ s'.ras = { s.ras with bists := rest } ∧
          regF s' oBISTSTAT 15 0 = min 0xFFFF (regF s oBISTSTAT 15 0 + 1) ∧ RegsBut s s' [oBISTSTAT] ∧ { s' with bar0 := s.bar0, ras := s.ras } = s) ∧
      (b.waits = true → elemBusy s b.unit b.kind b.elem = false → 12 ≤ b.unit →
        exec (.bistWaitTimeout b.unit) s = .next { s with ras := { s.ras with
          bists := s.ras.bists.map (fun x => if x.unit = b.unit then { x with waits := false } else x) } }) ∧
      (b.waits = false → b.saveErr = [] → ((∀ x ∈ s.ras.bists, x.unit = b.unit → x = b) → exec (.bistWaitTimeout b.unit) s = .next s) ∧
        (12 ≤ b.unit → ¬ (b.kind = 0 ∧ 16 ≤ b.unit ∧ b.unit < 28) →
          (∃ s', exec (.bistSliceEnd b.unit .pass) s = .next s' ∧ regF s' oBISTSTAT 63 48 = min 0xFFFF (regF s oBISTSTAT 63 48 + 1) ∧
            s'.ras = { s.ras with bists := rest, cursors := moved } ∧ RegsBut s s' [oBISTSTAT, oBWRCNT 8 6] ∧
            { s' with bar0 := s.bar0, ras := s.ras } = s) ∧
          (∃ s', exec (.bistSliceEnd b.unit .over) s = .next s' ∧ regF s' oBISTSTAT 31 16 = min 0xFFFF (regF s oBISTSTAT 31 16 + 1) ∧
            s'.ras = { s.ras with bists := rest } ∧ RegsBut s s' [oBISTSTAT, oBWRCNT 8 6] ∧ { s' with bar0 := s.bar0, ras := s.ras } = s) ∧
          (∀ d, b.kind = 3 ∨ b.kind = 5 → b.unit < 128 → regB s oBISTLOG 63 = false →
            ∃ s', exec (.bistSliceEnd b.unit (.fail d)) s = .next s' ∧ regF s' oBISTSTAT 47 32 = min 0xFFFF (regF s oBISTSTAT 47 32 + 1) ∧
              regB s' oBISTLOG 63 = true ∧ regF s' oBISTLOG 62 56 = b.unit ∧ regF s' oBISTLOG 31 0 = d.toNat ∧ s'.irqs = s.irqs ++ [(0, 5)] ∧
              regB s' oRASUE 63 = true ∧ s'.ras = { s.ras with bists := rest, cursors := moved } ∧
              s'.power.pmRails = (if b.kind = 5 then s.power.pmRails ||| 1#5 <<< b.elem else s.power.pmRails) ∧
              RegsBut s s' [oBISTSTAT, oBISTLOG, oRASUE, oBWRCNT 8 6] ∧
              { s' with bar0 := s.bar0, ras := s.ras, irqs := s.irqs, power := { s'.power with pmRails := s.power.pmRails } } = s)) ∧
        (∀ t, b.unit < 12 → b.kind = 1 → b.elem % 5 < 4 → tileAtPhys s b.unit (b.elem / 5) = some t → (arr s t (b.elem % 5)).owner = some .bist →
          ∃ s', exec (.bistSliceEnd b.unit .pass) s = .next s' ∧ arr s' t (b.elem % 5) = { arr s t (b.elem % 5) with owner := none } ∧
            s'.ras = { s.ras with bists := rest, cursors := moved } ∧ (∀ u ≠ t, tileOf s' u = tileOf s u) ∧
            RegsBut s s' [oBISTSTAT, oBWRCNT 8 6]))) ∧
    (s.power.aon = true → s.head.inReset = false → journalWaits s = true →
      (flashWindow s = true → ∃ s', exec .journalWrite s = .next s' ∧
        s'.head = { s.head with
          flash := { s.head.flash with
            journal := newJournal s.head.flash s.ras.overlay s.head.training
            log := s.head.flash.log ++ s.head.pendLog }
          pendLog := [] } ∧
        journalOverlay s'.head.flash = s.ras.overlay ∧
        regF s' oSHOALSTAT 31 16 = 0 ∧ RegsBut s s' [oSHOALSTAT] ∧ { s' with bar0 := s.bar0, head := s.head } = s) ∧
      (flashWindow s = false → ∃ s', exec .journalWrite s = .next s' ∧ regF s' oTHMEVT 63 48 = min 0xFFFF (regF s oTHMEVT 63 48 + 1) ∧
        RegsBut s s' [oTHMEVT] ∧ { s' with bar0 := s.bar0 } = s)) ∧
    (s.power.aon = false ∨ s.head.inReset = true ∨ journalWaits s = false → exec .journalWrite s = .next s)

/-! ### Bring-up and Headland (chapter 14) -/

/-- STAGE_COMPLETE, STAGE_TIMEOUT, CONTINUE, HALT_IN_N_RISE, HLMRST, HEADLAND_WATCHDOG, KEEPOK, KEEPER_EXPIRY, DEVRST, PERST_N and
PERST_N_RISE (R360 to R367, R370, R383, R392): the stages report and follow each other, staged bring-up waits, a stage over its
limit fails, and the resets of Headland and of the device. -/
def Obligations.BringUp : Prop :=
  ∀ (s : State),
    let reported (s' : State) (result code : Nat) : Prop := regF s' oHLMSTAT 27 24 = result ∧ regF s' (oSREP 0) 7 0 = stageNow s ∧
      regF s' (oSREP 0) 15 8 = result ∧ regF s' (oSREP 0) 63 48 = code
    let fails (s' : State) (code : Nat) : Prop := reported s' 2 code ∧ s'.irqs = s.irqs ++ [(0, 7)] ∧ s'.head.running = false ∧ s'.head.failed = true ∧
      (s.power.ebb = 0 → s'.power.ebb = 1 ∧ pwrState s' = 3)
    (∀ x : StageFindings, stageReady s = true →
      (stageLimit (stageNow s) < x.ms → ∃ s', exec (.stageComplete x) s = .next s' ∧ fails s' 1) ∧
      (x.ms ≤ stageLimit (stageNow s) →
        (∀ u, stageNow s = 1 → x.pllFail = some u → ∃ s', exec (.stageComplete x) s = .next s' ∧ fails s' (4 + u % 256 * 256)) ∧
        (stageNow s = 1 → x.pllFail = none → regB s oHLMSTAT 21 = false →
          ∃ s', exec (.stageComplete x) s = .next s' ∧ reported s' 0 0 ∧ s'.irqs = s.irqs ++ [(0, 7)] ∧
            (regB s oHLMSTAT 23 = false → stageNow s' = 2 ∧ s'.head.waiting = false) ∧
            (regB s oHLMSTAT 23 = true → stageNow s' = 1 ∧ s'.head.waiting = true ∧ regB s' oHLMSTAT 22 = true) ∧
            RegsBut s s' (oHLMSTAT :: (List.range 8).map oSREP) ∧ { s' with bar0 := s.bar0, irqs := s.irqs, head := s.head } = s) ∧
        (∀ b k, stageNow s = 0 → bankChoice s.head.flash = some b → slotChoice s.head.flash = some k → s.head.devOut = false →
          x.haltInN = true → regB s oHLMSTAT 23 = false → s.power.cells = [] →
          (slotRecord s.head.flash k.1).regs = [] → (slotRecord s.head.flash k.1).parts = [] → (slotRecord s.head.flash k.1).pcfg = [] →
          ∃ s', exec (.stageComplete x) s = .next s' ∧ reported s' 0 0 ∧ stageNow s' = 1 ∧ s'.pins.portOn = true ∧
            (s.pins.perstN = true → s'.pins.linkTrain = true) ∧ regF s' oHLMSTAT 63 48 = regF s oHLMSTAT 63 48 ∧
            s'.pins.haltInN = true) ∧
        (∀ b k, stageNow s = 0 → bankChoice s.head.flash = some b → slotChoice s.head.flash = some k → s.head.devOut = false →
          x.haltInN = false → (∀ e ∈ (slotRecord s.head.flash k.1).regs, e.1 ≠ oHLMSTAT) →
          ∃ s', exec (.stageComplete x) s = .next s' ∧ reported s' 3 0 ∧ stageNow s' = 0 ∧ regB s' oHLMSTAT 21 = true ∧ s'.head.waiting = true) ∧
        (stageNow s = 2 → x.badPch = [] → x.badSlices = [] →
          ∃ s', exec (.stageComplete x) s = .next s' ∧ reported s' 0 0 ∧ s'.dram = [] ∧ s'.dramErr = [] ∧
            (∀ i ∈ ctrlList s.asm, regB s' (oMEMSTAT i) 2 = true ∧ ctrlOf s' i = Ctrl.reset) ∧ (∀ st < crests s.asm, regB s' (oSHFSTAT st) 2 = true)) ∧
        (stageNow s = 4 → x.failTiles = [] → x.fwFails = [] → partOf s 8 = Part.reset →
          ∃ s', exec (.stageComplete x) s = .next s' ∧ reported s' 0 0 ∧ regB s' oHLMSTAT 17 = true ∧
            (regB s oHLMSTAT 23 = false → regB s oHLMSTAT 21 = false → stageNow s' = 15 ∧ s'.head.running = false ∧ s'.head.waiting = false) ∧
            (regB s oHLMSTAT 23 = true → stageNow s' = 4 ∧ s'.head.running = true ∧ s'.head.waiting = true) ∧
            (∀ st < crests s.asm, ∀ r < 12, ∀ u, supplyOk (.tile st r (hiddenCol s' st)) u = true → groupsOf s' (.tile st r (hiddenCol s' st)) u = 0) ∧
            s'.head.unusable = [] ∧ ∀ p < totalVFs s.asm, pState s p = 0 → pState s' p = (if partValid s p = true then 1 else 0)))) ∧
    (∀ x, stageReady s = false → exec (.stageComplete x) s = .next s) ∧
    (∀ ms, s.head.running = true → s.head.waiting = false → s.head.held = false → s.power.aon = true → stageNow s ≤ 4 →
      (stageLimit (stageNow s) < ms → ∃ s', exec (.stageTimeout ms) s = .next s' ∧ fails s' 1) ∧
      (ms ≤ stageLimit (stageNow s) → exec (.stageTimeout ms) s = .next s)) ∧
    (s.head.waiting = true → stageNow s = 4 → canWrite s 0 0x3F0_0008 = true → regB s oHLMSTAT 21 = false ∨ s.pins.haltInN = true →
      ∃ s', exec (.continueCmd 0) s = .next s' ∧ stageNow s' = 15 ∧ s'.head.waiting = false ∧ s'.head.running = false ∧
        RegsBut s s' [oHLMSTAT] ∧ { s' with bar0 := s.bar0, head := s.head } = s) ∧
    (s.head.waiting = true → stageNow s < 4 →
      let on (s' : State) : Prop := stageNow s' = stageNow s + 1 ∧ s'.head.waiting = false ∧ regB s' oHLMSTAT 22 = false ∧ RegsBut s s' [oHLMSTAT]
      (canWrite s 0 0x3F0_0008 = true → regB s oHLMSTAT 21 = false ∨ s.pins.haltInN = true →
        ∃ s', exec (.continueCmd 0) s = .next s' ∧ on s' ∧ { s' with bar0 := s.bar0, head := s.head } = s) ∧
      (regB s oHLMSTAT 23 = false ∨ s.head.contSeen = true →
        ∃ s', exec .haltInNRise s = .next s' ∧ on s' ∧ s'.pins = { s.pins with haltInN := true })) ∧
    (s.head.waiting = false → exec (.continueCmd 0) s = .next s ∧ exec .haltInNRise s = .next { s with pins := { s.pins with haltInN := true } }) ∧
    (let held (s' : State) : Prop := s'.head = { s.head with inReset := true } ∧ regB s' oHLMSTAT 20 = true ∧ RegsBut s s' [oHLMSTAT] ∧
        { s' with bar0 := s.bar0, head := s.head } = s
     (canWrite s 0 0x3F0_0008 = true → ∃ s', exec (.hlmrst 0) s = .next s' ∧ held s') ∧
     (s.power.aon = true → ∃ s', exec .headlandWatchdog s = .next s' ∧ held s')) ∧
    (∀ fn ≠ 0, exec (.hlmrst fn) s = .next s ∧ exec (.devrst fn) s = .next s ∧ exec (.continueCmd fn) s = .next s) ∧
    (s.head.inReset = true →
      (s.head.clearDue = false → ∃ s', exec .keepok s = .next s' ∧ s'.head = { s.head with inReset := false } ∧ regB s' oHLMSTAT 20 = false ∧
        RegsBut s s' [oHLMSTAT] ∧ { s' with bar0 := s.bar0, head := s.head } = s) ∧
      (s.head.clearDue = true → ∃ s', exec .keepok s = .next s' ∧ s'.head.inReset = false ∧ s'.head.clearDue = false ∧ regB s' oHLMSTAT 20 = false ∧
        (flashWindow s = true → s'.head.flash.recValid = none ∧ s'.power.cells = [] ∧ regB s' oTHMREC 63 = false ∧ regB s' oTHMSTAT 63 = false ∧
          RegsBut s s' [oHLMSTAT, oTHMREC, oTHMSTAT]) ∧
        (flashWindow s = false → regF s' oTHMEVT 63 48 = min 0xFFFF (regF s oTHMEVT 63 48 + 1) ∧ RegsBut s s' [oHLMSTAT, oTHMEVT]))) ∧
    (s.power.aon = true → s.head.inReset = true → regB s oHLMSTAT 20 = true → s.power.ebb = 0 → s.power.cells.length < 8 →
      ∃ s' c, exec .keeperExpiry s = .next s' ∧ s'.power.cells = s.power.cells ++ [c] ∧ c.cause = 7 ∧ s'.power.ebb = 1 ∧ pwrState s' = 3 ∧
        regB s' oHLMSTAT 20 = false ∧ RegsBut s s' [oHLMSTAT, oPWRSTAT, oTGLNCFG]) ∧
    (deviceResettable s = true →
      (∃ s', exec .perstN s = .next s' ∧ DeviceReset s s' ∧ s'.pins.perstN = false) ∧
      (NoEscalation s → (canWrite s 0 0x3F0_0008 = true → ∃ s', exec (.devrst 0) s = .next s' ∧ DeviceReset s s') ∧
        (∃ s', exec .pfFlr s = .next s' ∧ DeviceReset s s') ∧ (∃ s', exec .deviceReset s = .next s' ∧ DeviceReset s s'))) ∧
    (deviceResettable s = false →
      exec .perstN s = .next { s with pins := { s.pins with perstN := false, linkTrain := false } } ∧
      ∀ c ∈ [Instr.devrst 0, .pfFlr, .deviceReset], exec c s = .next s) ∧
    exec .perstNRise s = .next { s with pins := { s.pins with perstN := true, linkTrain := s.pins.linkTrain || s.pins.portOn } }

/-- READ_FLASH, the two writes of flash, MAKE_PREFERRED, RETIRE_TILE, BROADCAST_TILE_FIRMWARE, READ_EVENT_LOG and UNIT_POLL (R326,
R328, R357, R359, R366 to R369, Table 14.7): what each answers, and when it refuses; the eighth disagreement of a unit
fences it. -/
def Obligations.HeadlandRequests : Prop :=
  ∀ (s : State),
    (∀ c, (∃ a n, c = .readFlash a n) ∨ (∃ a b, c = .writeInactiveFirmwareBank a b) ∨ (∃ a b, c = .writeInactiveRecordSlot a b) ∨
        (∃ a b, c = .makePreferred a b) ∨ (∃ a b, c = .retireTile a b) ∨ (∃ f, c = .broadcastTileFirmware f) ∨ (∃ i, c = .readEventLog i) →
      (mailUp s = false ∨ regB s oHLMMBDB 62 = true → exec c s = .next s) ∧
      (mailUp s = true → regB s oHLMMBDB 62 = false → s.head.inReset = true →
        ∃ s', exec c s = .next s' ∧ MailReply s s' 4 [] [] ∧ { s' with bar0 := s.bar0, irqs := s.irqs } = s)) ∧
    (MailReady s →
      let only (s' : State) : Prop := { s' with bar0 := s.bar0, irqs := s.irqs } = s
      let f := s.head.flash
      (∀ off len, 0x1_0000 ≤ off → off + len ≤ 0x601_0000 → len ≤ 4000 →
        ∃ s', exec (.readFlash off len) s = .next s' ∧
          MailReply s s' 0 ((List.range len).map (fun i => imageByte f.bankRaw.1 0x1_0000 (off + i))) [] ∧ only s') ∧
      (∀ off len, 4000 < len ∨ 0xF01_0000 < off + len → ∃ s', exec (.readFlash off len) s = .next s' ∧ MailReply s s' 1 [] [] ∧ only s') ∧
      (∀ off bs, off + bs.length ≤ 0x600_0000 → bs.length ≤ 4095 → s.head.bank < 2 →
        (flashWindow s = true →
          ∃ s', exec (.writeInactiveFirmwareBank off bs) s = .next s' ∧ MailReply s s' 0 [] [] ∧
            (s.head.bank = 0 → let raw := rawWrite f.bankRaw.2 off bs
              s'.head.flash.bankRaw = (f.bankRaw.1, raw) ∧
              s'.head.flash.banks = (f.banks.1, (imageAccepted false 1 raw, imageField false 1 raw 2))) ∧
            (s.head.bank = 1 → let raw := rawWrite f.bankRaw.1 off bs
              s'.head.flash.bankRaw = (raw, f.bankRaw.2) ∧
              s'.head.flash.banks = ((imageAccepted false 0 raw, imageField false 0 raw 2), f.banks.2)) ∧
            { s'.head.flash with bankRaw := f.bankRaw, banks := f.banks } = f ∧ { s' with bar0 := s.bar0, irqs := s.irqs, head := s.head } = s) ∧
        (flashWindow s = false →
          ∃ s', exec (.writeInactiveFirmwareBank off bs) s = .next s' ∧ MailReply s s' 3 [] [oTHMEVT] ∧ only s' ∧
            regF s' oTHMEVT 63 48 = min 0xFFFF (regF s oTHMEVT 63 48 + 1))) ∧
      (∀ off bs, off + bs.length ≤ 0x100_0000 → bs.length ≤ 4095 → s.head.slot < 2 → flashWindow s = true →
        ∃ s', exec (.writeInactiveRecordSlot off bs) s = .next s' ∧ MailReply s s' 0 [] [] ∧
          (s.head.slot = 0 → let raw := rawWrite f.slotRaw.2 off bs
            s'.head.flash.slotRaw = (f.slotRaw.1, raw) ∧ s'.head.flash.slots = (f.slots.1, parseRecord 1 raw)) ∧
          (s.head.slot = 1 → let raw := rawWrite f.slotRaw.1 off bs
            s'.head.flash.slotRaw = (raw, f.slotRaw.2) ∧ s'.head.flash.slots = (parseRecord 0 raw, f.slots.2)) ∧
          { s'.head.flash with slotRaw := f.slotRaw, slots := f.slots } = f) ∧
      (∀ bank slot, bank < 2 → slot < 2 →
        (bankValid f bank = true → (slotRecord f slot).valid = true → flashWindow s = true →
          ∃ s', exec (.makePreferred bank slot) s = .next s' ∧ MailReply s s' 0 [] [] ∧
            bootHeader s'.head.flash = ⟨true, (bootHeader f).seq + 1, bank, slot⟩ ∧ { s'.head.flash with boot := f.boot } = f) ∧
        (bankValid f bank = false ∨ (slotRecord f slot).valid = false →
          ∃ s', exec (.makePreferred bank slot) s = .next s' ∧ MailReply s s' 2 [] [] ∧ only s')) ∧
      (∀ x y p, x < tilesX s.asm → y < tilesY s.asm →
        let st := stackOf s.asm (y * 64 + x)
        partOfStack s st = some p →
        (1 < pState s p → ∃ s', exec (.retireTile x y) s = .next s' ∧ MailReply s s' 5 [] [] ∧ only s') ∧
        (pState s p ≤ 1 → genBusy s (.part p) = false → hiddenCol s st = 16 → hiddenFuse s st = none →
          ∃ s', exec (.retireTile x y) s = .next s' ∧ hiddenCol s' st = x % 16 ∧ regF s' oHLMMBDB 55 48 = 0 ∧ ResetDomain.part p ∈ s'.resetting ∧
            shoalEntry 5 st 0 (x % 16) 0 ∈ s'.ras.overlay)) ∧
      (∀ (rect : BitVec 32) (bad : List (Nat × Nat)),
        let r := rect.toNat
        let ts := rectTiles (r % 256) (r / 2 ^ 8 % 256) (r / 2 ^ 16 % 256) (r / 2 ^ 24)
        ts ≠ [] → (∀ t ∈ ts, tileFitted s.asm t = true) → r / 2 ^ 16 % 256 < 64 →
        ((∀ t ∈ ts, tileDrained s t = true) → (∀ e ∈ bad, e.2 < 4) →
          ∃ s', exec (.broadcastTileFirmware ⟨rect, bad⟩) s = .next s' ∧
            (∀ t, tileOf s' t = if t ∈ ts then { tileOf s t with fwBusy := true, fw := some (bankTileFw s.head.flash s.head.bank) } else tileOf s t) ∧
            regB s' oHLMMBDB 62 = true ∧ RegsBut s s' [oHLMMBDB] ∧ { s' with bar0 := s.bar0, tiles := s.tiles } = s) ∧
        (∀ t n, ts = [t] → bad = [(t, n)] → 4 ≤ n → tileDrained s t = true → isOut s (.tile t) = false →
          ∃ s', exec (.broadcastTileFirmware ⟨rect, bad⟩) s = .next s' ∧ (ResetDomain.tile t, 3) ∈ s'.head.out ∧ tileOf s' t = tileOf s t ∧
            regB s' oHLMMBDB 62 = true) ∧
        ((∃ t ∈ ts, tileDrained s t = false) →
          ∃ s', exec (.broadcastTileFirmware ⟨rect, bad⟩) s = .next s' ∧ MailReply s s' 5 [] [] ∧ only s')) ∧
      (∀ i, ∃ s', exec (.readEventLog i) s = .next s' ∧ only s' ∧
        MailReply s s' (if i < f.log.length then 0 else 1)
          (leBytes 8 (reg s oTHMREC).toNat ++ (if i < f.log.length then leBytes 8 (f.log.getD i 0).toNat else [])) [])) ∧
    (∀ d, s.power.aon = true → s.head.inReset = false → regB s oHLMSTAT 17 = true → domainHere s d = true → isOut s d = false →
      s.head.sramErr = [] →
      let poll (s' : State) (n : Nat) : Prop := pollCount s' d = n ∧ (∀ e ≠ d, pollCount s' e = pollCount s e) ∧ { s' with head := s.head } = s
      (∃ s', exec (.unitPoll d true) s = .next s' ∧ poll s' 0) ∧
      (pollCount s d < 7 → ∃ s', exec (.unitPoll d false) s = .next s' ∧ poll s' (pollCount s d + 1)) ∧
      (∀ t, d = .tile t → 7 ≤ pollCount s d → genBusy s d = false →
        ∃ s', exec (.unitPoll d false) s = .next s' ∧ (d, 2) ∈ s'.head.out ∧ d ∈ s'.resetting ∧ pollCount s' d = 0 ∧ s'.irqs.getLast? = some (0, 8)))

/-! ### Resets and replays (chapter 14) -/

/-- TILE_RESET, STACK_RESET, PARTITION_RESET, VF_FLR, IO_DIE_RESET, DOMAIN_RESET_DONE, ENGINE_FAULT_REPLAY and
REPLAY_CONTEXT_END (R226, R287, R370 to R374, R377, R378): a domain in reset is clear and of the next generation, it comes back
into service, a replay ends in a report, and the reset that reaches THRESH takes its instance out of service. No message is
on its way in the states spoken of. -/
def Obligations.Resets : Prop :=
  ∀ (s : State), (∀ t, (tileOf s t).sends = []) →
    let bumped (s' : State) (d : ResetDomain) : Prop := genOf s' d = genOf s d + 1 ∧ d ∈ s'.resetting
    (∀ t, tileFitted s.asm t = true → genBusy s (.tile t) = false → launchesOn s t = [] → (∀ u ∈ s.upds, u.t ≠ t) → (∀ x ∈ s.txns, x.ledger = 0) →
      (∀ b ∈ s.ras.bists, ¬ (b.unit = stackOf s.asm t ∧ b.kind ≤ 1)) →
      ∃ s', exec (.tileReset t) s = .next s' ∧ bumped s' (.tile t) ∧
        tileOf s' t = { Tile.reset with
          cls := (tileOf s t).cls
          cells := (tileOf s t).cells
          rels := (tileOf s t).rels
          fwBusy := (tileOf s t).fwBusy
          fw := (tileOf s t).fw } ∧
        (∀ u ≠ t, tileOf s' u = tileOf s u) ∧
        (∀ o, (tilBase t ≤ o ∧ o < tilBase t + 0x1000 → o ∉ [oCUPCTL t, oSHADOWA t, oSHADOWB t] → reg s' o = regReset s.asm o) ∧
          (o < tilBase t ∨ tilBase t + 0x1000 ≤ o ∨ o ∈ [oCUPCTL t, oSHADOWA t, oSHADOWB t] → o ≠ oBWREVT → reg s' o = reg s o)) ∧
        { s' with bar0 := s.bar0, tiles := s.tiles, gens := s.gens, resetting := s.resetting } = s) ∧
    (∀ st, st < crests s.asm → genBusy s (.stack st) = false → (∀ t ∈ tilesOfStack s st, launchesOn s t = []) → s.fills = [] →
      ∃ s', exec (.stackReset st) s = .next s' ∧ bumped s' (.stack st) ∧
        (∀ t ∈ tilesOfStack s st, (tileOf s' t).groups = [] ∧ (tileOf s' t).arrays = [] ∧ (tileOf s' t).mem = []) ∧
        (∀ k < 16, (sliceOf s' st k).lines = [] ∧ (sliceOf s' st k).mb = [] ∧ (sliceOf s' st k).wb = []) ∧
        (∀ b ∈ s'.ras.bists, b.unit ≠ st ∧ b.unit ≠ 16 + st) ∧ s'.parts = s.parts ∧ s'.hostMem = s.hostMem) ∧
    (∀ p, p < 8 → p < totalVFs s.asm → pState s p ≠ 6 → genBusy s (.part p) = false →
      let gone (s' : State) : Prop := bumped s' (.part p) ∧ pState s' p = pState s p ∧
        partOf s' p = { Part.reset with serial := (partOf s p).serial } ∧ (∀ n < 16, regB s' (oSQB p n) 63 = false ∧ regB s' (oCQB p n) 63 = false) ∧
        (∀ q ≠ p, partOf s' q = partOf s q) ∧ s'.hostMem = s.hostMem
      (∃ s', exec (.partitionReset p) s = .next s' ∧ gone s') ∧ (NoEscalation s → ∃ s', exec (.vfFlr (p + 1)) s = .next s' ∧ gone s')) ∧
    (∀ p, p < totalVFs s.asm → pState s p = 6 → exec (.partitionReset p) s = .next s ∧ exec (.vfFlr (p + 1)) s = .next s) ∧
    (∀ d, d ≠ 0 → d < ioDies s.asm → genBusy s (.ioDie d) = false → NoEscalation s →
      ∃ s', exec (.ioDieReset d) s = .next s' ∧ bumped s' (.ioDie d) ∧ regB s' oRASUE 63 = true ∧ (∀ e ∈ s'.ras.scans, e.1 / 8 ≠ d) ∧
        ∀ c ∈ ctrlList s.asm, c / 2 = d → (ctrlOf s' c).stopped = true ∧ (ctrlOf s' c).run = none) ∧
    (∀ d, d ∉ s.resetting → exec (.domainResetDone d) s = .next s) ∧
    (∀ d, d ∈ s.resetting →
      let left := s.resetting.filter (fun e => e != d)
      ((∃ t, d = .tile t) ∨ (∃ k, d = .stack k) ∨ (∃ q, d = .port q) ∨ d = .device →
        exec (.domainResetDone d) s = .next { s with resetting := left }) ∧
      (∀ c, d = .ctrl c → ∃ s', exec (.domainResetDone d) s = .next s' ∧ s'.resetting = left ∧ (ctrlOf s' c).stopped = false ∧
        (regB s' (oMEMSTAT c) 2 = true ↔ ∀ k < 64, regF s (oPCH c k) 3 2 ≠ 3) ∧ RegsBut s s' [oMEMSTAT c] ∧ (∀ i ≠ c, ctrlOf s' i = ctrlOf s i)) ∧
      (∀ k, d = .ioDie k → ∃ s', exec (.domainResetDone d) s = .next s' ∧ s'.resetting = left ∧
        (∀ c ∈ ctrlList s.asm, c / 2 = k → (ctrlOf s' c).stopped = false) ∧ RegsBut s s' ((ctrlList s.asm).map oMEMSTAT) ∧
        { s' with bar0 := s.bar0, ctrls := s.ctrls, resetting := s.resetting } = s) ∧
      (∀ p, d = .part p → pState s p ≠ 6 → (partOf s p).replay = none → ∃ s', exec (.domainResetDone d) s = .next s' ∧ s'.resetting = left ∧
        pState s' p = (if partValid s p = true ∧ (∀ st ∈ s.head.unusable, ownsStack s p st = false) then 1 else 0) ∧
        RegsBut s s' [oPSTAT p] ∧ { s' with bar0 := s.bar0, resetting := s.resetting } = s)) ∧
    (∀ p r, p < 8 → p < totalVFs s.asm → (partOf s p).replay = some r → pState s p = 4 → s.head.inReset = false → s.stalled = false →
      genBusy s (.part p) = false →
      bit r.report.toNat 63 = false → r.ctxs.length ≤ 64 → (∀ c ∈ r.ctxs, c.entry.length = 128) →
      let ends (s' : State) (outcome : Nat) : Prop := pState s' p = 5 ∧ s'.irqs.getLast? = some (vectorOf s p 48) ∧ (partOf s' p).replay = none ∧
        (partOf s' p).quarantine = false ∧ p ∉ s'.head.replays ∧ regF s' (oRPT p 0) 7 0 = outcome ∧ regF s' (oRPT p 0) 15 8 = r.cause % 256 ∧
        regF s' (oRPT p 0) 31 16 = r.ctxs.length
      (s.power.aon = true → s.head.replays.head? = some p → r.running = false → (∀ e ∈ s.parts, e.2.quarantine = false) → (partOf s p).cmds = [] →
        (∀ c ∈ r.ctxs, replayable c = false) → ∃ s', exec (.engineFaultReplay p) s = .next s' ∧ ends s' 2) ∧
      (∀ v, r.running = true → r.ended = some v → r.place < r.ctxs.length →
        (v = 2 ∨ v = 22 → ∃ s', exec (.replayContextEnd p (v % 16)) s = .next s' ∧ ends s' 1 ∧
          regF s' (oRPT p (8 + 2 * r.place)) 55 48 = 1) ∧
        (v ≠ 2 → v ≠ 22 → (∀ i c, r.place < i → r.ctxs[i]? = some c → replayable c = false) →
          ∃ s', exec (.replayContextEnd p (v % 16)) s = .next s' ∧ ends s' 2 ∧ regF s' (oRPT p (8 + 2 * r.place)) 55 48 = 2))) ∧
    (∀ p, p < 8 → partValid s p = true → canWrite s 0 (hstPage p + 0x18) = true → pState s p = 2 → (partOf s p).cmds = [] → (partOf s p).quarantine = false →
      regB s oHLMSTAT 17 = true → regF s oESCCFG 7 0 = 1 → isOut s (.part p) = false →
      ∃ s', exec (.hang 0 p) s = .next s' ∧ pState s' p = 6 ∧ (ResetDomain.part p, 1) ∈ s'.head.out ∧ s'.irqs = s.irqs ++ [vectorOf s p 48, (0, 8)])

/-! ### Registers and commands -/

/-- REGISTER_WRITE (R9 to R11, R29, Table 0.4): only an aligned write of 64 bits to a register that the function may write has an
effect; each field takes what its access code lets through, and the bits that no field holds keep their value, those that start
something too. -/
def Obligations.RegisterWrites : Prop :=
  (∀ (fn off width : Nat) (v : BitVec 64) (s : State),
    (width ≠ 8 ∨ off % 8 ≠ 0 ∨ regDesc s.asm off = none ∨ canWrite s fn off = false ∨ s.power.aon = false →
      exec (.registerWrite fn off width v) s = .next s) ∧
    (writeIgnored s off = true → exec (.registerWrite fn off width v) s = .next s) ∧
    (∀ d, off % 8 = 0 → regDesc s.asm off = some d → canWrite s fn off = true → s.power.aon = true → writeIgnored s off = false →
      ∃ s1, reg s1 off = writeAlso off (reg s off) (written d fn (reg s off) v) ∧ RegsBut s s1 [off] ∧ { s1 with bar0 := s.bar0 } = s ∧
        exec (.registerWrite fn off 8 v) s = .next (afterWrite s1 off) ∧
        (pageOf off = none → ¬ (0x5F_0000 ≤ off ∧ off < 0x60_0000) → afterWrite s1 off = s1) ∧
        (∀ p, pageOf off = some p → (partOf s p).waiting = [] → (∀ j, entriesOf s p j = []) → p = 8 ∨ pState s1 p ≠ 3 → afterWrite s1 off = s1))) ∧
  (∀ (fn hi lo : Nat) (v r : DWord), hi < 64 → lo ≤ hi →
    let new (a : Acc0) : DWord := writeField fn v r (hi, lo, a)
    (∀ a, ∀ i < 64, i < lo ∨ hi < i → bit (new a).toNat i = bit r.toNat i) ∧
    (∀ i, lo ≤ i → i ≤ hi →
      bit (new .rw).toNat i = bit v.toNat i ∧ bit (new .rw1c).toNat i = (bit r.toNat i && !bit v.toNat i) ∧ new .rl = r ∧
      bit (new .rwPf).toNat i = (if fn = 0 then bit v.toNat i else bit r.toNat i) ∧
      bit (new .stPf).toNat i = (if fn = 0 then bit v.toNat i else bit r.toNat i)))

/-- A step runs the command at the front of the queue on the state with the queue's rest, whatever the command. -/
def Obligations.StepRunsFront : Prop :=
  ∀ (c : Instr) (rest : List Instr) (s : State), s.pending = c :: rest → step s = exec c { s with pending := rest }

/-- Every command that is well formed has an effect: it never stops the block. A command that is not well formed stops it
only where the word of a tile instruction is the word of another row of the opcode tables (the model's own refusal). -/
def Obligations.EveryCommandAnswers : Prop :=
  ∀ (c : Instr) (s : State),
    (∀ a, Instr.wf a c = true → ∃ s', exec c s = .next s') ∧
    ((∃ s', exec c s = .next s') ∨ ∃ m, exec c s = .refused (.otherWord m))

/-- The machine right after VDD_AON has risen (R237, R257, R308, R360 to R362, Tables 0.2, 9.4, 12.6, 14.10): reported time is 0
and FREE, the Flood sequence stands at step 2, bring-up runs its stage 0, no register differs from its table's reset value,
nothing is in any unit, and no interrupt is signalled. -/
def Obligations.ResetState : Prop :=
  let s := State.reset
  IdentityHolds s ∧ (∀ o, reg s o = regReset s.asm o) ∧ nowStep s = 0 ∧ nowTick s = 0 ∧ tgState s = 0 ∧ stageNow s = 0 ∧
  s.head.running = true ∧ regB s oHLMSTAT 17 = false ∧ s.power.flood = 2 ∧ s.power.ebb = 0 ∧ s.tiles = [] ∧ s.shelf = [] ∧ s.parts = [] ∧
  s.ports = [] ∧ s.irqs = [] ∧ s.pending = [] ∧ s.stalled = false ∧ (∀ t n, (grp s t n).st = .free) ∧ (∀ p < 48, portState s p = 0) ∧ ∀ p < 8, pState s p = 0

/-- Whatever a step does, the identity registers go on reading as their tables say, the assembly stays the one it is, and
the queue loses its front command and nothing else; the model's own mark of a stalled access is clear between commands. -/
def Obligations.IdentityKept : Prop :=
  ∀ (s s' : State), IdentityHolds s → step s = .next s' → IdentityHolds s' ∧ s'.asm = s.asm ∧ s'.pending = s.pending.drop 1 ∧
    (s.stalled = false → s'.stalled = false)

/-- Tile instruction words written out bit by bit from Tables 4.2, 4.3, 4.7 and 4.8 are read as the instructions they stand
for: IADD w3, w1, w2; FFMA w3, w4, w5, w5; STT of SIZE 2 from w1 at w20 + 16; IF under p1; RECV on queue 2; AMUL on array 1;
SREAD of selector 0x0C; an unassigned word of class R and a word of class 0b111 are no instruction. -/
def Obligations.TileWords : Prop :=
  ∀ (t slot : Nat),
    let R : DWord := 0b000_00000_000_0_0000011_0000001_0000010_0000000_00000000_0000000000000000
    let F : DWord := 0b000_10011_000_0_0000011_0000100_0000101_0000101_00000000_0000000000000000
    let M : DWord := 0b010_00001_000_0_0000001_0010100_010_000_00000000_000000000000000000010000
    let C : DWord := 0b011_00001_001_0_0000000000000_0000_000_00000000000000000000000000000011
    let X : DWord := 0b100_00001_0000_0001000_0011000_010_00000000000000000000000000000000000
    let A : DWord := 0b101_00010_01_0000_0000_0000000_0100000_0110000_000000001000_0000000000000
    let S : DWord := 0b110_00000_0000_0001010_0000000_001100_00000000000000000000000000000000
    let U : DWord := 0b000_11111_000_0_0000000_0000000_0000000_0000000_00000000_0000000000000000
    let V : DWord := 0b111_00000_000_0_0000000_0000000_0000000_0000000_00000000_0000000000000000
    tileDecode t slot R = some (.iadd t slot R) ∧ tileDecode t slot F = some (.ffma t slot F) ∧
    tileDecode t slot M = some (.stt t slot M) ∧ tileDecode t slot C = some (.ifC t slot C) ∧
    tileDecode t slot X = some (.recv t slot X) ∧ tileDecode t slot A = some (.amul t slot A) ∧
    tileDecode t slot S = some (.sread t slot S) ∧ tileDecode t slot U = none ∧ tileDecode t slot V = none ∧
    (wWD R = 3 ∧ wWA R = 1 ∧ wWB R = 2) ∧ (wWD F = 3 ∧ wWA F = 4 ∧ wWB F = 5 ∧ wWC F = 5 ∧ wMOD F = 0) ∧
    (wWD M = 1 ∧ wWA M = 20 ∧ sizeBytes M = 4) ∧ (wTGT C = 3) ∧ (wWD X = 8 ∧ wWA X = 24 ∧ wQ X = 2) ∧ (wWD S = 10 ∧ wSEL S = 0x0C)
end

