-- ==== Sys2Proof/Laws/Maps.lean ====
section
/-! SUPPORT. Laws of sparse maps and byte memories: read after write, and every write keeps the canonical form. -/

namespace Sys2Proof.Machine

variable {α : Type}

/-! ### Reading after a change -/

@[simp] theorem SMap.get_nil (d : α) (i : Nat) : SMap.get d [] i = d := rfl

theorem SMap.get_cons (d : α) (k : Nat) (v : α) (m : SMap α) (i : Nat) :
    SMap.get d ((k, v) :: m) i = if k = i then v else SMap.get d m i := rfl

@[simp] theorem SMap.get_del_self (d : α) (m : SMap α) (i : Nat) : SMap.get d (SMap.del m i) i = d := by
  induction m with
  | nil => rfl
  | cons e m ih =>
    obtain ⟨k, v⟩ := e
    by_cases h : k = i <;> simp_all [SMap.del, SMap.get]

theorem SMap.get_del_ne (d : α) (m : SMap α) {i j : Nat} (h : j ≠ i) :
    SMap.get d (SMap.del m i) j = SMap.get d m j := by
  induction m with
  | nil => rfl
  | cons e m ih =>
    obtain ⟨k, v⟩ := e
    by_cases hk : k = i
    · subst hk
      have : ¬ k = j := fun hh => h hh.symm
      simp_all [SMap.del, SMap.get]
    · by_cases hj : k = j <;> simp_all [SMap.del, SMap.get]

theorem SMap.get_ins_ne (d : α) (m : SMap α) {i j : Nat} (v : α) (h : j ≠ i) :
    SMap.get d (SMap.ins i v m) j = SMap.get d m j := by
  induction m with
  | nil => simp [SMap.ins, SMap.get, h.symm]
  | cons e m ih =>
    obtain ⟨k, w⟩ := e
    by_cases hk : i < k
    · simp [SMap.ins, SMap.get, hk, h.symm]
    · rw [SMap.ins, if_neg hk]
      by_cases hj : k = j <;> simp [SMap.get, hj, ih]

theorem SMap.get_ins_self (d : α) (m : SMap α) (i : Nat) (v : α) (h : ∀ e ∈ m, e.1 ≠ i) :
    SMap.get d (SMap.ins i v m) i = v := by
  induction m with
  | nil => simp [SMap.ins, SMap.get]
  | cons e m ih =>
    obtain ⟨k, w⟩ := e
    have hk : k ≠ i := h (k, w) (by simp)
    by_cases hl : i < k
    · simp [SMap.ins, SMap.get, hl]
    · simp only [SMap.ins, hl, if_false, SMap.get, hk]
      exact ih (fun e he => h e (by simp [he]))

theorem SMap.del_ne (m : SMap α) (i : Nat) : ∀ e ∈ SMap.del m i, e.1 ≠ i := by
  intro e he
  simp only [SMap.del, List.mem_filter] at he
  simpa using he.2

@[simp] theorem SMap.get_set_self [DecidableEq α] (d : α) (m : SMap α) (i : Nat) (v : α) :
    SMap.get d (SMap.set d m i v) i = v := by
  unfold SMap.set
  split
  · next h => rw [SMap.get_del_self, h]
  · exact SMap.get_ins_self d _ i v (SMap.del_ne m i)

theorem SMap.get_set_ne [DecidableEq α] (d : α) (m : SMap α) {i j : Nat} (v : α) (h : j ≠ i) :
    SMap.get d (SMap.set d m i v) j = SMap.get d m j := by
  unfold SMap.set
  split
  · exact SMap.get_del_ne d m h
  · rw [SMap.get_ins_ne d _ v h, SMap.get_del_ne d m h]

/-- Read after write, in one equation. -/
theorem SMap.get_set [DecidableEq α] (d : α) (m : SMap α) (i j : Nat) (v : α) :
    SMap.get d (SMap.set d m i v) j = if j = i then v else SMap.get d m j := by
  split
  · next h => rw [h, SMap.get_set_self]
  · next h => exact SMap.get_set_ne d m v h

/-! ### The canonical form -/

/-- Every key of the map is above i. -/
def SMap.above (i : Nat) (m : SMap α) : Prop := ∀ e ∈ m, i < e.1

/-- The canonical form as rising keys and entries that differ from the default. -/
theorem SMap.wf_iff [DecidableEq α] (d : α) (m : SMap α) :
    SMap.wf d m = true ↔ (m.Pairwise (fun a b => a.1 < b.1)) ∧ ∀ e ∈ m, e.2 ≠ d := by
  induction m with
  | nil => simp [SMap.wf]
  | cons e m ih =>
    obtain ⟨k, v⟩ := e
    cases m with
    | nil => simp [SMap.wf]
    | cons e' m' =>
      obtain ⟨k', v'⟩ := e'
      simp only [SMap.wf, Bool.and_eq_true, decide_eq_true_eq, bne_iff_ne, ih, List.pairwise_cons, List.mem_cons,
        forall_eq_or_imp]
      constructor
      · rintro ⟨⟨hv, hk⟩, ⟨h1, h2⟩, h3, h4⟩
        exact ⟨⟨⟨hk, fun a ha => lt_trans hk (h1 a ha)⟩, h1, h2⟩, hv, h3, h4⟩
      · rintro ⟨⟨⟨hk, _⟩, h1, h2⟩, hv, h3, h4⟩
        exact ⟨⟨hv, hk⟩, ⟨h1, h2⟩, h3, h4⟩

theorem SMap.wf_del [DecidableEq α] (d : α) (m : SMap α) (i : Nat) (h : SMap.wf d m = true) :
    SMap.wf d (SMap.del m i) = true := by
  rw [SMap.wf_iff] at h ⊢
  exact ⟨h.1.filter _, fun e he => h.2 e (List.mem_filter.1 he).1⟩

theorem SMap.mem_ins (i : Nat) (v : α) (m : SMap α) (e : Nat × α) (h : e ∈ SMap.ins i v m) : e = (i, v) ∨ e ∈ m := by
  induction m with
  | nil => simpa [SMap.ins] using h
  | cons x m ih =>
    obtain ⟨k, w⟩ := x
    by_cases hk : i < k
    · simpa [SMap.ins, hk] using h
    · simp only [SMap.ins, hk, if_false, List.mem_cons] at h ⊢
      rcases h with h | h
      · exact Or.inr (Or.inl h)
      · exact (ih h).imp id Or.inr

theorem SMap.ins_sorted (i : Nat) (v : α) (m : SMap α) (h : m.Pairwise (fun a b => a.1 < b.1))
    (hi : ∀ e ∈ m, e.1 ≠ i) : (SMap.ins i v m).Pairwise (fun a b => a.1 < b.1) := by
  induction m with
  | nil => simp [SMap.ins]
  | cons x m ih =>
    obtain ⟨k, w⟩ := x
    rw [List.pairwise_cons] at h
    have hk : k ≠ i := hi (k, w) (by simp)
    by_cases hl : i < k
    · rw [SMap.ins, if_pos hl, List.pairwise_cons, List.pairwise_cons]
      refine ⟨fun a ha => ?_, h⟩
      rcases List.mem_cons.1 ha with rfl | ha
      · exact hl
      · exact lt_trans hl (h.1 a ha)
    · simp only [SMap.ins, hl, if_false, List.pairwise_cons]
      refine ⟨fun a ha => ?_, ih h.2 (fun e he => hi e (by simp [he]))⟩
      rcases SMap.mem_ins i v m a ha with rfl | ha
      · show k < i
        omega
      · exact h.1 a ha

theorem SMap.wf_set [DecidableEq α] (d : α) (m : SMap α) (i : Nat) (v : α) (h : SMap.wf d m = true) :
    SMap.wf d (SMap.set d m i v) = true := by
  unfold SMap.set
  split
  · exact SMap.wf_del d m i h
  · next hv =>
    have hd := SMap.wf_del d m i h
    rw [SMap.wf_iff] at hd ⊢
    refine ⟨SMap.ins_sorted i v _ hd.1 (SMap.del_ne m i), fun e he => ?_⟩
    rcases SMap.mem_ins i v _ e he with rfl | he
    · exact hv
    · exact hd.2 e he

/-! ### Byte memories -/

@[simp] theorem Mem.byte_set_self (m : List Host.Cell) (a : Nat) (b : Byte) : Mem.byte (Mem.set m a b) a = b :=
  SMap.get_set_self 0 m a b

theorem Mem.byte_set_ne (m : List Host.Cell) {a c : Nat} (b : Byte) (h : c ≠ a) :
    Mem.byte (Mem.set m a b) c = Mem.byte m c := SMap.get_set_ne 0 m b h

theorem Mem.wf_set (m : List Host.Cell) (a : Nat) (b : Byte) (h : Mem.wf m = true) : Mem.wf (Mem.set m a b) = true :=
  SMap.wf_set 0 m a b h

theorem Mem.wf_write (bs : List Byte) : ∀ (m : List Host.Cell) (a : Nat), Mem.wf m = true → Mem.wf (Mem.write m a bs) = true := by
  induction bs with
  | nil => exact fun m a h => h
  | cons b bs ih => exact fun m a h => ih _ _ (Mem.wf_set m a b h)

theorem Mem.wf_cells (cs : List Host.Cell) : ∀ m : List Host.Cell, Mem.wf m = true → Mem.wf (Mem.cells m cs) = true := by
  induction cs with
  | nil => exact fun m h => h
  | cons c cs ih => exact fun m h => ih _ (Mem.wf_set m c.1 c.2 h)

/-- A write leaves every byte outside it alone. -/
theorem Mem.byte_write_out (bs : List Byte) : ∀ (m : List Host.Cell) (a c : Nat), (c < a ∨ a + bs.length ≤ c) →
    Mem.byte (Mem.write m a bs) c = Mem.byte m c := by
  induction bs with
  | nil => exact fun _ _ _ _ => rfl
  | cons b bs ih =>
    intro m a c h
    simp only [List.length_cons] at h
    show Mem.byte (Mem.write (Mem.set m a b) (a + 1) bs) c = _
    rw [ih _ _ _ (by omega), Mem.byte_set_ne m b (by omega)]

/-- A write leaves its bytes. -/
theorem Mem.byte_write_in (bs : List Byte) : ∀ (m : List Host.Cell) (a i : Nat) (h : i < bs.length),
    Mem.byte (Mem.write m a bs) (a + i) = bs[i] := by
  induction bs with
  | nil => exact fun _ _ _ h => absurd h (by simp)
  | cons b bs ih =>
    intro m a i h
    show Mem.byte (Mem.write (Mem.set m a b) (a + 1) bs) (a + i) = _
    cases i with
    | zero => rw [Mem.byte_write_out _ _ _ _ (by omega)]; simp
    | succ i =>
      have := ih (Mem.set m a b) (a + 1) i (by simpa using h)
      simpa [Nat.add_assoc, Nat.add_comm 1 i] using this

/-- The bytes just written are read back. -/
theorem Mem.read_write (m : List Host.Cell) (a : Nat) (bs : List Byte) : Mem.read (Mem.write m a bs) a bs.length = bs := by
  apply List.ext_getElem
  · simp [Mem.read]
  · intro i h1 h2
    simp only [Mem.read, List.getElem_map, List.getElem_range]
    exact Mem.byte_write_in bs m a i h2

end Sys2Proof.Machine
end

