-- ==== Sys2Proof/Laws/State.lean ====
section
/-! SUPPORT. What each named update of the state leaves alone and what it sets: one lemma per field, true by `rfl`, so no
proof unfolds a record update. -/

namespace Sys2Proof.Machine

/-! ### setReg -/

@[simp] theorem setReg_asm (s : State) (o : Nat) (v : DWord) : (setReg s o v).asm = s.asm := rfl
@[simp] theorem setReg_pending (s : State) (o : Nat) (v : DWord) : (setReg s o v).pending = s.pending := rfl
@[simp] theorem setReg_fresh (s : State) (o : Nat) (v : DWord) : (setReg s o v).fresh = s.fresh := rfl
@[simp] theorem setReg_bar0 (s : State) (o : Nat) (v : DWord) : (setReg s o v).bar0 = SMap.set (regReset s.asm o) s.bar0 o v := rfl
@[simp] theorem setReg_tiles (s : State) (o : Nat) (v : DWord) : (setReg s o v).tiles = s.tiles := rfl
@[simp] theorem setReg_shelf (s : State) (o : Nat) (v : DWord) : (setReg s o v).shelf = s.shelf := rfl
@[simp] theorem setReg_fills (s : State) (o : Nat) (v : DWord) : (setReg s o v).fills = s.fills := rfl
@[simp] theorem setReg_upds (s : State) (o : Nat) (v : DWord) : (setReg s o v).upds = s.upds := rfl
@[simp] theorem setReg_ctrls (s : State) (o : Nat) (v : DWord) : (setReg s o v).ctrls = s.ctrls := rfl
@[simp] theorem setReg_dram (s : State) (o : Nat) (v : DWord) : (setReg s o v).dram = s.dram := rfl
@[simp] theorem setReg_dramErr (s : State) (o : Nat) (v : DWord) : (setReg s o v).dramErr = s.dramErr := rfl
@[simp] theorem setReg_hostMem (s : State) (o : Nat) (v : DWord) : (setReg s o v).hostMem = s.hostMem := rfl
@[simp] theorem setReg_txns (s : State) (o : Nat) (v : DWord) : (setReg s o v).txns = s.txns := rfl
@[simp] theorem setReg_nextId (s : State) (o : Nat) (v : DWord) : (setReg s o v).nextId = s.nextId := rfl
@[simp] theorem setReg_gens (s : State) (o : Nat) (v : DWord) : (setReg s o v).gens = s.gens := rfl
@[simp] theorem setReg_resetting (s : State) (o : Nat) (v : DWord) : (setReg s o v).resetting = s.resetting := rfl
@[simp] theorem setReg_tg (s : State) (o : Nat) (v : DWord) : (setReg s o v).tg = s.tg := rfl
@[simp] theorem setReg_ports (s : State) (o : Nat) (v : DWord) : (setReg s o v).ports = s.ports := rfl
@[simp] theorem setReg_surf (s : State) (o : Nat) (v : DWord) : (setReg s o v).surf = s.surf := rfl
@[simp] theorem setReg_peers (s : State) (o : Nat) (v : DWord) : (setReg s o v).peers = s.peers := rfl
@[simp] theorem setReg_parts (s : State) (o : Nat) (v : DWord) : (setReg s o v).parts = s.parts := rfl
@[simp] theorem setReg_irqs (s : State) (o : Nat) (v : DWord) : (setReg s o v).irqs = s.irqs := rfl
@[simp] theorem setReg_hostReads (s : State) (o : Nat) (v : DWord) : (setReg s o v).hostReads = s.hostReads := rfl
@[simp] theorem setReg_hostReqs (s : State) (o : Nat) (v : DWord) : (setReg s o v).hostReqs = s.hostReqs := rfl
@[simp] theorem setReg_stalled (s : State) (o : Nat) (v : DWord) : (setReg s o v).stalled = s.stalled := rfl
@[simp] theorem setReg_prevCfg (s : State) (o : Nat) (v : DWord) : (setReg s o v).prevCfg = s.prevCfg := rfl
@[simp] theorem setReg_power (s : State) (o : Nat) (v : DWord) : (setReg s o v).power = s.power := rfl
@[simp] theorem setReg_heat (s : State) (o : Nat) (v : DWord) : (setReg s o v).heat = s.heat := rfl
@[simp] theorem setReg_ras (s : State) (o : Nat) (v : DWord) : (setReg s o v).ras = s.ras := rfl
@[simp] theorem setReg_head (s : State) (o : Nat) (v : DWord) : (setReg s o v).head = s.head := rfl
@[simp] theorem setReg_pins (s : State) (o : Nat) (v : DWord) : (setReg s o v).pins = s.pins := rfl

/-! ### setF -/

@[simp] theorem setF_asm (s : State) (o hi lo x : Nat) : (setF s o hi lo x).asm = s.asm := rfl
@[simp] theorem setF_pending (s : State) (o hi lo x : Nat) : (setF s o hi lo x).pending = s.pending := rfl
@[simp] theorem setF_fresh (s : State) (o hi lo x : Nat) : (setF s o hi lo x).fresh = s.fresh := rfl
@[simp] theorem setF_bar0 (s : State) (o hi lo x : Nat) : (setF s o hi lo x).bar0 = SMap.set (regReset s.asm o) s.bar0 o (setFld (reg s o) hi lo x) := rfl
@[simp] theorem setF_tiles (s : State) (o hi lo x : Nat) : (setF s o hi lo x).tiles = s.tiles := rfl
@[simp] theorem setF_shelf (s : State) (o hi lo x : Nat) : (setF s o hi lo x).shelf = s.shelf := rfl
@[simp] theorem setF_fills (s : State) (o hi lo x : Nat) : (setF s o hi lo x).fills = s.fills := rfl
@[simp] theorem setF_upds (s : State) (o hi lo x : Nat) : (setF s o hi lo x).upds = s.upds := rfl
@[simp] theorem setF_ctrls (s : State) (o hi lo x : Nat) : (setF s o hi lo x).ctrls = s.ctrls := rfl
@[simp] theorem setF_dram (s : State) (o hi lo x : Nat) : (setF s o hi lo x).dram = s.dram := rfl
@[simp] theorem setF_dramErr (s : State) (o hi lo x : Nat) : (setF s o hi lo x).dramErr = s.dramErr := rfl
@[simp] theorem setF_hostMem (s : State) (o hi lo x : Nat) : (setF s o hi lo x).hostMem = s.hostMem := rfl
@[simp] theorem setF_txns (s : State) (o hi lo x : Nat) : (setF s o hi lo x).txns = s.txns := rfl
@[simp] theorem setF_nextId (s : State) (o hi lo x : Nat) : (setF s o hi lo x).nextId = s.nextId := rfl
@[simp] theorem setF_gens (s : State) (o hi lo x : Nat) : (setF s o hi lo x).gens = s.gens := rfl
@[simp] theorem setF_resetting (s : State) (o hi lo x : Nat) : (setF s o hi lo x).resetting = s.resetting := rfl
@[simp] theorem setF_tg (s : State) (o hi lo x : Nat) : (setF s o hi lo x).tg = s.tg := rfl
@[simp] theorem setF_ports (s : State) (o hi lo x : Nat) : (setF s o hi lo x).ports = s.ports := rfl
@[simp] theorem setF_surf (s : State) (o hi lo x : Nat) : (setF s o hi lo x).surf = s.surf := rfl
@[simp] theorem setF_peers (s : State) (o hi lo x : Nat) : (setF s o hi lo x).peers = s.peers := rfl
@[simp] theorem setF_parts (s : State) (o hi lo x : Nat) : (setF s o hi lo x).parts = s.parts := rfl
@[simp] theorem setF_irqs (s : State) (o hi lo x : Nat) : (setF s o hi lo x).irqs = s.irqs := rfl
@[simp] theorem setF_hostReads (s : State) (o hi lo x : Nat) : (setF s o hi lo x).hostReads = s.hostReads := rfl
@[simp] theorem setF_hostReqs (s : State) (o hi lo x : Nat) : (setF s o hi lo x).hostReqs = s.hostReqs := rfl
@[simp] theorem setF_stalled (s : State) (o hi lo x : Nat) : (setF s o hi lo x).stalled = s.stalled := rfl
@[simp] theorem setF_prevCfg (s : State) (o hi lo x : Nat) : (setF s o hi lo x).prevCfg = s.prevCfg := rfl
@[simp] theorem setF_power (s : State) (o hi lo x : Nat) : (setF s o hi lo x).power = s.power := rfl
@[simp] theorem setF_heat (s : State) (o hi lo x : Nat) : (setF s o hi lo x).heat = s.heat := rfl
@[simp] theorem setF_ras (s : State) (o hi lo x : Nat) : (setF s o hi lo x).ras = s.ras := rfl
@[simp] theorem setF_head (s : State) (o hi lo x : Nat) : (setF s o hi lo x).head = s.head := rfl
@[simp] theorem setF_pins (s : State) (o hi lo x : Nat) : (setF s o hi lo x).pins = s.pins := rfl

/-! ### addSat -/

@[simp] theorem addSat_asm (s : State) (o hi lo n : Nat) : (addSat s o hi lo n).asm = s.asm := rfl
@[simp] theorem addSat_pending (s : State) (o hi lo n : Nat) : (addSat s o hi lo n).pending = s.pending := rfl
@[simp] theorem addSat_fresh (s : State) (o hi lo n : Nat) : (addSat s o hi lo n).fresh = s.fresh := rfl
@[simp] theorem addSat_tiles (s : State) (o hi lo n : Nat) : (addSat s o hi lo n).tiles = s.tiles := rfl
@[simp] theorem addSat_shelf (s : State) (o hi lo n : Nat) : (addSat s o hi lo n).shelf = s.shelf := rfl
@[simp] theorem addSat_fills (s : State) (o hi lo n : Nat) : (addSat s o hi lo n).fills = s.fills := rfl
@[simp] theorem addSat_upds (s : State) (o hi lo n : Nat) : (addSat s o hi lo n).upds = s.upds := rfl
@[simp] theorem addSat_ctrls (s : State) (o hi lo n : Nat) : (addSat s o hi lo n).ctrls = s.ctrls := rfl
@[simp] theorem addSat_dram (s : State) (o hi lo n : Nat) : (addSat s o hi lo n).dram = s.dram := rfl
@[simp] theorem addSat_dramErr (s : State) (o hi lo n : Nat) : (addSat s o hi lo n).dramErr = s.dramErr := rfl
@[simp] theorem addSat_hostMem (s : State) (o hi lo n : Nat) : (addSat s o hi lo n).hostMem = s.hostMem := rfl
@[simp] theorem addSat_txns (s : State) (o hi lo n : Nat) : (addSat s o hi lo n).txns = s.txns := rfl
@[simp] theorem addSat_nextId (s : State) (o hi lo n : Nat) : (addSat s o hi lo n).nextId = s.nextId := rfl
@[simp] theorem addSat_gens (s : State) (o hi lo n : Nat) : (addSat s o hi lo n).gens = s.gens := rfl
@[simp] theorem addSat_resetting (s : State) (o hi lo n : Nat) : (addSat s o hi lo n).resetting = s.resetting := rfl
@[simp] theorem addSat_tg (s : State) (o hi lo n : Nat) : (addSat s o hi lo n).tg = s.tg := rfl
@[simp] theorem addSat_ports (s : State) (o hi lo n : Nat) : (addSat s o hi lo n).ports = s.ports := rfl
@[simp] theorem addSat_surf (s : State) (o hi lo n : Nat) : (addSat s o hi lo n).surf = s.surf := rfl
@[simp] theorem addSat_peers (s : State) (o hi lo n : Nat) : (addSat s o hi lo n).peers = s.peers := rfl
@[simp] theorem addSat_parts (s : State) (o hi lo n : Nat) : (addSat s o hi lo n).parts = s.parts := rfl
@[simp] theorem addSat_irqs (s : State) (o hi lo n : Nat) : (addSat s o hi lo n).irqs = s.irqs := rfl
@[simp] theorem addSat_hostReads (s : State) (o hi lo n : Nat) : (addSat s o hi lo n).hostReads = s.hostReads := rfl
@[simp] theorem addSat_hostReqs (s : State) (o hi lo n : Nat) : (addSat s o hi lo n).hostReqs = s.hostReqs := rfl
@[simp] theorem addSat_stalled (s : State) (o hi lo n : Nat) : (addSat s o hi lo n).stalled = s.stalled := rfl
@[simp] theorem addSat_prevCfg (s : State) (o hi lo n : Nat) : (addSat s o hi lo n).prevCfg = s.prevCfg := rfl
@[simp] theorem addSat_power (s : State) (o hi lo n : Nat) : (addSat s o hi lo n).power = s.power := rfl
@[simp] theorem addSat_heat (s : State) (o hi lo n : Nat) : (addSat s o hi lo n).heat = s.heat := rfl
@[simp] theorem addSat_ras (s : State) (o hi lo n : Nat) : (addSat s o hi lo n).ras = s.ras := rfl
@[simp] theorem addSat_head (s : State) (o hi lo n : Nat) : (addSat s o hi lo n).head = s.head := rfl
@[simp] theorem addSat_pins (s : State) (o hi lo n : Nat) : (addSat s o hi lo n).pins = s.pins := rfl

/-! ### clearReg -/

@[simp] theorem clearReg_asm (s : State) (o : Nat) : (clearReg s o).asm = s.asm := rfl
@[simp] theorem clearReg_pending (s : State) (o : Nat) : (clearReg s o).pending = s.pending := rfl
@[simp] theorem clearReg_fresh (s : State) (o : Nat) : (clearReg s o).fresh = s.fresh := rfl
@[simp] theorem clearReg_bar0 (s : State) (o : Nat) : (clearReg s o).bar0 = SMap.del s.bar0 o := rfl
@[simp] theorem clearReg_tiles (s : State) (o : Nat) : (clearReg s o).tiles = s.tiles := rfl
@[simp] theorem clearReg_shelf (s : State) (o : Nat) : (clearReg s o).shelf = s.shelf := rfl
@[simp] theorem clearReg_fills (s : State) (o : Nat) : (clearReg s o).fills = s.fills := rfl
@[simp] theorem clearReg_upds (s : State) (o : Nat) : (clearReg s o).upds = s.upds := rfl
@[simp] theorem clearReg_ctrls (s : State) (o : Nat) : (clearReg s o).ctrls = s.ctrls := rfl
@[simp] theorem clearReg_dram (s : State) (o : Nat) : (clearReg s o).dram = s.dram := rfl
@[simp] theorem clearReg_dramErr (s : State) (o : Nat) : (clearReg s o).dramErr = s.dramErr := rfl
@[simp] theorem clearReg_hostMem (s : State) (o : Nat) : (clearReg s o).hostMem = s.hostMem := rfl
@[simp] theorem clearReg_txns (s : State) (o : Nat) : (clearReg s o).txns = s.txns := rfl
@[simp] theorem clearReg_nextId (s : State) (o : Nat) : (clearReg s o).nextId = s.nextId := rfl
@[simp] theorem clearReg_gens (s : State) (o : Nat) : (clearReg s o).gens = s.gens := rfl
@[simp] theorem clearReg_resetting (s : State) (o : Nat) : (clearReg s o).resetting = s.resetting := rfl
@[simp] theorem clearReg_tg (s : State) (o : Nat) : (clearReg s o).tg = s.tg := rfl
@[simp] theorem clearReg_ports (s : State) (o : Nat) : (clearReg s o).ports = s.ports := rfl
@[simp] theorem clearReg_surf (s : State) (o : Nat) : (clearReg s o).surf = s.surf := rfl
@[simp] theorem clearReg_peers (s : State) (o : Nat) : (clearReg s o).peers = s.peers := rfl
@[simp] theorem clearReg_parts (s : State) (o : Nat) : (clearReg s o).parts = s.parts := rfl
@[simp] theorem clearReg_irqs (s : State) (o : Nat) : (clearReg s o).irqs = s.irqs := rfl
@[simp] theorem clearReg_hostReads (s : State) (o : Nat) : (clearReg s o).hostReads = s.hostReads := rfl
@[simp] theorem clearReg_hostReqs (s : State) (o : Nat) : (clearReg s o).hostReqs = s.hostReqs := rfl
@[simp] theorem clearReg_stalled (s : State) (o : Nat) : (clearReg s o).stalled = s.stalled := rfl
@[simp] theorem clearReg_prevCfg (s : State) (o : Nat) : (clearReg s o).prevCfg = s.prevCfg := rfl
@[simp] theorem clearReg_power (s : State) (o : Nat) : (clearReg s o).power = s.power := rfl
@[simp] theorem clearReg_heat (s : State) (o : Nat) : (clearReg s o).heat = s.heat := rfl
@[simp] theorem clearReg_ras (s : State) (o : Nat) : (clearReg s o).ras = s.ras := rfl
@[simp] theorem clearReg_head (s : State) (o : Nat) : (clearReg s o).head = s.head := rfl
@[simp] theorem clearReg_pins (s : State) (o : Nat) : (clearReg s o).pins = s.pins := rfl

/-! ### clearRegs -/

@[simp] theorem clearRegs_asm (s : State) (lo hi : Nat) (p : Nat → Bool) : (clearRegs s lo hi p).asm = s.asm := rfl
@[simp] theorem clearRegs_pending (s : State) (lo hi : Nat) (p : Nat → Bool) : (clearRegs s lo hi p).pending = s.pending := rfl
@[simp] theorem clearRegs_fresh (s : State) (lo hi : Nat) (p : Nat → Bool) : (clearRegs s lo hi p).fresh = s.fresh := rfl
@[simp] theorem clearRegs_bar0 (s : State) (lo hi : Nat) (p : Nat → Bool) : (clearRegs s lo hi p).bar0 = s.bar0.filter (fun e => !(lo ≤ e.1 && e.1 < hi && p e.1)) := rfl
@[simp] theorem clearRegs_tiles (s : State) (lo hi : Nat) (p : Nat → Bool) : (clearRegs s lo hi p).tiles = s.tiles := rfl
@[simp] theorem clearRegs_shelf (s : State) (lo hi : Nat) (p : Nat → Bool) : (clearRegs s lo hi p).shelf = s.shelf := rfl
@[simp] theorem clearRegs_fills (s : State) (lo hi : Nat) (p : Nat → Bool) : (clearRegs s lo hi p).fills = s.fills := rfl
@[simp] theorem clearRegs_upds (s : State) (lo hi : Nat) (p : Nat → Bool) : (clearRegs s lo hi p).upds = s.upds := rfl
@[simp] theorem clearRegs_ctrls (s : State) (lo hi : Nat) (p : Nat → Bool) : (clearRegs s lo hi p).ctrls = s.ctrls := rfl
@[simp] theorem clearRegs_dram (s : State) (lo hi : Nat) (p : Nat → Bool) : (clearRegs s lo hi p).dram = s.dram := rfl
@[simp] theorem clearRegs_dramErr (s : State) (lo hi : Nat) (p : Nat → Bool) : (clearRegs s lo hi p).dramErr = s.dramErr := rfl
@[simp] theorem clearRegs_hostMem (s : State) (lo hi : Nat) (p : Nat → Bool) : (clearRegs s lo hi p).hostMem = s.hostMem := rfl
@[simp] theorem clearRegs_txns (s : State) (lo hi : Nat) (p : Nat → Bool) : (clearRegs s lo hi p).txns = s.txns := rfl
@[simp] theorem clearRegs_nextId (s : State) (lo hi : Nat) (p : Nat → Bool) : (clearRegs s lo hi p).nextId = s.nextId := rfl
@[simp] theorem clearRegs_gens (s : State) (lo hi : Nat) (p : Nat → Bool) : (clearRegs s lo hi p).gens = s.gens := rfl
@[simp] theorem clearRegs_resetting (s : State) (lo hi : Nat) (p : Nat → Bool) : (clearRegs s lo hi p).resetting = s.resetting := rfl
@[simp] theorem clearRegs_tg (s : State) (lo hi : Nat) (p : Nat → Bool) : (clearRegs s lo hi p).tg = s.tg := rfl
@[simp] theorem clearRegs_ports (s : State) (lo hi : Nat) (p : Nat → Bool) : (clearRegs s lo hi p).ports = s.ports := rfl
@[simp] theorem clearRegs_surf (s : State) (lo hi : Nat) (p : Nat → Bool) : (clearRegs s lo hi p).surf = s.surf := rfl
@[simp] theorem clearRegs_peers (s : State) (lo hi : Nat) (p : Nat → Bool) : (clearRegs s lo hi p).peers = s.peers := rfl
@[simp] theorem clearRegs_parts (s : State) (lo hi : Nat) (p : Nat → Bool) : (clearRegs s lo hi p).parts = s.parts := rfl
@[simp] theorem clearRegs_irqs (s : State) (lo hi : Nat) (p : Nat → Bool) : (clearRegs s lo hi p).irqs = s.irqs := rfl
@[simp] theorem clearRegs_hostReads (s : State) (lo hi : Nat) (p : Nat → Bool) : (clearRegs s lo hi p).hostReads = s.hostReads := rfl
@[simp] theorem clearRegs_hostReqs (s : State) (lo hi : Nat) (p : Nat → Bool) : (clearRegs s lo hi p).hostReqs = s.hostReqs := rfl
@[simp] theorem clearRegs_stalled (s : State) (lo hi : Nat) (p : Nat → Bool) : (clearRegs s lo hi p).stalled = s.stalled := rfl
@[simp] theorem clearRegs_prevCfg (s : State) (lo hi : Nat) (p : Nat → Bool) : (clearRegs s lo hi p).prevCfg = s.prevCfg := rfl
@[simp] theorem clearRegs_power (s : State) (lo hi : Nat) (p : Nat → Bool) : (clearRegs s lo hi p).power = s.power := rfl
@[simp] theorem clearRegs_heat (s : State) (lo hi : Nat) (p : Nat → Bool) : (clearRegs s lo hi p).heat = s.heat := rfl
@[simp] theorem clearRegs_ras (s : State) (lo hi : Nat) (p : Nat → Bool) : (clearRegs s lo hi p).ras = s.ras := rfl
@[simp] theorem clearRegs_head (s : State) (lo hi : Nat) (p : Nat → Bool) : (clearRegs s lo hi p).head = s.head := rfl
@[simp] theorem clearRegs_pins (s : State) (lo hi : Nat) (p : Nat → Bool) : (clearRegs s lo hi p).pins = s.pins := rfl

/-! ### setPState -/

@[simp] theorem setPState_asm (s : State) (p x : Nat) : (setPState s p x).asm = s.asm := setF_asm s (oPSTAT p) 2 0 x
@[simp] theorem setPState_pending (s : State) (p x : Nat) : (setPState s p x).pending = s.pending := setF_pending s (oPSTAT p) 2 0 x
@[simp] theorem setPState_fresh (s : State) (p x : Nat) : (setPState s p x).fresh = s.fresh := setF_fresh s (oPSTAT p) 2 0 x
@[simp] theorem setPState_tiles (s : State) (p x : Nat) : (setPState s p x).tiles = s.tiles := setF_tiles s (oPSTAT p) 2 0 x
@[simp] theorem setPState_shelf (s : State) (p x : Nat) : (setPState s p x).shelf = s.shelf := setF_shelf s (oPSTAT p) 2 0 x
@[simp] theorem setPState_fills (s : State) (p x : Nat) : (setPState s p x).fills = s.fills := setF_fills s (oPSTAT p) 2 0 x
@[simp] theorem setPState_upds (s : State) (p x : Nat) : (setPState s p x).upds = s.upds := setF_upds s (oPSTAT p) 2 0 x
@[simp] theorem setPState_ctrls (s : State) (p x : Nat) : (setPState s p x).ctrls = s.ctrls := setF_ctrls s (oPSTAT p) 2 0 x
@[simp] theorem setPState_dram (s : State) (p x : Nat) : (setPState s p x).dram = s.dram := setF_dram s (oPSTAT p) 2 0 x
@[simp] theorem setPState_dramErr (s : State) (p x : Nat) : (setPState s p x).dramErr = s.dramErr := setF_dramErr s (oPSTAT p) 2 0 x
@[simp] theorem setPState_hostMem (s : State) (p x : Nat) : (setPState s p x).hostMem = s.hostMem := setF_hostMem s (oPSTAT p) 2 0 x
@[simp] theorem setPState_txns (s : State) (p x : Nat) : (setPState s p x).txns = s.txns := setF_txns s (oPSTAT p) 2 0 x
@[simp] theorem setPState_nextId (s : State) (p x : Nat) : (setPState s p x).nextId = s.nextId := setF_nextId s (oPSTAT p) 2 0 x
@[simp] theorem setPState_gens (s : State) (p x : Nat) : (setPState s p x).gens = s.gens := setF_gens s (oPSTAT p) 2 0 x
@[simp] theorem setPState_resetting (s : State) (p x : Nat) : (setPState s p x).resetting = s.resetting := setF_resetting s (oPSTAT p) 2 0 x
@[simp] theorem setPState_tg (s : State) (p x : Nat) : (setPState s p x).tg = s.tg := setF_tg s (oPSTAT p) 2 0 x
@[simp] theorem setPState_ports (s : State) (p x : Nat) : (setPState s p x).ports = s.ports := setF_ports s (oPSTAT p) 2 0 x
@[simp] theorem setPState_surf (s : State) (p x : Nat) : (setPState s p x).surf = s.surf := setF_surf s (oPSTAT p) 2 0 x
@[simp] theorem setPState_peers (s : State) (p x : Nat) : (setPState s p x).peers = s.peers := setF_peers s (oPSTAT p) 2 0 x
@[simp] theorem setPState_parts (s : State) (p x : Nat) : (setPState s p x).parts = s.parts := setF_parts s (oPSTAT p) 2 0 x
@[simp] theorem setPState_irqs (s : State) (p x : Nat) : (setPState s p x).irqs = s.irqs := setF_irqs s (oPSTAT p) 2 0 x
@[simp] theorem setPState_hostReads (s : State) (p x : Nat) : (setPState s p x).hostReads = s.hostReads := setF_hostReads s (oPSTAT p) 2 0 x
@[simp] theorem setPState_power (s : State) (p x : Nat) : (setPState s p x).power = s.power := setF_power s (oPSTAT p) 2 0 x
@[simp] theorem setPState_heat (s : State) (p x : Nat) : (setPState s p x).heat = s.heat := setF_heat s (oPSTAT p) 2 0 x
@[simp] theorem setPState_ras (s : State) (p x : Nat) : (setPState s p x).ras = s.ras := setF_ras s (oPSTAT p) 2 0 x
@[simp] theorem setPState_head (s : State) (p x : Nat) : (setPState s p x).head = s.head := setF_head s (oPSTAT p) 2 0 x
@[simp] theorem setPState_pins (s : State) (p x : Nat) : (setPState s p x).pins = s.pins := setF_pins s (oPSTAT p) 2 0 x

/-! ### setTile -/

@[simp] theorem setTile_asm (s : State) (t : Nat) (x : Tile) : (setTile s t x).asm = s.asm := rfl
@[simp] theorem setTile_pending (s : State) (t : Nat) (x : Tile) : (setTile s t x).pending = s.pending := rfl
@[simp] theorem setTile_fresh (s : State) (t : Nat) (x : Tile) : (setTile s t x).fresh = s.fresh := rfl
@[simp] theorem setTile_bar0 (s : State) (t : Nat) (x : Tile) : (setTile s t x).bar0 = s.bar0 := rfl
@[simp] theorem setTile_tiles (s : State) (t : Nat) (x : Tile) : (setTile s t x).tiles = SMap.set Tile.reset s.tiles t x := rfl
@[simp] theorem setTile_shelf (s : State) (t : Nat) (x : Tile) : (setTile s t x).shelf = s.shelf := rfl
@[simp] theorem setTile_fills (s : State) (t : Nat) (x : Tile) : (setTile s t x).fills = s.fills := rfl
@[simp] theorem setTile_upds (s : State) (t : Nat) (x : Tile) : (setTile s t x).upds = s.upds := rfl
@[simp] theorem setTile_ctrls (s : State) (t : Nat) (x : Tile) : (setTile s t x).ctrls = s.ctrls := rfl
@[simp] theorem setTile_dram (s : State) (t : Nat) (x : Tile) : (setTile s t x).dram = s.dram := rfl
@[simp] theorem setTile_dramErr (s : State) (t : Nat) (x : Tile) : (setTile s t x).dramErr = s.dramErr := rfl
@[simp] theorem setTile_hostMem (s : State) (t : Nat) (x : Tile) : (setTile s t x).hostMem = s.hostMem := rfl
@[simp] theorem setTile_txns (s : State) (t : Nat) (x : Tile) : (setTile s t x).txns = s.txns := rfl
@[simp] theorem setTile_nextId (s : State) (t : Nat) (x : Tile) : (setTile s t x).nextId = s.nextId := rfl
@[simp] theorem setTile_gens (s : State) (t : Nat) (x : Tile) : (setTile s t x).gens = s.gens := rfl
@[simp] theorem setTile_resetting (s : State) (t : Nat) (x : Tile) : (setTile s t x).resetting = s.resetting := rfl
@[simp] theorem setTile_tg (s : State) (t : Nat) (x : Tile) : (setTile s t x).tg = s.tg := rfl
@[simp] theorem setTile_ports (s : State) (t : Nat) (x : Tile) : (setTile s t x).ports = s.ports := rfl
@[simp] theorem setTile_surf (s : State) (t : Nat) (x : Tile) : (setTile s t x).surf = s.surf := rfl
@[simp] theorem setTile_peers (s : State) (t : Nat) (x : Tile) : (setTile s t x).peers = s.peers := rfl
@[simp] theorem setTile_parts (s : State) (t : Nat) (x : Tile) : (setTile s t x).parts = s.parts := rfl
@[simp] theorem setTile_irqs (s : State) (t : Nat) (x : Tile) : (setTile s t x).irqs = s.irqs := rfl
@[simp] theorem setTile_hostReads (s : State) (t : Nat) (x : Tile) : (setTile s t x).hostReads = s.hostReads := rfl
@[simp] theorem setTile_hostReqs (s : State) (t : Nat) (x : Tile) : (setTile s t x).hostReqs = s.hostReqs := rfl
@[simp] theorem setTile_stalled (s : State) (t : Nat) (x : Tile) : (setTile s t x).stalled = s.stalled := rfl
@[simp] theorem setTile_prevCfg (s : State) (t : Nat) (x : Tile) : (setTile s t x).prevCfg = s.prevCfg := rfl
@[simp] theorem setTile_power (s : State) (t : Nat) (x : Tile) : (setTile s t x).power = s.power := rfl
@[simp] theorem setTile_heat (s : State) (t : Nat) (x : Tile) : (setTile s t x).heat = s.heat := rfl
@[simp] theorem setTile_ras (s : State) (t : Nat) (x : Tile) : (setTile s t x).ras = s.ras := rfl
@[simp] theorem setTile_head (s : State) (t : Nat) (x : Tile) : (setTile s t x).head = s.head := rfl
@[simp] theorem setTile_pins (s : State) (t : Nat) (x : Tile) : (setTile s t x).pins = s.pins := rfl

/-! ### updTile -/

@[simp] theorem updTile_asm (s : State) (t : Nat) (f : Tile → Tile) : (updTile s t f).asm = s.asm := rfl
@[simp] theorem updTile_pending (s : State) (t : Nat) (f : Tile → Tile) : (updTile s t f).pending = s.pending := rfl
@[simp] theorem updTile_fresh (s : State) (t : Nat) (f : Tile → Tile) : (updTile s t f).fresh = s.fresh := rfl
@[simp] theorem updTile_bar0 (s : State) (t : Nat) (f : Tile → Tile) : (updTile s t f).bar0 = s.bar0 := rfl
@[simp] theorem updTile_tiles (s : State) (t : Nat) (f : Tile → Tile) : (updTile s t f).tiles = SMap.set Tile.reset s.tiles t (f (tileOf s t)) := rfl
@[simp] theorem updTile_shelf (s : State) (t : Nat) (f : Tile → Tile) : (updTile s t f).shelf = s.shelf := rfl
@[simp] theorem updTile_fills (s : State) (t : Nat) (f : Tile → Tile) : (updTile s t f).fills = s.fills := rfl
@[simp] theorem updTile_upds (s : State) (t : Nat) (f : Tile → Tile) : (updTile s t f).upds = s.upds := rfl
@[simp] theorem updTile_ctrls (s : State) (t : Nat) (f : Tile → Tile) : (updTile s t f).ctrls = s.ctrls := rfl
@[simp] theorem updTile_dram (s : State) (t : Nat) (f : Tile → Tile) : (updTile s t f).dram = s.dram := rfl
@[simp] theorem updTile_dramErr (s : State) (t : Nat) (f : Tile → Tile) : (updTile s t f).dramErr = s.dramErr := rfl
@[simp] theorem updTile_hostMem (s : State) (t : Nat) (f : Tile → Tile) : (updTile s t f).hostMem = s.hostMem := rfl
@[simp] theorem updTile_txns (s : State) (t : Nat) (f : Tile → Tile) : (updTile s t f).txns = s.txns := rfl
@[simp] theorem updTile_nextId (s : State) (t : Nat) (f : Tile → Tile) : (updTile s t f).nextId = s.nextId := rfl
@[simp] theorem updTile_gens (s : State) (t : Nat) (f : Tile → Tile) : (updTile s t f).gens = s.gens := rfl
@[simp] theorem updTile_resetting (s : State) (t : Nat) (f : Tile → Tile) : (updTile s t f).resetting = s.resetting := rfl
@[simp] theorem updTile_tg (s : State) (t : Nat) (f : Tile → Tile) : (updTile s t f).tg = s.tg := rfl
@[simp] theorem updTile_ports (s : State) (t : Nat) (f : Tile → Tile) : (updTile s t f).ports = s.ports := rfl
@[simp] theorem updTile_surf (s : State) (t : Nat) (f : Tile → Tile) : (updTile s t f).surf = s.surf := rfl
@[simp] theorem updTile_peers (s : State) (t : Nat) (f : Tile → Tile) : (updTile s t f).peers = s.peers := rfl
@[simp] theorem updTile_parts (s : State) (t : Nat) (f : Tile → Tile) : (updTile s t f).parts = s.parts := rfl
@[simp] theorem updTile_irqs (s : State) (t : Nat) (f : Tile → Tile) : (updTile s t f).irqs = s.irqs := rfl
@[simp] theorem updTile_hostReads (s : State) (t : Nat) (f : Tile → Tile) : (updTile s t f).hostReads = s.hostReads := rfl
@[simp] theorem updTile_hostReqs (s : State) (t : Nat) (f : Tile → Tile) : (updTile s t f).hostReqs = s.hostReqs := rfl
@[simp] theorem updTile_stalled (s : State) (t : Nat) (f : Tile → Tile) : (updTile s t f).stalled = s.stalled := rfl
@[simp] theorem updTile_prevCfg (s : State) (t : Nat) (f : Tile → Tile) : (updTile s t f).prevCfg = s.prevCfg := rfl
@[simp] theorem updTile_power (s : State) (t : Nat) (f : Tile → Tile) : (updTile s t f).power = s.power := rfl
@[simp] theorem updTile_heat (s : State) (t : Nat) (f : Tile → Tile) : (updTile s t f).heat = s.heat := rfl
@[simp] theorem updTile_ras (s : State) (t : Nat) (f : Tile → Tile) : (updTile s t f).ras = s.ras := rfl
@[simp] theorem updTile_head (s : State) (t : Nat) (f : Tile → Tile) : (updTile s t f).head = s.head := rfl
@[simp] theorem updTile_pins (s : State) (t : Nat) (f : Tile → Tile) : (updTile s t f).pins = s.pins := rfl

/-! ### setGroup -/

@[simp] theorem setGroup_asm (s : State) (t g : Nat) (y : Group) : (setGroup s t g y).asm = s.asm := rfl
@[simp] theorem setGroup_pending (s : State) (t g : Nat) (y : Group) : (setGroup s t g y).pending = s.pending := rfl
@[simp] theorem setGroup_fresh (s : State) (t g : Nat) (y : Group) : (setGroup s t g y).fresh = s.fresh := rfl
@[simp] theorem setGroup_bar0 (s : State) (t g : Nat) (y : Group) : (setGroup s t g y).bar0 = s.bar0 := rfl
@[simp] theorem setGroup_tiles (s : State) (t g : Nat) (y : Group) : (setGroup s t g y).tiles = SMap.set Tile.reset s.tiles t (setGrp (tileOf s t) g y) := rfl
@[simp] theorem setGroup_shelf (s : State) (t g : Nat) (y : Group) : (setGroup s t g y).shelf = s.shelf := rfl
@[simp] theorem setGroup_fills (s : State) (t g : Nat) (y : Group) : (setGroup s t g y).fills = s.fills := rfl
@[simp] theorem setGroup_upds (s : State) (t g : Nat) (y : Group) : (setGroup s t g y).upds = s.upds := rfl
@[simp] theorem setGroup_ctrls (s : State) (t g : Nat) (y : Group) : (setGroup s t g y).ctrls = s.ctrls := rfl
@[simp] theorem setGroup_dram (s : State) (t g : Nat) (y : Group) : (setGroup s t g y).dram = s.dram := rfl
@[simp] theorem setGroup_dramErr (s : State) (t g : Nat) (y : Group) : (setGroup s t g y).dramErr = s.dramErr := rfl
@[simp] theorem setGroup_hostMem (s : State) (t g : Nat) (y : Group) : (setGroup s t g y).hostMem = s.hostMem := rfl
@[simp] theorem setGroup_txns (s : State) (t g : Nat) (y : Group) : (setGroup s t g y).txns = s.txns := rfl
@[simp] theorem setGroup_nextId (s : State) (t g : Nat) (y : Group) : (setGroup s t g y).nextId = s.nextId := rfl
@[simp] theorem setGroup_gens (s : State) (t g : Nat) (y : Group) : (setGroup s t g y).gens = s.gens := rfl
@[simp] theorem setGroup_resetting (s : State) (t g : Nat) (y : Group) : (setGroup s t g y).resetting = s.resetting := rfl
@[simp] theorem setGroup_tg (s : State) (t g : Nat) (y : Group) : (setGroup s t g y).tg = s.tg := rfl
@[simp] theorem setGroup_ports (s : State) (t g : Nat) (y : Group) : (setGroup s t g y).ports = s.ports := rfl
@[simp] theorem setGroup_surf (s : State) (t g : Nat) (y : Group) : (setGroup s t g y).surf = s.surf := rfl
@[simp] theorem setGroup_peers (s : State) (t g : Nat) (y : Group) : (setGroup s t g y).peers = s.peers := rfl
@[simp] theorem setGroup_parts (s : State) (t g : Nat) (y : Group) : (setGroup s t g y).parts = s.parts := rfl
@[simp] theorem setGroup_irqs (s : State) (t g : Nat) (y : Group) : (setGroup s t g y).irqs = s.irqs := rfl
@[simp] theorem setGroup_hostReads (s : State) (t g : Nat) (y : Group) : (setGroup s t g y).hostReads = s.hostReads := rfl
@[simp] theorem setGroup_hostReqs (s : State) (t g : Nat) (y : Group) : (setGroup s t g y).hostReqs = s.hostReqs := rfl
@[simp] theorem setGroup_stalled (s : State) (t g : Nat) (y : Group) : (setGroup s t g y).stalled = s.stalled := rfl
@[simp] theorem setGroup_prevCfg (s : State) (t g : Nat) (y : Group) : (setGroup s t g y).prevCfg = s.prevCfg := rfl
@[simp] theorem setGroup_power (s : State) (t g : Nat) (y : Group) : (setGroup s t g y).power = s.power := rfl
@[simp] theorem setGroup_heat (s : State) (t g : Nat) (y : Group) : (setGroup s t g y).heat = s.heat := rfl
@[simp] theorem setGroup_ras (s : State) (t g : Nat) (y : Group) : (setGroup s t g y).ras = s.ras := rfl
@[simp] theorem setGroup_head (s : State) (t g : Nat) (y : Group) : (setGroup s t g y).head = s.head := rfl
@[simp] theorem setGroup_pins (s : State) (t g : Nat) (y : Group) : (setGroup s t g y).pins = s.pins := rfl

/-! ### updGroup -/

@[simp] theorem updGroup_asm (s : State) (t g : Nat) (f : Group → Group) : (updGroup s t g f).asm = s.asm := rfl
@[simp] theorem updGroup_pending (s : State) (t g : Nat) (f : Group → Group) : (updGroup s t g f).pending = s.pending := rfl
@[simp] theorem updGroup_fresh (s : State) (t g : Nat) (f : Group → Group) : (updGroup s t g f).fresh = s.fresh := rfl
@[simp] theorem updGroup_bar0 (s : State) (t g : Nat) (f : Group → Group) : (updGroup s t g f).bar0 = s.bar0 := rfl
@[simp] theorem updGroup_shelf (s : State) (t g : Nat) (f : Group → Group) : (updGroup s t g f).shelf = s.shelf := rfl
@[simp] theorem updGroup_fills (s : State) (t g : Nat) (f : Group → Group) : (updGroup s t g f).fills = s.fills := rfl
@[simp] theorem updGroup_upds (s : State) (t g : Nat) (f : Group → Group) : (updGroup s t g f).upds = s.upds := rfl
@[simp] theorem updGroup_ctrls (s : State) (t g : Nat) (f : Group → Group) : (updGroup s t g f).ctrls = s.ctrls := rfl
@[simp] theorem updGroup_dram (s : State) (t g : Nat) (f : Group → Group) : (updGroup s t g f).dram = s.dram := rfl
@[simp] theorem updGroup_dramErr (s : State) (t g : Nat) (f : Group → Group) : (updGroup s t g f).dramErr = s.dramErr := rfl
@[simp] theorem updGroup_hostMem (s : State) (t g : Nat) (f : Group → Group) : (updGroup s t g f).hostMem = s.hostMem := rfl
@[simp] theorem updGroup_txns (s : State) (t g : Nat) (f : Group → Group) : (updGroup s t g f).txns = s.txns := rfl
@[simp] theorem updGroup_nextId (s : State) (t g : Nat) (f : Group → Group) : (updGroup s t g f).nextId = s.nextId := rfl
@[simp] theorem updGroup_gens (s : State) (t g : Nat) (f : Group → Group) : (updGroup s t g f).gens = s.gens := rfl
@[simp] theorem updGroup_resetting (s : State) (t g : Nat) (f : Group → Group) : (updGroup s t g f).resetting = s.resetting := rfl
@[simp] theorem updGroup_tg (s : State) (t g : Nat) (f : Group → Group) : (updGroup s t g f).tg = s.tg := rfl
@[simp] theorem updGroup_ports (s : State) (t g : Nat) (f : Group → Group) : (updGroup s t g f).ports = s.ports := rfl
@[simp] theorem updGroup_surf (s : State) (t g : Nat) (f : Group → Group) : (updGroup s t g f).surf = s.surf := rfl
@[simp] theorem updGroup_peers (s : State) (t g : Nat) (f : Group → Group) : (updGroup s t g f).peers = s.peers := rfl
@[simp] theorem updGroup_parts (s : State) (t g : Nat) (f : Group → Group) : (updGroup s t g f).parts = s.parts := rfl
@[simp] theorem updGroup_irqs (s : State) (t g : Nat) (f : Group → Group) : (updGroup s t g f).irqs = s.irqs := rfl
@[simp] theorem updGroup_hostReads (s : State) (t g : Nat) (f : Group → Group) : (updGroup s t g f).hostReads = s.hostReads := rfl
@[simp] theorem updGroup_hostReqs (s : State) (t g : Nat) (f : Group → Group) : (updGroup s t g f).hostReqs = s.hostReqs := rfl
@[simp] theorem updGroup_stalled (s : State) (t g : Nat) (f : Group → Group) : (updGroup s t g f).stalled = s.stalled := rfl
@[simp] theorem updGroup_prevCfg (s : State) (t g : Nat) (f : Group → Group) : (updGroup s t g f).prevCfg = s.prevCfg := rfl
@[simp] theorem updGroup_power (s : State) (t g : Nat) (f : Group → Group) : (updGroup s t g f).power = s.power := rfl
@[simp] theorem updGroup_heat (s : State) (t g : Nat) (f : Group → Group) : (updGroup s t g f).heat = s.heat := rfl
@[simp] theorem updGroup_ras (s : State) (t g : Nat) (f : Group → Group) : (updGroup s t g f).ras = s.ras := rfl
@[simp] theorem updGroup_head (s : State) (t g : Nat) (f : Group → Group) : (updGroup s t g f).head = s.head := rfl
@[simp] theorem updGroup_pins (s : State) (t g : Nat) (f : Group → Group) : (updGroup s t g f).pins = s.pins := rfl

/-! ### setArray -/

@[simp] theorem setArray_asm (s : State) (t n : Nat) (y : ArrayUnit) : (setArray s t n y).asm = s.asm := rfl
@[simp] theorem setArray_pending (s : State) (t n : Nat) (y : ArrayUnit) : (setArray s t n y).pending = s.pending := rfl
@[simp] theorem setArray_fresh (s : State) (t n : Nat) (y : ArrayUnit) : (setArray s t n y).fresh = s.fresh := rfl
@[simp] theorem setArray_bar0 (s : State) (t n : Nat) (y : ArrayUnit) : (setArray s t n y).bar0 = s.bar0 := rfl
@[simp] theorem setArray_tiles (s : State) (t n : Nat) (y : ArrayUnit) : (setArray s t n y).tiles = SMap.set Tile.reset s.tiles t (setArr (tileOf s t) n y) := rfl
@[simp] theorem setArray_shelf (s : State) (t n : Nat) (y : ArrayUnit) : (setArray s t n y).shelf = s.shelf := rfl
@[simp] theorem setArray_fills (s : State) (t n : Nat) (y : ArrayUnit) : (setArray s t n y).fills = s.fills := rfl
@[simp] theorem setArray_upds (s : State) (t n : Nat) (y : ArrayUnit) : (setArray s t n y).upds = s.upds := rfl
@[simp] theorem setArray_ctrls (s : State) (t n : Nat) (y : ArrayUnit) : (setArray s t n y).ctrls = s.ctrls := rfl
@[simp] theorem setArray_dram (s : State) (t n : Nat) (y : ArrayUnit) : (setArray s t n y).dram = s.dram := rfl
@[simp] theorem setArray_dramErr (s : State) (t n : Nat) (y : ArrayUnit) : (setArray s t n y).dramErr = s.dramErr := rfl
@[simp] theorem setArray_hostMem (s : State) (t n : Nat) (y : ArrayUnit) : (setArray s t n y).hostMem = s.hostMem := rfl
@[simp] theorem setArray_txns (s : State) (t n : Nat) (y : ArrayUnit) : (setArray s t n y).txns = s.txns := rfl
@[simp] theorem setArray_nextId (s : State) (t n : Nat) (y : ArrayUnit) : (setArray s t n y).nextId = s.nextId := rfl
@[simp] theorem setArray_gens (s : State) (t n : Nat) (y : ArrayUnit) : (setArray s t n y).gens = s.gens := rfl
@[simp] theorem setArray_resetting (s : State) (t n : Nat) (y : ArrayUnit) : (setArray s t n y).resetting = s.resetting := rfl
@[simp] theorem setArray_tg (s : State) (t n : Nat) (y : ArrayUnit) : (setArray s t n y).tg = s.tg := rfl
@[simp] theorem setArray_ports (s : State) (t n : Nat) (y : ArrayUnit) : (setArray s t n y).ports = s.ports := rfl
@[simp] theorem setArray_surf (s : State) (t n : Nat) (y : ArrayUnit) : (setArray s t n y).surf = s.surf := rfl
@[simp] theorem setArray_peers (s : State) (t n : Nat) (y : ArrayUnit) : (setArray s t n y).peers = s.peers := rfl
@[simp] theorem setArray_parts (s : State) (t n : Nat) (y : ArrayUnit) : (setArray s t n y).parts = s.parts := rfl
@[simp] theorem setArray_irqs (s : State) (t n : Nat) (y : ArrayUnit) : (setArray s t n y).irqs = s.irqs := rfl
@[simp] theorem setArray_hostReads (s : State) (t n : Nat) (y : ArrayUnit) : (setArray s t n y).hostReads = s.hostReads := rfl
@[simp] theorem setArray_hostReqs (s : State) (t n : Nat) (y : ArrayUnit) : (setArray s t n y).hostReqs = s.hostReqs := rfl
@[simp] theorem setArray_stalled (s : State) (t n : Nat) (y : ArrayUnit) : (setArray s t n y).stalled = s.stalled := rfl
@[simp] theorem setArray_prevCfg (s : State) (t n : Nat) (y : ArrayUnit) : (setArray s t n y).prevCfg = s.prevCfg := rfl
@[simp] theorem setArray_power (s : State) (t n : Nat) (y : ArrayUnit) : (setArray s t n y).power = s.power := rfl
@[simp] theorem setArray_heat (s : State) (t n : Nat) (y : ArrayUnit) : (setArray s t n y).heat = s.heat := rfl
@[simp] theorem setArray_ras (s : State) (t n : Nat) (y : ArrayUnit) : (setArray s t n y).ras = s.ras := rfl
@[simp] theorem setArray_head (s : State) (t n : Nat) (y : ArrayUnit) : (setArray s t n y).head = s.head := rfl
@[simp] theorem setArray_pins (s : State) (t n : Nat) (y : ArrayUnit) : (setArray s t n y).pins = s.pins := rfl

/-! ### updArray -/

@[simp] theorem updArray_asm (s : State) (t n : Nat) (f : ArrayUnit → ArrayUnit) : (updArray s t n f).asm = s.asm := rfl
@[simp] theorem updArray_pending (s : State) (t n : Nat) (f : ArrayUnit → ArrayUnit) : (updArray s t n f).pending = s.pending := rfl
@[simp] theorem updArray_fresh (s : State) (t n : Nat) (f : ArrayUnit → ArrayUnit) : (updArray s t n f).fresh = s.fresh := rfl
@[simp] theorem updArray_bar0 (s : State) (t n : Nat) (f : ArrayUnit → ArrayUnit) : (updArray s t n f).bar0 = s.bar0 := rfl
@[simp] theorem updArray_shelf (s : State) (t n : Nat) (f : ArrayUnit → ArrayUnit) : (updArray s t n f).shelf = s.shelf := rfl
@[simp] theorem updArray_fills (s : State) (t n : Nat) (f : ArrayUnit → ArrayUnit) : (updArray s t n f).fills = s.fills := rfl
@[simp] theorem updArray_upds (s : State) (t n : Nat) (f : ArrayUnit → ArrayUnit) : (updArray s t n f).upds = s.upds := rfl
@[simp] theorem updArray_ctrls (s : State) (t n : Nat) (f : ArrayUnit → ArrayUnit) : (updArray s t n f).ctrls = s.ctrls := rfl
@[simp] theorem updArray_dram (s : State) (t n : Nat) (f : ArrayUnit → ArrayUnit) : (updArray s t n f).dram = s.dram := rfl
@[simp] theorem updArray_dramErr (s : State) (t n : Nat) (f : ArrayUnit → ArrayUnit) : (updArray s t n f).dramErr = s.dramErr := rfl
@[simp] theorem updArray_hostMem (s : State) (t n : Nat) (f : ArrayUnit → ArrayUnit) : (updArray s t n f).hostMem = s.hostMem := rfl
@[simp] theorem updArray_txns (s : State) (t n : Nat) (f : ArrayUnit → ArrayUnit) : (updArray s t n f).txns = s.txns := rfl
@[simp] theorem updArray_nextId (s : State) (t n : Nat) (f : ArrayUnit → ArrayUnit) : (updArray s t n f).nextId = s.nextId := rfl
@[simp] theorem updArray_gens (s : State) (t n : Nat) (f : ArrayUnit → ArrayUnit) : (updArray s t n f).gens = s.gens := rfl
@[simp] theorem updArray_resetting (s : State) (t n : Nat) (f : ArrayUnit → ArrayUnit) : (updArray s t n f).resetting = s.resetting := rfl
@[simp] theorem updArray_tg (s : State) (t n : Nat) (f : ArrayUnit → ArrayUnit) : (updArray s t n f).tg = s.tg := rfl
@[simp] theorem updArray_ports (s : State) (t n : Nat) (f : ArrayUnit → ArrayUnit) : (updArray s t n f).ports = s.ports := rfl
@[simp] theorem updArray_surf (s : State) (t n : Nat) (f : ArrayUnit → ArrayUnit) : (updArray s t n f).surf = s.surf := rfl
@[simp] theorem updArray_peers (s : State) (t n : Nat) (f : ArrayUnit → ArrayUnit) : (updArray s t n f).peers = s.peers := rfl
@[simp] theorem updArray_parts (s : State) (t n : Nat) (f : ArrayUnit → ArrayUnit) : (updArray s t n f).parts = s.parts := rfl
@[simp] theorem updArray_irqs (s : State) (t n : Nat) (f : ArrayUnit → ArrayUnit) : (updArray s t n f).irqs = s.irqs := rfl
@[simp] theorem updArray_hostReads (s : State) (t n : Nat) (f : ArrayUnit → ArrayUnit) : (updArray s t n f).hostReads = s.hostReads := rfl
@[simp] theorem updArray_hostReqs (s : State) (t n : Nat) (f : ArrayUnit → ArrayUnit) : (updArray s t n f).hostReqs = s.hostReqs := rfl
@[simp] theorem updArray_stalled (s : State) (t n : Nat) (f : ArrayUnit → ArrayUnit) : (updArray s t n f).stalled = s.stalled := rfl
@[simp] theorem updArray_prevCfg (s : State) (t n : Nat) (f : ArrayUnit → ArrayUnit) : (updArray s t n f).prevCfg = s.prevCfg := rfl
@[simp] theorem updArray_power (s : State) (t n : Nat) (f : ArrayUnit → ArrayUnit) : (updArray s t n f).power = s.power := rfl
@[simp] theorem updArray_heat (s : State) (t n : Nat) (f : ArrayUnit → ArrayUnit) : (updArray s t n f).heat = s.heat := rfl
@[simp] theorem updArray_ras (s : State) (t n : Nat) (f : ArrayUnit → ArrayUnit) : (updArray s t n f).ras = s.ras := rfl
@[simp] theorem updArray_head (s : State) (t n : Nat) (f : ArrayUnit → ArrayUnit) : (updArray s t n f).head = s.head := rfl
@[simp] theorem updArray_pins (s : State) (t n : Nat) (f : ArrayUnit → ArrayUnit) : (updArray s t n f).pins = s.pins := rfl

/-! ### setSlice -/

@[simp] theorem setSlice_asm (s : State) (st k : Nat) (x : Slice) : (setSlice s st k x).asm = s.asm := rfl
@[simp] theorem setSlice_pending (s : State) (st k : Nat) (x : Slice) : (setSlice s st k x).pending = s.pending := rfl
@[simp] theorem setSlice_fresh (s : State) (st k : Nat) (x : Slice) : (setSlice s st k x).fresh = s.fresh := rfl
@[simp] theorem setSlice_bar0 (s : State) (st k : Nat) (x : Slice) : (setSlice s st k x).bar0 = s.bar0 := rfl
@[simp] theorem setSlice_tiles (s : State) (st k : Nat) (x : Slice) : (setSlice s st k x).tiles = s.tiles := rfl
@[simp] theorem setSlice_shelf (s : State) (st k : Nat) (x : Slice) : (setSlice s st k x).shelf = SMap.set [] s.shelf st (SMap.set Slice.reset (SMap.get [] s.shelf st) k x) := rfl
@[simp] theorem setSlice_fills (s : State) (st k : Nat) (x : Slice) : (setSlice s st k x).fills = s.fills := rfl
@[simp] theorem setSlice_upds (s : State) (st k : Nat) (x : Slice) : (setSlice s st k x).upds = s.upds := rfl
@[simp] theorem setSlice_ctrls (s : State) (st k : Nat) (x : Slice) : (setSlice s st k x).ctrls = s.ctrls := rfl
@[simp] theorem setSlice_dram (s : State) (st k : Nat) (x : Slice) : (setSlice s st k x).dram = s.dram := rfl
@[simp] theorem setSlice_dramErr (s : State) (st k : Nat) (x : Slice) : (setSlice s st k x).dramErr = s.dramErr := rfl
@[simp] theorem setSlice_hostMem (s : State) (st k : Nat) (x : Slice) : (setSlice s st k x).hostMem = s.hostMem := rfl
@[simp] theorem setSlice_txns (s : State) (st k : Nat) (x : Slice) : (setSlice s st k x).txns = s.txns := rfl
@[simp] theorem setSlice_nextId (s : State) (st k : Nat) (x : Slice) : (setSlice s st k x).nextId = s.nextId := rfl
@[simp] theorem setSlice_gens (s : State) (st k : Nat) (x : Slice) : (setSlice s st k x).gens = s.gens := rfl
@[simp] theorem setSlice_resetting (s : State) (st k : Nat) (x : Slice) : (setSlice s st k x).resetting = s.resetting := rfl
@[simp] theorem setSlice_tg (s : State) (st k : Nat) (x : Slice) : (setSlice s st k x).tg = s.tg := rfl
@[simp] theorem setSlice_ports (s : State) (st k : Nat) (x : Slice) : (setSlice s st k x).ports = s.ports := rfl
@[simp] theorem setSlice_surf (s : State) (st k : Nat) (x : Slice) : (setSlice s st k x).surf = s.surf := rfl
@[simp] theorem setSlice_peers (s : State) (st k : Nat) (x : Slice) : (setSlice s st k x).peers = s.peers := rfl
@[simp] theorem setSlice_parts (s : State) (st k : Nat) (x : Slice) : (setSlice s st k x).parts = s.parts := rfl
@[simp] theorem setSlice_irqs (s : State) (st k : Nat) (x : Slice) : (setSlice s st k x).irqs = s.irqs := rfl
@[simp] theorem setSlice_hostReads (s : State) (st k : Nat) (x : Slice) : (setSlice s st k x).hostReads = s.hostReads := rfl
@[simp] theorem setSlice_hostReqs (s : State) (st k : Nat) (x : Slice) : (setSlice s st k x).hostReqs = s.hostReqs := rfl
@[simp] theorem setSlice_stalled (s : State) (st k : Nat) (x : Slice) : (setSlice s st k x).stalled = s.stalled := rfl
@[simp] theorem setSlice_prevCfg (s : State) (st k : Nat) (x : Slice) : (setSlice s st k x).prevCfg = s.prevCfg := rfl
@[simp] theorem setSlice_power (s : State) (st k : Nat) (x : Slice) : (setSlice s st k x).power = s.power := rfl
@[simp] theorem setSlice_heat (s : State) (st k : Nat) (x : Slice) : (setSlice s st k x).heat = s.heat := rfl
@[simp] theorem setSlice_ras (s : State) (st k : Nat) (x : Slice) : (setSlice s st k x).ras = s.ras := rfl
@[simp] theorem setSlice_head (s : State) (st k : Nat) (x : Slice) : (setSlice s st k x).head = s.head := rfl
@[simp] theorem setSlice_pins (s : State) (st k : Nat) (x : Slice) : (setSlice s st k x).pins = s.pins := rfl

/-! ### updSlice -/

@[simp] theorem updSlice_asm (s : State) (st k : Nat) (f : Slice → Slice) : (updSlice s st k f).asm = s.asm := rfl
@[simp] theorem updSlice_pending (s : State) (st k : Nat) (f : Slice → Slice) : (updSlice s st k f).pending = s.pending := rfl
@[simp] theorem updSlice_fresh (s : State) (st k : Nat) (f : Slice → Slice) : (updSlice s st k f).fresh = s.fresh := rfl
@[simp] theorem updSlice_bar0 (s : State) (st k : Nat) (f : Slice → Slice) : (updSlice s st k f).bar0 = s.bar0 := rfl
@[simp] theorem updSlice_tiles (s : State) (st k : Nat) (f : Slice → Slice) : (updSlice s st k f).tiles = s.tiles := rfl
@[simp] theorem updSlice_fills (s : State) (st k : Nat) (f : Slice → Slice) : (updSlice s st k f).fills = s.fills := rfl
@[simp] theorem updSlice_upds (s : State) (st k : Nat) (f : Slice → Slice) : (updSlice s st k f).upds = s.upds := rfl
@[simp] theorem updSlice_ctrls (s : State) (st k : Nat) (f : Slice → Slice) : (updSlice s st k f).ctrls = s.ctrls := rfl
@[simp] theorem updSlice_dram (s : State) (st k : Nat) (f : Slice → Slice) : (updSlice s st k f).dram = s.dram := rfl
@[simp] theorem updSlice_dramErr (s : State) (st k : Nat) (f : Slice → Slice) : (updSlice s st k f).dramErr = s.dramErr := rfl
@[simp] theorem updSlice_hostMem (s : State) (st k : Nat) (f : Slice → Slice) : (updSlice s st k f).hostMem = s.hostMem := rfl
@[simp] theorem updSlice_txns (s : State) (st k : Nat) (f : Slice → Slice) : (updSlice s st k f).txns = s.txns := rfl
@[simp] theorem updSlice_nextId (s : State) (st k : Nat) (f : Slice → Slice) : (updSlice s st k f).nextId = s.nextId := rfl
@[simp] theorem updSlice_gens (s : State) (st k : Nat) (f : Slice → Slice) : (updSlice s st k f).gens = s.gens := rfl
@[simp] theorem updSlice_resetting (s : State) (st k : Nat) (f : Slice → Slice) : (updSlice s st k f).resetting = s.resetting := rfl
@[simp] theorem updSlice_tg (s : State) (st k : Nat) (f : Slice → Slice) : (updSlice s st k f).tg = s.tg := rfl
@[simp] theorem updSlice_ports (s : State) (st k : Nat) (f : Slice → Slice) : (updSlice s st k f).ports = s.ports := rfl
@[simp] theorem updSlice_surf (s : State) (st k : Nat) (f : Slice → Slice) : (updSlice s st k f).surf = s.surf := rfl
@[simp] theorem updSlice_peers (s : State) (st k : Nat) (f : Slice → Slice) : (updSlice s st k f).peers = s.peers := rfl
@[simp] theorem updSlice_parts (s : State) (st k : Nat) (f : Slice → Slice) : (updSlice s st k f).parts = s.parts := rfl
@[simp] theorem updSlice_irqs (s : State) (st k : Nat) (f : Slice → Slice) : (updSlice s st k f).irqs = s.irqs := rfl
@[simp] theorem updSlice_hostReads (s : State) (st k : Nat) (f : Slice → Slice) : (updSlice s st k f).hostReads = s.hostReads := rfl
@[simp] theorem updSlice_hostReqs (s : State) (st k : Nat) (f : Slice → Slice) : (updSlice s st k f).hostReqs = s.hostReqs := rfl
@[simp] theorem updSlice_stalled (s : State) (st k : Nat) (f : Slice → Slice) : (updSlice s st k f).stalled = s.stalled := rfl
@[simp] theorem updSlice_prevCfg (s : State) (st k : Nat) (f : Slice → Slice) : (updSlice s st k f).prevCfg = s.prevCfg := rfl
@[simp] theorem updSlice_power (s : State) (st k : Nat) (f : Slice → Slice) : (updSlice s st k f).power = s.power := rfl
@[simp] theorem updSlice_heat (s : State) (st k : Nat) (f : Slice → Slice) : (updSlice s st k f).heat = s.heat := rfl
@[simp] theorem updSlice_ras (s : State) (st k : Nat) (f : Slice → Slice) : (updSlice s st k f).ras = s.ras := rfl
@[simp] theorem updSlice_head (s : State) (st k : Nat) (f : Slice → Slice) : (updSlice s st k f).head = s.head := rfl
@[simp] theorem updSlice_pins (s : State) (st k : Nat) (f : Slice → Slice) : (updSlice s st k f).pins = s.pins := rfl

/-! ### setCtrl -/

@[simp] theorem setCtrl_asm (s : State) (i : Nat) (c : Ctrl) : (setCtrl s i c).asm = s.asm := rfl
@[simp] theorem setCtrl_pending (s : State) (i : Nat) (c : Ctrl) : (setCtrl s i c).pending = s.pending := rfl
@[simp] theorem setCtrl_fresh (s : State) (i : Nat) (c : Ctrl) : (setCtrl s i c).fresh = s.fresh := rfl
@[simp] theorem setCtrl_bar0 (s : State) (i : Nat) (c : Ctrl) : (setCtrl s i c).bar0 = s.bar0 := rfl
@[simp] theorem setCtrl_tiles (s : State) (i : Nat) (c : Ctrl) : (setCtrl s i c).tiles = s.tiles := rfl
@[simp] theorem setCtrl_shelf (s : State) (i : Nat) (c : Ctrl) : (setCtrl s i c).shelf = s.shelf := rfl
@[simp] theorem setCtrl_fills (s : State) (i : Nat) (c : Ctrl) : (setCtrl s i c).fills = s.fills := rfl
@[simp] theorem setCtrl_upds (s : State) (i : Nat) (c : Ctrl) : (setCtrl s i c).upds = s.upds := rfl
@[simp] theorem setCtrl_ctrls (s : State) (i : Nat) (c : Ctrl) : (setCtrl s i c).ctrls = SMap.set Ctrl.reset s.ctrls i c := rfl
@[simp] theorem setCtrl_dram (s : State) (i : Nat) (c : Ctrl) : (setCtrl s i c).dram = s.dram := rfl
@[simp] theorem setCtrl_dramErr (s : State) (i : Nat) (c : Ctrl) : (setCtrl s i c).dramErr = s.dramErr := rfl
@[simp] theorem setCtrl_hostMem (s : State) (i : Nat) (c : Ctrl) : (setCtrl s i c).hostMem = s.hostMem := rfl
@[simp] theorem setCtrl_txns (s : State) (i : Nat) (c : Ctrl) : (setCtrl s i c).txns = s.txns := rfl
@[simp] theorem setCtrl_nextId (s : State) (i : Nat) (c : Ctrl) : (setCtrl s i c).nextId = s.nextId := rfl
@[simp] theorem setCtrl_gens (s : State) (i : Nat) (c : Ctrl) : (setCtrl s i c).gens = s.gens := rfl
@[simp] theorem setCtrl_resetting (s : State) (i : Nat) (c : Ctrl) : (setCtrl s i c).resetting = s.resetting := rfl
@[simp] theorem setCtrl_tg (s : State) (i : Nat) (c : Ctrl) : (setCtrl s i c).tg = s.tg := rfl
@[simp] theorem setCtrl_ports (s : State) (i : Nat) (c : Ctrl) : (setCtrl s i c).ports = s.ports := rfl
@[simp] theorem setCtrl_surf (s : State) (i : Nat) (c : Ctrl) : (setCtrl s i c).surf = s.surf := rfl
@[simp] theorem setCtrl_peers (s : State) (i : Nat) (c : Ctrl) : (setCtrl s i c).peers = s.peers := rfl
@[simp] theorem setCtrl_parts (s : State) (i : Nat) (c : Ctrl) : (setCtrl s i c).parts = s.parts := rfl
@[simp] theorem setCtrl_irqs (s : State) (i : Nat) (c : Ctrl) : (setCtrl s i c).irqs = s.irqs := rfl
@[simp] theorem setCtrl_hostReads (s : State) (i : Nat) (c : Ctrl) : (setCtrl s i c).hostReads = s.hostReads := rfl
@[simp] theorem setCtrl_hostReqs (s : State) (i : Nat) (c : Ctrl) : (setCtrl s i c).hostReqs = s.hostReqs := rfl
@[simp] theorem setCtrl_stalled (s : State) (i : Nat) (c : Ctrl) : (setCtrl s i c).stalled = s.stalled := rfl
@[simp] theorem setCtrl_prevCfg (s : State) (i : Nat) (c : Ctrl) : (setCtrl s i c).prevCfg = s.prevCfg := rfl
@[simp] theorem setCtrl_power (s : State) (i : Nat) (c : Ctrl) : (setCtrl s i c).power = s.power := rfl
@[simp] theorem setCtrl_heat (s : State) (i : Nat) (c : Ctrl) : (setCtrl s i c).heat = s.heat := rfl
@[simp] theorem setCtrl_ras (s : State) (i : Nat) (c : Ctrl) : (setCtrl s i c).ras = s.ras := rfl
@[simp] theorem setCtrl_head (s : State) (i : Nat) (c : Ctrl) : (setCtrl s i c).head = s.head := rfl
@[simp] theorem setCtrl_pins (s : State) (i : Nat) (c : Ctrl) : (setCtrl s i c).pins = s.pins := rfl

/-! ### updCtrl -/

@[simp] theorem updCtrl_asm (s : State) (i : Nat) (f : Ctrl → Ctrl) : (updCtrl s i f).asm = s.asm := rfl
@[simp] theorem updCtrl_pending (s : State) (i : Nat) (f : Ctrl → Ctrl) : (updCtrl s i f).pending = s.pending := rfl
@[simp] theorem updCtrl_fresh (s : State) (i : Nat) (f : Ctrl → Ctrl) : (updCtrl s i f).fresh = s.fresh := rfl
@[simp] theorem updCtrl_bar0 (s : State) (i : Nat) (f : Ctrl → Ctrl) : (updCtrl s i f).bar0 = s.bar0 := rfl
@[simp] theorem updCtrl_tiles (s : State) (i : Nat) (f : Ctrl → Ctrl) : (updCtrl s i f).tiles = s.tiles := rfl
@[simp] theorem updCtrl_shelf (s : State) (i : Nat) (f : Ctrl → Ctrl) : (updCtrl s i f).shelf = s.shelf := rfl
@[simp] theorem updCtrl_fills (s : State) (i : Nat) (f : Ctrl → Ctrl) : (updCtrl s i f).fills = s.fills := rfl
@[simp] theorem updCtrl_upds (s : State) (i : Nat) (f : Ctrl → Ctrl) : (updCtrl s i f).upds = s.upds := rfl
@[simp] theorem updCtrl_dram (s : State) (i : Nat) (f : Ctrl → Ctrl) : (updCtrl s i f).dram = s.dram := rfl
@[simp] theorem updCtrl_dramErr (s : State) (i : Nat) (f : Ctrl → Ctrl) : (updCtrl s i f).dramErr = s.dramErr := rfl
@[simp] theorem updCtrl_hostMem (s : State) (i : Nat) (f : Ctrl → Ctrl) : (updCtrl s i f).hostMem = s.hostMem := rfl
@[simp] theorem updCtrl_txns (s : State) (i : Nat) (f : Ctrl → Ctrl) : (updCtrl s i f).txns = s.txns := rfl
@[simp] theorem updCtrl_nextId (s : State) (i : Nat) (f : Ctrl → Ctrl) : (updCtrl s i f).nextId = s.nextId := rfl
@[simp] theorem updCtrl_gens (s : State) (i : Nat) (f : Ctrl → Ctrl) : (updCtrl s i f).gens = s.gens := rfl
@[simp] theorem updCtrl_resetting (s : State) (i : Nat) (f : Ctrl → Ctrl) : (updCtrl s i f).resetting = s.resetting := rfl
@[simp] theorem updCtrl_tg (s : State) (i : Nat) (f : Ctrl → Ctrl) : (updCtrl s i f).tg = s.tg := rfl
@[simp] theorem updCtrl_ports (s : State) (i : Nat) (f : Ctrl → Ctrl) : (updCtrl s i f).ports = s.ports := rfl
@[simp] theorem updCtrl_surf (s : State) (i : Nat) (f : Ctrl → Ctrl) : (updCtrl s i f).surf = s.surf := rfl
@[simp] theorem updCtrl_peers (s : State) (i : Nat) (f : Ctrl → Ctrl) : (updCtrl s i f).peers = s.peers := rfl
@[simp] theorem updCtrl_parts (s : State) (i : Nat) (f : Ctrl → Ctrl) : (updCtrl s i f).parts = s.parts := rfl
@[simp] theorem updCtrl_irqs (s : State) (i : Nat) (f : Ctrl → Ctrl) : (updCtrl s i f).irqs = s.irqs := rfl
@[simp] theorem updCtrl_hostReads (s : State) (i : Nat) (f : Ctrl → Ctrl) : (updCtrl s i f).hostReads = s.hostReads := rfl
@[simp] theorem updCtrl_hostReqs (s : State) (i : Nat) (f : Ctrl → Ctrl) : (updCtrl s i f).hostReqs = s.hostReqs := rfl
@[simp] theorem updCtrl_stalled (s : State) (i : Nat) (f : Ctrl → Ctrl) : (updCtrl s i f).stalled = s.stalled := rfl
@[simp] theorem updCtrl_prevCfg (s : State) (i : Nat) (f : Ctrl → Ctrl) : (updCtrl s i f).prevCfg = s.prevCfg := rfl
@[simp] theorem updCtrl_power (s : State) (i : Nat) (f : Ctrl → Ctrl) : (updCtrl s i f).power = s.power := rfl
@[simp] theorem updCtrl_heat (s : State) (i : Nat) (f : Ctrl → Ctrl) : (updCtrl s i f).heat = s.heat := rfl
@[simp] theorem updCtrl_ras (s : State) (i : Nat) (f : Ctrl → Ctrl) : (updCtrl s i f).ras = s.ras := rfl
@[simp] theorem updCtrl_head (s : State) (i : Nat) (f : Ctrl → Ctrl) : (updCtrl s i f).head = s.head := rfl
@[simp] theorem updCtrl_pins (s : State) (i : Nat) (f : Ctrl → Ctrl) : (updCtrl s i f).pins = s.pins := rfl

/-! ### setPort -/

@[simp] theorem setPort_asm (s : State) (p : Nat) (x : Port) : (setPort s p x).asm = s.asm := rfl
@[simp] theorem setPort_pending (s : State) (p : Nat) (x : Port) : (setPort s p x).pending = s.pending := rfl
@[simp] theorem setPort_fresh (s : State) (p : Nat) (x : Port) : (setPort s p x).fresh = s.fresh := rfl
@[simp] theorem setPort_bar0 (s : State) (p : Nat) (x : Port) : (setPort s p x).bar0 = s.bar0 := rfl
@[simp] theorem setPort_tiles (s : State) (p : Nat) (x : Port) : (setPort s p x).tiles = s.tiles := rfl
@[simp] theorem setPort_shelf (s : State) (p : Nat) (x : Port) : (setPort s p x).shelf = s.shelf := rfl
@[simp] theorem setPort_fills (s : State) (p : Nat) (x : Port) : (setPort s p x).fills = s.fills := rfl
@[simp] theorem setPort_upds (s : State) (p : Nat) (x : Port) : (setPort s p x).upds = s.upds := rfl
@[simp] theorem setPort_ctrls (s : State) (p : Nat) (x : Port) : (setPort s p x).ctrls = s.ctrls := rfl
@[simp] theorem setPort_dram (s : State) (p : Nat) (x : Port) : (setPort s p x).dram = s.dram := rfl
@[simp] theorem setPort_dramErr (s : State) (p : Nat) (x : Port) : (setPort s p x).dramErr = s.dramErr := rfl
@[simp] theorem setPort_hostMem (s : State) (p : Nat) (x : Port) : (setPort s p x).hostMem = s.hostMem := rfl
@[simp] theorem setPort_txns (s : State) (p : Nat) (x : Port) : (setPort s p x).txns = s.txns := rfl
@[simp] theorem setPort_nextId (s : State) (p : Nat) (x : Port) : (setPort s p x).nextId = s.nextId := rfl
@[simp] theorem setPort_gens (s : State) (p : Nat) (x : Port) : (setPort s p x).gens = s.gens := rfl
@[simp] theorem setPort_resetting (s : State) (p : Nat) (x : Port) : (setPort s p x).resetting = s.resetting := rfl
@[simp] theorem setPort_tg (s : State) (p : Nat) (x : Port) : (setPort s p x).tg = s.tg := rfl
@[simp] theorem setPort_ports (s : State) (p : Nat) (x : Port) : (setPort s p x).ports = SMap.set Port.reset s.ports p x := rfl
@[simp] theorem setPort_surf (s : State) (p : Nat) (x : Port) : (setPort s p x).surf = s.surf := rfl
@[simp] theorem setPort_peers (s : State) (p : Nat) (x : Port) : (setPort s p x).peers = s.peers := rfl
@[simp] theorem setPort_parts (s : State) (p : Nat) (x : Port) : (setPort s p x).parts = s.parts := rfl
@[simp] theorem setPort_irqs (s : State) (p : Nat) (x : Port) : (setPort s p x).irqs = s.irqs := rfl
@[simp] theorem setPort_hostReads (s : State) (p : Nat) (x : Port) : (setPort s p x).hostReads = s.hostReads := rfl
@[simp] theorem setPort_hostReqs (s : State) (p : Nat) (x : Port) : (setPort s p x).hostReqs = s.hostReqs := rfl
@[simp] theorem setPort_stalled (s : State) (p : Nat) (x : Port) : (setPort s p x).stalled = s.stalled := rfl
@[simp] theorem setPort_prevCfg (s : State) (p : Nat) (x : Port) : (setPort s p x).prevCfg = s.prevCfg := rfl
@[simp] theorem setPort_power (s : State) (p : Nat) (x : Port) : (setPort s p x).power = s.power := rfl
@[simp] theorem setPort_heat (s : State) (p : Nat) (x : Port) : (setPort s p x).heat = s.heat := rfl
@[simp] theorem setPort_ras (s : State) (p : Nat) (x : Port) : (setPort s p x).ras = s.ras := rfl
@[simp] theorem setPort_head (s : State) (p : Nat) (x : Port) : (setPort s p x).head = s.head := rfl
@[simp] theorem setPort_pins (s : State) (p : Nat) (x : Port) : (setPort s p x).pins = s.pins := rfl

/-! ### updPort -/

@[simp] theorem updPort_asm (s : State) (p : Nat) (f : Port → Port) : (updPort s p f).asm = s.asm := rfl
@[simp] theorem updPort_pending (s : State) (p : Nat) (f : Port → Port) : (updPort s p f).pending = s.pending := rfl
@[simp] theorem updPort_fresh (s : State) (p : Nat) (f : Port → Port) : (updPort s p f).fresh = s.fresh := rfl
@[simp] theorem updPort_bar0 (s : State) (p : Nat) (f : Port → Port) : (updPort s p f).bar0 = s.bar0 := rfl
@[simp] theorem updPort_tiles (s : State) (p : Nat) (f : Port → Port) : (updPort s p f).tiles = s.tiles := rfl
@[simp] theorem updPort_shelf (s : State) (p : Nat) (f : Port → Port) : (updPort s p f).shelf = s.shelf := rfl
@[simp] theorem updPort_fills (s : State) (p : Nat) (f : Port → Port) : (updPort s p f).fills = s.fills := rfl
@[simp] theorem updPort_upds (s : State) (p : Nat) (f : Port → Port) : (updPort s p f).upds = s.upds := rfl
@[simp] theorem updPort_ctrls (s : State) (p : Nat) (f : Port → Port) : (updPort s p f).ctrls = s.ctrls := rfl
@[simp] theorem updPort_dram (s : State) (p : Nat) (f : Port → Port) : (updPort s p f).dram = s.dram := rfl
@[simp] theorem updPort_dramErr (s : State) (p : Nat) (f : Port → Port) : (updPort s p f).dramErr = s.dramErr := rfl
@[simp] theorem updPort_hostMem (s : State) (p : Nat) (f : Port → Port) : (updPort s p f).hostMem = s.hostMem := rfl
@[simp] theorem updPort_txns (s : State) (p : Nat) (f : Port → Port) : (updPort s p f).txns = s.txns := rfl
@[simp] theorem updPort_nextId (s : State) (p : Nat) (f : Port → Port) : (updPort s p f).nextId = s.nextId := rfl
@[simp] theorem updPort_gens (s : State) (p : Nat) (f : Port → Port) : (updPort s p f).gens = s.gens := rfl
@[simp] theorem updPort_resetting (s : State) (p : Nat) (f : Port → Port) : (updPort s p f).resetting = s.resetting := rfl
@[simp] theorem updPort_tg (s : State) (p : Nat) (f : Port → Port) : (updPort s p f).tg = s.tg := rfl
@[simp] theorem updPort_surf (s : State) (p : Nat) (f : Port → Port) : (updPort s p f).surf = s.surf := rfl
@[simp] theorem updPort_peers (s : State) (p : Nat) (f : Port → Port) : (updPort s p f).peers = s.peers := rfl
@[simp] theorem updPort_parts (s : State) (p : Nat) (f : Port → Port) : (updPort s p f).parts = s.parts := rfl
@[simp] theorem updPort_irqs (s : State) (p : Nat) (f : Port → Port) : (updPort s p f).irqs = s.irqs := rfl
@[simp] theorem updPort_hostReads (s : State) (p : Nat) (f : Port → Port) : (updPort s p f).hostReads = s.hostReads := rfl
@[simp] theorem updPort_hostReqs (s : State) (p : Nat) (f : Port → Port) : (updPort s p f).hostReqs = s.hostReqs := rfl
@[simp] theorem updPort_stalled (s : State) (p : Nat) (f : Port → Port) : (updPort s p f).stalled = s.stalled := rfl
@[simp] theorem updPort_prevCfg (s : State) (p : Nat) (f : Port → Port) : (updPort s p f).prevCfg = s.prevCfg := rfl
@[simp] theorem updPort_power (s : State) (p : Nat) (f : Port → Port) : (updPort s p f).power = s.power := rfl
@[simp] theorem updPort_heat (s : State) (p : Nat) (f : Port → Port) : (updPort s p f).heat = s.heat := rfl
@[simp] theorem updPort_ras (s : State) (p : Nat) (f : Port → Port) : (updPort s p f).ras = s.ras := rfl
@[simp] theorem updPort_head (s : State) (p : Nat) (f : Port → Port) : (updPort s p f).head = s.head := rfl
@[simp] theorem updPort_pins (s : State) (p : Nat) (f : Port → Port) : (updPort s p f).pins = s.pins := rfl

/-! ### setPart -/

@[simp] theorem setPart_asm (s : State) (p : Nat) (x : Part) : (setPart s p x).asm = s.asm := rfl
@[simp] theorem setPart_pending (s : State) (p : Nat) (x : Part) : (setPart s p x).pending = s.pending := rfl
@[simp] theorem setPart_fresh (s : State) (p : Nat) (x : Part) : (setPart s p x).fresh = s.fresh := rfl
@[simp] theorem setPart_bar0 (s : State) (p : Nat) (x : Part) : (setPart s p x).bar0 = s.bar0 := rfl
@[simp] theorem setPart_tiles (s : State) (p : Nat) (x : Part) : (setPart s p x).tiles = s.tiles := rfl
@[simp] theorem setPart_shelf (s : State) (p : Nat) (x : Part) : (setPart s p x).shelf = s.shelf := rfl
@[simp] theorem setPart_fills (s : State) (p : Nat) (x : Part) : (setPart s p x).fills = s.fills := rfl
@[simp] theorem setPart_upds (s : State) (p : Nat) (x : Part) : (setPart s p x).upds = s.upds := rfl
@[simp] theorem setPart_ctrls (s : State) (p : Nat) (x : Part) : (setPart s p x).ctrls = s.ctrls := rfl
@[simp] theorem setPart_dram (s : State) (p : Nat) (x : Part) : (setPart s p x).dram = s.dram := rfl
@[simp] theorem setPart_dramErr (s : State) (p : Nat) (x : Part) : (setPart s p x).dramErr = s.dramErr := rfl
@[simp] theorem setPart_hostMem (s : State) (p : Nat) (x : Part) : (setPart s p x).hostMem = s.hostMem := rfl
@[simp] theorem setPart_txns (s : State) (p : Nat) (x : Part) : (setPart s p x).txns = s.txns := rfl
@[simp] theorem setPart_nextId (s : State) (p : Nat) (x : Part) : (setPart s p x).nextId = s.nextId := rfl
@[simp] theorem setPart_gens (s : State) (p : Nat) (x : Part) : (setPart s p x).gens = s.gens := rfl
@[simp] theorem setPart_resetting (s : State) (p : Nat) (x : Part) : (setPart s p x).resetting = s.resetting := rfl
@[simp] theorem setPart_tg (s : State) (p : Nat) (x : Part) : (setPart s p x).tg = s.tg := rfl
@[simp] theorem setPart_ports (s : State) (p : Nat) (x : Part) : (setPart s p x).ports = s.ports := rfl
@[simp] theorem setPart_surf (s : State) (p : Nat) (x : Part) : (setPart s p x).surf = s.surf := rfl
@[simp] theorem setPart_peers (s : State) (p : Nat) (x : Part) : (setPart s p x).peers = s.peers := rfl
@[simp] theorem setPart_parts (s : State) (p : Nat) (x : Part) : (setPart s p x).parts = SMap.set Part.reset s.parts p x := rfl
@[simp] theorem setPart_irqs (s : State) (p : Nat) (x : Part) : (setPart s p x).irqs = s.irqs := rfl
@[simp] theorem setPart_hostReads (s : State) (p : Nat) (x : Part) : (setPart s p x).hostReads = s.hostReads := rfl
@[simp] theorem setPart_hostReqs (s : State) (p : Nat) (x : Part) : (setPart s p x).hostReqs = s.hostReqs := rfl
@[simp] theorem setPart_stalled (s : State) (p : Nat) (x : Part) : (setPart s p x).stalled = s.stalled := rfl
@[simp] theorem setPart_prevCfg (s : State) (p : Nat) (x : Part) : (setPart s p x).prevCfg = s.prevCfg := rfl
@[simp] theorem setPart_power (s : State) (p : Nat) (x : Part) : (setPart s p x).power = s.power := rfl
@[simp] theorem setPart_heat (s : State) (p : Nat) (x : Part) : (setPart s p x).heat = s.heat := rfl
@[simp] theorem setPart_ras (s : State) (p : Nat) (x : Part) : (setPart s p x).ras = s.ras := rfl
@[simp] theorem setPart_head (s : State) (p : Nat) (x : Part) : (setPart s p x).head = s.head := rfl
@[simp] theorem setPart_pins (s : State) (p : Nat) (x : Part) : (setPart s p x).pins = s.pins := rfl

/-! ### updPart -/

@[simp] theorem updPart_asm (s : State) (p : Nat) (f : Part → Part) : (updPart s p f).asm = s.asm := rfl
@[simp] theorem updPart_pending (s : State) (p : Nat) (f : Part → Part) : (updPart s p f).pending = s.pending := rfl
@[simp] theorem updPart_fresh (s : State) (p : Nat) (f : Part → Part) : (updPart s p f).fresh = s.fresh := rfl
@[simp] theorem updPart_bar0 (s : State) (p : Nat) (f : Part → Part) : (updPart s p f).bar0 = s.bar0 := rfl
@[simp] theorem updPart_tiles (s : State) (p : Nat) (f : Part → Part) : (updPart s p f).tiles = s.tiles := rfl
@[simp] theorem updPart_shelf (s : State) (p : Nat) (f : Part → Part) : (updPart s p f).shelf = s.shelf := rfl
@[simp] theorem updPart_fills (s : State) (p : Nat) (f : Part → Part) : (updPart s p f).fills = s.fills := rfl
@[simp] theorem updPart_upds (s : State) (p : Nat) (f : Part → Part) : (updPart s p f).upds = s.upds := rfl
@[simp] theorem updPart_ctrls (s : State) (p : Nat) (f : Part → Part) : (updPart s p f).ctrls = s.ctrls := rfl
@[simp] theorem updPart_dram (s : State) (p : Nat) (f : Part → Part) : (updPart s p f).dram = s.dram := rfl
@[simp] theorem updPart_dramErr (s : State) (p : Nat) (f : Part → Part) : (updPart s p f).dramErr = s.dramErr := rfl
@[simp] theorem updPart_hostMem (s : State) (p : Nat) (f : Part → Part) : (updPart s p f).hostMem = s.hostMem := rfl
@[simp] theorem updPart_txns (s : State) (p : Nat) (f : Part → Part) : (updPart s p f).txns = s.txns := rfl
@[simp] theorem updPart_nextId (s : State) (p : Nat) (f : Part → Part) : (updPart s p f).nextId = s.nextId := rfl
@[simp] theorem updPart_gens (s : State) (p : Nat) (f : Part → Part) : (updPart s p f).gens = s.gens := rfl
@[simp] theorem updPart_resetting (s : State) (p : Nat) (f : Part → Part) : (updPart s p f).resetting = s.resetting := rfl
@[simp] theorem updPart_tg (s : State) (p : Nat) (f : Part → Part) : (updPart s p f).tg = s.tg := rfl
@[simp] theorem updPart_ports (s : State) (p : Nat) (f : Part → Part) : (updPart s p f).ports = s.ports := rfl
@[simp] theorem updPart_surf (s : State) (p : Nat) (f : Part → Part) : (updPart s p f).surf = s.surf := rfl
@[simp] theorem updPart_peers (s : State) (p : Nat) (f : Part → Part) : (updPart s p f).peers = s.peers := rfl
@[simp] theorem updPart_irqs (s : State) (p : Nat) (f : Part → Part) : (updPart s p f).irqs = s.irqs := rfl
@[simp] theorem updPart_hostReads (s : State) (p : Nat) (f : Part → Part) : (updPart s p f).hostReads = s.hostReads := rfl
@[simp] theorem updPart_hostReqs (s : State) (p : Nat) (f : Part → Part) : (updPart s p f).hostReqs = s.hostReqs := rfl
@[simp] theorem updPart_stalled (s : State) (p : Nat) (f : Part → Part) : (updPart s p f).stalled = s.stalled := rfl
@[simp] theorem updPart_prevCfg (s : State) (p : Nat) (f : Part → Part) : (updPart s p f).prevCfg = s.prevCfg := rfl
@[simp] theorem updPart_power (s : State) (p : Nat) (f : Part → Part) : (updPart s p f).power = s.power := rfl
@[simp] theorem updPart_heat (s : State) (p : Nat) (f : Part → Part) : (updPart s p f).heat = s.heat := rfl
@[simp] theorem updPart_ras (s : State) (p : Nat) (f : Part → Part) : (updPart s p f).ras = s.ras := rfl
@[simp] theorem updPart_head (s : State) (p : Nat) (f : Part → Part) : (updPart s p f).head = s.head := rfl
@[simp] theorem updPart_pins (s : State) (p : Nat) (f : Part → Part) : (updPart s p f).pins = s.pins := rfl

/-! ### pfIrq -/

@[simp] theorem pfIrq_asm (s : State) (v : Nat) : (pfIrq s v).asm = s.asm := rfl
@[simp] theorem pfIrq_pending (s : State) (v : Nat) : (pfIrq s v).pending = s.pending := rfl
@[simp] theorem pfIrq_fresh (s : State) (v : Nat) : (pfIrq s v).fresh = s.fresh := rfl
@[simp] theorem pfIrq_bar0 (s : State) (v : Nat) : (pfIrq s v).bar0 = s.bar0 := rfl
@[simp] theorem pfIrq_tiles (s : State) (v : Nat) : (pfIrq s v).tiles = s.tiles := rfl
@[simp] theorem pfIrq_shelf (s : State) (v : Nat) : (pfIrq s v).shelf = s.shelf := rfl
@[simp] theorem pfIrq_fills (s : State) (v : Nat) : (pfIrq s v).fills = s.fills := rfl
@[simp] theorem pfIrq_upds (s : State) (v : Nat) : (pfIrq s v).upds = s.upds := rfl
@[simp] theorem pfIrq_ctrls (s : State) (v : Nat) : (pfIrq s v).ctrls = s.ctrls := rfl
@[simp] theorem pfIrq_dram (s : State) (v : Nat) : (pfIrq s v).dram = s.dram := rfl
@[simp] theorem pfIrq_dramErr (s : State) (v : Nat) : (pfIrq s v).dramErr = s.dramErr := rfl
@[simp] theorem pfIrq_hostMem (s : State) (v : Nat) : (pfIrq s v).hostMem = s.hostMem := rfl
@[simp] theorem pfIrq_txns (s : State) (v : Nat) : (pfIrq s v).txns = s.txns := rfl
@[simp] theorem pfIrq_nextId (s : State) (v : Nat) : (pfIrq s v).nextId = s.nextId := rfl
@[simp] theorem pfIrq_gens (s : State) (v : Nat) : (pfIrq s v).gens = s.gens := rfl
@[simp] theorem pfIrq_resetting (s : State) (v : Nat) : (pfIrq s v).resetting = s.resetting := rfl
@[simp] theorem pfIrq_tg (s : State) (v : Nat) : (pfIrq s v).tg = s.tg := rfl
@[simp] theorem pfIrq_ports (s : State) (v : Nat) : (pfIrq s v).ports = s.ports := rfl
@[simp] theorem pfIrq_surf (s : State) (v : Nat) : (pfIrq s v).surf = s.surf := rfl
@[simp] theorem pfIrq_peers (s : State) (v : Nat) : (pfIrq s v).peers = s.peers := rfl
@[simp] theorem pfIrq_parts (s : State) (v : Nat) : (pfIrq s v).parts = s.parts := rfl
@[simp] theorem pfIrq_irqs (s : State) (v : Nat) : (pfIrq s v).irqs = s.irqs ++ [(0, v)] := rfl
@[simp] theorem pfIrq_hostReads (s : State) (v : Nat) : (pfIrq s v).hostReads = s.hostReads := rfl
@[simp] theorem pfIrq_hostReqs (s : State) (v : Nat) : (pfIrq s v).hostReqs = s.hostReqs := rfl
@[simp] theorem pfIrq_stalled (s : State) (v : Nat) : (pfIrq s v).stalled = s.stalled := rfl
@[simp] theorem pfIrq_prevCfg (s : State) (v : Nat) : (pfIrq s v).prevCfg = s.prevCfg := rfl
@[simp] theorem pfIrq_power (s : State) (v : Nat) : (pfIrq s v).power = s.power := rfl
@[simp] theorem pfIrq_heat (s : State) (v : Nat) : (pfIrq s v).heat = s.heat := rfl
@[simp] theorem pfIrq_ras (s : State) (v : Nat) : (pfIrq s v).ras = s.ras := rfl
@[simp] theorem pfIrq_head (s : State) (v : Nat) : (pfIrq s v).head = s.head := rfl
@[simp] theorem pfIrq_pins (s : State) (v : Nat) : (pfIrq s v).pins = s.pins := rfl

/-! ### alert -/

@[simp] theorem alert_asm (s : State) : (alert s).asm = s.asm := rfl
@[simp] theorem alert_pending (s : State) : (alert s).pending = s.pending := rfl
@[simp] theorem alert_fresh (s : State) : (alert s).fresh = s.fresh := rfl
@[simp] theorem alert_bar0 (s : State) : (alert s).bar0 = s.bar0 := rfl
@[simp] theorem alert_tiles (s : State) : (alert s).tiles = s.tiles := rfl
@[simp] theorem alert_shelf (s : State) : (alert s).shelf = s.shelf := rfl
@[simp] theorem alert_fills (s : State) : (alert s).fills = s.fills := rfl
@[simp] theorem alert_upds (s : State) : (alert s).upds = s.upds := rfl
@[simp] theorem alert_ctrls (s : State) : (alert s).ctrls = s.ctrls := rfl
@[simp] theorem alert_dram (s : State) : (alert s).dram = s.dram := rfl
@[simp] theorem alert_dramErr (s : State) : (alert s).dramErr = s.dramErr := rfl
@[simp] theorem alert_hostMem (s : State) : (alert s).hostMem = s.hostMem := rfl
@[simp] theorem alert_txns (s : State) : (alert s).txns = s.txns := rfl
@[simp] theorem alert_nextId (s : State) : (alert s).nextId = s.nextId := rfl
@[simp] theorem alert_gens (s : State) : (alert s).gens = s.gens := rfl
@[simp] theorem alert_resetting (s : State) : (alert s).resetting = s.resetting := rfl
@[simp] theorem alert_tg (s : State) : (alert s).tg = s.tg := rfl
@[simp] theorem alert_ports (s : State) : (alert s).ports = s.ports := rfl
@[simp] theorem alert_surf (s : State) : (alert s).surf = s.surf := rfl
@[simp] theorem alert_peers (s : State) : (alert s).peers = s.peers := rfl
@[simp] theorem alert_parts (s : State) : (alert s).parts = s.parts := rfl
@[simp] theorem alert_irqs (s : State) : (alert s).irqs = s.irqs := rfl
@[simp] theorem alert_hostReads (s : State) : (alert s).hostReads = s.hostReads := rfl
@[simp] theorem alert_hostReqs (s : State) : (alert s).hostReqs = s.hostReqs := rfl
@[simp] theorem alert_stalled (s : State) : (alert s).stalled = s.stalled := rfl
@[simp] theorem alert_prevCfg (s : State) : (alert s).prevCfg = s.prevCfg := rfl
@[simp] theorem alert_power (s : State) : (alert s).power = s.power := rfl
@[simp] theorem alert_heat (s : State) : (alert s).heat = s.heat := rfl
@[simp] theorem alert_ras (s : State) : (alert s).ras = s.ras := rfl
@[simp] theorem alert_head (s : State) : (alert s).head = s.head := rfl
@[simp] theorem alert_pins (s : State) : (alert s).pins = { s.pins with alertN := false } := rfl

/-! ### logEvent -/

@[simp] theorem logEvent_asm (s : State) (e : DWord) : (logEvent s e).asm = s.asm := rfl
@[simp] theorem logEvent_pending (s : State) (e : DWord) : (logEvent s e).pending = s.pending := rfl
@[simp] theorem logEvent_fresh (s : State) (e : DWord) : (logEvent s e).fresh = s.fresh := rfl
@[simp] theorem logEvent_bar0 (s : State) (e : DWord) : (logEvent s e).bar0 = s.bar0 := rfl
@[simp] theorem logEvent_tiles (s : State) (e : DWord) : (logEvent s e).tiles = s.tiles := rfl
@[simp] theorem logEvent_shelf (s : State) (e : DWord) : (logEvent s e).shelf = s.shelf := rfl
@[simp] theorem logEvent_fills (s : State) (e : DWord) : (logEvent s e).fills = s.fills := rfl
@[simp] theorem logEvent_upds (s : State) (e : DWord) : (logEvent s e).upds = s.upds := rfl
@[simp] theorem logEvent_ctrls (s : State) (e : DWord) : (logEvent s e).ctrls = s.ctrls := rfl
@[simp] theorem logEvent_dram (s : State) (e : DWord) : (logEvent s e).dram = s.dram := rfl
@[simp] theorem logEvent_dramErr (s : State) (e : DWord) : (logEvent s e).dramErr = s.dramErr := rfl
@[simp] theorem logEvent_hostMem (s : State) (e : DWord) : (logEvent s e).hostMem = s.hostMem := rfl
@[simp] theorem logEvent_txns (s : State) (e : DWord) : (logEvent s e).txns = s.txns := rfl
@[simp] theorem logEvent_nextId (s : State) (e : DWord) : (logEvent s e).nextId = s.nextId := rfl
@[simp] theorem logEvent_gens (s : State) (e : DWord) : (logEvent s e).gens = s.gens := rfl
@[simp] theorem logEvent_resetting (s : State) (e : DWord) : (logEvent s e).resetting = s.resetting := rfl
@[simp] theorem logEvent_tg (s : State) (e : DWord) : (logEvent s e).tg = s.tg := rfl
@[simp] theorem logEvent_ports (s : State) (e : DWord) : (logEvent s e).ports = s.ports := rfl
@[simp] theorem logEvent_surf (s : State) (e : DWord) : (logEvent s e).surf = s.surf := rfl
@[simp] theorem logEvent_peers (s : State) (e : DWord) : (logEvent s e).peers = s.peers := rfl
@[simp] theorem logEvent_parts (s : State) (e : DWord) : (logEvent s e).parts = s.parts := rfl
@[simp] theorem logEvent_irqs (s : State) (e : DWord) : (logEvent s e).irqs = s.irqs := rfl
@[simp] theorem logEvent_hostReads (s : State) (e : DWord) : (logEvent s e).hostReads = s.hostReads := rfl
@[simp] theorem logEvent_hostReqs (s : State) (e : DWord) : (logEvent s e).hostReqs = s.hostReqs := rfl
@[simp] theorem logEvent_stalled (s : State) (e : DWord) : (logEvent s e).stalled = s.stalled := rfl
@[simp] theorem logEvent_prevCfg (s : State) (e : DWord) : (logEvent s e).prevCfg = s.prevCfg := rfl
@[simp] theorem logEvent_power (s : State) (e : DWord) : (logEvent s e).power = s.power := rfl
@[simp] theorem logEvent_heat (s : State) (e : DWord) : (logEvent s e).heat = s.heat := rfl
@[simp] theorem logEvent_ras (s : State) (e : DWord) : (logEvent s e).ras = s.ras := rfl
@[simp] theorem logEvent_pins (s : State) (e : DWord) : (logEvent s e).pins = s.pins := rfl

end Sys2Proof.Machine
end

