-- ==== Sys2Proof/Laws/Regs.lean ====
section
/-! SUPPORT. Laws of bit fields, BAR0 registers and units: read after write. -/

namespace Sys2Proof.Machine

/-! ### Bit fields -/

theorem bit_eq (v i : Nat) : bit v i = v.testBit i := by
  unfold bit
  rw [Nat.testBit, Nat.shiftRight_eq_div_pow, Nat.and_comm, Nat.and_one_is_mod]
  rcases Nat.mod_two_eq_zero_or_one (v / 2 ^ i) with h | h <;> simp [h]

theorem bits_testBit (v hi lo j : Nat) : (bits v hi lo).testBit j = (decide (j < hi + 1 - lo) && v.testBit (lo + j)) := by
  unfold bits
  rw [Nat.testBit_mod_two_pow, Nat.testBit_shiftRight]

theorem fmask_getLsbD (hi lo i : Nat) (hi64 : i < 64) : (fmask hi lo).getLsbD i = decide (lo ≤ i ∧ i < lo + (hi + 1 - lo)) := by
  unfold fmask
  rw [BitVec.getLsbD_ofNat, Nat.mul_comm, Nat.testBit_two_pow_mul, Nat.testBit_two_pow_sub_one]
  by_cases h1 : lo ≤ i <;> by_cases h2 : i - lo < hi + 1 - lo <;> simp [hi64, h1, h2] <;> omega

theorem setFld_getLsbD (v : DWord) (hi lo x i : Nat) (h : i < 64) :
    (setFld v hi lo x).getLsbD i =
      if lo ≤ i ∧ i < lo + (hi + 1 - lo) then x.testBit (i - lo) else v.getLsbD i := by
  unfold setFld
  rw [BitVec.getLsbD_or, BitVec.getLsbD_and, BitVec.getLsbD_and, BitVec.getLsbD_not, fmask_getLsbD _ _ _ h,
    BitVec.getLsbD_ofNat, Nat.mul_comm, Nat.testBit_two_pow_mul]
  by_cases h1 : lo ≤ i ∧ i < lo + (hi + 1 - lo)
  · simp [h1, h]
  · simp [h1, h]

/-- A field just set holds the low bits of the value. -/
@[simp] theorem fld_setFld_self (v : DWord) (hi lo x : Nat) (h : hi < 64) : fld (setFld v hi lo x) hi lo = x % 2 ^ (hi + 1 - lo) := by
  apply Nat.eq_of_testBit_eq
  intro j
  unfold fld
  rw [bits_testBit, Nat.testBit_mod_two_pow]
  by_cases hj : j < hi + 1 - lo
  · have := setFld_getLsbD v hi lo x (lo + j) (by omega)
    rw [BitVec.getLsbD] at this
    rw [this, if_pos (by omega)]
    simp
  · simp [hj]

/-- A field apart from the one set is unchanged. -/
theorem fld_setFld_ne (v : DWord) (hi lo x hi' lo' : Nat) (h : hi' < 64) (hd : hi' < lo ∨ hi < lo') :
    fld (setFld v hi lo x) hi' lo' = fld v hi' lo' := by
  apply Nat.eq_of_testBit_eq
  intro j
  unfold fld
  rw [bits_testBit, bits_testBit]
  by_cases hj : j < hi' + 1 - lo'
  · have := setFld_getLsbD v hi lo x (lo' + j) (by omega)
    rw [BitVec.getLsbD] at this
    rw [this, if_neg (by omega)]
    rfl
  · simp [hj]

theorem bit_setFld_ne (v : DWord) (hi lo x i : Nat) (h : i < 64) (hd : i < lo ∨ hi < i) :
    bit (setFld v hi lo x).toNat i = bit v.toNat i := by
  have := setFld_getLsbD v hi lo x i h
  rw [BitVec.getLsbD] at this
  rw [bit_eq, bit_eq, this, if_neg (by omega)]
  rfl

theorem bit_setFld_in (v : DWord) (hi lo x i : Nat) (h : i < 64) (hd : lo ≤ i ∧ i ≤ hi) :
    bit (setFld v hi lo x).toNat i = bit x (i - lo) := by
  have := setFld_getLsbD v hi lo x i h
  rw [BitVec.getLsbD] at this
  rw [bit_eq, bit_eq, this, if_pos (by omega)]

/-! ### Registers of BAR0 -/

@[simp] theorem reg_setReg_self (s : State) (o : Nat) (v : DWord) : reg (setReg s o v) o = v := by
  simp [reg]

theorem reg_setReg_ne (s : State) {o o' : Nat} (v : DWord) (h : o' ≠ o) : reg (setReg s o v) o' = reg s o' := by
  simp only [reg, setReg_asm, setReg_bar0]
  unfold SMap.set
  split
  · exact SMap.get_del_ne _ _ h
  · rw [SMap.get_ins_ne _ _ _ h, SMap.get_del_ne _ _ h]

theorem setF_eq (s : State) (o hi lo x : Nat) : setF s o hi lo x = setReg s o (setFld (reg s o) hi lo x) := rfl

@[simp] theorem reg_setF_self (s : State) (o hi lo x : Nat) : reg (setF s o hi lo x) o = setFld (reg s o) hi lo x :=
  reg_setReg_self s o _

theorem reg_setF_ne (s : State) {o o' : Nat} (hi lo x : Nat) (h : o' ≠ o) : reg (setF s o hi lo x) o' = reg s o' :=
  reg_setReg_ne s _ h

/-- The field just set. -/
theorem regF_setF_self (s : State) (o hi lo x : Nat) (h : hi < 64) :
    regF (setF s o hi lo x) o hi lo = x % 2 ^ (hi + 1 - lo) := by
  rw [regF, reg_setF_self, fld_setFld_self _ _ _ _ h]

/-- Another field of the same register. -/
theorem regF_setF_ne (s : State) (o hi lo x hi' lo' : Nat) (h : hi' < 64) (hd : hi' < lo ∨ hi < lo') :
    regF (setF s o hi lo x) o hi' lo' = regF s o hi' lo' := by
  rw [regF, reg_setF_self, fld_setFld_ne _ _ _ _ _ _ h hd, regF]

/-- A field of another register. -/
theorem regF_setF_other (s : State) {o o' : Nat} (hi lo x hi' lo' : Nat) (h : o' ≠ o) :
    regF (setF s o hi lo x) o' hi' lo' = regF s o' hi' lo' := by
  rw [regF, reg_setF_ne _ _ _ _ h, regF]

theorem regB_setF_other (s : State) {o o' : Nat} (hi lo x i : Nat) (h : o' ≠ o) :
    regB (setF s o hi lo x) o' i = regB s o' i := by
  rw [regB, reg_setF_ne _ _ _ _ h, regB]

theorem regB_setF_ne (s : State) (o hi lo x i : Nat) (h : i < 64) (hd : i < lo ∨ hi < i) :
    regB (setF s o hi lo x) o i = regB s o i := by
  rw [regB, reg_setF_self, bit_setFld_ne _ _ _ _ _ h hd, regB]

theorem regB_setF_in (s : State) (o hi lo x i : Nat) (h : i < 64) (hd : lo ≤ i ∧ i ≤ hi) :
    regB (setF s o hi lo x) o i = bit x (i - lo) := by
  rw [regB, reg_setF_self, bit_setFld_in _ _ _ _ _ h hd]

/-- A saturating counter after an addition. -/
theorem regF_addSat_self (s : State) (o hi lo n : Nat) (h : hi < 64) :
    regF (addSat s o hi lo n) o hi lo = min (2 ^ (hi + 1 - lo) - 1) (regF s o hi lo + n) := by
  unfold addSat
  rw [regF_setF_self _ _ _ _ _ h, Nat.mod_eq_of_lt]
  have : 0 < 2 ^ (hi + 1 - lo) := Nat.two_pow_pos _
  omega

theorem reg_addSat_ne (s : State) {o o' : Nat} (hi lo n : Nat) (h : o' ≠ o) : reg (addSat s o hi lo n) o' = reg s o' :=
  reg_setF_ne s _ _ _ h

theorem regF_addSat_other (s : State) {o o' : Nat} (hi lo n hi' lo' : Nat) (h : o' ≠ o) :
    regF (addSat s o hi lo n) o' hi' lo' = regF s o' hi' lo' := by
  rw [regF, reg_addSat_ne _ _ _ _ h, regF]

theorem regF_addSat_ne (s : State) (o hi lo n hi' lo' : Nat) (h : hi' < 64) (hd : hi' < lo ∨ hi < lo') :
    regF (addSat s o hi lo n) o hi' lo' = regF s o hi' lo' := regF_setF_ne _ _ _ _ _ _ _ h hd

theorem regB_addSat_other (s : State) {o o' : Nat} (hi lo n i : Nat) (h : o' ≠ o) :
    regB (addSat s o hi lo n) o' i = regB s o' i := by
  rw [regB, reg_addSat_ne _ _ _ _ h, regB]

theorem regB_addSat_ne (s : State) (o hi lo n i : Nat) (h : i < 64) (hd : i < lo ∨ hi < i) :
    regB (addSat s o hi lo n) o i = regB s o i := regB_setF_ne _ _ _ _ _ _ h hd

/-- A field fits its width. -/
theorem regF_lt (s : State) (o hi lo : Nat) : regF s o hi lo < 2 ^ (hi + 1 - lo) := Nat.mod_lt _ (Nat.two_pow_pos _)

/-! ### Units -/

@[simp] theorem tileOf_setTile_self (s : State) (t : Nat) (x : Tile) : tileOf (setTile s t x) t = x := by simp [tileOf]
theorem tileOf_setTile_ne (s : State) {t u : Nat} (x : Tile) (h : u ≠ t) : tileOf (setTile s t x) u = tileOf s u := by
  simp only [tileOf, setTile_tiles, SMap.get_set_ne _ _ _ h]
@[simp] theorem tileOf_updTile_self (s : State) (t : Nat) (f : Tile → Tile) : tileOf (updTile s t f) t = f (tileOf s t) :=
  tileOf_setTile_self s t _
theorem tileOf_updTile_ne (s : State) {t u : Nat} (f : Tile → Tile) (h : u ≠ t) : tileOf (updTile s t f) u = tileOf s u :=
  tileOf_setTile_ne s _ h

@[simp] theorem groupOf_setGrp_self (x : Tile) (g : Nat) (y : Group) : groupOf (setGrp x g y) g = y := by simp [groupOf, setGrp]
theorem groupOf_setGrp_ne (x : Tile) {g h : Nat} (y : Group) (hn : h ≠ g) : groupOf (setGrp x g y) h = groupOf x h := by
  simp only [groupOf, setGrp, SMap.get_set_ne _ _ _ hn]

@[simp] theorem grp_updGroup_self (s : State) (t g : Nat) (f : Group → Group) : grp (updGroup s t g f) t g = f (grp s t g) := by
  simp [updGroup, setGroup, grp]
theorem grp_updGroup_slot (s : State) (t : Nat) {g h : Nat} (f : Group → Group) (hn : h ≠ g) :
    grp (updGroup s t g f) t h = grp s t h := by
  simp [updGroup, setGroup, grp, groupOf_setGrp_ne _ _ hn]
theorem grp_updGroup_tile (s : State) {t u : Nat} (g h : Nat) (f : Group → Group) (hn : u ≠ t) :
    grp (updGroup s t g f) u h = grp s u h := by
  simp [updGroup, setGroup, grp, tileOf_updTile_ne _ _ hn]

@[simp] theorem arrayOf_setArr_self (x : Tile) (n : Nat) (y : ArrayUnit) : arrayOf (setArr x n y) n = y := by simp [arrayOf, setArr]
theorem arrayOf_setArr_ne (x : Tile) {n m : Nat} (y : ArrayUnit) (h : m ≠ n) : arrayOf (setArr x n y) m = arrayOf x m := by
  simp only [arrayOf, setArr, SMap.get_set_ne _ _ _ h]
@[simp] theorem arr_updArray_self (s : State) (t n : Nat) (f : ArrayUnit → ArrayUnit) : arr (updArray s t n f) t n = f (arr s t n) := by
  simp [updArray, setArray, arr]

@[simp] theorem sliceOf_setSlice_self (s : State) (st k : Nat) (x : Slice) : sliceOf (setSlice s st k x) st k = x := by
  simp [sliceOf]
@[simp] theorem ctrlOf_setCtrl_self (s : State) (i : Nat) (c : Ctrl) : ctrlOf (setCtrl s i c) i = c := by simp [ctrlOf]
theorem ctrlOf_setCtrl_ne (s : State) {i j : Nat} (c : Ctrl) (h : j ≠ i) : ctrlOf (setCtrl s i c) j = ctrlOf s j := by
  simp only [ctrlOf, setCtrl_ctrls, SMap.get_set_ne _ _ _ h]
@[simp] theorem ctrlOf_updCtrl_self (s : State) (i : Nat) (f : Ctrl → Ctrl) : ctrlOf (updCtrl s i f) i = f (ctrlOf s i) :=
  ctrlOf_setCtrl_self s i _
@[simp] theorem portOf_setPort_self (s : State) (p : Nat) (x : Port) : portOf (setPort s p x) p = x := by simp [portOf]
theorem portOf_setPort_ne (s : State) {p q : Nat} (x : Port) (h : q ≠ p) : portOf (setPort s p x) q = portOf s q := by
  simp only [portOf, setPort_ports, SMap.get_set_ne _ _ _ h]
@[simp] theorem portOf_updPort_self (s : State) (p : Nat) (f : Port → Port) : portOf (updPort s p f) p = f (portOf s p) :=
  portOf_setPort_self s p _
@[simp] theorem partOf_setPart_self (s : State) (p : Nat) (x : Part) : partOf (setPart s p x) p = x := by simp [partOf]
theorem partOf_setPart_ne (s : State) {p q : Nat} (x : Part) (h : q ≠ p) : partOf (setPart s p x) q = partOf s q := by
  simp only [partOf, setPart_parts, SMap.get_set_ne _ _ _ h]
@[simp] theorem partOf_updPart_self (s : State) (p : Nat) (f : Part → Part) : partOf (updPart s p f) p = f (partOf s p) :=
  partOf_setPart_self s p _

end Sys2Proof.Machine
end

