-- ==== Sys2Proof/Tests/Slice0.lean ====
section
/-! SUPPORT. The author's own tests: small states on which the hypotheses of every statement hold together, with one or two
fields of the result of one step; the expected values are worked out by hand from the spec's tables. -/

set_option Elab.async false

namespace Sys2Proof.Tests

open Sys2Proof Sys2Proof.Machine

/-- Does a command answer a next state that passes a check? -/
def gives (c : Instr) (s : State) (p : State → Bool) : Bool :=
  match exec c s with
  | .next t => p t
  | _ => false

/-! ### Tile instructions -/

/-- A class R word (Table 4.2). -/
def wordR (op wd wa wb wc mod_ : Nat) : DWord :=
  BitVec.ofNat 64 (op * 2 ^ 56 + wd * 2 ^ 45 + wa * 2 ^ 38 + wb * 2 ^ 31 + wc * 2 ^ 24 + mod_ * 2 ^ 16)

/-- A class M word. -/
def wordM (op wd wa size ty ofs : Nat) : DWord :=
  BitVec.ofNat 64 (2 * 2 ^ 61 + op * 2 ^ 56 + wd * 2 ^ 45 + wa * 2 ^ 38 + size * 2 ^ 35 + ty * 2 ^ 32 + ofs)

/-- A class C word guarded by predicate g. -/
def wordC (op g cnt bid tgt : Nat) : DWord :=
  BitVec.ofNat 64 (3 * 2 ^ 61 + op * 2 ^ 56 + g * 2 ^ 53 + cnt * 2 ^ 35 + bid * 2 ^ 32 + tgt)

/-- A class X word. -/
def wordX (op wd wa q : Nat) : DWord := BitVec.ofNat 64 (4 * 2 ^ 61 + op * 2 ^ 56 + wd * 2 ^ 45 + wa * 2 ^ 38 + q * 2 ^ 35)

/-- A class S word. -/
def wordS (op wd wa sel : Nat) : DWord := BitVec.ofNat 64 (6 * 2 ^ 61 + op * 2 ^ 56 + wd * 2 ^ 45 + wa * 2 ^ 38 + sel * 2 ^ 32)

/-- Thread 0: w1 = 7, w2 = 5, w4 = 2.0 (binary32), w5 = 1.5, pair w6 = 2.0 (binary64), pair w8 = 1.5; thread 1: w1 = -1,
w2 = 1; threads 0 and 1 active, p1 true in thread 0, p2 true in both. -/
def g0 : Group := { Group.reset with
  st := .ready, active := 3, codeLen := 64
  regs := [(1, 7), (2, 5), (4, 0x40000000), (5, 0x3FC00000), (7, 0x40000000), (9, 0x3FF80000), (129, 0xFFFFFFFF), (130, 1)]
  preds := [(1, 1), (2, 3)] }

/-- A tile after reset whose instruction buffer holds the word at code address 0. -/
def tile0 : Tile := { Tile.reset with ibuf := [⟨0, [], 0⟩] }

def withGroup (g : Group) : State := { State.reset with tiles := [(0, { tile0 with groups := [(0, g)] })] }

def s0 : State := withGroup g0

/-- The value of a register of thread th after an instruction of slot 0 of tile 0. -/
def regAfter (c : Instr) (s : State) (th r : Nat) (v : Word) : Bool := gives c s (fun t => rget (grp t 0 0) th r == v)

/-- A raw record of +1 at w16 to w23 of thread 0: V = 2^112, anchor 0 (Table 2.3). -/
def sRaw : State := withGroup { g0 with active := 1, regs := [(19, 0x10000)] }

/-- Inside an IF, after a LOOP with an IF above it, in a LOOP, after a CALL. -/
def sIf : State := withGroup { g0 with active := 1, masks := [⟨.ifK, 3, 2⟩] }
def sLoopIf : State := withGroup { g0 with active := 1, masks := [⟨.ifK, 3, 2⟩, ⟨.loopK, 3, 0⟩] }
def sLoop (act : BitVec 32) : State := withGroup { g0 with active := act, masks := [⟨.loopK, 3, 0⟩] }
def sRet : State := withGroup { g0 with rets := [⟨48, 0⟩] }

/-- Slot 3 waits at barrier 1 for two groups. -/
def sBar : State := { State.reset with tiles := [(0, { tile0 with groups :=
  [(0, g0), (3, { g0 with st := .atBarrier, wait := .barrier 1 2 })] })] }

/-- w20 = 0 and pair w22 = HBM address 0 in thread 0 alone; bytes 1, 2, 3, 4 at tile memory 64; w1 = -1. -/
def sMem : State := { State.reset with tiles := [(0, { tile0 with
  mem := [(64, 1), (65, 2), (66, 3), (67, 4)],
  groups := [(0, { g0 with active := 1, regs := [(1, 0xFFFFFFFF)] })] })] }

/-- A store is outstanding. -/
def sOut : State := withGroup { g0 with outst := [⟨0, true, 1, 0⟩] }

/-- Partition 0 holds stack 0; w24 to w27 describe a message of 64 bytes from offset 0 to tiles (0, 0) and (1, 0). -/
def sMsg : State := { withGroup { g0 with regs := [(25, 64), (26, 0x00010000)] } with bar0 := [(0x180000, 0x8000000000000001)] }

/-- Queue 2 of tile 0 holds one message of 8 bytes with tag 5 in its first space. -/
def sRing (st : RingSt) : State := { State.reset with tiles := [(0, { tile0 with
  rings := [(2, { Ring.reset with size := 16, wpos := 2, spaces := [⟨1, 0, 2, st, 0, 0, 0x11, 8, 5⟩] })],
  groups := [(0, { g0 with regs := [] })] })] }

/-- Message 0 of tile 0, in a phase. -/
def sSent (ph : MsgPhase) : State := { State.reset with tiles := [(0, { tile0 with
  sends := [⟨0, 0, 0, 64, 0, 0, 0, 0, 0, 0, ph, [], [0], [], [0], [], [], false, false, [], 0⟩],
  groups := [(0, { g0 with regs := [] })] })] }

/-- Attention command 0 of tile 0, in a phase. -/
def sAtt (ph : AttPhase) : State := { State.reset with tiles := [(0, { tile0 with
  att := [⟨0, 0, false, 0, ph, [], [], [], none, 0⟩], groups := [(0, { g0 with regs := [] })] })] }

/-- Array 0 is bound to the group with a block of one element; sAcc: its accumulator holds 3.0 and SAT is set. -/
def aOne : ArrayUnit := { ArrayUnit.reset with owner := some (.group 0), m := 1, n := 1 }
def withArray (a : ArrayUnit) : State := { State.reset with tiles := [(0, { tile0 with arrays := [(0, a)], groups := [(0, g0)] })] }
def sArr : State := withArray aOne
def sAcc : State := withArray { aOne with accs := [(0, ⟨3 * 2 ^ 111, 1, false, false⟩)], blk := 2, cum := 1 }

/-- Class A words (Tables 3.2 to 3.5): array 0. -/
def wordA (op rest : Nat) : DWord := BitVec.ofNat 64 (5 * 2 ^ 61 + op * 2 ^ 56 + rest)
def wordAzero (arr_ m n : Nat) : DWord := wordA 0 (arr_ * 2 ^ 54 + (m - 1) * 2 ^ 49 + (n - 1) * 2 ^ 46)
def wordAload (arr_ r : Nat) : DWord := wordA 1 (arr_ * 2 ^ 54 + r * 2 ^ 37)
def wordAmul (arr_ f wa wb k : Nat) : DWord := wordA 2 (arr_ * 2 ^ 54 + f * 2 ^ 50 + f * 2 ^ 46 + wa * 2 ^ 32 + wb * 2 ^ 25 + k * 2 ^ 13)
def wordAdrain (arr_ r : Nat) : DWord := wordA 3 (arr_ * 2 ^ 54 + r * 2 ^ 40)
def wordAdrainMem (arr_ r : Nat) : DWord := wordA 3 (arr_ * 2 ^ 54 + 2 ^ 48 + r * 2 ^ 40)
def wordAstat (arr_ r : Nat) : DWord := wordA 4 (arr_ * 2 ^ 54 + r * 2 ^ 46)

theorem test_iadd : CanIssue rowIadd 0 0 (wordR 0 3 1 2 0 0) s0 ∧
    regAfter (.iadd 0 0 (wordR 0 3 1 2 0 0)) s0 0 3 12 = true ∧
    regAfter (.iadd 0 0 (wordR 0 3 1 2 0 0)) s0 1 3 0 = true := by unfold CanIssue Undamaged; decide +kernel

theorem test_isub : CanIssue rowIsub 0 0 (wordR 1 3 1 2 0 0) s0 ∧
    regAfter (.isub 0 0 (wordR 1 3 1 2 0 0)) s0 0 3 2 = true ∧
    regAfter (.isub 0 0 (wordR 1 3 1 2 0 0)) s0 1 3 0xFFFFFFFE = true := by unfold CanIssue Undamaged; decide +kernel

theorem test_imul : CanIssue rowImul 0 0 (wordR 2 3 1 2 0 0) s0 ∧
    regAfter (.imul 0 0 (wordR 2 3 1 2 0 0)) s0 0 3 35 = true ∧
    regAfter (.imul 0 0 (wordR 2 3 1 2 0 0)) s0 1 3 0xFFFFFFFF = true := by unfold CanIssue Undamaged; decide +kernel

theorem test_imulh : CanIssue rowImulh 0 0 (wordR 3 3 1 2 0 0) s0 ∧
    regAfter (.imulh 0 0 (wordR 3 3 1 2 0 0)) s0 0 3 0 = true ∧
    regAfter (.imulh 0 0 (wordR 3 3 1 2 0 0)) s0 1 3 0xFFFFFFFF = true := by unfold CanIssue Undamaged; decide +kernel

theorem test_imad : CanIssue rowImad 0 0 (wordR 4 3 1 2 1 0) s0 ∧
    regAfter (.imad 0 0 (wordR 4 3 1 2 1 0)) s0 0 3 42 = true := by unfold CanIssue Undamaged; decide +kernel

theorem test_andB : CanIssue rowAnd 0 0 (wordR 5 3 1 2 0 0) s0 ∧
    regAfter (.andB 0 0 (wordR 5 3 1 2 0 0)) s0 0 3 5 = true := by unfold CanIssue Undamaged; decide +kernel

theorem test_orB : CanIssue rowOr 0 0 (wordR 6 3 1 2 0 0) s0 ∧
    regAfter (.orB 0 0 (wordR 6 3 1 2 0 0)) s0 0 3 7 = true := by unfold CanIssue Undamaged; decide +kernel

theorem test_xorB : CanIssue rowXor 0 0 (wordR 7 3 1 2 0 0) s0 ∧
    regAfter (.xorB 0 0 (wordR 7 3 1 2 0 0)) s0 0 3 2 = true := by unfold CanIssue Undamaged; decide +kernel

theorem test_shl : CanIssue rowShl 0 0 (wordR 8 3 1 2 0 0) s0 ∧
    regAfter (.shl 0 0 (wordR 8 3 1 2 0 0)) s0 0 3 224 = true := by unfold CanIssue Undamaged; decide +kernel

theorem test_shr : CanIssue rowShr 0 0 (wordR 9 3 1 2 0 0) s0 ∧
    regAfter (.shr 0 0 (wordR 9 3 1 2 0 0)) s0 0 3 0 = true ∧
    regAfter (.shr 0 0 (wordR 9 3 1 2 0 0)) s0 1 3 0x7FFFFFFF = true := by unfold CanIssue Undamaged; decide +kernel

theorem test_sar : CanIssue rowSar 0 0 (wordR 10 3 1 2 0 0) s0 ∧
    regAfter (.sar 0 0 (wordR 10 3 1 2 0 0)) s0 1 3 0xFFFFFFFF = true := by unfold CanIssue Undamaged; decide +kernel

theorem test_imin : CanIssue rowImin 0 0 (wordR 11 3 1 2 0 0) s0 ∧
    regAfter (.imin 0 0 (wordR 11 3 1 2 0 0)) s0 0 3 5 = true ∧
    regAfter (.imin 0 0 (wordR 11 3 1 2 0 0)) s0 1 3 0xFFFFFFFF = true := by unfold CanIssue Undamaged; decide +kernel

theorem test_imax : CanIssue rowImax 0 0 (wordR 12 3 1 2 0 1) s0 ∧
    regAfter (.imax 0 0 (wordR 12 3 1 2 0 1)) s0 0 3 7 = true ∧
    regAfter (.imax 0 0 (wordR 12 3 1 2 0 1)) s0 1 3 0xFFFFFFFF = true := by unfold CanIssue Undamaged; decide +kernel

theorem test_sel : CanIssue rowSel 0 0 (wordR 13 3 1 2 0 1) s0 ∧
    regAfter (.sel 0 0 (wordR 13 3 1 2 0 1)) s0 0 3 7 = true ∧
    regAfter (.sel 0 0 (wordR 13 3 1 2 0 1)) s0 1 3 1 = true := by unfold CanIssue Undamaged; decide +kernel

theorem test_bitop : CanIssue rowBitop 0 0 (wordR 15 3 1 2 0 1) s0 ∧
    regAfter (.bitop 0 0 (wordR 15 3 1 2 0 1)) s0 0 3 29 = true ∧
    regAfter (.bitop 0 0 (wordR 15 3 1 2 0 1)) s0 1 3 0 = true := by unfold CanIssue Undamaged; decide +kernel

theorem test_iadd64 : CanIssue rowIadd64 0 0 (wordR 16 10 6 8 0 0) s0 ∧
    regAfter (.iadd64 0 0 (wordR 16 10 6 8 0 0)) s0 0 11 0x7FF80000 = true ∧
    regAfter (.iadd64 0 0 (wordR 16 10 6 8 0 0)) s0 0 10 0 = true := by unfold CanIssue Undamaged; decide +kernel

theorem test_fadd : CanIssue rowFadd 0 0 (wordR 17 3 4 5 0 0) s0 ∧
    regAfter (.fadd 0 0 (wordR 17 3 4 5 0 0)) s0 0 3 0x40600000 = true := by unfold CanIssue Undamaged; decide +kernel

theorem test_fmul : CanIssue rowFmul 0 0 (wordR 18 3 4 5 0 0) s0 ∧
    regAfter (.fmul 0 0 (wordR 18 3 4 5 0 0)) s0 0 3 0x40400000 = true := by unfold CanIssue Undamaged; decide +kernel

theorem test_ffma : CanIssue rowFfma 0 0 (wordR 19 3 4 5 5 0) s0 ∧
    regAfter (.ffma 0 0 (wordR 19 3 4 5 5 0)) s0 0 3 0x40900000 = true := by unfold CanIssue Undamaged; decide +kernel

theorem test_fmin : CanIssue rowFmin 0 0 (wordR 20 3 4 5 0 0) s0 ∧
    regAfter (.fmin 0 0 (wordR 20 3 4 5 0 0)) s0 0 3 0x3FC00000 = true := by unfold CanIssue Undamaged; decide +kernel

theorem test_fmax : CanIssue rowFmax 0 0 (wordR 21 3 4 5 0 0) s0 ∧
    regAfter (.fmax 0 0 (wordR 21 3 4 5 0 0)) s0 0 3 0x40000000 = true := by unfold CanIssue Undamaged; decide +kernel

theorem test_fsfu : CanIssue rowFsfu 0 0 (wordR 23 3 4 2 0 0) s0 ∧
    regAfter (.fsfu 0 0 (wordR 23 3 4 2 0 0)) s0 0 3 0x3F000000 = true := by unfold CanIssue Undamaged; decide +kernel

theorem test_cvt : CanIssue rowCvt 0 0 (wordR 24 3 1 0 0 2) s0 ∧
    regAfter (.cvt 0 0 (wordR 24 3 1 0 0 2)) s0 0 3 0x40E00000 = true ∧
    regAfter (.cvt 0 0 (wordR 24 3 1 0 0 2)) s0 1 3 0xBF800000 = true := by unfold CanIssue Undamaged; decide +kernel

theorem test_dadd : CanIssue rowDadd 0 0 (wordR 25 10 6 8 0 0) s0 ∧
    regAfter (.dadd 0 0 (wordR 25 10 6 8 0 0)) s0 0 11 0x400C0000 = true ∧
    regAfter (.dadd 0 0 (wordR 25 10 6 8 0 0)) s0 0 10 0 = true := by unfold CanIssue Undamaged; decide +kernel

theorem test_dmul : CanIssue rowDmul 0 0 (wordR 26 10 6 8 0 0) s0 ∧
    regAfter (.dmul 0 0 (wordR 26 10 6 8 0 0)) s0 0 11 0x40080000 = true := by unfold CanIssue Undamaged; decide +kernel

theorem test_dfma : CanIssue rowDfma 0 0 (wordR 27 10 6 8 8 0) s0 ∧
    regAfter (.dfma 0 0 (wordR 27 10 6 8 8 0)) s0 0 11 0x40120000 = true := by unfold CanIssue Undamaged; decide +kernel

theorem test_cvtraw : CanIssue rowCvtraw 0 0 (wordR 29 10 16 2 0 0) sRaw ∧
    regAfter (.cvtraw 0 0 (wordR 29 10 16 2 0 0)) sRaw 0 11 0x3FF00000 = true := by unfold CanIssue Undamaged; decide +kernel

theorem test_shfl : CanIssue rowShfl 0 0 (wordR 30 3 1 2 0 0) s0 ∧
    regAfter (.shfl 0 0 (wordR 30 3 1 2 0 0)) s0 1 3 0xFFFFFFFF = true := by unfold CanIssue Undamaged; decide +kernel

theorem test_isetp : CanIssue rowIsetp 0 0 (wordR 14 3 1 2 0 2) s0 ∧
    gives (.isetp 0 0 (wordR 14 3 1 2 0 2)) s0 (fun t => pget (grp t 0 0) 3 0 == false && pget (grp t 0 0) 3 1 == true) = true := by unfold CanIssue Undamaged; decide +kernel

theorem test_fsetp : CanIssue rowFsetp 0 0 (wordR 22 3 4 5 0 4) s0 ∧
    gives (.fsetp 0 0 (wordR 22 3 4 5 0 4)) s0 (fun t => pget (grp t 0 0) 3 0 == true && pget (grp t 0 0) 3 1 == false) = true := by unfold CanIssue Undamaged; decide +kernel

theorem test_dsetp : CanIssue rowDsetp 0 0 (wordR 28 3 6 8 0 4) s0 ∧
    gives (.dsetp 0 0 (wordR 28 3 6 8 0 4)) s0 (fun t => pget (grp t 0 0) 3 0 == true) = true := by unfold CanIssue Undamaged; decide +kernel

theorem test_bra : (CanIssue rowBra 0 0 (wordC 0 2 0 0 3) (s0) ∧ 
    gives (.bra 0 0 (wordC 0 2 0 0 3)) (s0) (fun t => (grp t 0 0).pc == 24) = true) ∧
    (CanIssue rowBra 0 0 (wordC 0 3 0 0 3) (s0) ∧ 
    gives (.bra 0 0 (wordC 0 3 0 0 3)) (s0) (fun t => (grp t 0 0).pc == 8) = true) := by unfold CanIssue Undamaged; decide +kernel

theorem test_bra_faults : (CanIssue rowBra 0 0 (wordC 0 1 0 0 3) (s0) ∧ acting g0 (wordC 0 1 0 0 3) ≠ [] ∧ 
    gives (.bra 0 0 (wordC 0 1 0 0 3)) (s0) (fun t => (grp t 0 0).st == .faulted && regF t (oGRPFAULT 0) 47 40 == 0x12) = true) ∧
    (CanIssue rowBra 0 0 (wordC 0 0 0 0 100) (s0) ∧ 
    gives (.bra 0 0 (wordC 0 0 0 0 100)) (s0) (fun t => (grp t 0 0).st == .faulted && regF t (oGRPFAULT 0) 47 40 == 0x14) = true) := by unfold CanIssue Undamaged; decide +kernel

theorem test_if : CanIssue rowIf 0 0 (wordC 1 1 0 0 3) (s0) ∧ 
    gives (.ifC 0 0 (wordC 1 1 0 0 3)) (s0) (fun t => (grp t 0 0).active == 1 && (grp t 0 0).masks == [⟨.ifK, 3, 2⟩] && (grp t 0 0).pc == 8) = true := by unfold CanIssue Undamaged; decide +kernel

theorem test_if_empty : CanIssue rowIf 0 0 (wordC 1 3 0 0 3) (s0) ∧ 
    gives (.ifC 0 0 (wordC 1 3 0 0 3)) (s0) (fun t => (grp t 0 0).active == 0 && (grp t 0 0).pc == 24) = true := by unfold CanIssue Undamaged; decide +kernel

theorem test_else : CanIssue rowElse 0 0 (wordC 2 0 0 0 3) (sIf) ∧ 
    gives (.elseC 0 0 (wordC 2 0 0 0 3)) (sIf) (fun t => (grp t 0 0).active == 2 && (grp t 0 0).masks.length == 1) = true := by unfold CanIssue Undamaged; decide +kernel

theorem test_endif : CanIssue rowEndif 0 0 (wordC 3 0 0 0 0) (sIf) ∧ 
    gives (.endif 0 0 (wordC 3 0 0 0 0)) (sIf) (fun t => (grp t 0 0).active == 3 && (grp t 0 0).masks == []) = true := by unfold CanIssue Undamaged; decide +kernel

theorem test_endif_empty : CanIssue rowEndif 0 0 (wordC 3 0 0 0 0) (s0) ∧ 
    gives (.endif 0 0 (wordC 3 0 0 0 0)) (s0) (fun t => (grp t 0 0).st == .faulted && regF t (oGRPFAULT 0) 47 40 == 0x13) = true := by unfold CanIssue Undamaged; decide +kernel

theorem test_loop : CanIssue rowLoop 0 0 (wordC 4 0 0 0 0) (s0) ∧ 
    gives (.loopC 0 0 (wordC 4 0 0 0 0)) (s0) (fun t => (grp t 0 0).masks == [⟨.loopK, 3, 0⟩]) = true := by unfold CanIssue Undamaged; decide +kernel

theorem test_brk : CanIssue rowBrk 0 0 (wordC 5 1 0 0 4) (sLoopIf) ∧ 
    gives (.brk 0 0 (wordC 5 1 0 0 4)) (sLoopIf) (fun t => (grp t 0 0).active == 0 && (grp t 0 0).pc == 32 && (grp t 0 0).masks == [⟨.ifK, 2, 2⟩, ⟨.loopK, 3, 0⟩]) = true := by unfold CanIssue Undamaged; decide +kernel

theorem test_endloop : CanIssue rowEndloop 0 0 (wordC 6 0 0 0 2) (sLoop 3) ∧ 
    gives (.endloop 0 0 (wordC 6 0 0 0 2)) (sLoop 3) (fun t => (grp t 0 0).pc == 16 && (grp t 0 0).masks.length == 1) = true := by unfold CanIssue Undamaged; decide +kernel

theorem test_endloop_done : CanIssue rowEndloop 0 0 (wordC 6 0 0 0 2) (sLoop 0) ∧ 
    gives (.endloop 0 0 (wordC 6 0 0 0 2)) (sLoop 0) (fun t => (grp t 0 0).pc == 8 && (grp t 0 0).active == 3 && (grp t 0 0).masks == []) = true := by unfold CanIssue Undamaged; decide +kernel

theorem test_call : CanIssue rowCall 0 0 (wordC 7 0 0 0 5) (s0) ∧ 
    gives (.call 0 0 (wordC 7 0 0 0 5)) (s0) (fun t => (grp t 0 0).pc == 40 && (grp t 0 0).rets == [⟨8, 0⟩]) = true := by unfold CanIssue Undamaged; decide +kernel

theorem test_ret : CanIssue rowRet 0 0 (wordC 8 0 0 0 0) (sRet) ∧ 
    gives (.ret 0 0 (wordC 8 0 0 0 0)) (sRet) (fun t => (grp t 0 0).pc == 48 && (grp t 0 0).rets == []) = true := by unfold CanIssue Undamaged; decide +kernel

theorem test_bar : (CanIssue rowBar 0 0 (wordC 9 0 2 1 0) (s0) ∧ (atBarrier (tileOf s0 0) 1).length + 1 < 2 ∧ 
    gives (.bar 0 0 (wordC 9 0 2 1 0)) (s0) (fun t => (grp t 0 0).st == .atBarrier && (grp t 0 0).wait == .barrier 1 2) = true) ∧
    (CanIssue rowBar 0 0 (wordC 9 0 2 1 0) (sBar) ∧ 2 ≤ (atBarrier (tileOf sBar 0) 1).length + 1 ∧ 
    gives (.bar 0 0 (wordC 9 0 2 1 0)) (sBar) (fun t => (grp t 0 0).st == .ready && (grp t 0 3).st == .ready) = true) := by unfold CanIssue Undamaged; decide +kernel

theorem test_bar_mismatch : CanIssue rowBar 0 0 (wordC 9 0 3 1 0) sBar ∧ atBarrier (tileOf sBar 0) 1 ≠ [] ∧
    gives (.bar 0 0 (wordC 9 0 3 1 0)) sBar (fun t => (grp t 0 0).st == .faulted && regF t (oGRPFAULT 0) 47 40 == 0x15 &&
      (grp t 0 3).st == .atBarrier) = true := by unfold CanIssue Undamaged; decide +kernel

theorem test_end : CanIssue rowEnd 0 0 (wordC 10 0 0 0 0) (sArr) ∧ 
    gives (.endC 0 0 (wordC 10 0 0 0 0)) (sArr) (fun t => (grp t 0 0).st == .ended && (arr t 0 0).owner == none && regF t (oARRSTAT 0 0) 39 32 == 1) = true := by unfold CanIssue Undamaged; decide +kernel

theorem test_nop : CanIssue rowNop 0 0 (wordC 11 0 0 0 0) (s0) ∧ 
    gives (.nop 0 0 (wordC 11 0 0 0 0)) (s0) (fun t => (grp t 0 0).pc == 8) = true := by unfold CanIssue Undamaged; decide +kernel

theorem test_ldt : CanIssue rowLdt 0 0 (wordM 0 3 20 2 0 64) (sMem) ∧ (∀ th ∈ acting (grp sMem 0 0) (wordM 0 3 20 2 0 64), tmAddrOk (grp sMem 0 0) (wordM 0 3 20 2 0 64) th = true) ∧ 
    gives (.ldt 0 0 (wordM 0 3 20 2 0 64)) (sMem) (fun t => rget (grp t 0 0) 0 3 == 0x04030201) = true := by unfold CanIssue Undamaged; decide +kernel

theorem test_ldt_misaligned : CanIssue rowLdt 0 0 (wordM 0 3 20 2 0 65) (sMem) ∧ (∃ th ∈ acting (grp sMem 0 0) (wordM 0 3 20 2 0 65), tmAddrOk (grp sMem 0 0) (wordM 0 3 20 2 0 65) th = false) ∧ 
    gives (.ldt 0 0 (wordM 0 3 20 2 0 65)) (sMem) (fun t => (grp t 0 0).st == .faulted && regF t (oGRPFAULT 0) 47 40 == 0x16) = true := by unfold CanIssue Undamaged; decide +kernel

theorem test_stt : CanIssue rowStt 0 0 (wordM 1 1 20 0 0 64) (sMem) ∧ 
    gives (.stt 0 0 (wordM 1 1 20 0 0 64)) (sMem) (fun t => Mem.read (tileOf t 0).mem 64 4 == [255, 2, 3, 4]) = true := by unfold CanIssue Undamaged; decide +kernel

theorem test_ldd : CanIssue rowLdd 0 0 (wordM 2 3 22 2 0 0) (sMem) ∧ devTrap sMem (grp sMem 0 0) (wordM 2 3 22 2 0 0) false = none ∧ 
    gives (.ldd 0 0 (wordM 2 3 22 2 0 0)) (sMem) (fun t => t.txns.length == 1 && (grp t 0 0).outst.length == 1) = true := by unfold CanIssue Undamaged; decide +kernel

theorem test_std : CanIssue rowStd 0 0 (wordM 3 1 22 2 0 0) (sMem) ∧ devTrap sMem (grp sMem 0 0) (wordM 3 1 22 2 0 0) false = none ∧ 
    gives (.std 0 0 (wordM 3 1 22 2 0 0)) (sMem) (fun t => t.txns.map (·.bytes) == [[(0, 255), (1, 255), (2, 255), (3, 255)]]) = true := by unfold CanIssue Undamaged; decide +kernel

theorem test_madd : CanIssue rowMadd 0 0 (wordM 4 1 22 2 0 0) (sMem) ∧ devTrap sMem (grp sMem 0 0) (wordM 4 1 22 2 0 0) true = none ∧ 
    gives (.madd 0 0 (wordM 4 1 22 2 0 0)) (sMem) (fun t => t.txns.map (·.kind) == [.madd 0]) = true := by unfold CanIssue Undamaged; decide +kernel

theorem test_fence : CanIssue rowFence 0 0 (wordM 5 0 0 0 0 0) (s0) ∧ 
    gives (.fence 0 0 (wordM 5 0 0 0 0 0)) (s0) (fun t => (grp t 0 0).st == .ready && (grp t 0 0).pc == 8) = true := by unfold CanIssue Undamaged; decide +kernel

theorem test_fence_waits : CanIssue rowFence 0 0 (wordM 5 0 0 0 0 0) (sOut) ∧ (∃ o ∈ (grp sOut 0 0).outst, o.store = true) ∧ 
    gives (.fence 0 0 (wordM 5 0 0 0 0 0)) (sOut) (fun t => (grp t 0 0).st == .waitMem) = true := by unfold CanIssue Undamaged; decide +kernel

theorem test_send : CanIssue rowSend 0 0 (wordX 0 3 24 0) (sMsg) ∧ sendOk sMsg 0 (sendEntry (grp sMsg 0 0) 0 24 0) = true ∧ 
    gives (.send 0 0 (wordX 0 3 24 0)) (sMsg) (fun t => (tileOf t 0).sends.map (·.dests) == [[0, 1]]) = true := by unfold CanIssue Undamaged; decide +kernel

theorem test_recv : (CanIssue rowRecv 0 0 (wordX 1 32 0 2) (sRing .written) ∧ oldestWritten (ringOf (tileOf (sRing .written) 0) 2) ≠ none ∧ 
    gives (.recv 0 0 (wordX 1 32 0 2)) (sRing .written) (fun t => rget (grp t 0 0) 0 33 == 8 && rget (grp t 0 0) 1 34 == 0x00050000 && rget (grp t 0 0) 0 35 == 64) = true) ∧
    (CanIssue rowRecv 0 0 (wordX 1 32 0 2) (s0) ∧ 
    gives (.recv 0 0 (wordX 1 32 0 2)) (s0) (fun t => rget (grp t 0 0) 0 32 == 0x20000000) = true) := by unfold CanIssue Undamaged; decide +kernel

theorem test_recv_waits : CanIssue rowRecv 0 0 (wordX 1 32 1 2) (s0) ∧ oldestWritten (ringOf (tileOf s0 0) 2) = none ∧ 
    gives (.recv 0 0 (wordX 1 32 1 2)) (s0) (fun t => (grp t 0 0).wait == .recv 2 32 7) = true := by unfold CanIssue Undamaged; decide +kernel

theorem test_mstat : (CanIssue rowMstat 0 0 (wordX 2 3 0 0) (sSent (.final 4)) ∧ (codeSend (sSent (.final 4)) 0 0).isSome = true ∧ 
    gives (.mstat 0 0 (wordX 2 3 0 0)) (sSent (.final 4)) (fun t => rget (grp t 0 0) 0 3 == 4 && (tileOf t 0).sends == []) = true) ∧
    (CanIssue rowMstat 0 0 (wordX 2 3 0 0) (s0) ∧ codeSend s0 0 0 = none ∧ 
    gives (.mstat 0 0 (wordX 2 3 0 0)) (s0) (fun t => rget (grp t 0 0) 0 3 == 15) = true) := by unfold CanIssue Undamaged; decide +kernel

theorem test_mstat_waits : CanIssue rowMstat 0 0 (wordX 2 3 0 0) (sSent .injected) ∧ 
    gives (.mstat 0 0 (wordX 2 3 0 0)) (sSent .injected) (fun t => (grp t 0 0).wait == .mstat 0 3) = true := by unfold CanIssue Undamaged; decide +kernel

theorem test_mcancel_late : CanIssue rowMcancel 0 0 (wordX 3 0 0 0) (sSent .injected) ∧ 
    gives (.mcancel 0 0 (wordX 3 0 0 0)) (sSent .injected) (fun t => (tileOf t 0).sends.map (·.late) == [true]) = true := by unfold CanIssue Undamaged; decide +kernel

theorem test_mcancel : CanIssue rowMcancel 0 0 (wordX 3 0 0 0) (sSent .eligible) ∧ mstatWaiters (tileOf (sSent .eligible) 0) 0 = [] ∧ 
    gives (.mcancel 0 0 (wordX 3 0 0 0)) (sSent .eligible) (fun t => (tileOf t 0).sends.map (·.phase) == [.final 1] && regF t (oMSGSTAT 0) 47 32 == 1) = true := by unfold CanIssue Undamaged; decide +kernel

theorem test_mfree : CanIssue rowMfree 0 0 (wordX 4 0 0 2) (sRing .delivered) ∧ 
    gives (.mfree 0 0 (wordX 4 0 0 2)) (sRing .delivered) (fun t => (ringOf (tileOf t 0) 2).spaces == []) = true := by unfold CanIssue Undamaged; decide +kernel

theorem test_mfree_nothing : CanIssue rowMfree 0 0 (wordX 4 0 0 2) (s0) ∧ 
    gives (.mfree 0 0 (wordX 4 0 0 2)) (s0) (fun t => (grp t 0 0).st == .faulted && regF t (oGRPFAULT 0) 47 40 == 0x1B) = true := by unfold CanIssue Undamaged; decide +kernel

theorem test_sread : (CanIssue rowSread 0 0 (wordS 0 3 0 4) (s0) ∧ 
    gives (.sread 0 0 (wordS 0 3 0 4)) (s0) (fun t => rget (grp t 0 0) 0 3 == 64) = true) ∧
    (CanIssue rowSread 0 0 (wordS 0 4 0 12) (s0) ∧ 
    gives (.sread 0 0 (wordS 0 4 0 12)) (s0) (fun t => rget (grp t 0 0) 0 4 == 0) = true) := by unfold CanIssue Undamaged; decide +kernel

theorem test_sread_cycles : CanIssue rowSread 0 0 (wordS 0 4 0 11) (s0) ∧ 
    gives (.sread 0 0 (wordS 0 4 0 11)) (s0) (fun t => t.fresh == 1) = true := by unfold CanIssue Undamaged; decide +kernel

theorem test_attn : CanIssue rowAttn 0 0 (wordS 16 3 20 0) (sMem) ∧ 
    gives (.attn 0 0 (wordS 16 3 20 0)) (sMem) (fun t => (tileOf t 0).att.map (·.off) == [0] && (grp t 0 0).pc == 8) = true := by unfold CanIssue Undamaged; decide +kernel

theorem test_attnw : CanIssue rowAttnw 0 0 (wordS 17 3 0 0) (sAtt (.final 0x40000000)) ∧ (attOf (sAtt (.final 0x40000000)) 0 0).isSome = true ∧ 
    gives (.attnw 0 0 (wordS 17 3 0 0)) (sAtt (.final 0x40000000)) (fun t => rget (grp t 0 0) 0 3 == 0x40000000 && (tileOf t 0).att == []) = true := by unfold CanIssue Undamaged; decide +kernel

theorem test_attnw_waits : CanIssue rowAttnw 0 0 (wordS 17 3 0 0) (sAtt .queued) ∧ 
    gives (.attnw 0 0 (wordS 17 3 0 0)) (sAtt .queued) (fun t => (grp t 0 0).wait == .attnw 0 3) = true := by unfold CanIssue Undamaged; decide +kernel

theorem test_azero : CanIssue (rowA 160) 0 0 (wordAzero 0 4 2) (s0) ∧ (arr s0 0 0).shadow = none ∧ 
    gives (.azero 0 0 (wordAzero 0 4 2)) (s0) (fun t => (arr t 0 0).owner == some (.group 0) && (arr t 0 0).m == 4 && (arr t 0 0).n == 2) = true := by unfold CanIssue Undamaged; decide +kernel

theorem test_aload : CanIssue (rowA 161) 0 0 (wordAload 0 4) (sArr) ∧ (arr sArr 0 0).owner = some (.group 0) ∧ 
    gives (.aload 0 0 (wordAload 0 4)) (sArr) (fun t => (accAt (arr t 0 0) 0 0).drain fp32 ⟨0, 0⟩ == (0x40000000, false)) = true := by unfold CanIssue Undamaged; decide +kernel

theorem test_amul : CanIssue (rowA 162) 0 0 (wordAmul 0 7 1 2 2) (sArr) ∧ firstCause (amulCauses (wordAmul 0 7 1 2 2) (amulOp (wordAmul 0 7 1 2 2)) (arr sArr 0 0) 0 (bDesc 0)) = none ∧ 
    gives (.amul 0 0 (wordAmul 0 7 1 2 2)) (sArr) (fun t => (accAt (arr t 0 0) 0 0).drain fp32 ⟨0, 0⟩ == (0x420C0000, false)) = true := by unfold CanIssue Undamaged; decide +kernel

theorem test_amul_nothing : CanIssue (rowA 162) 0 0 (wordAmul 0 7 1 2 0) (sArr) ∧ 
    gives (.amul 0 0 (wordAmul 0 7 1 2 0)) (sArr) (fun t => (arr t 0 0).amuls == 1) = true := by unfold CanIssue Undamaged; decide +kernel

theorem test_adrain : CanIssue (rowA 163) 0 0 (wordAdrain 0 40) (sAcc) ∧ firstCause (drainCauses (wordAdrain 0 40) (drainOp (wordAdrain 0 40)) (arr sAcc 0 0) 0 0) = none ∧ 
    gives (.adrain 0 0 (wordAdrain 0 40)) (sAcc) (fun t => rget (grp t 0 0) 0 40 == 0x40400000 && (arr t 0 0).owner == none) = true := by unfold CanIssue Undamaged; decide +kernel

theorem test_adrain_mem : CanIssue (rowA 163) 0 0 (wordAdrainMem 0 20) (sAcc) ∧ firstCause (drainCauses (wordAdrainMem 0 20) (drainOp (wordAdrainMem 0 20)) (arr sAcc 0 0) 0 0) = none ∧ 
    gives (.adrain 0 0 (wordAdrainMem 0 20)) (sAcc) (fun t => Mem.read (tileOf t 0).mem 0 4 == [0, 0, 0x40, 0x40]) = true := by unfold CanIssue Undamaged; decide +kernel

theorem test_astat : CanIssue (rowA 164) 0 0 (wordAstat 0 3) (sAcc) ∧ (arr sAcc 0 0).shadow = none ∧ 
    gives (.astat 0 0 (wordAstat 0 3)) (sAcc) (fun t => rget (grp t 0 0) 0 3 == 0x102) = true := by unfold CanIssue Undamaged; decide +kernel

/-- The mask stack is full; nothing was pushed. -/
def sFull : State := withGroup { g0 with masks := List.replicate 16 ⟨.loopK, 3, 0⟩ }

def faults (c : Instr) (s : State) (cause : Nat) : Bool :=
  gives c s (fun t => (grp t 0 0).st == .faulted && regF t (oGRPFAULT 0) 47 40 == cause)

/-- The word of the instruction is not in the instruction buffer. -/
def sCold : State := { State.reset with tiles := [(0, { Tile.reset with groups := [(0, g0)] })] }

theorem test_fetch : tileDecode 0 0 (wordR 0 3 1 2 0 0) = some (.iadd 0 0 (wordR 0 3 1 2 0 0)) ∧ issuable sCold 0 0 = true ∧
    (grp sCold 0 0).st = .ready ∧ (grp sCold 0 0).pc.toNat + 8 ≤ (grp sCold 0 0).codeLen ∧ (tileOf sCold 0).memErr = [] ∧
    ibufWord (tileOf sCold 0) (nextAt sCold 0 0 / 64) = none ∧ (tileOf sCold 0).ibuf.length < 256 ∧ nextAt sCold 0 0 % 8 = 0 ∧
    gives (.iadd 0 0 (wordR 0 3 1 2 0 0)) sCold (fun t => rget (grp t 0 0) 0 3 == 12 && (tileOf t 0).ibuf.length == 1) = true := by
  decide +kernel

theorem test_fault_causes_opening :
    (CanIssue rowIf 0 0 (wordC 1 0 0 0 3) sFull ∧ faults (.ifC 0 0 (wordC 1 0 0 0 3)) sFull 0x13 = true) ∧
    (CanIssue rowLoop 0 0 (wordC 4 0 0 0 0) sFull ∧ faults (.loopC 0 0 (wordC 4 0 0 0 0)) sFull 0x13 = true) ∧
    (CanIssue rowStt 0 0 (wordM 1 1 20 2 0 2) sMem ∧ faults (.stt 0 0 (wordM 1 1 20 2 0 2)) sMem 0x16 = true) := by
  unfold CanIssue Undamaged; decide +kernel

theorem test_fault_causes_closing :
    (CanIssue rowElse 0 0 (wordC 2 0 0 0 3) s0 ∧ faults (.elseC 0 0 (wordC 2 0 0 0 3)) s0 0x13 = true) ∧
    (CanIssue rowBrk 0 0 (wordC 5 0 0 0 3) s0 ∧ faults (.brk 0 0 (wordC 5 0 0 0 3)) s0 0x13 = true) ∧
    (CanIssue rowEndloop 0 0 (wordC 6 0 0 0 3) s0 ∧ faults (.endloop 0 0 (wordC 6 0 0 0 3)) s0 0x13 = true) ∧
    (CanIssue rowRet 0 0 (wordC 8 0 0 0 0) s0 ∧ faults (.ret 0 0 (wordC 8 0 0 0 0)) s0 0x13 = true) := by
  unfold CanIssue Undamaged; decide +kernel

/-! ### Messages -/

/-- Message 0 of tile 0: 64 bytes from offset 0 for queue 2 of tile 1 with tag 5. -/
def msg0 : Send := ⟨0, 3, 0, 64, 1, 0, 1, 0, 2, 5, .reserving, [1], [1], [], [], [], [], false, false, [], 0⟩

/-- The message at its sender, and queue 2 of tile 1. -/
def sPair (m : Send) (r : Ring) : State := { State.reset with tiles :=
  [(0, { tile0 with mem := [(0, 7), (63, 9)], sends := [m] }), (1, { tile0 with rings := [(2, r)] })] }

def ring16 : Ring := { Ring.reset with base := 4096, size := 16 }
/-- One unit short of room for a message of 64 bytes with its record. -/
def ringShort : Ring := { ring16 with wpos := 15, spaces := [⟨1, 0, 15, .written, 9, 9, 0, 64, 0⟩] }
/-- A ring that a message of 64 bytes can never fit. -/
def ringTiny : Ring := { ring16 with size := 1 }

def sRes : State := sPair msg0 ring16
def sResFull : State := sPair msg0 ringShort
def sResTiny : State := sPair msg0 ringTiny
def ringGranted : Ring := { ring16 with wpos := 2, spaces := [⟨0, 0, 2, .granted, 0, 0, 0, 64, 0⟩] }

theorem test_reservation : sendOf sRes 0 0 = some msg0 ∧ msg0.phase = .reserving ∧ 1 ∈ msg0.asked ∧
    (0, 1) ∉ (tileOf sRes 0).rels ∧ ResetDomain.tile 1 ∉ sRes.resetting ∧
    (let r := ringOf (tileOf sRes 1) 2
     msg0.len + 64 ≤ r.size * 64 ∧ r.spaces = [] ∧ r.held = []) ∧
    gives (.reservation 0 0 1) sRes (fun t => (ringOf (tileOf t 1) 2).wpos == 2 && (sendOf t 0 0).any (fun m => m.grants == [1])) = true := by
  decide +kernel

theorem test_reservation_held :
    (sendOf sResFull 0 0 = some msg0 ∧ (∀ v, ((ringOf (tileOf sResFull 1) 2).held ++ [(⟨0, 0, 64⟩ : Resv)]).head? = some v →
      (ringOf (tileOf sResFull 1) 2).settle.place (msgUnits v.len) = none) ∧
      gives (.reservation 0 0 1) sResFull (fun t => (ringOf (tileOf t 1) 2).held == [⟨0, 0, 64⟩]) = true) ∧
    (sendOf sResTiny 0 0 = some msg0 ∧ (ringOf (tileOf sResTiny 1) 2).size * 64 < msg0.len + 64 ∧ mstatWaiters (tileOf sResTiny 0) 0 = [] ∧
      gives (.reservation 0 0 1) sResTiny (fun t => (sendOf t 0 0).any (fun m => m.phase == .final 5)) = true) := by
  refine ⟨⟨by decide +kernel, fun v h => ?_, by decide +kernel⟩, by decide +kernel⟩
  have : v = ⟨0, 0, 64⟩ := by simpa [sResFull, sPair, ringOf, tileOf, SMap.get, SMap.find, ringShort, ring16, Ring.reset, eq_comm] using h
  subst this; decide +kernel

/-- A grant on its way, every grant given, a payload in flight. -/
def mGrant : Send := { msg0 with asked := [], grants := [1] }
def mReady : Send := { msg0 with phase := .eligible, asked := [], granted := [1] }
def mSent : Send := { mReady with phase := .injected, payload := Mem.read [(0, 7), (63, 9)] 0 64 }
def sWrite : State := sPair mSent ringGranted
/-- The same, with slot 4 of the destination in RECV on queue 2 into w8 to w11. -/
def sWait : State := { State.reset with tiles :=
  [(0, { tile0 with sends := [mSent] }),
   (1, { tile0 with rings := [(2, { ringGranted with waiters := [4] })], groups := [(4, { g0 with st := .waitMsg, wait := .recv 2 8 50 })] })] }

theorem test_grant : sendOf (sPair mGrant ringGranted) 0 0 = some mGrant ∧ mGrant.phase = .reserving ∧ 1 ∈ mGrant.grants ∧
    gives (.grant 0 0 1) (sPair mGrant ringGranted) (fun t => (sendOf t 0 0).any (fun m => m.phase == .eligible && m.granted == [1])) = true := by
  decide +kernel

theorem test_grantTimeout : sendOf (sPair mGrant ringGranted) 0 0 = some mGrant ∧ mGrant.phase = .reserving ∧
    gives (.grantTimeout 0 0) (sPair mGrant ringGranted) (fun t => (sendOf t 0 0).any (fun m => m.phase == .backoff) &&
      regF t (oMSGSTAT 0) 63 48 == 1 && (tileOf t 0).rels == [(0, 1)]) = true := by decide +kernel

theorem test_reservationRetry : sendOf (sPair { msg0 with phase := .backoff, asked := [] } ring16) 0 0 = some { msg0 with phase := .backoff, asked := [] } ∧
    gives (.reservationRetry 0 0) (sPair { msg0 with phase := .backoff, asked := [] } ring16) (fun t =>
      (sendOf t 0 0).any (fun m => m.phase == .reserving && m.asked == [1])) = true := by decide +kernel

/-- A release on its way to the ring that granted. -/
def sRel : State := { State.reset with tiles :=
  [(0, { tile0 with sends := [{ msg0 with phase := .backoff, asked := [] }], rels := [(0, 1)] }), (1, { tile0 with rings := [(2, ringGranted)] })] }

theorem test_grantRelease : (sendOf sRel 0 0).isSome = true ∧ (0, 1) ∈ (tileOf sRel 0).rels ∧
    gives (.grantRelease 0 0 1) sRel (fun t => (ringOf (tileOf t 1) 2).spaces == [] && (tileOf t 0).rels == []) = true := by decide +kernel

theorem test_messageInject : sendOf (sPair mReady ringGranted) 0 0 = some mReady ∧ mReady.phase = .eligible ∧
    (tileOf (sPair mReady ringGranted) 0).memErr = [] ∧
    gives (.messageInject 0 0) (sPair mReady ringGranted) (fun t => (sendOf t 0 0).any (fun m => m.phase == .injected && m.payload.getD 63 0 == 9)) = true := by
  decide +kernel

theorem test_messageWrite :
    (sendOf sWrite 0 0 = some mSent ∧ 1 ∈ mSent.granted ∧ 1 ∉ mSent.written ∧ 1 ∉ mSent.lost ∧ writeBlocked sWrite 0 1 mSent = false ∧
      (ringOf (tileOf sWrite 1) 2).spaces.find? (fun z => z.st == .granted && z.src == 0 && z.h == 0) = some ⟨0, 0, 2, .granted, 0, 0, 0, 64, 0⟩ ∧
      (∀ z ∈ (ringOf (tileOf sWrite 1) 2).spaces, z.st = .skip → ¬ (z.src = 0 ∧ z.h = 0)) ∧ (tileOf sWrite 1).memErr = [] ∧
      mSent.payload.length = 64 ∧ msgUnits 64 = 2 ∧ (ringOf (tileOf sWrite 1) 2).waiters = [] ∧
      gives (.messageWrite 0 0 1) sWrite (fun t => Mem.byte (tileOf t 1).mem 4160 == 7 && Mem.byte (tileOf t 1).mem 4106 == 5 &&
        (ringOf (tileOf t 1) 2).spaces.map (·.st) == [.written]) = true) ∧
    (sendOf sWait 0 0 = some mSent ∧ (ringOf (tileOf sWait 1) 2).waiters = [4] ∧ (grp sWait 1 4).wait = .recv 2 8 50 ∧
      (∀ z ∈ (ringOf (tileOf sWait 1) 2).spaces, z.st ≠ .written) ∧
      gives (.messageWrite 0 0 1) sWait (fun t => (grp t 1 4).st == .ready && rget (grp t 1 4) 1 9 == 64 && rget (grp t 1 4) 0 11 == 4160) = true) := by
  decide +kernel

/-- Every destination has the message; slot 2 of the sender waits for its status into w6. -/
def mDone : Send := { mSent with written := [1] }
def sStat : State := { State.reset with tiles := [(0, { tile0 with
  sends := [mDone], groups := [(2, { g0 with st := .waitMsg, wait := .mstat 0 6 })] })] }

theorem test_messageComplete :
    (sendOf (sPair { mDone with late := true } ring16) 0 0 = some { mDone with late := true } ∧ (∀ d ∈ mDone.dests, d ∈ mDone.written ∨ d ∈ mDone.lost) ∧
      mstatWaiters (tileOf (sPair { mDone with late := true } ring16) 0) 0 = [] ∧
      gives (.messageComplete 0 0) (sPair { mDone with late := true } ring16) (fun t => (sendOf t 0 0).any (fun m => m.phase == .final 2) &&
        regF t (oMSGSTAT 0) 47 32 == 1) = true) ∧
    (sendOf sStat 0 0 = some mDone ∧ mstatWaiters (tileOf sStat 0) 0 = [(2, 6)] ∧
      gives (.messageComplete 0 0) sStat (fun t => (grp t 0 2).st == .ready && rget (grp t 0 2) 0 6 == 0 && (tileOf t 0).sends == []) = true) := by
  decide +kernel

theorem test_recvTimeout : (grp sWait 1 4).wait = .recv 2 8 50 ∧
    gives (.recvTimeout 1 4) sWait (fun t => (grp t 1 4).st == .ready && rget (grp t 1 4) 1 8 == 0x10000000 && (ringOf (tileOf t 1) 2).waiters == []) = true := by
  decide +kernel

/-! ### Replies, LAUNCH at the tiles -/

/-- A load of 4 bytes at device address a into w9 of thread 0 of slot 0 of tile 0 is outstanding; two more words wait. -/
def load0 (a : Nat) (st : TxnStage) (gen : BitVec 4) : Txn :=
  { blankTxn with id := 3, kind := .load, src := .tile 0 0, gen := gen, part := 0, cls := 0, stage := st, serial := 0,
                  dests := [⟨0, 9, a, 4⟩], want := [a, a + 1, a + 2, a + 3], got := [(a, 1), (a + 1, 2), (a + 2, 3), (a + 3, 4)] }

def sLoad (x : Txn) : State := { State.reset with
  tiles := [(0, { tile0 with groups := [(0, { g0 with outst := [⟨0, false, 1, 16⟩] })] })], txns := [x]
  bar0 := [(0x10_0008, 0), (0x70_0200, 1)], hostMem := [(5, 8)] }

theorem test_deviceReply :
    (let s := sLoad (load0 0x100 (.replied .ok) 0)
     txnOf s 3 = some (load0 0x100 (.replied .ok) 0) ∧ genOf s (.tile 0) = 0 ∧ (grp s 0 0).outst.find? (fun y => y.serial == 0) = some ⟨0, false, 1, 16⟩ ∧
      (grp s 0 0).live = true ∧ (grp s 0 0).wait ≠ .fence ∧
      gives (.deviceReply 3) s (fun t => rget (grp t 0 0) 0 9 == 0x04030201 && (grp t 0 0).outst == [] && t.txns == [] && regF t (oBWRCNT 0 0) 19 0 == 0) = true) ∧
    (let s := sLoad { load0 0x100 (.replied .ok) 0 with kind := .store, dests := [] }
     gives (.deviceReply 3) s (fun t => (grp t 0 0).outst == [] && t.txns == []) = true) ∧
    (let s := sLoad (load0 0x100 (.replied .uncorr) 0)
     (grp s 0 0).launch = none ∧ regB s (oGRPFAULT 0) 63 = false ∧
      gives (.deviceReply 3) s (fun t => (grp t 0 0).st == .faulted && regF t (oGRPFAULT 0) 47 40 == 0x18 && regF t (oGRPFAULT 0) 31 0 == 16) = true) := by
  decide +kernel

theorem test_deviceReply_routes :
    (let x := load0 0x8000_0000_0004 .toHome 0
     let s := sLoad { x with got := [] }
     earlierOverlap s { x with got := [] } = false ∧ routeOf s (some 0) (txnAddr { x with got := [] }) = .host 4 ∧
      gives (.deviceReply 3) s (fun t => rget (grp t 0 0) 0 9 == 0x00000800 && t.txns == []) = true) ∧
    (let x := { load0 0x4FFF_0000_0000 .toHome 0 with got := [] }
     let s := sLoad x
     earlierOverlap s x = false ∧ routeOf s (some 0) (txnAddr x) = .decode ∧ regB s oRASDECODE 63 = false ∧
      gives (.deviceReply 3) s (fun t => rget (grp t 0 0) 0 9 == 0 && t.txns == []) = true) ∧
    (let x := load0 0x100 (.replied .ok) 1
     x.gen ≠ genOf (sLoad x) (.tile 0) ∧
      gives (.deviceReply 3) (sLoad x) (fun t => t.txns == [] && regF t oBWREVT 63 48 == 1 && (grp t 0 0).outst.length == 1) = true) := by
  decide +kernel

/-- n zero bytes with numbers of given widths at given offsets. -/
def bytesOf (n : Nat) (l : List (Nat × Nat × Nat)) : List Byte :=
  l.foldl (fun b e => b.take e.1 ++ leBytes e.2.1 e.2.2 ++ b.drop (e.1 + e.2.1)) (leBytes n 0)

/-- An image of one instruction (NOP) at 0x1000 for slot 0, with ring 2 of 4 units at 0x2000 (Table 4.9). -/
def image0 : List Byte := bytesOf 136 [(0, 4, 0x54395450), (4, 2, 1), (6, 1, 1), (8, 4, 128), (12, 4, 8), (24, 4, 0x1000), (28, 4, 0x3000),
  (80, 8, 0x8000_0000_0040_2000), (128, 8, 0x6B00_0000_0000_0000)]

def entry0 (op : Nat) (l : List (Nat × Nat × Nat)) : List Byte := bytesOf 128 ((0, 1, op) :: (1, 1, 1) :: l)

/-- A command in flight from SQ 0, entry 3. -/
def cmd0 (e : List Byte) : Cmd := ⟨6, 0, 3, e, some 50, 50, 50, false, [], [], [], [], [], [], 0, 0, none, none, none, none⟩

/-- Partition 0 owns stack 0 and runs: SQ 0 (depth 4) at host address 0, CQ 0 (depth 4, vector 5) at host address 0x1000. -/
def sPart (x : Part) : State := { State.reset with
  bar0 := [(0x10_0010, 2), (0x10_1000, 0x8000_0000_0000), (0x10_1008, 2 ^ 63 + 2 * 2 ^ 48), (0x10_2000, 0x8000_0000_1000),
    (0x10_2008, 2 ^ 63 + 5 * 2 ^ 48 + 2 * 2 ^ 40), (0x18_0000, 0x8000000000000001)], parts := [(0, x)] }

theorem entries_nil {s : State} {p : Nat} (h : (partOf s p).entries = []) (q : Nat) : entriesOf s p q = [] := by
  simp [entriesOf, h, SMap.get]

theorem inFlight_of {s : State} {p : Nat} {c : Cmd} (h : (partOf s p).entries = [])
    (h' : p ≤ 8 ∧ cmdOf s p c.id = some c ∧ (p ≠ 8 → pState s p = 2) ∧ c.entry.length = 128 ∧
      ∀ d ∈ (partOf s p).cmds, eOp d.entry ≠ 6 ∧ d.awaits = []) : InFlight s p c :=
  ⟨h'.1, h'.2.1, h'.2.2.1, entries_nil h, h'.2.2.2.1, h'.2.2.2.2⟩

/-- A LAUNCH of tile 0: its image is on its way; it has arrived and its group has ended. -/
def cLaunch (loads : List Nat) : Cmd := { cmd0 (entry0 1 [(28, 4, 77)]) with loads := loads, reports := [0], image := image0, args := [1, 2] }

def sLaunch (loads : List Nat) : State := sPart { Part.reset with cmds := [cLaunch loads] }

theorem test_tileProgramLoad : cmdOf (sLaunch [0]) 0 6 = some (cLaunch [0]) ∧ 0 ∈ (cLaunch [0]).loads ∧ tileHeld (sLaunch [0]) 0 = false ∧
    (tileOf (sLaunch [0]) 0).fwBusy = false ∧ (tileOf (sLaunch [0]) 0).memErr = [] ∧ imageOk image0 2 = true ∧ image0.length = imageLen image0 ∧
    gives (.tileProgramLoad 0 0 6) (sLaunch [0]) (fun t => (grp t 0 0).st == .ready && (grp t 0 0).active == 0xFFFFFFFF &&
      (grp t 0 0).codeAt == 0x1000 && Mem.byte (tileOf t 0).mem 0x1007 == 0x6B && Mem.byte (tileOf t 0).mem 0x3001 == 2 &&
      (ringOf (tileOf t 0) 2).size == 4 && (cmdOf t 0 6).any (fun c => c.loads == [])) = true := by decide +kernel

theorem test_tileReport : InFlight (sLaunch []) 0 (cLaunch []) ∧ CqOpen (sLaunch []) 0 0 0x1000 ∧
    (∀ u ∈ (cLaunch []).reports, u = 0) ∧ launchLive (sLaunch []) 0 0 6 = false ∧ storesOpen (sLaunch []) 0 0 6 = false ∧
    gives (.tileReport 0 0 6) (sLaunch []) (fun t => (partOf t 0).cmds == [] && Mem.byte t.hostMem 0x1003 == 1 && Mem.byte t.hostMem 0x1005 == 1 &&
      regF t (oPSTAT 0) 63 32 == 1 && t.irqs == [(1, 5)]) = true :=
  ⟨inFlight_of rfl (by decide +kernel), by unfold CqOpen; decide +kernel, by decide +kernel⟩

theorem test_tileReport_more : (let c := { cLaunch [] with reports := [0, 1] }
    let s := sPart { Part.reset with cmds := [c] }
    cmdOf s 0 6 = some c ∧ (∃ u ∈ c.reports, u ≠ 0) ∧
    gives (.tileReport 0 0 6) s (fun t => (cmdOf t 0 6).any (fun d => d.reports == [1])) = true) := by decide +kernel

/-! ### Cupping and the attention pipe -/

/-- A shadow of a block of one zero element over 32 zeros; the partition's histogram and event stand at reset. -/
def sShadow (base : Nat) : State := { State.reset with
  bar0 := [(0x18_0000, 0x8000000000000001), (0x300_0C08, BitVec.ofNat 64 base)],
  tiles := [(0, { tile0 with arrays := [(0, { aOne with shadow := some ⟨1, 1, 32, true, true, List.replicate 256 0⟩ })] })] }

/-- Three blocks of bin 15 where the threshold is 2 and bins from 12 count. -/
def sHist : State := { State.reset with bar0 := [(0x5F_0078, 3), (0x5F_0080, 2 * 2 ^ 32 + 0x1C)] }

theorem test_cuppingShadowDone : (arr (sShadow 64) 0 0).shadow.isSome = true ∧ partOfTile (sShadow 64) 0 = some 0 ∧
    (tileOf (sShadow 64) 0).memErr = [] ∧ shadowRange 64 0 1 32 = true ∧ shadowRange 0 0 1 32 = true ∧ regB (sShadow 64) (oCUPEVT 0) 4 = false ∧
    gives (.cuppingShadowDone 0 0) (sShadow 64) (fun t => (arr t 0 0).shadow == none && regF t (oCUPHIST 0 0) 31 0 == 1) = true := by decide +kernel

theorem test_cuppingShadowDone_outside :
    (shadowRange (regF (sShadow 0xFFFFF) (oSHADOWA 0) 19 0) (regF (sShadow 0xFFFFF) (oSHADOWA 0) 47 32) 1 32 = false ∧
      gives (.cuppingShadowDone 0 0) (sShadow 0xFFFFF) (fun t => (arr t 0 0).shadow == none && regF t (oCUPHIST 0 0) 31 0 == 0) = true) ∧
    (regB sHist (oCUPEVT 0) 4 = true ∧ regB sHist (oCUPEVT 0) 8 = false ∧ (partOf sHist 0).quarantine = false ∧
      regF sHist (oCUPEVT 0) 63 32 < (((List.range 16).filter (fun n => regF sHist (oCUPEVT 0) 3 0 ≤ n)).map (fun n => regF sHist (oCUPHIST 0 n) 31 0)).sum ∧
      (cupCheck sHist 0).irqs = [(1, 50)]) := by decide +kernel

/-- One row that saw a token of score 1.0, one that saw none. -/
def row1 : AttRow := ⟨0x3F800000, 0x3F800000, [0x40000000], false⟩
def row0 : AttRow := AttRow.init 1

theorem test_mergeRow :
    (row1.nan = false ∧ isNan32 row1.m = false ∧ isNan32 row1.l = false ∧ (∀ v ∈ row1.o, isNan32 v = false) ∧ (∀ v ∈ row0.o, isNan32 v = false) ∧
      isNan32 row0.m = false ∧ isNan32 row0.l = false ∧ attMax row1.m row0.m ≠ fNegInf ∧ attMax row0.m row0.m = fNegInf) ∧
    (mergeRow row1 row0).m = 0x3F800000 ∧ (mergeRow row0 row0).l = 0 ∧ (mergeRow { row1 with nan := true } row0).nan = true := by decide +kernel

/-- Command 0 of tile 0 is queued; its block at 0 has the operation, E2M1 operands, one row, d = 32, OUT code and output at 0x1000. -/
def sBlock (op out : Nat) : State := { State.reset with bar0 := [(0x18_0000, 0x8000000000000001)], tiles := [(0, { tile0 with
  mem := [(45, 0x10), (64, BitVec.ofNat 8 out)].filter (fun c => c.2 != 0) |> fun l => if op = 0 then l else (0, BitVec.ofNat 8 op) :: l,
  att := [⟨0, 0, false, 0, .queued, [], [], [], none, 0⟩] })] }

def block (s : State) : List Byte := Mem.read (tileOf s 0).mem 0 128

/-- The hypotheses that every pass shares. -/
def passes (s : State) : Bool :=
  (attOf s 0 0).isSome && attHead s 0 0 && !ebbing s && !pipeInBist s 0 && (tileOf s 0).memErr == []

theorem test_scan : (passes (sBlock 0 2) = true ∧ bOP (block (sBlock 0 2)) = 0 ∧ blockOk (sBlock 0 2) 0 (block (sBlock 0 2)) = true ∧
      (parOf (block (sBlock 0 2))).npages = 0) ∧
    gives (.scan 0 0) (sBlock 0 2) (fun t => (attOf t 0 0).any (fun c => c.outs.map (·.1) == [0x1000])) = true := by decide +kernel

theorem test_scan_invalid : (passes (sBlock 0 9) = true ∧ blockOk (sBlock 0 9) 0 (block (sBlock 0 9)) = false) ∧
    gives (.scan 0 0) (sBlock 0 9) (fun t => (attOf t 0 0).any (fun c => c.phase == .done 0x40000000)) = true := by decide +kernel

theorem test_merge : (passes (sBlock 1 2) = true ∧ bOP (block (sBlock 1 2)) = 1 ∧ blockOk (sBlock 1 2) 0 (block (sBlock 1 2)) = true) ∧
    gives (.merge 0 0) (sBlock 1 2) (fun t => (attOf t 0 0).any (fun c => c.outs.map (·.1) == [0x1000])) = true := by decide +kernel

theorem test_score : (passes (sBlock 2 0) = true ∧ bOP (block (sBlock 2 0)) = 2 ∧ blockOk (sBlock 2 0) 0 (block (sBlock 2 0)) = true ∧
      (parOf (block (sBlock 2 0))).npages = 0) ∧
    gives (.score 0 0) (sBlock 2 0) (fun t => (attOf t 0 0).any (fun c => c.phase == .updating 0) && t.upds == []) = true := by decide +kernel

theorem test_compact : (passes (sBlock 3 0) = true ∧ bOP (block (sBlock 3 0)) = 3 ∧ blockOk (sBlock 3 0) 0 (block (sBlock 3 0)) = true ∧
      (parOf (block (sBlock 3 0))).npages = 0) ∧
    gives (.compact 0 0) (sBlock 3 0) (fun t => (attOf t 0 0).any (fun c => c.phase == .done 0 && c.devOuts == [])) = true := by decide +kernel

/-- Partition 0 owns stack 0 and the first GiB of HBM; the score of token 5 is 8 at 0x100, its bitmap at 0x4000 has tokens 0
and 5 and LIVE = 2; an update of 3 with decay 1 and eviction below 10, and a clear, are on their way. -/
def upd0 (clear : Bool) : ScoreUpd := ⟨1, 0, 0, 2, 5, 0x100, 0x4000, clear, 3, 1, 10, true, 0⟩
def sUpd (clear : Bool) : State := { State.reset with
  bar0 := [(0x18_0000, 0x8000000000000001), (0x18_0008, 1)], dram := [(0x100, 8), (0x4000, 0x21), (0x4020, 2)], upds := [upd0 clear]
  tiles := [(0, { tile0 with att := [⟨0, 0, false, 0, .updating 0, [], [], [], none, 0⟩] })] }

theorem test_scoreUpdate :
    (sUpd false).upds.find? (fun y => y.id == 1) = some (upd0 false) ∧
    (let s0 := { sUpd false with upds := [] }
     let r := readPiece s0 (updWho (upd0 false)) 0x100 2
     r.2.2 = .ok ∧ leNat r.2.1 = 8) ∧
    gives (.scoreUpdate 1) (sUpd false) (fun t => t.upds.map (fun u => (u.clear, u.tok)) == [(true, 5)]) = true := by decide +kernel

theorem test_scoreUpdate_clear :
    (let s0 := { sUpd true with upds := [] }
     let r := readPiece s0 (updWho (upd0 true)) 0x4000 64
     r.2.2 = .ok ∧ bit (leNat r.2.1) 5 = true ∧ 0 < bits (leNat r.2.1) 271 256) ∧
    gives (.scoreUpdate 1) (sUpd true) (fun t => t.upds == [] && regF t (oATTCNT 0) 63 32 == 1 &&
      (readPiece t (updWho (upd0 true)) 0x4000 64).2.1.getD 0 0 == 1) = true := by decide +kernel

/-- A command with its output of four bytes at 0x2000; group 3 may wait for it in ATTNW with w7. -/
def sFinal (c : AttCmd) (w : Wait) : State :=
  let ms : List Send := if c.phase = .sending 4 0 then [{ msg0 with h := 4, phase := .final 0 }] else []
  { State.reset with tiles := [(0, { tile0 with att := [c], sends := ms, groups := [(3, { g0 with st := .waitMsg, wait := w })] })] }
def cDone : AttCmd := ⟨0, 3, false, 0, .done 0, [], [(0x2000, [1, 2, 3, 4])], [], none, 0⟩

theorem test_attnCommandFinal :
    ((attOf (sFinal cDone .none) 0 0) = some cDone ∧ (∀ g < 8, (grp (sFinal cDone .none) 0 g).wait = .none) ∧
      gives (.attnCommandFinal 0 0) (sFinal cDone .none) (fun t => Mem.byte (tileOf t 0).mem 0x2003 == 4 &&
        (attOf t 0 0).any (fun c => c.phase == .final 0)) = true) ∧
    ((grp (sFinal cDone (.attnw 0 7)) 0 3).wait = .attnw 0 7 ∧ (∀ k < 8, k ≠ 3 → (grp (sFinal cDone (.attnw 0 7)) 0 k).wait = .none) ∧
      gives (.attnCommandFinal 0 0) (sFinal cDone (.attnw 0 7)) (fun t => (grp t 0 3).st == .ready && rget (grp t 0 3) 1 7 == 0 &&
        (tileOf t 0).att == []) = true) ∧
    (let c := { cDone with outs := [], msg := some ⟨1, 2, 5, 0x2000, 256⟩ }
     attOf (sFinal c .none) 0 0 = some c ∧ (∃ k < 32, ∀ y ∈ (tileOf (sFinal c .none) 0).sends, y.h ≠ k) ∧
      gives (.attnCommandFinal 0 0) (sFinal c .none) (fun t => (tileOf t 0).sends.map (·.dests) == [[1]]) = true) := by decide +kernel

theorem test_attnCommandFinal_sent :
    (let c := { cDone with outs := [], phase := .sending 4 0 }
     attOf (sFinal c .none) 0 0 = some c ∧ sendOf (sFinal c .none) 0 4 = some { msg0 with h := 4, phase := .final 0 } ∧
      gives (.attnCommandFinal 0 0) (sFinal c .none) (fun t => (tileOf t 0).sends == [] && (attOf t 0 0).any (fun c => c.phase == .final 0)) = true) ∧
    (let c := { cDone with outs := [], phase := .updating 0, released := [9], freeOut := 0x3000 }
     attOf (sFinal c .none) 0 0 = some c ∧ (sFinal c .none).upds = [] ∧
      gives (.attnCommandFinal 0 0) (sFinal c .none) (fun t => Mem.byte (tileOf t 0).mem 0x3000 == 9 &&
        (attOf t 0 0).any (fun c => c.phase == .final 1)) = true) := by decide +kernel

/-! ### The shelf -/

/-- A request of slot 0 of tile 0 for bytes 0x100 and 0x103 on its way to its home slice, slice 5 of stack 0. -/
def reqLoad : Txn := { blankTxn with id := 3, kind := .load, src := .tile 0 0, want := [0x100, 0x103] }
def reqStore : Txn := { blankTxn with id := 3, kind := .store, src := .tile 0 0, bytes := [(0x100, 5), (0x103, 6)] }
def reqMadd : Txn := { blankTxn with id := 3, kind := .madd 0, src := .tile 0 0, adds := [(0x100, [1, 0, 0, 0])] }
def home0 : Home := ⟨0, 5, 0, [1]⟩

/-- Partition 0 owns stack 0 and the first GiB of HBM; slice 5 of stack 0 holds what is given. -/
def sHome (sl : Slice) (xs : List Txn) : State := { State.reset with
  bar0 := [(0x18_0000, 0x8000000000000001), (0x18_0008, 1)], shelf := [(0, [(5, sl)])], txns := xs }

/-- Line 0 in way 0 with sector 1 wholly valid. -/
def slFull : Slice := { Slice.reset with lines := [(0, ⟨0, false, [(1, ⟨BitVec.ofNat 256 (2 ^ 256 - 1), false, [(0, 7), (3, 9)], []⟩)], 0⟩)] }

theorem test_shelfRead :
    (AtHome (sHome slFull [reqLoad]) reqLoad home0 ∧ keyOf (sHome slFull [reqLoad]) 0 5 0 = some 0 ∧ (lineAt slFull 0).tagErr = 0 ∧
      (∀ a ∈ reqLoad.want, a / 2048 = 0) ∧
      (∀ c ∈ home0.secs, secHas (getSec (sHome slFull [reqLoad]) 0 5 0 (c % 8)) (maskOf reqLoad.want c) = true ∧
        (getSec (sHome slFull [reqLoad]) 0 5 0 (c % 8)).err = []) ∧
      gives (.shelfRead 3) (sHome slFull [reqLoad]) (fun t => t.txns.map (fun x => (x.stage, x.got)) == [(.replied .ok, [(0x100, 7), (0x103, 9)])] &&
        regF t (oSHFCNT 0 5 0) 47 0 == 1) = true) ∧
    (AtHome (sHome Slice.reset [reqLoad]) reqLoad home0 ∧
      gives (.shelfRead 3) (sHome Slice.reset [reqLoad]) (fun t => t.txns.map (·.stage) == [.atSlice] && t.fills.map (·.sec) == [1] &&
        (ctrlOf t 0).queue.map (·.gran) == [1]) = true) := by unfold AtHome; decide +kernel

theorem test_shelfWrite :
    AtHome (sHome Slice.reset [reqStore]) reqStore home0 ∧ (∀ c ∈ reqStore.bytes, c.1 / 2048 = 0) ∧ (reqStore.bytes.map (·.1)).Nodup ∧
      gives (.shelfWrite 3) (sHome Slice.reset [reqStore]) (fun t => t.txns.map (·.stage) == [.replied .ok] &&
        (keyOf t 0 5 0).any (fun k => (getSec t 0 5 k 1).dirty && (lineRead t 0 5 k [0x103]).2.1 == [(0x103, 6)])) = true := by
  unfold AtHome; decide +kernel

theorem test_shelfMadd :
    (AtHome (sHome Slice.reset [reqMadd]) reqMadd home0 ∧ keyOf (sHome Slice.reset [reqMadd]) 0 5 0 = none ∧
      gives (.shelfMadd 3) (sHome Slice.reset [reqMadd]) (fun t => t.txns.map (·.stage) == [.toCtrl] && (ctrlOf t 0).queue.map (·.kind) == [.add 0]) = true) ∧
    (let x := { reqMadd with gen := 1 }
     let s := sHome Slice.reset [x]
     txnOf s 3 = some x ∧ homeOfTxn s x = some home0 ∧ x.gen ≠ genOf s (domainOf x.src) ∧
      gives (.shelfMadd 3) s (fun t => t.txns.map (·.stage) == [.replied .dropped] && regF t (oSHFEVT 0) 63 48 == 1) = true) := by
  unfold AtHome; decide +kernel

/-- The fill of sector 1 has its data; bytes 0 to 7 of the sector were written meanwhile. -/
def fill0 (gen : BitVec 4) : Fill := ⟨9, 1, 0, 5, gen, some (leBytes 256 (2 ^ 64), 0), true⟩
def sFill (gen : BitVec 4) : State := { sHome { Slice.reset with lines := [(0, ⟨0, false, [(1, ⟨255, true, [(3, 9)], []⟩)], 0⟩)] } [] with fills := [fill0 gen] }

theorem test_fillArrival :
    (keyOf (sFill 0) 0 5 0 = some 0 ∧ (fill0 0).gen = genOf (sFill 0) (.stack 0) ∧ (getSec (sFill 0) 0 5 0 1).err = [] ∧
      gives (.fillArrival 9) (sFill 0) (fun t => (getSec t 0 5 0 1).valid == BitVec.ofNat 256 (2 ^ 256 - 1) && t.fills == [] &&
        (getSec t 0 5 0 1).bytes == [(3, 9), (8, 1)]) = true) ∧
    ((sFill 1).fills.find? (fun y => y.id == 9) = some (fill0 1) ∧ (fill0 1).gen ≠ genOf (sFill 1) (.stack 0) ∧
      gives (.fillArrival 9) (sFill 1) (fun t => t.fills == [] && t.shelf == (sFill 1).shelf) = true) := by decide +kernel

/-- Word 16 (bytes 0x100 to 0x10F) waits in the merge buffer with two of its bytes. -/
def slMerge : Slice := { slFull with mb := [⟨16, 3, [(0, 1), (1, 2)]⟩] }

theorem test_mergeEntryTimeout : (sliceOf (sHome slMerge []) 0 5).mb.find? (fun y => y.word == 16) = some ⟨16, 3, [(0, 1), (1, 2)]⟩ ∧
    keyOf (sHome slMerge []) 0 5 0 = some 0 ∧
    (∀ i < 16, bit (getSec (sHome slMerge []) 0 5 0 1).valid.toNat i = true ∨ bit 3 i = true) ∧ (getSec (sHome slMerge []) 0 5 0 1).err = [] ∧
    gives (.mergeEntryTimeout 0 5 16) (sHome slMerge []) (fun t => (sliceOf t 0 5).mb == [] && (getSec t 0 5 0 1).bytes == [(0, 1), (1, 2), (3, 9)]) = true := by
  decide +kernel

theorem test_sliceRetireDone : (sliceOf (sHome { Slice.reset with retiring := true } []) 0 5).retiring = true ∧
    gives (.sliceRetireDone 0 5) (sHome { Slice.reset with retiring := true } []) (fun t => !(sliceOf t 0 5).retiring) = true ∧
    (sliceOf (sHome { slFull with retiring := true } []) 0 5).retiring = true ∧
    gives (.sliceRetireDone 0 5) (sHome { slFull with retiring := true } []) (fun t => (sliceOf t 0 5).lines == []) = true := by decide +kernel

/-! ### The HBM controllers -/

def full256 : BitVec 256 := BitVec.ofNat 256 (2 ^ 256 - 1)

/-- A request of stack 0 for granule 1, which controller 0 serves on pseudo-channel 1. -/
def hbmReq (k : HbmKind) (mask : BitVec 256) (gen : BitVec 4) : HbmReq :=
  ⟨4, 1, k, mask, [(0, 5), (3, 6)], 0, 2, false, .stack 0, gen, some 9, some 3⟩

def sHbm (r : HbmReq) (err : SMap (List (Nat × Byte))) : State := { State.reset with
  ctrls := [(0, { Ctrl.reset with queue := [r] })], dram := [(0x100, 7), (0x101, 1)], dramErr := err,
  fills := [⟨9, 1, 0, 5, 0, none, true⟩], txns := [{ reqMadd with adds := [(0x100, [0xFF, 0, 0, 0])] }] }

def hypHbm (s : State) (r : HbmReq) : Bool :=
  reqOf s 0 r.id == some r && servable s 0 r && (ctrlAt s.asm (r.gran * 256)).1 == 0 && r.gen == genOf s r.dom

theorem test_hbmRead :
    (hypHbm (sHbm (hbmReq .read 0 0) []) (hbmReq .read 0 0) = true ∧ CleanGran (sHbm (hbmReq .read 0 0) []) 1 ∧
      gives (.hbmRead 0 4) (sHbm (hbmReq .read 0 0) []) (fun t => (ctrlOf t 0).queue == [] &&
        (t.fills.map (·.data)).all (fun d => d.any (fun x => x.1.getD 0 0 == 7 && x.2 == 0))) = true) ∧
    (let s := sHbm (hbmReq .read 0 0) [(4, [(3, 0x10)])]
     hypHbm s (hbmReq .read 0 0) = true ∧ isLost s 0 1 = false ∧ (∀ j < 4, j ≠ 0 → cwErr s (4 + j) = []) ∧ cwErr s 4 ≠ [] ∧
      withinBound (cwErr s 4) (pinSymbols (regF s (oPCH 0 1) 15 10)) (edLimit s 0) = true) ∧
    (let s := sHbm (hbmReq .read 0 0) [(4, poisonPat)]
     hypHbm s (hbmReq .read 0 0) = true ∧ cwErr s 4 = poisonPat) := by unfold CleanGran; decide +kernel

theorem test_hbmWrite : hypHbm (sHbm (hbmReq .write full256 0) [(4, [(3, 0x10)])]) (hbmReq .write full256 0) = true ∧
    gives (.hbmWrite 0 4) (sHbm (hbmReq .write full256 0) [(4, [(3, 0x10)])]) (fun t => t.dram == [(0x100, 5), (0x103, 6)] && t.dramErr == []) = true := by
  decide +kernel

theorem test_hbmMaskedWrite : hypHbm (sHbm (hbmReq .masked 9 0) []) (hbmReq .masked 9 0) = true ∧ CleanGran (sHbm (hbmReq .masked 9 0) []) 1 ∧
    gives (.hbmMaskedWrite 0 4) (sHbm (hbmReq .masked 9 0) []) (fun t => t.dram == [(0x100, 5), (0x101, 1), (0x103, 6)] &&
      regF t (oMEMEVT 0) 31 0 == 1) = true := by unfold CleanGran; decide +kernel

theorem test_hbmAdd :
    (let s := sHbm (hbmReq (.add 0) 0 0) []
     hypHbm s (hbmReq (.add 0) 0 0) = true ∧ CleanGran s 1 ∧ xcWindow s 0 0x100 = none ∧ (ctrlOf s 0).adds.length < 64 ∧
      (∀ e ∈ s.ctrls, ∀ q ∈ e.2.queue, q.txn = some 3 → q.id = 4 ∧ e.1 = 0) ∧
      gives (.hbmAdd 0 4) s (fun t => (ctrlOf t 0).adds.map (fun e => (e.cw, e.bytes.take 3)) == [(4, [6, 2, 0])] &&
        t.txns.map (·.stage) == [.replied .ok]) = true) ∧
    (let s := sHbm (hbmReq (.add 0) 0 1) []
     (hbmReq (.add 0) 0 1).gen ≠ genOf s (.stack 0) ∧
      gives (.hbmAdd 0 4) s (fun t => (ctrlOf t 0).queue == [] && regF t (oMEMEVT 0) 63 48 == 1) = true) := by
  unfold CleanGran; decide +kernel

/-- Window 0 of controller 0 covers granule 1 with FRAC = 4; the cell of address 0x100 holds 1. -/
def sCell : State := { State.reset with bar0 := [(0x80_0100, 2 ^ 63 + 4 * 2 ^ 48 + 256), (0x80_0108, 256)] }

theorem test_exact_cell : xcWindow sCell 0 0x100 = some 0 ∧ (leBytes 64 1).length = 64 ∧ regF sCell (oXCLO 0 0) 54 48 = 4 ∧
    (addApply sCell 0 0 0x100 0xFFFFFFFF (leBytes 64 1)).2.take 17 = leBytes 16 (2 ^ 128 - 15) ++ [0] := by decide +kernel

theorem test_addEntryTimeout : (let s := { State.reset with ctrls := [(0, { Ctrl.reset with adds := [⟨4, leBytes 64 7⟩] })] }
    (ctrlOf s 0).adds.find? (fun y => y.cw == 4) = some ⟨4, leBytes 64 7⟩ ∧ (leBytes 64 7).length = 64 ∧
    gives (.addEntryTimeout 0 4) s (fun t => t.dram == [(0x100, 7)] && (ctrlOf t 0).adds == []) = true) := by decide +kernel

theorem test_requestPromote : (let s := sHbm { hbmReq .read 0 0 with level := 3 } []
    reqOf s 0 4 = some { hbmReq .read 0 0 with level := 3 } ∧
    gives (.requestPromote 0 4) s (fun t => (ctrlOf t 0).queue.map (·.level) == [2] && regF t (oMEMEVT 0) 47 32 == 1) = true) := by decide +kernel

theorem test_lowPromote : (let s := sHome Slice.reset [{ reqLoad with low := true }]
    txnOf s 3 = some { reqLoad with low := true } ∧
    gives (.lowPromote 3) s (fun t => t.txns.map (·.promoted) == [true] && regF t oBWREVT 31 16 == 1) = true) := by decide +kernel

theorem test_refresh : 0 ∈ ctrlList State.reset.asm ∧
    gives (.refresh 0 63) State.reset (fun t => SMap.get 0 (ctrlOf t 0).refreshes 63 == 1) = true ∧
    gives (.refreshManagement 0 63) State.reset (fun t => SMap.get 0 (ctrlOf t 0).rfm 63 == 1) = true := by decide +kernel

theorem test_hbmTempSample : State.reset.power.aon = true ∧
    gives (.hbmTempSample 0 95 95 110) State.reset (fun t => regF t (oMEMSTAT 0) 63 56 == 95 && (ctrlOf t 0).halfRate && t.pins.thermtripN) = true ∧
    gives (.hbmTempSample 0 (-128) 95 110) State.reset (fun t => regF t (oMEMSTAT 0) 63 56 == 128 && !(ctrlOf t 0).halfRate) = true := by decide +kernel

theorem test_hbmTempSample_trip : State.reset.power.ebb = 0 ∧
    gives (.hbmTempSample 0 110 95 110) State.reset (fun t => !t.pins.thermtripN && t.power.ebb == 1 && pwrState t == 3) = true := by decide +kernel

/-- Controller 0 with a run of an operation on pseudo-channel 3. -/
def sRun (r : Option MemRun) : State := { State.reset with ctrls := [(0, { Ctrl.reset with run := r })] }
def eyes0 : List (Int × Int) := List.replicate 36 (-128, 127)

theorem test_memRetrain : (ctrlOf (sRun none) 0).run = none ∧
    gives (.memRetrain 0 0 3) (sRun none) (fun t => (ctrlOf t 0).run == some ⟨0, 3, 0, false⟩ && regB t (oMEMRTN 0) 62 && regF t (oPCH 0 3) 3 2 == 2) = true ∧
    (ctrlOf (sRun (some ⟨0, 3, 0, false⟩)) 0).run = some ⟨0, 3, 0, false⟩ ∧
    gives (.memRetrain 0 0 5) (sRun (some ⟨0, 3, 0, false⟩)) (fun t => regF t (oMEMRTN 0) 55 48 == 2) = true := by decide +kernel

theorem test_margins :
    gives (.readTimingMargin 0 0 3) (sRun none) (fun t => (ctrlOf t 0).run == some ⟨1, 3, 0, false⟩) = true ∧
    gives (.readVoltageMargin 0 0 3) (sRun none) (fun t => (ctrlOf t 0).run == some ⟨2, 3, 0, false⟩) = true ∧
    gives (.writeTimingMargin 0 0 3) (sRun none) (fun t => (ctrlOf t 0).run == some ⟨3, 3, 0, false⟩) = true ∧
    gives (.writeVoltageMargin 0 0 63) (sRun none) (fun t => (ctrlOf t 0).run == some ⟨4, 63, 0, false⟩) = true := by decide +kernel

theorem test_retrainSlice :
    ((ctrlOf (sRun (some ⟨1, 3, 2, true⟩)) 0).run = some ⟨1, 3, 2, true⟩ ∧ eyes0.length = 36 ∧
      (∀ e ∈ eyes0, -128 ≤ e.1 ∧ e.1 < 128 ∧ -128 ≤ e.2 ∧ e.2 < 128) ∧
      gives (.retrainSlice 0 (.ends true eyes0)) (sRun (some ⟨1, 3, 2, true⟩)) (fun t => (ctrlOf t 0).run == none && regF t (oEYE 0 35) 23 16 == 128) = true) ∧
    ((ctrlOf (sRun (some ⟨0, 3, 39, false⟩)) 0).run = some ⟨0, 3, 39, false⟩ ∧ (∀ e ∈ (ctrlOf (sRun (some ⟨0, 3, 39, false⟩)) 0).failRows, e.1 ≠ 3) ∧
      gives (.retrainSlice 0 .begins) (sRun (some ⟨0, 3, 39, false⟩)) (fun t => (ctrlOf t 0).run == some ⟨0, 3, 40, true⟩ && regF t (oPCH 0 3) 3 2 == 1) = true) := by
  decide +kernel

theorem test_retrainSlice_ends :
    gives (.retrainSlice 0 (.ends false [])) (sRun (some ⟨0, 3, 2, true⟩)) (fun t => (ctrlOf t 0).run == some ⟨0, 3, 2, false⟩) = true ∧
    gives (.retrainSlice 0 .fails) (sRun (some ⟨0, 3, 2, true⟩)) (fun t => (ctrlOf t 0).run == none && regF t (oMEMRTN 0) 55 48 == 1) = true := by
  decide +kernel

theorem test_hbmControllerReset : 0 ∈ ctrlList (sRun (some ⟨0, 3, 2, true⟩)).asm ∧ genBusy (sRun (some ⟨0, 3, 2, true⟩)) (.ctrl 0) = false ∧
    (ctrlOf (sRun (some ⟨0, 3, 2, true⟩)) 0).adds = [] ∧ (ctrlOf (sRun (some ⟨0, 3, 2, true⟩)) 0).queue = [] ∧
    gives (.hbmControllerReset 0 true) (sRun (some ⟨0, 3, 2, true⟩)) (fun t => regF t (oMEMSTAT 0) 11 8 == 1 && (ctrlOf t 0).run == none &&
      (ctrlOf t 0).stopped && t.resetting == [.ctrl 0]) = true := by decide +kernel

/-! ### Tidegauge -/

/-- Registers above the queue pages, and the state of Tidegauge. -/
def sT (regs : List (Nat × DWord)) (f : Tidegauge → Tidegauge) : State := { State.reset with bar0 := regs, tg := f State.reset.tg }

theorem test_tgCfgWrite : (let v := regReset State.reset.asm oTGCFG
    State.reset.power.aon = true ∧ State.reset.head.running = true ∧ stageNow State.reset = 0 ∧ State.reset.head.inReset = false ∧
    fld v 50 0 = fld (tgCfgDue State.reset) 50 0 ∧ tgState State.reset = 0 ∧
    gives (.tgCfgWrite v) State.reset (fun t => regB t oTGSTAT 9 && regF t oTGCFG 49 37 == 500) = true) := by decide +kernel

theorem test_refQualified : (regB (sT [(oTGSTAT, 0x200)] id) oTGSTAT 9 = true ∧ regB (sT [(oTGSTAT, 0x200)] id) oTGSTAT 4 = false ∧
    gives .refQualified (sT [(oTGSTAT, 0x200)] id) (fun t => tgState t == 1 && t.irqs == [(0, 1)]) = true) ∧
    gives .refQualified (sT [(oTGSTAT, 0x204)] id) (fun t => tgState t == 3) = true := by decide +kernel

theorem test_refLost :
    (regB (sT [(oTGSTAT, 0x232)] id) oTGSTAT 4 = true ∧ tgState (sT [(oTGSTAT, 0x232)] id) = 2 ∧
      gives .refLost (sT [(oTGSTAT, 0x232)] id) (fun t => tgState t == 4 && !regB t oTGSTAT 5 && t.tg.errBase == 256) = true) ∧
    (regB (sT [(oTGSTAT, 0x211)] id) oTGSTAT 4 = true ∧ tgState (sT [(oTGSTAT, 0x211)] id) = 1 ∧
      gives .refLost (sT [(oTGSTAT, 0x211)] (fun x => { x with aligned := true })) (fun t => tgState t == 0 && !t.tg.aligned) = true) := by decide +kernel

/-- Bring-up is complete. -/
def sUp : State := sT [(oHLMSTAT, 0xF002_0000)] id

theorem test_tgLoad : canWrite sUp 0 (oTGCFG + 0x28) = true ∧ bit (0x8000000000000005 : DWord).toNat 63 = true ∧
    gives (.tgLoad 0 0x8000000000000005) sUp (fun t => t.tg.armed == some 5) = true := by decide +kernel

theorem test_tgNowRead : canRead sUp 0 oTGNOW = true ∧ sUp.power.aon = true := by decide +kernel

/-- The first clauses of the edge: FREE with nothing armed; ACQUIRE before the first alignment; FREE with a load of step 9
or of step 5 armed, in step 5; an edge that comes a second time for its boundary. -/
theorem test_stepInEdge :
    (let s := sT [(oTGNOW, 0x5007)] id
     s.power.aon = true ∧ timeHeld s = false ∧ tgState s = 0 ∧ s.tg.armed = none) ∧
    (let s := sT [(oTGNOW, 0x5007), (oTGSTAT, 0x211)] id
     timeHeld s = false ∧ tgState s = 1 ∧ s.tg.aligned = false ∧ s.tg.armed = none ∧ NoTides s ∧ nowStep s + 1 < 2 ^ 52 ∧ slotOk s = false) ∧
    (∀ v ∈ [9, 5], let s := sT [(oTGNOW, 0x5007)] (fun x => { x with armed := some v })
      timeHeld s = false ∧ tgState s = 0 ∧ s.tg.armed = some v ∧ NoTides s ∧ slotOk s = false ∧ v < 2 ^ 52 ∧ (nowStep s < v ↔ v = 9)) ∧
    (let s := sT [(oTGNOW, 0x5007), (oTGSTAT, 0x211)] (fun x => { x with aligned := true, edgeSeen := true })
     timeHeld s = false ∧ tgState s ≠ 0 ∧ s.tg.aligned = true ∧ s.tg.edgeSeen = true ∧
      gives .stepInEdge s (fun t => regF t oTGEVT 15 0 == 1) = true) := by
  unfold NoTides; decide +kernel

/-- LOCKED at tick 0 of step 5: the phase of an edge is below 1 tick, whatever the instant within the tick. -/
def sLocked : State := sT [(oTGNOW, 0x5000), (oTGSTAT, 0x232)] (fun x => { x with aligned := true })

theorem test_stepInEdge_locked : timeHeld sLocked = false ∧ tgState sLocked = 2 ∧ sLocked.tg.aligned = true ∧ sLocked.tg.edgeSeen = false ∧
    sLocked.tg.armed = none ∧ (phaseNow (drawInstant sLocked)).natAbs ≤ 128 * guardOf sLocked ∧
    (phaseNow (drawInstant sLocked)).natAbs ≤ 512 * 256 ∧ sLocked.tg.forward = false := by
  have h : ∀ f : BitVec 16, (phaseNow { sLocked with tg := { sLocked.tg with frac := f } }).natAbs ≤ 255 := by
    intro f
    have hn : nowTick { sLocked with tg := { sLocked.tg with frac := f } } = 0 := (by decide +kernel : nowTick sLocked = 0)
    have hf := f.isLt
    simp only [phaseNow, hn]
    split <;> omega
  have hp : (phaseNow (drawInstant sLocked)).natAbs ≤ 255 := h _
  have hg : 255 ≤ 128 * guardOf sLocked := by decide +kernel
  exact ⟨by decide +kernel, by decide +kernel, rfl, rfl, rfl, by omega, by omega, rfl⟩

theorem test_stepMissed :
    (let s := sT [(oTGNOW, 0x5500), (oTGSTAT, 0x232)] (fun x => { x with aligned := true })
     s.power.aon = true ∧ missPending s = true ∧ s.tg.missed + 1 < missOf s ∧ gives .stepMissed s (fun t => t.tg.missed == 1 && tgState t == 2) = true) ∧
    (let s := sT [(oTGNOW, 0x5500), (oTGSTAT, 0x232)] (fun x => { x with aligned := true, missed := 1 })
     missPending s = true ∧ missOf s ≤ s.tg.missed + 1 ∧ gives .stepMissed s (fun t => tgState t == 3 && !regB t oTGSTAT 5 && t.irqs == [(0, 1)]) = true) := by
  decide +kernel

theorem test_timeHold : (let s := sT [(oTGNOW, 0x5FFF), (oTGSTAT, 0x232)] (fun x => { x with holdDue := true })
    s.power.aon = true ∧ s.tg.holdDue = true ∧ nowTick s = 4095 ∧ timeHeld s = false ∧ anyDue s = false ∧
    gives .timeHold s (fun t => timeHeld t && regF t oTGEVT 31 16 == 1) = true) := by decide +kernel

theorem test_slotokClear :
    (let s := sT [(oTGSTAT, 0x80), (oTGLNCFG, 0x405020)] id
     slotOk s = true ∧ 256 * guardOf s < errOf s ∧ s.head.inReset = false ∧
      gives .slotokClear s (fun t => !slotOk t && regF t oTGLNCFG 15 12 == 0 && t.irqs == [(0, 1)]) = true) ∧
    (let s := { sT [(oTGSTAT, 0x80), (oTGLNCFG, 0x405020)] id with head := { State.reset.head with inReset := true } }
     slotOk s = true ∧ 256 * guardOf s < errOf s ∧ s.head.inReset = true ∧ gives .slotokClear s (fun t => regF t oTGLNCFG 15 12 == 5) = true) := by
  decide +kernel

theorem test_stepBoundary :
    (let s := sT [(oTGNOW, 0x5FFF)] id
     nowTick s = 4095 ∧ timeHeld s = false ∧ s.tg.holdDue = false ∧ anyDue s = false ∧ nowStep s + 1 < 2 ^ 52 ∧ tgState s ≠ 2 ∧
      gives .stepBoundary s (fun t => reg t oTGNOW == 0x6000 && t.tg.stepOut) = true) ∧
    (let s := sT [(oTGNOW, 0x5FFF), (oTGSTAT, 0x232)] id
     nowTick s = 4095 ∧ timeHeld s = false ∧ s.tg.holdDue = false ∧ anyDue s = false ∧ tgState s = 2 ∧ s.tg.slew = 0 ∧ slotOk s = false ∧
      2 * regF s oTGCFG 27 20 ≤ guardOf s ∧ gives .stepBoundary s slotOk = true) := by decide +kernel

theorem test_stepOutEnd : (let s := sT [(oTGNOW, 0x5040)] (fun x => { x with stepOut := true })
    s.tg.stepOut = true ∧ 64 ≤ nowTick s ∧ gives .stepOutEnd s (fun t => !t.tg.stepOut) = true) := by decide +kernel

theorem test_idle : (sT [(oTGNOW, 0x5007)] id).pending = [] ∧ broadcasting (sT [(oTGNOW, 0x5007)] id) = false ∧ tickBlocked (sT [(oTGNOW, 0x5007)] id) = false ∧
    reg (idle (sT [(oTGNOW, 0x5007)] id)) oTGNOW = 0x5008 ∧
    broadcasting (sT [(oTGNOW, 0x5FFF)] id) = false ∧ tickBlocked (sT [(oTGNOW, 0x5FFF)] id) = true := by decide +kernel

/-! ### The tide table -/

/-- Entry 0 fires every step from step 0 on at tick 0, twice, with action a. -/
def sEnt (a tgt k : Nat) (q : Bool) (regs : List (Nat × DWord)) : State :=
  sT ([(oENTA 0, BitVec.ofNat 64 (2 ^ 63 + b2n q * 2 ^ 62 + a * 2 ^ 56)),
    (oENTB 0, BitVec.ofNat 64 (2 * 2 ^ 48 + 2 ^ 36 + tgt * 2 ^ 8 + k))] ++ regs) id

theorem test_noneFire : turnOf (sEnt 0 0 0 false []) 0 = some 0 ∧ entAct (sEnt 0 0 0 false []) 0 = 0 ∧
    gives (.noneFire 0) (sEnt 0 0 0 false []) (fun t => entCount t 0 == 1 && entValid t 0 && unhandled t 0 == 1) = true := by decide +kernel

theorem test_slotOpen :
    (turnOf (sEnt 1 2 3 false []) 0 = some 0 ∧ entAct (sEnt 1 2 3 false []) 0 = 1 ∧ entTarget (sEnt 1 2 3 false []) 0 % 64 < surfPorts State.reset.asm ∧
      gives (.slotOpen 0) (sEnt 1 2 3 false []) (fun t => regB t (oLNKSTAT 2) 31 && regF t (oLNKSTAT 2) 35 32 == 3) = true) ∧
    gives (.slotOpen 0) (sEnt 1 2 16 false []) (fun t => regF t (oLNKEVT 2) 15 0 == 1) = true := by decide +kernel

theorem test_slotClose :
    (let s := sEnt 2 2 3 false [(oLNKSTAT 2, 3 * 2 ^ 32 + 2 ^ 31)]
     turnOf s 0 = some 0 ∧ entAct s 0 = 2 ∧ gives (.slotClose 0) s (fun t => !regB t (oLNKSTAT 2) 31) = true) ∧
    gives (.slotClose 0) (sEnt 2 2 4 false [(oLNKSTAT 2, 3 * 2 ^ 32 + 2 ^ 31)]) (fun t => regB t (oLNKSTAT 2) 31) = true := by decide +kernel

/-- QREQ without SLOTOK: every action that asks for good time is skipped. -/
theorem test_skip : ∀ e ∈ [(Instr.cupOpen 0, 7), (.cupClose 0, 8), (.phase 0, 9), (.bistSlice 0, 4), (.scrubSlice 0, 5)],
    turnOf (sEnt e.2 1 1 true []) 0 = some 0 ∧ entAct (sEnt e.2 1 1 true []) 0 = e.2 ∧ qSkip (sEnt e.2 1 1 true []) 0 = true ∧
      gives e.1 (sEnt e.2 1 1 true []) (fun t => regF t oTGEVT 47 32 == 1 && entCount t 0 == 1) = true := by decide +kernel

theorem test_cupOpen : turnOf (sEnt 7 5 0 false []) 0 = some 0 ∧ entAct (sEnt 7 5 0 false []) 0 = 7 ∧ qSkip (sEnt 7 5 0 false []) 0 = false ∧
    gives (.cupOpen 0) (sEnt 7 5 0 false []) (fun t => t.tg.cupOpen == 5) = true ∧
    turnOf (sEnt 8 4 0 false []) 0 = some 0 ∧ entAct (sEnt 8 4 0 false []) 0 = 8 ∧
    gives (.cupClose 0) { sEnt 8 4 0 false [] with tg := { State.reset.tg with cupOpen := 5 } } (fun t => t.tg.cupOpen == 1) = true := by decide +kernel

theorem test_phase : turnOf (sEnt 9 5 3 false []) 0 = some 0 ∧ entAct (sEnt 9 5 3 false []) 0 = 9 ∧ qSkip (sEnt 9 5 3 false []) 0 = false ∧
    gives (.phase 0) (sEnt 9 5 3 false []) (fun t => reg t oTHMPHASE == 0x33) = true := by decide +kernel

theorem test_bistSlice :
    (let s := sEnt 4 16 4 false []
     turnOf s 0 = some 0 ∧ entAct s 0 = 4 ∧ qSkip s 0 = false ∧ 12 ≤ entTarget s 0 ∧ bistCount s.asm 16 4 ≠ 0 ∧ s.ras.bists = [] ∧
      gives (.bistSlice 0) s (fun t => t.ras.bists == [⟨16, 4, 0, false, []⟩]) = true) ∧
    (let s := sEnt 4 0 1 false []
     turnOf s 0 = some 0 ∧ entAct s 0 = 4 ∧ entTarget s 0 < 12 ∧ bistCount s.asm 0 1 ≠ 0 ∧ elemBusy s 0 1 0 = false ∧ tileAtPhys s 0 0 = some 0 ∧
      gives (.bistSlice 0) s (fun t => (arr t 0 0).owner == some .bist) = true) := by decide +kernel

theorem test_bistSlice_overrun :
    (let s := { sEnt 4 0 1 false [] with tiles := [(0, { tile0 with arrays := [(0, { ArrayUnit.reset with owner := some (.group 1) })] })] }
     turnOf s 0 = some 0 ∧ elemBusy s 0 1 0 = true) ∧
    (let s := { sEnt 4 16 4 false [] with ras := { State.reset.ras with bists := [⟨16, 4, 7, false, []⟩] } }
     turnOf s 0 = some 0 ∧ (∃ b ∈ s.ras.bists, b.unit = 16) ∧ gives (.bistSlice 0) s (fun t => regF t oBISTSTAT 15 0 == 1) = true) := by decide +kernel

theorem test_scrubSlice :
    (let s := sEnt 5 16 2 false [(oSCRA 16 2, 0x8000000000000000)]
     turnOf s 0 = some 0 ∧ entAct s 0 = 5 ∧ unitFitted s.asm 16 = true ∧ regB s (oSCRA 16 2) 63 = true ∧ s.ras.scrubs = [] ∧
      gives (.scrubSlice 0) s (fun t => t.ras.scrubs == [(16, 2)]) = true) ∧
    (let s := { sEnt 5 39 3 false [(oSCRA 39 3, 0x8000000000000000)] with ras := { State.reset.ras with scrubs := [(39, 0)] } }
     turnOf s 0 = some 0 ∧ entAct s 0 = 5 ∧ unitFitted s.asm 39 = true ∧ regB s (oSCRA 39 3) 63 = true ∧ (∃ x ∈ s.ras.scrubs, x.1 = 39) ∧
      gives (.scrubSlice 0) s (fun t => regF t oBISTSTAT 15 0 == 1) = true) := by decide +kernel

/-- Entry 0 fires at tick 32 of step 0, so its drive time is tick 0; the code is 5. -/
def sNotice (stat : DWord) (over_ : Bool) : State :=
  { sT [(oTGSTAT, stat), (oENTA 0, BitVec.ofNat 64 (2 ^ 63 + 3 * 2 ^ 56)), (oENTB 0, BitVec.ofNat 64 (2 ^ 48 + 32 * 2 ^ 24 + 5))] id with
    head := { State.reset.head with inReset := over_ } }

theorem test_loadNotice :
    (turnOf (sNotice 0x80 false) 0 = some 0 ∧ entAct (sNotice 0x80 false) 0 = 3 ∧ slotOk (sNotice 0x80 false) = true ∧
      gives (.loadNotice 0) (sNotice 0x80 false) (fun t => regF t oTGLNCFG 15 12 == 5 && t.tg.noticeEnd == some (0, 64) && !entValid t 0) = true) ∧
    (turnOf (sNotice 0x80 true) 0 = some 0 ∧ gives (.loadNotice 0) (sNotice 0x80 true) (fun t => regF t oTGEVT 47 32 == 1) = true) ∧
    (turnOf (sNotice 0 false) 0 = some 0 ∧ slotOk (sNotice 0 false) = false) := by decide +kernel

theorem test_loadNoticeEnd : (let s := sT [(oTGNOW, 64), (oTGLNCFG, 0x405020)] (fun x => { x with noticeEnd := some (0, 64) })
    s.head.inReset = false ∧ s.tg.noticeEnd = some (0, 64) ∧ 4096 * 0 + 64 ≤ nowTicks s ∧
    gives .loadNoticeEnd s (fun t => regF t oTGLNCFG 15 12 == 0 && t.tg.noticeEnd == none) = true) := by decide +kernel

/-! ### Commits -/

theorem canStart_of {s : State} {p sq : Nat} {e : SqEntry} (h : (partOf s p).entries = [(sq, [e])])
    (h' : s.stalled = false ∧ p ≤ 8 ∧ sq < 16 ∧ startable s p sq = some e ∧ e.bytes.length = 128 ∧
      ∀ d ∈ (partOf s p).cmds, d.id ≠ (partOf s p).serial ∧ eOp d.entry ≠ 6 ∧ d.awaits = []) : CanStart s p sq e := by
  refine ⟨h'.1, h'.2.1, h'.2.2.1, h'.2.2.2.1, ?_, fun q hq => ?_, h'.2.2.2.2⟩
  · simp [entriesOf, h, SMap.get]
  · simp [entriesOf, h, SMap.get, Ne.symm hq]

/-- SQ 0 of partition 0 holds an entry; more registers above the partition table; bytes at host address 0x2000. -/
def sQueue (e : List Byte) (mem : List Host.Cell) (regs : List (Nat × DWord)) : State :=
  let s := sPart { Part.reset with entries := [(0, [⟨3, e⟩])], serial := 7 }
  { s with bar0 := s.bar0 ++ regs, hostMem := mem }

/-- COMMIT of one record at host address 0x2000, for the step after the next. -/
def eCommit : List Byte := entry0 7 [(24, 6, 0x8000_0000_2000), (32, 4, 1)]
/-- The record: SHF_CFG of stack 0 with PINWAYS = 2; PINWAYS = 13 fails. -/
def mCommit (w : Byte) : List Host.Cell := [(0x2003, 1), (0x2008, 1), (0x2009, w)]

theorem test_commit (w : Byte) (h : w = 2 ∨ w = 13) : CanStart (sQueue eCommit (mCommit w) []) 0 0 ⟨3, eCommit⟩ ∧ eOp eCommit = 7 ∧
    commitEntryOk eCommit = true ∧ HostRange (sQueue eCommit (mCommit w) []) (some 0) 0x8000_0000_2000 16 0x2000 ∧
    (let s := sQueue eCommit (mCommit w) []
     checksOk s 0 (regB s (oSQB 0 0) 62) 2 (recsOf (Mem.read s.hostMem 0x2000 16) 1) = (w == 2) ∧ nowStep s + 2 ≤ 2 ∧
      s.tg.commits = [] ∧ regB s oTGCMT 0 = false) := by
  refine ⟨canStart_of rfl ?_, by decide +kernel, by decide +kernel, ?_, ?_⟩
  · rcases h with rfl | rfl <;> decide +kernel
  · unfold HostRange; rcases h with rfl | rfl <;> decide +kernel
  · rcases h with rfl | rfl <;> decide +kernel

theorem test_commit_open : CqOpen (sQueue eCommit (mCommit 13) []) 0 0 0x1000 := by unfold CqOpen; decide +kernel

/-- Commit 0 of partition 0 for step 5, with a record for THM_CFG, is due; or a transaction of the epoch before is open. -/
def sDue (xs : List Txn) : State :=
  let s := sPart { Part.reset with cmds := [cmd0 (entry0 7 [])] }
  { s with bar0 := s.bar0 ++ [(oTGNOW, 0x5000), (oTGCMT, 1)], txns := xs,
           tg := { s.tg with commits := [⟨0, 5, [(oTHMCFG, 0x0802_7365)], 0, 6, 0⟩] } }

theorem test_commitApply : (sDue []).power.aon = true ∧ nowTick (sDue []) = 0 ∧ epochBusy (sDue []) = false ∧
    InFlight (sDue []) 0 (cmd0 (entry0 7 [])) ∧ CqOpen (sDue []) 0 0 0x1000 ∧ (∀ n < 248, entAct (sDue []) n ≠ 3) ∧ 5 ≤ nowStep (sDue []) :=
  ⟨rfl, by decide +kernel, by decide +kernel, inFlight_of rfl (by decide +kernel), by unfold CqOpen; decide +kernel, by decide +kernel,
    by decide +kernel⟩

theorem test_applyCommits : (let t := applyCommits (sDue [])
    regF t oTGCMT 51 48 = 1 ∧ regF t oTHMCFG 7 0 = 0x65 ∧ regF t (oCMTST 0) 63 60 = 2 ∧ Mem.byte t.hostMem 0x1003 = 7 ∧
    t.irqs = [(1, 5), (1, 51)]) := by decide +kernel

theorem test_commitApply_late : (let s := sDue [{ reqLoad with epoch := 15 }]
    epochBusy s = true ∧ dueCommits s ≠ [] ∧
    gives .commitApply s (fun t => regF t oTGCMT 47 32 == 1 && t.tg.commits.map (·.step) == [6]) = true) := by decide +kernel

/-! ### Surf -/

/-- Port 0 in a mode and a state; its peer is port 5 of device 7; partition 0 owns stack 0 and the first GiB of HBM. -/
def sLink (mode st : Nat) (y : Port) (regs : List (Nat × DWord)) : State := { State.reset with
  bar0 := [(0x18_0000, 0x8000000000000001), (0x18_0008, 1),
    (oLNKCFG 0, BitVec.ofNat 64 (7 * 2 ^ 56 + 5 * 2 ^ 50 + 4 * 2 ^ 38 + 7 * 2 ^ 32 + mode)), (oLNKSTAT 0, BitVec.ofNat 64 st)] ++ regs, ports := [(0, y)] }

def withSurf (s : State) (outs : List XferOut) (ins : List XferIn) : State := { s with surf := { Surf.reset with outs := outs, ins := ins } }

/-- A frame header (Table 10.1). -/
def hdr (ty seq ack xid idx : Nat) : BitVec 48 := BitVec.ofNat 48 (ty * 2 ^ 44 + seq * 2 ^ 32 + ack * 2 ^ 20 + xid * 2 ^ 8 + idx)

/-- A DATA frame of transfer 0 that was sent with number n. -/
def kept (n resends : Nat) : Frame := ⟨1, n, 3, 0, [], 0, 1, resends, false, 0⟩
/-- The port after a space with one frame not acknowledged. -/
def yKept (f : Frame) : Port := { Port.reset with spaces := [(0, { SeqSpace.reset with next := 6, replay := [f] })] }

/-- Device, header and payload of the frames that port 0 has put on the wire. -/
def onWire (t : State) : List (Nat × Nat × List Byte) := (portOf t 0).sent.map (fun f => (f.dev, f.head, f.pay))

theorem test_idleF : portUp (sLink 1 2 (yKept (kept 3 0)) []) 0 = true ∧ hTy (hdr 0 0 4 0 0) = 0 ∧
    gives (.idleF 0 0 (hdr 0 0 4 0 0) []) (sLink 1 2 (yKept (kept 3 0)) []) (fun t => (spaceOf t 0 7).replay == []) = true ∧
    gives (.idleF 0 0 (hdr 0 0 3 0 0) []) (sLink 1 2 (yKept (kept 3 0)) []) (fun t => (spaceOf t 0 7).replay == [kept 3 0]) = true := by decide +kernel

theorem test_nak : ∀ r ∈ [0, 7], (let s := sLink 1 2 (yKept (kept 5 r)) []
    portUp s 0 = true ∧ hTy (hdr 8 5 5 0 0) = 8 ∧ (spaceOf (takeAck s 0 7 5) 0 7).replay.find? (fun g => g.seq == 5) = some (kept 5 r) ∧
    regF s (oLNKCFG 0) 34 32 = 7 ∧ gives (.nak 0 0 (hdr 8 5 5 0 0) []) s (fun t => (portOf t 0).ctl.length == (if r = 0 then 1 else 0)) = true) := by
  decide +kernel

theorem test_credit : (let s := sLink 1 2 Port.reset []
    portUp s 0 = true ∧ hTy (hdr 9 0 0 0 0) = 9 ∧ (bytesOf 16 [(0, 2, 300)]).length = 16 ∧
    gives (.credit 0 0 (hdr 9 0 0 0 0) (bytesOf 16 [(0, 2, 300)])) s (fun t => SMap.get 0 (portOf t 0).back 56 == 300) = true) := by decide +kernel

/-- HELLO of a device and port. -/
def hello (d q : Nat) : List Byte := bytesOf 16 [(0, 1, d), (1, 1, q), (3, 1, 1)]

theorem test_hello :
    (portUp (sLink 1 2 Port.reset []) 0 = true ∧ hTy (hdr 10 0 0 0 0) = 10 ∧ (hello 7 5).length = 16 ∧ (hello 7 6).length = 16 ∧
      NoFrames (sLink 1 2 Port.reset []) 0) ∧
    gives (.hello 0 0 (hdr 10 0 0 0 0) (hello 7 5)) (sLink 1 2 Port.reset []) (fun t => portState t 0 == 2 && regF t (oLNKSTAT 0) 63 56 == 7) = true ∧
    gives (.hello 0 0 (hdr 10 0 0 0 0) (hello 7 6)) (sLink 1 2 Port.reset []) (fun t => portState t 0 == 4 && t.irqs == [(0, 6)]) = true := by
  unfold NoFrames; decide +kernel

theorem test_retrainReq : NoFrames (sLink 1 2 Port.reset []) 0 ∧ hTy (hdr 11 0 0 0 0) = 11 ∧
    gives (.retrainReq 0 0 (hdr 11 0 0 0 0) []) (sLink 1 2 Port.reset []) (fun t => portState t 0 == 3 && regF t (oLNKFEC 0) 15 0 == 1 &&
      onWire t == [(7, 11 * 2 ^ 44, [])]) = true := by unfold NoFrames; decide +kernel

theorem test_badFrame : gives (.badFrame 0 .fec) (sLink 1 2 Port.reset []) (fun t => regF t (oLNKEVT 0) 31 16 == 1 && regF t (oLNKFEC 0) 31 16 == 1) = true ∧
    (∀ why ∈ [BadFrame.crc, .ty 6, .ty 12], gives (.badFrame 0 why) (sLink 1 2 Port.reset []) (fun t => regF t (oLNKEVT 0) 31 16 == 1 &&
      regF t (oLNKFEC 0) 31 16 == 0) = true) ∧
    gives (.badFrame 0 (.ty 11)) (sLink 1 2 Port.reset []) (fun t => regF t (oLNKEVT 0) 31 16 == 0) = true ∧
    portUp State.reset 0 = false ∧ gives (.badFrame 0 .fec) State.reset (fun t => regF t (oLNKEVT 0) 31 16 == 0) = true := by decide +kernel

/-- Cluster 3, device 9, EtherType 0x88B5: a port in Ethernet mode has the address 02:4E:4D:03:09:00 (R261). -/
theorem test_badFrame_eth : (let s := sLink 2 2 Port.reset [(oLNKDEV, 0x0309), (oLNKETH, 0x88B5_0000_0000_0000)]
    portUp s 0 = true ∧ portMode s 0 = 2 ∧
    gives (.badFrame 0 (.eth 0x024E4D030900 0x88B5)) s (fun t => regF t (oLNKEVT 0) 31 16 == 0) = true ∧
    (∀ e ∈ [(0x024E4D030901, 0x88B5), (0x024E4D030900, 0x8808)], gives (.badFrame 0 (.eth e.1 e.2)) s (fun t => regF t (oLNKEVT 0) 31 16 == 1) = true)) := by
  decide +kernel

/-- Numbers 0 (expected), 2 (a gap of two) and 4095 (seen before). -/
theorem test_sequence : (let s := sLink 2 2 Port.reset []
    let x := spaceOf (takeAck s 0 9 0) 0 9
    portUp s 0 = true ∧ x.expect < 4096 ∧ x.beyond = [] ∧ x.naks = [] ∧ (hSeq (hdr 5 2 0 0 0) + 4096 - x.expect) % 4096 = 2 ∧ seqSeen x 4095 = true ∧
    seqSeen x 0 = false ∧ hTy (hdr 5 4095 0 0 0) = 5 ∧
    gives (.abandon 0 9 (hdr 5 2 0 0 0) []) s (fun t => (spaceOf t 0 9).naks == [0, 1] && ((portOf t 0).ctl.map (fun e => (e.2.ty, e.2.seq))) == [(8, 0), (8, 1), (0, 0)]) = true) := by
  decide +kernel

def data256 : List Byte := (List.range 256).map (BitVec.ofNat 8)

theorem test_waits : (let s := sLink 1 2 Port.reset []
    inOf s 7 3 = none ∧ hTy (hdr 1 0 0 3 0) = 1 ∧ data256.length = 256 ∧ hTy (hdr 3 0 0 3 0) = 3 ∧ hTy (hdr 5 0 0 3 0) = 5 ∧
    gives (.dataF 0 0 (hdr 1 0 0 3 0) data256) s (fun t => (portOf t 0).ingress.map (fun e => (e.1, e.2.xid)) == [(7, 3)]) = true) := by decide +kernel

/-- An incoming transfer of three sectors at 0x1000, from byte 4 to byte 99 of the last; sectors that arrived and were lost. -/
def in0 (done gaps : List Nat) : XferIn := ⟨1, 0, 7, 3, 0x1000, 3, 4, 99, 0, 0, false, 0, done, gaps, none, false⟩
def sIn (done gaps : List Nat) : State := withSurf (sLink 1 2 Port.reset []) [] [in0 done gaps]

theorem test_dataF : inOf (sIn [] []) 7 (hXid (hdr 1 0 0 3 2)) = some (in0 [] []) ∧ (∀ y ∈ (sIn [] []).surf.ins, y.id = 1 → y = in0 [] []) ∧
    hIdx (hdr 1 0 0 3 2) < (in0 [] []).nsec ∧ seqSeen (spaceOf (sIn [] []) 0 7) 0 = false ∧
    gives (.dataF 0 0 (hdr 1 0 0 3 2) data256) (sIn [] []) (fun t => t.surf.ins.map (·.done) == [[2]] &&
      SMap.get 0 (portOf t 0).freed 56 == 1 && (portOf t 0).ctl.map (·.2.ty) == [9]) = true := by decide +kernel

theorem test_abandonF : inOf (sIn [] []) 7 (hXid (hdr 5 0 0 3 1)) = some (in0 [] []) ∧ 1 < (in0 [] []).nsec ∧ 1 ∉ (in0 [] []).done ∧
    gives (.abandon 0 0 (hdr 5 0 0 3 1) []) (sIn [] []) (fun t => t.surf.ins.map (·.gaps) == [[1]]) = true := by decide +kernel

theorem test_closeF :
    (∀ e ∈ [([0, 1, 2], ([] : List Nat)), ([0, 2], [1])], inOf (sIn e.1 e.2) 7 (hXid (hdr 3 0 0 3 0)) = some (in0 e.1 e.2) ∧ (in0 e.1 e.2).prot = false ∧
      (∀ j < 3, j ∈ e.1 ∨ j ∈ e.2) ∧ pullOf (sIn e.1 e.2) (in0 e.1 e.2) = none ∧
      gives (.closeF 0 0 (hdr 3 0 0 3 0) (bytesOf 16 [])) (sIn e.1 e.2) (fun t => t.surf.ins == [] &&
        (SMap.get [] (portOf t 0).txq 0).map (fun f => f.2.payload.take 3) == [[if e.2 = [] then 0 else 2, BitVec.ofNat 8 e.2.length, 0]]) = true) ∧
    (∃ j < (in0 [0] []).nsec, j ∉ (in0 [0] []).done ∧ j ∉ (in0 [0] []).gaps) ∧
    gives (.closeF 0 0 (hdr 3 0 0 3 0) (bytesOf 16 [(0, 1, 9)])) (sIn [0] []) (fun t => t.surf.ins.map (·.closed) == [some (9, 0)]) = true := by
  decide +kernel

/-- OPEN of two sectors at a device address, flags QKP; its last byte is byte 99 (Table 10.3). -/
def openP (a qkp : Nat) : List Byte := bytesOf 16 [(0, 5, a / 256), (5, 1, 2), (6, 1, 4), (7, 1, 99), (8, 1, 7), (9, 1, qkp), (10, 5, 0x20)]

theorem test_openF : (let s := sLink 1 2 Port.reset []
    hTy (hdr 2 0 0 3 0) = 2 ∧ (openP 0x1000 0).length = 16 ∧ bit (eNat (openP 0x1000 0) 9 1) 3 = false ∧
    rangeAdmitted s (regF s (oQCFG 0 0) 2 0) 0x1000 2 = true ∧ rangeAdmitted s 0 0x3FFF_FF00 2 = false ∧
    gives (.openF 0 0 (hdr 2 0 0 3 0) (openP 0x1000 0)) s (fun t => t.surf.ins.map (fun x => (x.dst, x.nsec, x.tail, x.refused)) == [(0x1000, 2, 99, false)]) = true ∧
    gives (.openF 0 0 (hdr 2 0 0 3 0) (openP 0x3FFF_FF00 0)) s (fun t => t.surf.ins.map (·.refused) == [true] &&
      (SMap.get [] (portOf t 0).txq 0).map (fun f => f.2.payload.take 1) == [[3]]) = true) := by decide +kernel

/-- The route of device 7 is port 0. -/
theorem test_openF_pull : (let s := sLink 1 2 Port.reset [(oROUTE 7, 0x8000000000000001)]
    portUp s 0 = true ∧ bit (eNat (openP 0x1000 8) 9 1) 3 = true ∧ (openP 0x1000 8).length = 16 ∧ rangeAdmitted s (regF s (oQCFG 0 0) 2 0) 0x1000 2 = true ∧
    s.surf.outs = [] ∧ laneSets s 7 ≠ [] ∧ rangeAdmitted s 0 0x3FFF_FF00 2 = false ∧
    gives (.openF 0 0 (hdr 2 0 0 3 0) (openP 0x3FFF_FF00 8)) s (fun t => t.surf.ins == [] && (SMap.get [] (portOf t 0).txq 0).map (fun f => f.2.payload.take 1) == [[3]]) = true) := by
  decide +kernel

/-- The transfer of a COPY to device 7: one sector at host address 0x3000, the whole of it; queue 0, XID 3. -/
def out0 : XferOut := ⟨5, 3, 7, 0, 0, false, 0x8000_0000_3000, 0x1000, 1, 0, 255, 0, false, false, 0, true, some (0, 6), none, []⟩
def cCopy : Cmd := { cmd0 (entry0 2 []) with xfers := [5] }
def sCopying : State :=
  let s := sPart { Part.reset with cmds := [cCopy] }
  withSurf { s with bar0 := s.bar0 ++ [(oLNKCFG 0, BitVec.ofNat 64 (7 * 2 ^ 56 + 5 * 2 ^ 50 + 4 * 2 ^ 38 + 7 * 2 ^ 32 + 1)), (oLNKSTAT 0, 2)] } [out0] []

theorem test_closeAck : portUp sCopying 0 = true ∧ hTy (hdr 4 0 0 3 0) = 4 ∧ out0.started = true ∧ out0.dev = remoteOf sCopying 0 0 ∧ out0.xid = hXid (hdr 4 0 0 3 0) ∧
    InFlight sCopying 0 cCopy ∧ CqOpen sCopying 0 0 0x1000 ∧ eOp cCopy.entry = 2 ∧ cCopy.xfers = [out0.id] ∧
    gives (.closeAck 0 0 (hdr 4 0 0 3 0) (bytesOf 16 [(0, 1, 2), (1, 2, 9)])) sCopying (fun t => t.surf.outs == [] &&
      Mem.byte t.hostMem 0x1004 == 8 && Mem.byte t.hostMem 0x1008 == 9 && Mem.byte t.hostMem 0x100B == 0x20) = true :=
  ⟨by decide +kernel, by decide +kernel, rfl, by decide +kernel, by decide +kernel, inFlight_of rfl (by decide +kernel),
    by unfold CqOpen; decide +kernel, by decide +kernel, rfl, by decide +kernel⟩

/-- The transfer of a store to device 7: its CLOSE_ACK answers the store. -/
theorem test_closeAck_store : ∀ r ∈ [(0, ReplySt.ok), (2, .uncorr), (3, .decode)], (let y : XferOut := { out0 with cmd := none, txn := some 3 }
    let z : Txn := { blankTxn with id := 3, kind := .store, src := .tile 0 0, stage := .toPeer 1 0 }
    let s := { withSurf sCopying [y] [] with txns := [z] }
    portUp s 0 = true ∧ s.surf.outs = [y] ∧ y.started = true ∧ y.dev = remoteOf s 0 0 ∧ y.xid = hXid (hdr 4 0 0 3 0) ∧
    gives (.closeAck 0 0 (hdr 4 0 0 3 0) (bytesOf 16 [(0, 1, r.1)])) s (fun t => t.surf.outs == [] && t.txns == [z.reply (nextRep s) none r.2]) = true) := by
  decide +kernel

/-! ### Sending -/

theorem test_frameSend_idle :
    (let s := sLink 1 2 Port.reset []
     portUp s 0 = true ∧ portMode s 0 = 1 ∧ gives (.frameSend 0) s (fun t => onWire t == [(7, 0, [])] &&
       (portOf t 0).sent.map (fun f => (f.eth, f.crc)) == [(none, 0xB1C2A1A3)]) = true) ∧
    (let s := sLink 2 2 Port.reset []
     portUp s 0 = true ∧ portMode s 0 ≠ 1 ∧ gives (.frameSend 0) s (fun t => (portOf t 0).sent == []) = true) := by decide +kernel

theorem test_frameSend_ctl :
    (let s := sLink 1 2 { Port.reset with ctl := [(7, plainFrame 8 5)], spaces := [(0, { SeqSpace.reset with expect := 9 })] } []
     portUp s 0 = true ∧ sequenced (plainFrame 8 5).ty = false ∧
      gives (.frameSend 0) s (fun t => onWire t == [(7, 8 * 2 ^ 44 + 5 * 2 ^ 32 + 9 * 2 ^ 20, [])] && (portOf t 0).ctl == []) = true) ∧
    (let s := sLink 1 2 { yKept (kept 5 0) with ctl := [(7, kept 5 0)] } []
     sequenced (kept 5 0).ty = true ∧ (spaceOf s 0 7).replay.find? (fun k => k.seq == 5) = some (kept 5 0) ∧
      gives (.frameSend 0) s (fun t => (spaceOf t 0 7).replay == [kept 5 1] && regF t (oLNKEVT 0) 63 48 == 1) = true) := by decide +kernel

/-- The first DATA frame of the transfer waits in queue 0. -/
def sData : State := { sCopying with
  ports := [(0, { Port.reset with txq := [(0, [(7, xferFrame out0 1 0 [])])] })], hostMem := [(0x3000, 8), (0x30FF, 9)] }

theorem test_frameSend_data : portUp sData 0 = true ∧ (xferFrame out0 1 0 []).xfer = out0.id + 1 ∧ outOf sData out0.id = some out0 ∧ slotted sData 0 = false ∧
    creditFor sData 0 7 0 = true ∧ HostRange sData (some 0) 0x8000_0000_3000 256 0x3000 ∧
    gives (.frameSend 0) sData (fun t => (onWire t).map (fun e => (e.1, e.2.1, e.2.2.getD 0 0, e.2.2.getD 255 0)) == [(7, 2 ^ 44 + 3 * 2 ^ 8, 8, 9)] &&
      SMap.get 0 (portOf t 0).used 56 == 1) = true := by unfold HostRange; decide +kernel

/-- A slotted port with no slot open. -/
theorem test_frameSend_slotted : (let s := { sLink 5 2 { Port.reset with txq := [(0, [(7, xferFrame out0 1 0 [])])] } [] with bar0 :=
      [(oTGSTAT, 0x80), (oLNKCFG 0, BitVec.ofNat 64 (7 * 2 ^ 56 + 5 * 2 ^ 50 + 5)), (oLNKSTAT 0, 2)] }
    portUp s 0 = true ∧ portMode s 0 = 1 ∧ slotted s 0 = true ∧ regB s (oLNKSTAT 0) 31 = false ∧
    gives (.frameSend 0) s (fun t => onWire t == [(7, 0, [])]) = true) := by decide +kernel

/-- A store's transfer that carries its two bytes: sector 0 from byte 4 on. -/
theorem test_frameSend_store : (let x : XferOut := { out0 with src := 0, head := 4, tail := 5, cmd := none, txn := some 3, data := [8, 9] }
    let s := { sCopying with surf := { Surf.reset with outs := [x] }, ports := [(0, { Port.reset with txq := [(0, [(7, xferFrame x 1 0 [])])] })] }
    portUp s 0 = true ∧ s.stalled = false ∧ 256 * 0 + x.tail + 1 ≤ x.head + x.data.length ∧
    gives (.frameSend 0) s (fun t => (onWire t).map (fun e => (e.2.2.drop 4).take 2) == [[8, 9]]) = true) := by decide +kernel

/-- An IDLE in Ethernet mode of device 9 in cluster 3: source address, tag of PCP 5 and VID 0x123, EtherType. -/
theorem test_frameSend_eth : (let regs := [(oLNKDEV, 0x0309), (oLNKETH, BitVec.ofNat 64 (0x88B5 * 2 ^ 48 + 5 * 2 ^ 45 + 2 ^ 44 + 0x123 * 2 ^ 32))]
    let s := sLink 2 2 { Port.reset with ctl := [(7, plainFrame 0 0)] } regs
    gives (.frameSend 0) s (fun t => (portOf t 0).sent.map (fun f => f.eth.map (fun e => (e.src, e.tag, e.etype))) ==
      [some (0x024E4D030900, some 0xA123, 0x88B5)]) = true) := by decide +kernel

theorem test_helloTimer : gives (.helloTimer 0) (sLink 1 2 Port.reset []) (fun t => (portOf t 0).ctl == [(7, plainFrame 10 0)]) = true := by decide +kernel

theorem test_rtoExpiry :
    (let s := sLink 1 2 { Port.reset with spaces := [(0, { SeqSpace.reset with naks := [4] })] } []
     4 ∈ (spaceOf s 0 7).naks ∧ gives (.rtoExpiry 0 0 4 true) s (fun t => (portOf t 0).ctl == [(7, plainFrame 8 4)]) = true) ∧
    (let s := sLink 1 2 (yKept (kept 5 0)) []
     (spaceOf s 0 7).replay.find? (fun f => f.seq == 5) = some (kept 5 0) ∧ (portOf s 0).ctl = [] ∧ (kept 5 0).resends < regF s (oLNKCFG 0) 34 32 ∧
      gives (.rtoExpiry 0 0 5 false) s (fun t => (portOf t 0).ctl == [(7, kept 5 0)]) = true) ∧
    (let s := sLink 1 2 (yKept (kept 5 7)) []
     (spaceOf s 0 7).replay.find? (fun f => f.seq == 5) = some (kept 5 7) ∧ regF s (oLNKCFG 0) 34 32 ≤ (kept 5 7).resends ∧
      gives (.rtoExpiry 0 0 5 false) s (fun t => (portOf t 0).ctl.map (fun e => (e.2.ty, e.2.seq)) == [(5, 5)] && regF t (oLNKEVT 0) 47 32 == 1) = true) := by
  decide +kernel

/-! ### Ports -/

theorem test_trainingEnd_failed : ∀ n ∈ [0, 2], (let s := sLink 1 1 { Port.reset with fails := n, full := true } []
    portHeld s 0 = false ∧ portState s 0 = 1 ∧ gives (.trainingEnd 0 .failed) s (fun t => portState t 0 == (if n = 0 then 1 else 5) && (portOf t 0).fails == n + 1) = true) := by
  decide +kernel

/-- Saved settings come first; the results of a full training are saved. -/
theorem test_trainingEnd_saved : (let s := sLink 1 1 { Port.reset with fails := 2, full := false } []
    portHeld s 0 = false ∧ portState s 0 = 1 ∧
    gives (.trainingEnd 0 .failed) s (fun t => portState t 0 == 1 && (portOf t 0).full && (portOf t 0).fails == 2) = true ∧
    gives (.trainingEnd 0 (.locked 7 5 [1])) (sLink 1 1 Port.reset []) (fun t => t.head.training == [(0, [1])]) = true) := by decide +kernel

theorem test_trainingEnd : (let s := sLink 1 3 Port.reset []
    portHeld s 0 = false ∧ portState s 0 = 3 ∧ portMode s 0 = 1 ∧ s.surf.outs = [] ∧ regF s (oLNKCFG 0) 63 56 = 7 ∧ regF s (oLNKCFG 0) 55 50 = 5 ∧
    gives (.trainingEnd 0 (.locked 7 5 [])) s (fun t => portState t 0 == 2 && (portOf t 0).ctl.map (·.2.ty) == [10, 9]) = true ∧
    gives (.trainingEnd 0 (.locked 7 4 [])) s (fun t => portState t 0 == 4 && (portOf t 0).ctl == [] && t.irqs == [(0, 6)]) = true) := by decide +kernel

theorem test_leaveUp : NoFrames (sLink 1 2 Port.reset []) 0 ∧
    gives (.fecErrorRatio ⟨0, 3, false⟩) (sLink 1 2 Port.reset []) (fun t => portState t 0 == 2 && regF t (oLNKFEC 0) 63 32 == 3) = true ∧
    (∀ c ∈ [Instr.blockLockLoss 0, .fecErrorRatio ⟨0, 0, true⟩], gives c (sLink 1 2 Port.reset []) (fun t => portState t 0 == 3 && t.irqs == [(0, 6)]) = true ∧
      gives c (sLink 1 1 Port.reset []) (fun t => portState t 0 == 1) = true) := by unfold NoFrames; decide +kernel

theorem test_lnkRetrain : (let up := (oHLMSTAT, (0xF002_0000 : DWord))
    let s := sLink 1 5 { Port.reset with fails := 3 } [up]
    canWrite s 0 (lnkBase 0 + 0x10) = true ∧ portState s 0 = 5 ∧ isOut s (.port 0) = false ∧
      gives (.lnkRetrain 0 0) s (fun t => portState t 0 == 1 && (portOf t 0).fails == 0) = true ∧
    (let s := { s with head := { s.head with out := [(.port 0, 1)] } }
     canWrite s 0 (lnkBase 0 + 0x10) = true ∧ isOut s (.port 0) = true ∧ gives (.lnkRetrain 0 0) s (fun t => portState t 0 == 5) = true) ∧
    (let s := sLink 1 2 Port.reset [up]
     portUp s 0 = true ∧ gives (.lnkRetrain 0 0) s (fun t => portState t 0 == 3 && (onWire t).map (·.2.1) == [11 * 2 ^ 44]) = true)) := by
  decide +kernel

theorem test_lnkReset : (let s := sLink 1 2 { Port.reset with used := [(56, 3)] } [(oLNKEVT 0, 9), (oESCCFG, 0x0000_0003_8400_0000), (oHLMSTAT, 0xF002_0000)]
    canWrite s 0 (lnkBase 0 + 0x10) = true ∧ NoFrames s 0 ∧ portState s 0 ∈ [1, 2, 3] ∧ NoEscalation s ∧ genBusy s (.port 0) = false ∧ s.txns = [] ∧
    gives (.lnkReset 0 0) s (fun t => portState t 0 == 3 && (portOf t 0).used == [] && reg t (oLNKEVT 0) == 0 && genOf t (.port 0) == 1) = true) := by
  unfold NoFrames NoEscalation; decide +kernel

/-! ### Check-value units -/

/-- Bytes in memory, zeros left out. -/
def memAt (a : Nat) (bs : List Byte) : List Host.Cell := (Mem.lay a bs).filter (fun c => c.2 != 0)

/-- "123456789", whose CRC-32 is 0xCBF43926. -/
def digits : List Byte := (List.range 9).map (fun i => BitVec.ofNat 8 (0x31 + i))

/-- A scan of the nine digits at host address 0x3000 on channel 0, result block at host address 0x2000. -/
def eScan : List Byte := entry0 5 [(16, 6, 0x8000_0000_3000), (24, 8, 9), (40, 6, 0x8000_0000_2000)]

/-- A result block with a mode, counter 1 and an expected value (Table 13.7). -/
def scanBlock (mode expect : Nat) : List Byte := bytesOf 64 [(0, 1, mode), (2, 2, 1), (16, 8, expect)]

theorem test_cvuScan : (let s := sQueue eScan (memAt 0x2000 (scanBlock 4 0xCBF43926)) []
    CanStart s 0 0 ⟨3, eScan⟩ ∧ eOp eScan = 5 ∧ scanEntryOk s eScan = true ∧ HostRange s (some 0) (eNat eScan 40 6) 64 0x2000 ∧ scansOf s 0 = [] ∧
    eNat (Mem.read s.hostMem 0x2000 64) 0 1 = 4 ∧
    gives (.cvuScan 0 0) s (fun t => scansOf t 0 == [(0, 7)] && (partOf t 0).cmds.map (·.id) == [7]) = true) :=
  ⟨canStart_of rfl (by decide +kernel), by decide +kernel, by decide +kernel, by unfold HostRange; decide +kernel, by decide +kernel,
    by decide +kernel, by decide +kernel⟩

/-- The scan runs; the stream's last counter was 9 if `old` is set. -/
def cScan (mode expect : Nat) : Cmd := { cmd0 eScan with args := scanBlock mode expect }
def sScan (mode expect : Nat) (strs : SMap Stream) : State :=
  let s := sPart { Part.reset with cmds := [cScan mode expect] }
  { s with hostMem := memAt 0x3000 digits, ras := { s.ras with scans := [(0, [(0, 6)])], streams := strs } }

theorem test_cvuScanDone_hyps : ∀ e ∈ [(4, 1), (8, 0), (0, 0)], (let s := sScan e.1 e.2 []
    cvuFitted s.asm 0 = true ∧ scansOf s 0 = [(0, 6)] ∧ InFlight s 0 (cScan e.1 e.2) ∧ CqOpen s 0 0 0x1000 ∧ (cScan e.1 e.2).args ≠ [] ∧
    HostRange s (some 0) (eNat eScan 16 6) 9 0x3000 ∧ HostRange s (some 0) (eNat eScan 40 6) 64 0x2000) := by
  intro e he
  refine ⟨rfl, ?_, inFlight_of rfl ?_, ?_, ?_, ?_, ?_⟩
  all_goals try unfold CqOpen
  all_goals try unfold HostRange
  all_goals (revert e; decide +kernel)

theorem test_cvuScanDone :
    gives (.cvuScanDone 0) (sScan 4 0xCBF43926 []) (fun t => Mem.nat t.hostMem 0x2018 8 == 0xCBF43926 && Mem.byte t.hostMem 0x2020 == 0 &&
      Mem.byte t.hostMem 0x2028 == 9 && scansOf t 0 == [] && Mem.byte t.hostMem 0x1003 == 5) = true ∧
    gives (.cvuScanDone 0) (sScan 4 1 []) (fun t => Mem.byte t.hostMem 0x2020 == 1 && regF t (oCVSTAT 0) 47 32 == 1) = true := by decide +kernel

theorem test_alive : (let x : Stream := ⟨true, 5, some 7, 0, 0⟩
    (aliveStep 4 ⟨false, 0, none, 0, 0⟩ 9 (some 1)).2 = .ok ∧ (aliveStep 4 x 5 (some 7)).2 = .repeated ∧ (aliveStep 4 x 5 (some 8)).2 = .sameCtr ∧
    (aliveStep 4 x 13 (some 1)).2 = .old ∧ aliveStep 4 x 8 (some 1) = (⟨true, 8, some 1, 2, 0⟩, .gap) ∧ (aliveStep 4 x 6 none).2 = .gap) := by decide +kernel

/-- A protected transfer of one sector of zeros whose CLOSE carried a check value. -/
def inProt (cv : Nat) : XferIn := { in0 [0] [] with nsec := 1, head := 0, tail := 8, prot := true, ctr := 1, closed := some (BitVec.ofNat 64 cv, 0) }
def sProt (cv : Nat) : State := withSurf (sLink 1 2 Port.reset []) [] [inProt cv]
/-- The CRC-32 of nine zero bytes as the channel computes it. -/
def crcZeros : Nat := (profileOf State.reset 0).check (List.replicate 9 0)

theorem test_cvuTransferCheck : (∀ cv ∈ [crcZeros, 5], (sProt cv).surf.ins.find? (fun y => y.id == 1) = some (inProt cv) ∧ (inProt cv).closed = some (BitVec.ofNat 64 cv, 0) ∧
      (∀ j < 1, j ∈ (inProt cv).done) ∧ pullOf (sProt cv) (inProt cv) = none) ∧
    (readWritten (sProt 5) 0 (inProt 5)).2.1 = List.replicate 9 0 ∧ crcZeros ≠ 5 ∧
    gives (.cvuTransferCheck 1) (sProt crcZeros) (fun t => (SMap.get [] (portOf t 0).txq 0).map (fun f => f.2.payload.take 1) == [[0]] && t.surf.ins == []) = true ∧
    gives (.cvuTransferCheck 1) (sProt 5) (fun t => (SMap.get [] (portOf t 0).txq 0).map (fun f => f.2.payload.take 1) == [[1]]) = true := by decide +kernel

theorem test_clrstrm : canWrite sUp 0 oCVSURF = true ∧
    gives (.clrstrm 0) { sUp with ras := { sUp.ras with surf := [(56, ⟨true, 5, none, 0, 0⟩)] } } (fun t => t.ras.surf == []) = true := by decide +kernel

/-! ### The host interface -/

/-- The partition after bring-up. -/
def sHost (x : Part) (regs : List (Nat × DWord)) (mem : List Host.Cell) : State :=
  let s := sPart x
  { s with bar0 := s.bar0 ++ regs ++ [(oHLMSTAT, 0xF002_0000)], hostMem := mem }

theorem test_sqDoorbell : queueFitted (sHost Part.reset [] []) 0 0 = true ∧ canWrite (sHost Part.reset [] []) 0 (queuePage 0 + 0x8000) = true ∧
    sqLive (sHost Part.reset [] []) 0 0 = true ∧
    gives (.sqDoorbell 0 0 0 3) (sHost Part.reset [] []) (fun t => tailAt t 0 0 == 3 && !regB t (oSQB 0 0) 61) = true ∧
    gives (.sqDoorbell 0 0 0 4) (sHost Part.reset [] []) (fun t => regB t (oSQB 0 0) 61 && !regB t (oSQB 0 0) 63) = true := by decide +kernel

/-- CQ 0 is full with tail 3 of depth 4, and a completion waits for it. -/
def sFull4 (w : List (Nat × List Byte × Bool)) : State :=
  let s := sHost { Part.reset with waiting := w } [] []
  { s with bar0 := [(0x10_0010, 2), (0x10_2000, 0x8000_0000_1000), (0x10_2008, 2 ^ 63 + 5 * 2 ^ 48 + 2 * 2 ^ 40 + 3 * 2 ^ 16), (oHLMSTAT, 0xF002_0000)] }
def waiting0 : List (Nat × List Byte × Bool) := [(0, bytesOf 32 [(4, 1, 6)], true)]

theorem test_cqDoorbell : (let s := sFull4 waiting0
    canWrite s 0 (queuePage 0 + 0x8100) = true ∧ regB s (oCQB 0 0) 63 = true ∧ regB s (oCQB 0 0) 62 = false ∧ pState s 0 = 2 ∧ (∀ j, entriesOf s 0 j = []) ∧
    (bytesOf 32 [(4, 1, 6)]).length = 32 ∧ cqOf s 0 0 = 0 ∧ cqRoom (setPart s 0 { partOf s 0 with heads := SMap.set 0 (partOf s 0).heads 0 1 }) 0 0 = true ∧
    ((reg s (oCQA 0 0)).toNat + 32 * 3) % 32 = 0 ∧ routeOf s (some 0) ((reg s (oCQA 0 0)).toNat + 32 * 3) = .host 0x1060 ∧
    gives (.cqDoorbell 0 0 0 1) s (fun t => (partOf t 0).waiting == [] && Mem.byte t.hostMem 0x1064 == 6 && Mem.byte t.hostMem 0x1065 == 1 &&
      t.irqs == [(1, 5)]) = true) :=
  ⟨by decide +kernel, by decide +kernel, by decide +kernel, by decide +kernel, entries_nil rfl, by decide +kernel, by decide +kernel, by decide +kernel,
    by decide +kernel, by decide +kernel, by decide +kernel⟩

theorem test_cqDoorbell_other : (∀ w ∈ (partOf (sFull4 []) 0).waiting, w.1 ≠ 0) ∧
    gives (.cqDoorbell 0 0 0 2) (sFull4 []) (fun t => SMap.get 0 (partOf t 0).heads 0 == 2) = true ∧
    gives (.cqDoorbell 0 0 0 4) (sFull4 []) (fun t => regB t (oCQB 0 0) 62) = true := by decide +kernel

theorem test_sqEntryFetch : (let s := sHost { Part.reset with tails := [(0, 1)] } [] [(0, 10), (2, 7)]
    queueFitted s 0 0 = true ∧ sqLive s 0 0 = true ∧ mayFetch s 0 = true ∧ fetchAt s 0 0 ≠ tailAt s 0 0 ∧ (∀ j, entriesOf s 0 j = []) ∧
    HostRange s (some 0) (reg s (oSQA 0 0)).toNat 128 0 ∧ opAccepted 0 (eOp (Mem.read s.hostMem 0 128)) = true ∧
    gives (.sqEntryFetch 0 0) s (fun t => (entriesOf t 0 0).map (fun e => (e.idx, eCid e.bytes)) == [(0, 7)] && fetchAt t 0 0 == 1) = true) :=
  ⟨by decide +kernel, by decide +kernel, by decide +kernel, by decide +kernel, entries_nil rfl, by unfold HostRange; decide +kernel,
    by decide +kernel, by decide +kernel⟩

theorem test_sqEntryFetch_cancelled : (let s := sHost { Part.reset with tails := [(0, 1)], marks := [(0, 0)] } [] [(0, 10), (2, 7)]
    mayFetch s 0 = true ∧ CqOpen s 0 0 0x1000 ∧
    gives (.sqEntryFetch 0 0) s (fun t => (partOf t 0).marks == [] && Mem.byte t.hostMem 0x1004 == 1 && Mem.byte t.hostMem 0x1000 == 7) = true) :=
  ⟨by decide +kernel, by unfold CqOpen; decide +kernel, by decide +kernel⟩

/-- The PF window at the tile memory windows; tile 0 has bytes at 0x100. -/
def sBar2 (win : DWord) : State := { State.reset with bar0 := [(oPFWIN, win), (oHLMSTAT, 0xF002_0000)], tiles := [(0, { tile0 with mem := [(0x100, 7)] })] }

theorem test_bar2 : (let s := sBar2 0x4000_0000_0000
    bar2Ok s 0 0x100 3 = true ∧ (∀ i < 3, routeOf s (bar2Who 0).p (bar2Base s 0 + 0x100 + i) = .window 0 (0x100 + i)) ∧ (tileOf s 0).memErr = [] ∧
    gives (.bar2Read 0 0x100 3) s (fun t => t.hostReads == [(0, [7, 0, 0])]) = true ∧
    gives (.bar2Write 0 0x100 [1, 2, 3]) s (fun t => (tileOf t 0).mem == [(0x100, 1), (0x101, 2), (0x102, 3)]) = true) := by decide +kernel

theorem test_bar2_decode : (let s := sBar2 0x8000_0000_0000
    bar2Ok s 0 5 1 = true ∧ bar2Target s (bar2Base s 0 + 5) = false ∧ regB s oRASDECODE 63 = false ∧
    gives (.bar2Read 0 5 1) s (fun t => t.hostReads == [(0, [0])]) = true) := by decide +kernel

/-! ### Partition control -/

def sState (st : Nat) (x : Part) : State :=
  let s := sHost x [] []
  { s with bar0 := (0x10_0010, BitVec.ofNat 64 st) :: s.bar0.drop 1 }

theorem test_start : (let s := sState 1 Part.reset
    canWrite s 1 (hstPage 0) = true ∧ pState s 0 = 1 ∧ entryPending s 0 = false ∧ (∀ j, entriesOf s 0 j = []) ∧ (partOf s 0).quarantine = false ∧
    gives (.start 1 0) s (fun t => pState t 0 == 2) = true ∧ gives (.start 0 0) (sState 3 Part.reset) (fun t => pState t 0 == 3) = true) :=
  ⟨by decide +kernel, by decide +kernel, by decide +kernel, entries_nil rfl, rfl, by decide +kernel, by decide +kernel⟩

theorem test_stop : pState (sState 2 Part.reset) 0 = 2 ∧ gives (.stop 0 0) (sState 2 Part.reset) (fun t => pState t 0 == 1) = true ∧
    gives (.stop 0 0) (sState 2 { Part.reset with cmds := [cmd0 (entry0 10 [])] }) (fun t => pState t 0 == 3) = true ∧
    pState (sState 5 Part.reset) 0 = 5 ∧ gives (.resume 0 0) (sState 5 Part.reset) (fun t => pState t 0 == 2) = true ∧
    gives (.resume 0 0) (sState 1 Part.reset) (fun t => pState t 0 == 1) = true := by decide +kernel

/-- THRESH is 0: nothing escalates. -/
def noEsc (s : State) : State := setReg s oESCCFG 0x0000_0003_8400_0000

theorem test_hang : (let s := noEsc (sState 2 Part.reset)
    canWrite s 0 (hstPage 0 + 0x18) = true ∧ pState s 0 = 2 ∧ (partOf s 0).cmds = [] ∧ NoEscalation s ∧
    gives (.hang 0 0) s (fun t => pState t 0 == 4 && regF t (oFAULT 0) 43 40 == 2 && t.irqs == [(1, 48)]) = true) := by unfold NoEscalation; decide +kernel

theorem test_commandTimeout : (let c := cmd0 (entry0 10 [])
    let s := noEsc (sState 3 { Part.reset with cmds := [c] })
    (partOf s 0).cmds = [c] ∧ c.timeout.isSome = true ∧ c.idx < 2 ^ 12 ∧ pState s 0 = 3 ∧ NoEscalation s ∧ CqOpen s 0 0 0x1000 ∧
    c.fault = none ∧ (∀ t ∈ c.reports, storesOpen s t 0 6 = false) ∧
    gives (.commandTimeout 0 ⟨6, 0, 0⟩) s (fun t => pState t 0 == 4 && Mem.byte t.hostMem 0x1004 == 2 && regF t (oFAULT 0) 43 40 == 1) = true ∧
    gives (.commandTimeout 0 ⟨6, 3, 3⟩) s (fun t => pState t 0 == 3 && (partOf t 0).cmds.map (fun c => (c.cntA, c.cntB)) == [(3, 3)]) = true ∧
    gives (.commandTimeout 0 ⟨6, 3, 0⟩) s (fun t => regB t (oPSTAT 0) 8 && t.irqs == [(1, 49)]) = true) := by
  unfold NoEscalation CqOpen; decide +kernel

theorem test_watchdogTest : (let s := sState 2 { Part.reset with cmds := [cmd0 (entry0 10 [])] }
    partValid s 0 = true ∧ (∀ c ∈ (partOf s 0).cmds, c.cntA = c.cntB) ∧
    gives (.watchdogTest 0 false) s (fun t => regB t (oPSTAT 0) 8 && (partOf t 0).cmds.map (·.timeout) == [none] && t.irqs == [(1, 49)]) = true ∧
    gives (.watchdogTest 0 true) s (fun t => !regB t (oPSTAT 0) 8) = true) := by decide +kernel

theorem test_cancel : (let s := sState 2 { Part.reset with cmds := [cmd0 (entry0 10 [])], tails := [(0, 2)] }
    canWrite s 0 (hstPage 0 + 0x20) = true ∧ cancelResult s 0 0 3 = 2 ∧ cancelResult s 0 0 2 = 3 ∧ cancelResult s 0 0 1 = 1 ∧
    ((0, 1) ∉ (partOf s 0).marks) ∧
    gives (.cancel 0 0 3) s (fun t => (partOf t 0).cmds.map (·.late) == [true]) = true ∧
    gives (.cancel 0 0 2) s (fun t => regF t (oCANCEL 0) 63 60 == 3) = true ∧
    gives (.cancel 0 0 1) s (fun t => (partOf t 0).marks == [(0, 1)]) = true) := by decide +kernel

/-! ### Queue commands -/

/-- An entry with a reserved flag. -/
def eBad (op : Nat) : List Byte := bytesOf 128 [(0, 1, op), (1, 1, 4)]

theorem test_invalid : ∀ x ∈ [(Instr.launch 0 0, 1), (.copy 0 0, 2), (.attnBatch 0 0, 3), (.scrub 0 0, 4), (.cvuScan 0 0, 5), (.fenceCommand 0 0, 6),
      (.pin 0 0, 8), (.unpin 0 0, 9), (.note 0 0, 10)],
    eOp (eBad x.2) = x.2 ∧ flagsOk (eBad x.2) = false ∧ batchWaits (sQueue (eBad x.2) [] []) ⟨3, eBad x.2⟩ = false ∧
    gives x.1 (sQueue (eBad x.2) [] []) (fun t => Mem.byte t.hostMem 0x1004 == 4 && entriesOf t 0 0 == []) = true := by decide +kernel

theorem test_invalid_queue : ∀ op ∈ [1, 2, 3, 4, 5, 6, 8, 9, 10], CanStart (sQueue (eBad op) [] []) 0 0 ⟨3, eBad op⟩ ∧ CqOpen (sQueue (eBad op) [] []) 0 0 0x1000 ∧
    launchEntryOk (sQueue (eBad op) [] []) 0 (eBad op) = false ∧ copyEntryOk (eBad op) = false ∧ batchEntryOk (sQueue (eBad op) [] []) 0 (eBad op) = false ∧
    scrubEntryOk (sQueue (eBad op) [] []) 0 (eBad op) = false ∧ scanEntryOk (sQueue (eBad op) [] []) (eBad op) = false ∧
    pinEntryOk (sQueue (eBad op) [] []) 0 (eBad op) = false := by
  intro op h
  refine ⟨canStart_of rfl ?_, ?_⟩
  all_goals try unfold CqOpen
  all_goals (revert op; decide +kernel)

/-- LAUNCH on tile 0 of an image at host address 0x4000 with two bytes of arguments at 0x5000. -/
def eLaunch : List Byte := entry0 1 [(16, 6, 0x8000_0000_4000), (28, 4, 77), (32, 6, 0x8000_0000_5000), (40, 4, 2)]
def sLaunching : State := sQueue eLaunch (memAt 0x4000 image0 ++ [(0x5000, 8)]) []

theorem test_launch : CanStart sLaunching 0 0 ⟨3, eLaunch⟩ ∧ eOp eLaunch = 1 ∧ launchEntryOk sLaunching 0 eLaunch = true ∧ launchHeld 0 sLaunching ⟨3, eLaunch⟩ = false ∧
    imageOk (Mem.read sLaunching.hostMem 0x4000 128) (eNat eLaunch 40 4) = true ∧
    (∀ t ∈ entryRect eLaunch 24, ∀ q ∈ iApplied (Mem.read sLaunching.hostMem 0x4000 128), ringBusy sLaunching t q = false) ∧
    HostRange sLaunching (some 0) 0x8000_0000_4000 (imageLen (Mem.read sLaunching.hostMem 0x4000 128)) 0x4000 ∧ HostRange sLaunching (some 0) 0x8000_0000_5000 2 0x5000 ∧
    gives (.launch 0 0) sLaunching (fun t => (partOf t 0).cmds.map (fun c => (c.loads, c.reports, c.args)) == [([0], [0], [8, 0])]) = true :=
  ⟨canStart_of rfl (by decide +kernel), by decide +kernel, by decide +kernel, by decide +kernel, by decide +kernel, by decide +kernel,
    by unfold HostRange; decide +kernel, by unfold HostRange; decide +kernel, by decide +kernel⟩

/-- COPY of three bytes at host address 0x3000. -/
def eCopy (dst : Nat) : List Byte := entry0 2 [(16, 6, 0x8000_0000_3000), (24, 6, dst), (32, 8, 3)]

theorem test_copy : (let s := sQueue (eCopy 0x8000_0000_6000) [(0x3000, 1), (0x3002, 3)] []
    CanStart s 0 0 ⟨3, eCopy 0x8000_0000_6000⟩ ∧ copyEntryOk (eCopy 0x8000_0000_6000) = true ∧ CqOpen s 0 0 0x1000 ∧
    HostRange s (some 0) (copySrc (eCopy 0x8000_0000_6000)) 3 0x3000 ∧ HostRange s (some 0) (copyDst (eCopy 0x8000_0000_6000)) 3 0x6000 ∧
    gives (.copy 0 0) s (fun t => Mem.read t.hostMem 0x6000 3 == [1, 0, 3] && Mem.byte t.hostMem 0x1003 == 2 && Mem.byte t.hostMem 0x1004 == 0) = true) :=
  ⟨canStart_of rfl (by decide +kernel), by decide +kernel, by unfold CqOpen; decide +kernel, by unfold HostRange; decide +kernel,
    by unfold HostRange; decide +kernel, by decide +kernel⟩

/-- COPY to offset 0x1005 of device 7, whose route is port 0, which is UP or not. -/
def ePush : List Byte := eCopy (0xC000_0000_0000 + 7 * 2 ^ 38 + 0x1005)
def sPush (st : DWord) : State := sQueue ePush [(0x3000, 1)] [(oLNKCFG 0, BitVec.ofNat 64 (7 * 2 ^ 56 + 5 * 2 ^ 50 + 1)), (oLNKSTAT 0, st), (oROUTE 7, 0x8000000000000001)]

theorem test_copy_peer : CanStart (sPush 0) 0 0 ⟨3, ePush⟩ ∧ CanStart (sPush 2) 0 0 ⟨3, ePush⟩ ∧ eOp ePush = 2 ∧ copyEntryOk ePush = true ∧
    routeOf (sPush 2) (some 0) (copySrc ePush) = .host 0x3000 ∧ routeOf (sPush 2) (some 0) (copyDst ePush) = .remote 7 0x1005 ∧
    routeOf (sPush 0) (some 0) (copyDst ePush) = .remote 7 0x1005 ∧ laneSets (sPush 0) 7 = [] ∧ CqOpen (sPush 0) 0 0 0x1000 ∧ laneSets (sPush 2) 7 ≠ [] ∧
    copyLen ePush ≤ 256 :=
  ⟨canStart_of rfl (by decide +kernel), canStart_of rfl (by decide +kernel), by decide +kernel, by decide +kernel, by decide +kernel,
    by decide +kernel, by decide +kernel, by decide +kernel, by unfold CqOpen; decide +kernel, by decide +kernel, by decide +kernel⟩

/-- SCRUB of two granules at 0x1000, result block at host address 0x2000. -/
def eScrub : List Byte := entry0 4 [(16, 6, 0x1000), (24, 8, 512), (40, 6, 0x8000_0000_2000)]
def sScrub : State := sQueue eScrub [] [(0x18_0008, 1)]

theorem test_scrub : CanStart sScrub 0 0 ⟨3, eScrub⟩ ∧ scrubEntryOk sScrub 0 eScrub = true ∧ eNat eScrub 32 1 = 0 ∧ CqOpen sScrub 0 0 0x1000 ∧
    HostRange sScrub (some 0) (eNat eScrub 40 6) 320 0x2000 ∧ sScrub.fills = [] ∧ (∀ i, (ctrlOf sScrub i).queue = []) ∧ (∀ i < 2, CleanGran sScrub (16 + i)) ∧
    gives (.scrub 0 0) sScrub (fun t => Mem.byte t.hostMem 0x2000 == 8 && Mem.byte t.hostMem 0x1003 == 4 && Mem.byte t.hostMem 0x1004 == 0) = true :=
  ⟨canStart_of rfl (by decide +kernel), by decide +kernel, by decide +kernel, by unfold CqOpen; decide +kernel, by unfold HostRange; decide +kernel, rfl,
    fun _ => rfl, by unfold CleanGran; decide +kernel, by decide +kernel⟩

theorem test_fenceCommand : (let e := entry0 6 [(16, 1, 1)]
    let s := sQueue e [] []
    let s' := { s with parts := [(0, { partOf s 0 with cmds := [{ cmd0 (entry0 10 []) with sq := 2 }] })] }
    CanStart s 0 0 ⟨3, e⟩ ∧ CanStart s' 0 0 ⟨3, e⟩ ∧ CqOpen s 0 0 0x1000 ∧ flagsOk e = true ∧ restZero e [(0, 17)] = true ∧ eNat e 16 1 < 2 ∧
    gives (.fenceCommand 0 0) s (fun t => Mem.byte t.hostMem 0x1003 == 6) = true ∧
    gives (.fenceCommand 0 0) s' (fun t => (partOf t 0).cmds.map (·.awaits) == [[], [6]]) = true) :=
  ⟨canStart_of rfl (by decide +kernel), canStart_of rfl (by decide +kernel), by unfold CqOpen; decide +kernel, by decide +kernel, by decide +kernel,
    by decide +kernel, by decide +kernel, by decide +kernel⟩

theorem test_note : (let e := entry0 10 []
    let s := sQueue e [] []
    CanStart s 0 0 ⟨3, e⟩ ∧ flagsOk e = true ∧ restZero e [(0, 16)] = true ∧ CqOpen s 0 0 0x1000 ∧
    gives (.note 0 0) s (fun t => Mem.byte t.hostMem 0x1003 == 10 && regF t (oPSTAT 0) 63 32 == 1) = true) :=
  ⟨canStart_of rfl (by decide +kernel), by decide +kernel, by decide +kernel, by unfold CqOpen; decide +kernel, by decide +kernel⟩

/-- Line 0 is wholly present at slice 5 of stack 0; PINWAYS of the stack is w. -/
def whole (pinned : Bool) : Slice := { Slice.reset with
  lines := [(0, ⟨0, pinned, (List.range 8).map (fun i => (i, ⟨BitVec.ofNat 256 (2 ^ 256 - 1), false, [(0, 7)], []⟩)), 0⟩)] }
def ePin (op : Nat) : List Byte := entry0 op [(24, 8, 2048)]
def sPin (op w : Nat) (pinned : Bool) : State :=
  { sQueue (ePin op) [] [(0x18_0008, 1), (oSHFCFG 0, BitVec.ofNat 64 (w * 2 ^ 8 + 1))] with shelf := [(0, [(5, whole pinned)])] }

theorem whole_line (op w : Nat) (h : op = 8 ∨ op = 9) (h' : w = 0 ∨ w = 2) (pinned : Bool) : WholeLine (sPin op w pinned) 0 0 5 0 := by
  have k : ∀ j, (sliceOf (sPin op w pinned) 0 j).retiring = false := by
    intro j
    by_cases hj : 5 = j
    · subst hj; rcases h with rfl | rfl <;> rcases h' with rfl | rfl <;> cases pinned <;> decide +kernel
    · simp [sPin, sliceOf, SMap.get, hj, Slice.reset]
  refine ⟨?_, ?_, ?_, ?_, ?_, ?_, k, ?_, fun i => rfl, ?_⟩
  all_goals (rcases h with rfl | rfl <;> rcases h' with rfl | rfl <;> cases pinned <;> decide +kernel)

theorem test_pin : (∀ op ∈ [8, 9], ∀ w ∈ [0, 2], CanStart (sPin op w false) 0 0 ⟨3, ePin op⟩ ∧ CqOpen (sPin op w false) 0 0 0x1000 ∧ WholeLine (sPin op w false) 0 0 5 0 ∧
      pinEntryOk (sPin op w false) 0 (ePin op) = true ∧ eNat (ePin op) 24 8 = 2048 ∧ eNat (ePin op) 16 6 = 0 ∧ eOp (ePin op) = op ∧
      (lineAt (sliceOf (sPin op w false) 0 5) 0).pinned = false ∧ pinnedIn (sliceOf (sPin op w false) 0 5) (lineSet 0) = 0 ∧
      regF (sPin op w false) (oSHFCFG 0) 11 8 = w) := by
  intro op ho w hw
  refine ⟨canStart_of rfl ?_, ?_, whole_line op w (by simpa using ho) (by simpa using hw) false, ?_⟩
  all_goals try unfold CqOpen
  all_goals (revert op w; decide +kernel)

theorem test_pin_result :
    gives (.pin 0 0) (sPin 8 0 false) (fun t => !(lineAt (sliceOf t 0 5) 0).pinned && Mem.byte t.hostMem 0x1008 == 1 && regF t (oSHFEVT 0) 31 16 == 1) = true ∧
    gives (.unpin 0 0) (sPin 9 2 true) (fun t => !(lineAt (sliceOf t 0 5) 0).pinned && Mem.byte t.hostMem 0x1003 == 9) = true := by decide +kernel

/-! ### Attention batches -/

/-- A header without sequences (Table 5.8); on a ring of two devices, here the second. -/
def header (ring bad : Bool) : List Byte := bytesOf 64 ((if ring then [(7, 1, 2), (36, 1, 1), (37, 1, 1)] else []) ++ (if bad then [(23, 1, 1)] else []))
def eBatch : List Byte := entry0 3 [(16, 6, 0x8000_0000_2000)]
def sBatch (ring bad : Bool) : State := sQueue eBatch (memAt 0x2000 (header ring bad)) []

theorem test_attnBatch : ∀ r ∈ [true, false], ∀ b ∈ [true, false], CanStart (sBatch r b) 0 0 ⟨3, eBatch⟩ ∧ CqOpen (sBatch r b) 0 0 0x1000 ∧
    batchEntryOk (sBatch r b) 0 eBatch = true ∧ batchWaits (sBatch r b) ⟨3, eBatch⟩ = false ∧ HostRange (sBatch r b) (some 0) 0x8000_0000_2000 64 0x2000 ∧
    hdrOk (Mem.read (sBatch r b).hostMem 0x2000 64) = !b ∧ eNat (Mem.read (sBatch r b).hostMem 0x2000 64) 12 4 = 0 ∧
    hRing (Mem.read (sBatch r b).hostMem 0x2000 64) = r := by
  intro r hr b hb
  refine ⟨canStart_of rfl ?_, ?_, ?_, ?_, ?_, ?_⟩
  all_goals try unfold CqOpen
  all_goals try unfold HostRange
  all_goals (revert r b; decide +kernel)

theorem test_attnBatch_result :
    gives (.attnBatch 0 0) (sBatch false true) (fun t => Mem.byte t.hostMem 0x1004 == 10 && Mem.byte t.hostMem 0x100B == 0x40) = true ∧
    gives (.attnBatch 0 0) (sBatch true false) (fun t => (partOf t 0).cmds.map (·.ring) == [some 0] && (ringOf (tileOf t 0) 7).size == 4096) = true ∧
    gives (.attnBatch 0 0) (sBatch false false) (fun t => Mem.byte t.hostMem 0x1003 == 3 && Mem.byte t.hostMem 0x1004 == 0) = true := by decide +kernel

/-- A batch on a ring of two devices at step r. -/
def cRing (r : Nat) : Cmd := { cmd0 eBatch with ring := some r, args := header true false }
def sRingCmd (r : Nat) : State := sPart { Part.reset with cmds := [cRing r] }

theorem test_ringStepEnd : cmdOf (sRingCmd 0) 0 6 = some (cRing 0) ∧ 0 + 1 < hDevs (cRing 0).args ∧ eNat (cRing 0).args 12 4 = 0 ∧
    ebbing (sRingCmd 0) = false ∧ ebbing (sRingCmd 1) = false ∧ gives (.ringStepEnd 0 6) { sRingCmd 0 with power := { State.reset.power with ebb := 1 } }
      (fun t => (cmdOf t 0 6).any (fun c => c.ring == some 0)) = true ∧
    gives (.ringStepEnd 0 6) (sRingCmd 0) (fun t => (cmdOf t 0 6).any (fun c => c.ring == some 1)) = true ∧
    cmdOf (sRingCmd 1) 0 6 = some (cRing 1) ∧ hDevs (cRing 1).args ≤ 1 + 1 ∧ eNat (cRing 1).args 12 4 = 0 ∧ InFlight (sRingCmd 1) 0 (cRing 1) ∧
    CqOpen (sRingCmd 1) 0 0 0x1000 ∧ gives (.ringStepEnd 0 6) (sRingCmd 1) (fun t => Mem.byte t.hostMem 0x1004 == 0 && (partOf t 0).cmds == []) = true ∧
    gives (.blockAbandon 0 6) (sRingCmd 1) (fun t => Mem.byte t.hostMem 0x1004 == 10 && Mem.byte t.hostMem 0x100B == 0x60 && t.surf.notices == [(0, 0)]) = true :=
  ⟨by decide +kernel, by decide +kernel, by decide +kernel, by decide +kernel, by decide +kernel, by decide +kernel, by decide +kernel,
    by decide +kernel, by decide +kernel, by decide +kernel, inFlight_of rfl (by decide +kernel),
    by unfold CqOpen; decide +kernel, by decide +kernel, by decide +kernel⟩

/-! ### Power -/

/-- PWR_STAT with every rail good, in a state, at a Flood and an Ebb step, with header switches closed. -/
def sPwr (st flood ebb : Nat) (hs : List ((PowerDomain × Supply) × BitVec 4)) (regs : List (Nat × DWord)) : State := { State.reset with
  bar0 := (oPWRSTAT, BitVec.ofNat 64 (0x3F00 + st)) :: regs, power := ⟨true, flood, ebb, 15, hs, [], 0, []⟩ }

theorem test_powerGood : State.reset.power.aon = true ∧ State.reset.power.ebb = 0 ∧ pwrState State.reset ≤ 1 ∧ floodRail State.reset.power.flood = some 1 ∧
    gives (.powerGood 1) State.reset (fun t => railOk t 1 && t.power.flood == 3 && pwrState t == 1 && t.power.enabled == 3) = true ∧
    gives (.powerGood 0) State.reset (fun t => !railOk t 0) = true ∧ gives (.powerGood 4) State.reset (fun t => railOk t 4) = true := by decide +kernel

theorem test_floodTimeout : State.reset.head.running = true ∧ 2 ≤ State.reset.power.flood ∧ State.reset.power.flood ≤ 7 ∧ State.reset.power.cells.length < 8 ∧
    gives .floodTimeout State.reset (fun t => t.head.failed && pwrState t == 5 && regF t (oSREP 0) 63 48 == 2 &&
      t.power.cells.map (fun c => (c.cause, c.src)) == [(6, 1)]) = true := by decide +kernel

theorem test_railFail : railOk (sPwr 2 8 0 [] []) 3 = true ∧
    gives (.railFail 3 true) (sPwr 2 8 0 [] []) (fun t => !railOk t 0 && railOk t 4 && pwrState t == 5 && t.power.cells.map (fun c => (c.cause, c.src)) == [(4, 3)]) = true ∧
    gives (.railFail 5 true) (sPwr 2 8 0 [] []) (fun t => !railOk t 0 && pwrState t == 5 && t.power.enabled == 0 && t.power.cells.map (fun c => (c.cause, c.src)) == [(3, 5)]) = true ∧
    gives (.railFail 4 true) (sPwr 2 8 0 [] []) (fun t => pwrState t == 2) = true := by decide +kernel

theorem test_ebbStep : (∀ e ∈ [(1, 2, 0), (2, 3, 2), (3, 0, 3), (4, 1, 2)], pwrState (sPwr 3 8 e.1 [] []) = 3 ∧ (sPwr 3 8 e.1 [] []).power.ebb = e.1 ∧
      railOk (sPwr 3 8 e.1 [] []) e.2.1 = true ∧
      gives .ebbStep (sPwr 3 8 e.1 [] []) (fun t => !railOk t e.2.1 && t.power.ebb == e.1 + 1 && (e.1 == 4 || railOk t 1)) = true) ∧
    (∃ e ∈ (sPwr 3 8 1 [((.tile 0 0 0, .logic), 1)] []).power.headers, isTile e.1.1 = true ∨ isSlice e.1.1 = true) ∧
    gives .ebbStep (sPwr 3 8 1 [((.tile 0 0 0, .logic), 1)] []) (fun t => t.power.ebb == 1 && railOk t 2) = true ∧
    gives .ebbStep (sPwr 3 8 1 [((.port 3, .links), 15), ((.port 3, .logic), 15)] []) (fun t => t.power.headers == [((.port 3, .logic), 15)] && t.power.enabled == 11) = true := by decide +kernel

theorem test_headerSwitchGroup : domainFitted State.reset.asm (.slice 0 5) = true ∧ domainFitted State.reset.asm (.tile 0 3 16) = true ∧
    supplyOk (.slice 0 5) .arrays = true ∧ supplyOk (.slice 0 5) .links = false ∧ slicesOn (sPwr 1 7 0 [] []) = false ∧
    gives (.headerSwitchGroup ((.slice 0 5), .arrays) true) (sPwr 1 7 0 [((.slice 0 5, .arrays), 1)] []) (fun t => groupsOf t (.slice 0 5) .arrays == 3 && groupsOf t (.slice 0 5) .logic == 0 && pwrState t == 1) = true ∧
    gives (.headerSwitchGroup ((.tile 0 3 16), .logic) true) (sPwr 1 7 0 [] []) (fun t => t.power.headers == []) = true ∧
    gives (.headerSwitchGroup ((.slice 0 5), .logic) false) (sPwr 2 8 0 [((.slice 0 5, .logic), 15)] []) (fun t => groupsOf t (.slice 0 5) .logic == 7) = true ∧
    gives (.headerSwitchGroup ((.slice 0 5), .logic) false) (sPwr 3 8 1 [((.tile 0 0 0, .logic), 1), ((.slice 0 5, .logic), 15)] []) (fun t => groupsOf t (.slice 0 5) .logic == 15) = true := by
  decide +kernel

theorem test_vddAon : State.reset.power.aon = true ∧ gives .vddAonFall (sPwr 2 8 0 [] []) (fun t => !t.power.aon && t.bar0 == [] &&
      t.power.cells.map (fun c => (c.cause, c.src)) == [(3, 4)]) = true ∧
    (let s := { State.reset with power := ⟨false, 2, 0, 0, [], [], 0, []⟩ }
     s.power.aon = false ∧ gives (.vddAonRise false true) s (fun t => t.power.aon && !t.pins.stagedN && t.head.running && stageNow t == 0) = true) := by
  decide +kernel

/-- Above the current limit of CREST, far below every limit, and between. -/
theorem test_powerLoop : pwrState (sPwr 2 8 0 [] []) = 2 ∧
    above 2401 (regF (sPwr 2 8 0 [] []) (oRAIL 0) 63 52) (40, 40) = true ∧ below95 2350 (regF (sPwr 2 8 0 [] []) (oRAIL 0) 63 52) (40, 40) = false ∧
    gives (.powerLoop ⟨[], []⟩ [2401]) (sPwr 2 8 0 [] []) (fun t => powerDuty t == 1 && regF t oPWREVT 39 8 == 1 && regF t (oRAIL 0) 23 12 == 2401) = true ∧
    gives (.powerLoop ⟨[], []⟩ []) (sPwr (2 + 2 ^ 28) 8 0 [] []) (fun t => powerDuty t == 0) = true ∧
    gives (.powerLoop ⟨[700], []⟩ [2350]) (sPwr (2 + 2 ^ 28) 8 0 [] []) (fun t => powerDuty t == 1) = true ∧
    (let s := { sPwr 2 8 0 [] [] with power := { (sPwr 2 8 0 [] []).power with pmRails := 1 } }
     gives (.powerLoop ⟨[], [60000]⟩ [2000]) s (fun t => powerDuty t == 1) = true ∧ gives (.powerLoop ⟨[60000], []⟩ [2000]) s (fun t => powerDuty t == 0) = true) := by
  decide +kernel

theorem test_brownout : railOk (sPwr 2 8 0 [] []) 0 = true ∧
    gives (.brownout 0) (sPwr 2 8 0 [] []) (fun t => regF t oPWREVT 63 48 == 1 && regB t oPWRSTAT 24 && !t.pins.alertN && t.irqs == [(0, 2)]) = true ∧
    gives .brownoutEnd (sPwr (2 + 2 ^ 24) 8 0 [] []) (fun t => !regB t oPWRSTAT 24) = true := by decide +kernel

/-- SRAM, of four phases, carries 40 A evenly; no other rail carries anything. -/
theorem test_phaseScan : (let s := sPwr 2 8 0 [] []
    let amps := [[], [], [], [10, 10, 10, 10]]
    pwrState s = 2 ∧ s.head.inReset = false ∧ (∀ j < 4, j ≠ 3 → evaluated s j (amps.getD j []) = false) ∧ evaluated s 3 (amps.getD 3 []) = true ∧
    gives (.phaseScan amps []) s (fun t => reg t (oPHFAIL 3) == 0 && t.irqs == []) = true ∧
    gives (.phaseScan amps [0, 0, 0, 2]) s (fun t => reg t (oPHFAIL 3) == 2 && regF t (oRAIL 3) 43 40 == 1 && t.irqs == [(0, 2)] && pwrState t == 2) = true ∧
    gives (.phaseScan amps [0, 0, 0, 7]) s (fun t => pwrState t == 3 && t.power.ebb == 1) = true) := by decide +kernel

/-! ### Heat -/

theorem test_thermalSample : dieSensors State.reset.asm 96 = some (288, 4) ∧ (∀ i < 4, sensorBroken State.reset (288 + i) = false ∧ calOf State.reset (288 + i) = 0) ∧
    gives (.thermalSample 96 [some 100, some 400, some 459, some 0]) State.reset (fun t => tempOf t 289 == 400 && termOf t 289 == 1 && termOf t 288 == 0 && t.irqs == []) = true ∧
    gives (.thermalSample 96 [some 100, some 460, some 0, some 0]) State.reset (fun t => !t.pins.thermtripN && t.power.ebb == 1 && t.irqs == [(0, 3)]) = true ∧
    gives (.thermalSample 96 [none, none, none, none]) State.reset (fun t => t.heat.suspect == [288, 289, 290, 291]) = true ∧
    gives (.thermalSample 96 [some 100, some 460, some 0, some 0]) (sPwr 3 8 2 [] []) (fun t => !t.pins.thermtripN && t.power.ebb == 2 && pwrState t == 3 &&
      t.power.cells.map (fun c => (c.cause, c.src)) == [(1, 289)]) = true := by decide +kernel

theorem test_sensorResample : (let s := { State.reset with heat := ⟨[], [5]⟩ }
    5 ∈ s.heat.suspect ∧ calOf s 5 = 0 ∧ gives (.sensorResample 5 (some (-8))) s (fun t => tempOf t 5 == -8 && t.heat.suspect == []) = true ∧
    gives (.sensorResample 5 none) s (fun t => sensorBroken t 5 && tempOf t 5 == 460 && t.power.ebb == 1) = true ∧
    gives (.sensorResample 6 none) s (fun t => !sensorBroken t 6) = true) := by decide +kernel

def sRestricted (over_ : Bool) : State := { sT [(oTHMSTAT, 0x8000000000000000), (oTHMREC, 0x8100000000000000), (oHLMSTAT, 0xF002_0000)] id with
  head := { State.reset.head with inReset := over_ } }

theorem test_thmClear : canWrite (sRestricted false) 0 0x40_0018 = true ∧ regB (sRestricted false) oTHMSTAT 63 = true ∧ flashWindow (sRestricted false) = true ∧
    gives (.thmClear 0) (sRestricted false) (fun t => !regB t oTHMREC 63 && !regB t oTHMSTAT 63) = true ∧
    canWrite (sRestricted true) 0 0x40_0018 = true ∧ gives (.thmClear 0) (sRestricted true) (fun t => regB t oTHMSTAT 63 && t.head.clearDue) = true := by
  decide +kernel

/-! ### Integrity -/

theorem test_bucketLeak : gives .bucketLeak (sT [(oLB 0, 0x2_0001)] id) (fun t => regF t (oLB 0) 15 0 == 0 && regF t (oLB 0) 63 16 == 2) = true := by decide +kernel

/-- Range 0 of the engine of controller 0: 8 granules from granule 0, cursor 7, two a slice; granule 7 and granule 0 follow. -/
def sScrubbing : State := { sT [(oSCRA 32 0, 0x8000000000000000), (oSCRB 32 0, BitVec.ofNat 64 (8 * 2 ^ 40 + 7 * 2 ^ 16 + 2))] id with
  ras := { State.reset.ras with scrubs := [(32, 0)] } }

theorem test_scrubSliceEnd : sScrubbing.ras.scrubs.find? (fun x => x.1 == 32) = some (32, 0) ∧ regF sScrubbing (oSCRB 32 0) 63 40 = 8 ∧
    (∀ i, (ctrlOf sScrubbing i).queue = []) ∧ sScrubbing.fills = [] ∧
    (∀ i < 2, CleanGran sScrubbing (regF sScrubbing (oSCRA 32 0) 39 0 + (7 + i) % 8)) ∧
    gives (.scrubSliceEnd 32 5) sScrubbing (fun t => regF t (oSCRB 32 0) 39 16 == 1 && t.ras.scrubs == []) = true :=
  ⟨by decide +kernel, by decide +kernel, fun _ => rfl, rfl, by unfold CleanGran; decide +kernel, by decide +kernel⟩

/-- A BIST slice runs; the array of element 0 of stack 0 has an owner. -/
def sBist (b : BistRun) (o : Owner) : State := { State.reset with
  ras := { State.reset.ras with bists := [b] }, tiles := [(0, { tile0 with arrays := [(0, { ArrayUnit.reset with owner := some o })] })] }

theorem test_bist_waits : (let b : BistRun := ⟨0, 1, 0, true, []⟩
    let s := sBist b (.group 1)
    s.ras.bists.find? (fun x => x.unit == 0) = some b ∧ b.waits = true ∧ elemBusy s 0 1 0 = true ∧
    gives (.bistSliceEnd 0 .pass) s (fun t => t.ras.bists == [b]) = true ∧
    gives (.bistWaitTimeout 0) s (fun t => t.ras.bists == [] && regF t oBISTSTAT 15 0 == 1) = true) := by decide +kernel

/-- The element of unit 16 is free: the slice that waited begins. A kind 5 failure marks its rail. -/
theorem test_bist_begins : (let b : BistRun := ⟨16, 4, 7, true, []⟩
    let s := sBist b (.group 1)
    s.ras.bists.find? (fun x => x.unit == 16) = some b ∧ elemBusy s 16 4 7 = false ∧
    gives (.bistWaitTimeout 16) s (fun t => t.ras.bists == [{ b with waits := false }]) = true ∧
    gives (.bistSliceEnd 101 (.fail 9)) (sBist ⟨101, 5, 2, false, []⟩ (.group 1)) (fun t => t.power.pmRails == 4) = true) := by decide +kernel

theorem test_bistSliceEnd :
    (let s := sBist ⟨16, 4, 7, false, []⟩ (.group 1)
     s.ras.bists.find? (fun x => x.unit == 16) = some ⟨16, 4, 7, false, []⟩ ∧
      gives (.bistSliceEnd 16 .pass) s (fun t => t.ras.bists == [] && t.ras.cursors == [] && regF t oBISTSTAT 63 48 == 1) = true ∧
      gives (.bistSliceEnd 16 .over) s (fun t => t.ras.cursors == [] && regF t oBISTSTAT 31 16 == 1) = true) ∧
    (let s := sBist ⟨101, 5, 0, false, []⟩ (.group 1)
     s.ras.bists.find? (fun x => x.unit == 101) = some ⟨101, 5, 0, false, []⟩ ∧ regB s oBISTLOG 63 = false ∧
      gives (.bistSliceEnd 101 (.fail 9)) s (fun t => regF t oBISTLOG 62 56 == 101 && regF t oBISTLOG 31 0 == 9 && t.irqs == [(0, 5)]) = true) ∧
    (let s := sBist ⟨0, 1, 0, false, []⟩ .bist
     s.ras.bists.find? (fun x => x.unit == 0) = some ⟨0, 1, 0, false, []⟩ ∧ tileAtPhys s 0 0 = some 0 ∧ (arr s 0 0).owner = some .bist ∧
      gives (.bistSliceEnd 0 .pass) s (fun t => (arr t 0 0).owner == none && t.ras.cursors == [(1, 1)]) = true) := by decide +kernel

theorem test_journalWrite : State.reset.head.inReset = false ∧ flashWindow State.reset = true ∧
    gives .journalWrite { State.reset with ras := { State.reset.ras with overlay := [5] } } (fun t => t.head.flash.journal == [⟨0, .overlay 5, true⟩] && journalOverlay t.head.flash == [5]) = true ∧
    (let s := { sT [(oSENS 288, 341)] id with ras := { State.reset.ras with overlay := [5] } }
     flashWindow s = false ∧ s.power.aon = true ∧ journalWaits s = true ∧ gives .journalWrite s (fun t => t.head.flash.journal == [] && regF t oTHMEVT 63 48 == 1) = true) := by
  decide +kernel

/-! ### Bring-up -/

/-- Stage k runs: its rails are up and TG_CFG is written; more bits of HLM_STAT. -/
def sStage (k more : Nat) : State := { State.reset with
  bar0 := [(oTGSTAT, 0x200), (oPWRSTAT, 0x3F02), (oHLMSTAT, BitVec.ofNat 64 (k * 2 ^ 28 + more))].filter (fun e => e.2 != 0), power := ⟨true, 8, 0, 15, [], [], 0, []⟩,
  head := { State.reset.head with tgSeen := true } }

def found (ms : Nat) (pll : Option Nat) : StageFindings := ⟨ms, pll, [], [], [], [], [], [], true, [], []⟩

theorem test_stageComplete : stageReady (sStage 1 0) = true ∧ stageLimit (stageNow (sStage 1 0)) = 20 ∧ stageNow (sStage 1 0) = 1 ∧
    regB (sStage 1 (2 ^ 23)) oHLMSTAT 23 = true ∧ stageReady (sStage 1 (2 ^ 23)) = true ∧ stageReady State.reset = false ∧
    gives (.stageComplete (found 21 none)) (sStage 1 0) (fun t => t.head.failed && regF t (oSREP 0) 63 48 == 1 && pwrState t == 3) = true ∧
    gives (.stageComplete (found 20 (some 7))) (sStage 1 0) (fun t => t.head.failed && regF t (oSREP 0) 63 48 == 0x704) = true ∧
    gives (.stageComplete (found 20 none)) (sStage 1 0) (fun t => stageNow t == 2 && regF t (oSREP 0) 15 0 == 1 && t.irqs == [(0, 7)]) = true ∧
    gives (.stageComplete (found 20 none)) (sStage 1 (2 ^ 23)) (fun t => stageNow t == 1 && t.head.waiting) = true := by decide +kernel

theorem test_stageComplete_more : (let s := sStage 0 0
    stageReady s = true ∧ stageNow s = 0 ∧ bankChoice s.head.flash = some (0, false) ∧ slotChoice s.head.flash = some (0, false) ∧ s.head.devOut = false ∧
      s.pins.haltInN = true ∧ regB s oHLMSTAT 23 = false ∧ s.power.cells = [] ∧ (slotRecord s.head.flash 0).regs = [] ∧
      (slotRecord s.head.flash 0).parts = [] ∧ (slotRecord s.head.flash 0).pcfg = []) ∧
    (stageReady (sStage 2 0) = true ∧ stageNow (sStage 2 0) = 2) ∧
    stageReady (sStage 4 0) = true ∧ stageNow (sStage 4 0) = 4 ∧ partOf (sStage 4 0) 8 = Part.reset := by decide +kernel

/-- HALT_IN_N low at the end of stage 0 holds bring-up; the report of stage 4 waits in staged bring-up too. -/
theorem test_stageComplete_waits :
    gives (.stageComplete { found 5 none with haltInN := false }) (sStage 0 0) (fun t => t.head.waiting && regB t oHLMSTAT 21 && stageNow t == 0 && !t.pins.haltInN) = true ∧
    (stageReady (sStage 4 (2 ^ 23)) = true ∧ stageNow (sStage 4 (2 ^ 23)) = 4 ∧ regB (sStage 4 (2 ^ 23)) oHLMSTAT 23 = true) ∧
    (let s := { sStage 4 (2 ^ 23 + 2 ^ 22) with head := { State.reset.head with waiting := true } }
     canWrite s 0 0x3F0_0008 = true ∧ gives (.continueCmd 0) s (fun t => stageNow t == 15 && !t.head.waiting) = true) := by decide +kernel

theorem test_stageTimeout : (let s := sStage 3 0
    s.head.running = true ∧ s.head.waiting = false ∧ s.head.held = false ∧ stageNow s ≤ 4 ∧
    gives (.stageTimeout 1001) s (fun t => t.head.failed) = true ∧ gives (.stageTimeout 1000) s (fun t => !t.head.failed) = true) := by decide +kernel

/-- The report of stage 1 waits. -/
def sWaits (more : Nat) : State := { sStage 1 more with head := { State.reset.head with waiting := true, tgSeen := true } }

theorem test_continue : (sWaits (2 ^ 23 + 2 ^ 22)).head.waiting = true ∧ stageNow (sWaits (2 ^ 23 + 2 ^ 22)) = 1 ∧ canWrite (sWaits (2 ^ 23 + 2 ^ 22)) 0 0x3F0_0008 = true ∧
    regB (sWaits (2 ^ 23 + 2 ^ 22)) oHLMSTAT 21 = false ∧
    gives (.continueCmd 0) (sWaits (2 ^ 23 + 2 ^ 22)) (fun t => stageNow t == 2 && !t.head.waiting) = true ∧
    regB (sWaits (2 ^ 21)) oHLMSTAT 23 = false ∧
    gives .haltInNRise { sWaits (2 ^ 21) with pins := { State.reset.pins with haltInN := false } } (fun t => stageNow t == 2 && t.pins.haltInN) = true ∧
    gives .haltInNRise State.reset (fun t => stageNow t == 0) = true := by decide +kernel

theorem test_headlandReset : canWrite sUp 0 0x3F0_0008 = true ∧ gives (.hlmrst 0) sUp (fun t => t.head.inReset && regB t oHLMSTAT 20) = true ∧
    gives (.hlmrst 1) sUp (fun t => !t.head.inReset) = true ∧ gives .headlandWatchdog sUp (fun t => t.head.inReset) = true := by decide +kernel

/-- Headland is in reset and the keeper runs. -/
def sKeeper : State := { sT [(oHLMSTAT, 0xF012_0000)] id with head := { State.reset.head with inReset := true } }

theorem test_keeper : sKeeper.head.inReset = true ∧ regB sKeeper oHLMSTAT 20 = true ∧ sKeeper.power.ebb = 0 ∧ sKeeper.power.cells.length < 8 ∧
    gives .keepok sKeeper (fun t => !t.head.inReset && !regB t oHLMSTAT 20) = true ∧
    gives .keeperExpiry sKeeper (fun t => t.power.ebb == 1 && t.power.cells.map (·.cause) == [7]) = true := by decide +kernel

/-- A clear of the shutdown record waits for Headland's return. -/
theorem test_keepok_clear : (let s := { sRestricted true with head := { State.reset.head with inReset := true, clearDue := true } }
    let s' := setReg s (oSENS 288) 341
    flashWindow s = true ∧ gives .keepok s (fun t => !regB t oTHMSTAT 63 && !t.head.clearDue) = true ∧
    flashWindow s' = false ∧ gives .keepok s' (fun t => regB t oTHMSTAT 63 && !t.head.clearDue && regF t oTHMEVT 63 48 == 1) = true) := by decide +kernel

theorem test_deviceReset : deviceResettable (noEsc sUp) = true ∧ NoEscalation (noEsc sUp) ∧ canWrite (noEsc sUp) 0 0x3F0_0008 = true ∧
    deviceResettable (sPwr 3 8 1 [] []) = false ∧ gives .pfFlr (sPwr 3 8 1 [] []) (fun t => pwrState t == 3) = true ∧
    gives .perstN (sPwr 3 8 1 [] []) (fun t => !t.pins.perstN && pwrState t == 3) = true ∧
    gives .perstNRise { State.reset with pins := { State.reset.pins with portOn := true } } (fun t => t.pins.linkTrain) = true := by
  unfold NoEscalation; decide +kernel

/-! ### The mailbox -/

def requests : List Instr := [.readFlash 0 1, .writeInactiveFirmwareBank 0 [1], .writeInactiveRecordSlot 0 [1], .makePreferred 0 0, .retireTile 0 0,
  .broadcastTileFirmware ⟨0, []⟩, .readEventLog 0]

theorem test_mailbox : mailUp State.reset = false ∧ MailReady sUp ∧
    (mailUp sKeeper = true ∧ regB sKeeper oHLMMBDB 62 = false ∧ sKeeper.head.inReset = true) ∧
    ∀ c ∈ requests, gives c State.reset (fun t => t.irqs == []) = true ∧
      gives c sKeeper (fun t => regF t oHLMMBDB 55 48 == 4 && t.irqs == [(0, 7)]) = true := by unfold MailReady; decide +kernel

theorem test_readFlash : gives (.readFlash 0 4001) sUp (fun t => regF t oHLMMBDB 55 48 == 1) = true ∧
    gives (.readFlash 0x1_0000 2) { sUp with head := { sUp.head with flash := { Flash.reset with bankRaw := ([(0, 5), (1, 6)], []) } } }
      (fun t => regF t (oMBOX 0) 15 0 == 0x605 && regF t oHLMMBDB 55 48 == 0) = true := by decide +kernel

theorem test_flashWrites : flashWindow sUp = true ∧ sUp.head.bank = 0 ∧ sUp.head.slot = 0 ∧ MailReady (sT [(oSENS 288, 341), (oHLMSTAT, 0xF002_0000)] id) ∧
    flashWindow (sT [(oSENS 288, 341), (oHLMSTAT, 0xF002_0000)] id) = false ∧
    gives (.writeInactiveFirmwareBank 5 [1, 0]) sUp (fun t => t.head.flash.bankRaw == ([], [(5, 1), (6, 0)]) && regF t oHLMMBDB 55 48 == 0) = true ∧
    gives (.writeInactiveFirmwareBank 5 [1]) (sT [(oSENS 288, 341), (oHLMSTAT, 0xF002_0000)] id) (fun t => regF t oHLMMBDB 55 48 == 3 && regF t oTHMEVT 63 48 == 1) = true ∧
    gives (.writeInactiveRecordSlot 5 [1]) { sUp with head := { sUp.head with slot := 1 } } (fun t => t.head.flash.slotRaw == ([(5, 1)], [])) = true := by
  unfold MailReady; decide +kernel

theorem test_makePreferred : (let f := { Flash.reset with banks := ((true, 3), (true, 4)) }
    let s := { sUp with head := { sUp.head with flash := f } }
    bankValid f 1 = true ∧ (slotRecord f 0).valid = true ∧ (slotRecord f 1).valid = false ∧ flashWindow s = true ∧ MailReady s ∧
    gives (.makePreferred 1 0) s (fun t => bootHeader t.head.flash == ⟨true, 1, 1, 0⟩) = true ∧
    gives (.makePreferred 0 1) s (fun t => regF t oHLMMBDB 55 48 == 2) = true) := by unfold MailReady; decide +kernel

theorem test_retireTile : stackOf State.reset.asm (3 * 64 + 5) = 0 ∧ partOfStack (sState 2 Part.reset) 0 = some 0 ∧ pState (sState 2 Part.reset) 0 = 2 ∧
    MailReady (sState 2 Part.reset) ∧ partOfStack (sState 1 Part.reset) 0 = some 0 ∧ MailReady (sState 1 Part.reset) ∧ pState (sState 1 Part.reset) 0 = 1 ∧
    genBusy (sState 1 Part.reset) (.part 0) = false ∧ hiddenCol (sState 1 Part.reset) 0 = 16 ∧ hiddenFuse (sState 1 Part.reset) 0 = none ∧
    gives (.retireTile 5 3) (sState 2 Part.reset) (fun t => regF t oHLMMBDB 55 48 == 5 && hiddenCol t 0 == 16) = true := by
  unfold MailReady; decide +kernel

theorem test_broadcast : (let ts := rectTiles 1 0 2 0
    ts = [1, 2] ∧ (∀ t ∈ ts, tileFitted sUp.asm t = true ∧ tileDrained sUp t = true) ∧
    gives (.broadcastTileFirmware ⟨0x0002_0001, []⟩) sUp (fun t => (tileOf t 1).fwBusy && (tileOf t 2).fwBusy && !(tileOf t 0).fwBusy && regB t oHLMMBDB 62) = true ∧
    (let s := { sUp with tiles := [(2, { tile0 with groups := [(0, g0)] })] }
     tileDrained s 2 = false ∧ MailReady s ∧ gives (.broadcastTileFirmware ⟨0x0002_0001, []⟩) s (fun t => regF t oHLMMBDB 55 48 == 5) = true)) := by
  unfold MailReady; decide +kernel

/-- Four checks of the tile's firmware fail; three do not matter. -/
theorem test_broadcast_bad : rectTiles 1 0 1 0 = [1] ∧ isOut sUp (.tile 1) = false ∧ tileDrained sUp 1 = true ∧
    gives (.broadcastTileFirmware ⟨0x0001_0001, [(1, 4)]⟩) sUp (fun t => t.head.out.any (fun e => e == (.tile 1, 3)) && !(tileOf t 1).fwBusy) = true ∧
    gives (.broadcastTileFirmware ⟨0x0001_0001, [(1, 3)]⟩) sUp (fun t => t.head.out == [] && (tileOf t 1).fwBusy) = true := by decide +kernel

theorem test_readEventLog : (let s := { sUp with head := { sUp.head with flash := { Flash.reset with log := [9] } } }
    gives (.readEventLog 0) s (fun t => regF t oHLMMBDB 55 48 == 0 && reg t (oMBOX 1) == 9) = true ∧
    gives (.readEventLog 1) s (fun t => regF t oHLMMBDB 55 48 == 1) = true) := by decide +kernel

theorem test_unitPoll : (let s (n : Nat) := { sUp with head := { sUp.head with polls := [(.tile 3, n)] } }
    regB (s 6) oHLMSTAT 17 = true ∧ domainHere (s 6) (.tile 3) = true ∧ isOut (s 6) (.tile 3) = false ∧ pollCount (s 6) (.tile 3) = 6 ∧ pollCount (s 7) (.tile 3) = 7 ∧
    genBusy (s 7) (.tile 3) = false ∧
    gives (.unitPoll (.tile 3) true) (s 6) (fun t => pollCount t (.tile 3) == 0) = true ∧
    gives (.unitPoll (.tile 3) false) (s 6) (fun t => pollCount t (.tile 3) == 7) = true) := by decide +kernel

/-! ### Resets and replays -/

theorem sends_nil {s : State} (h : ∀ e ∈ s.tiles, e.2.sends = []) (t : Nat) : (tileOf s t).sends = [] := by
  simp only [tileOf]
  generalize s.tiles = l at h
  induction l with
  | nil => rfl
  | cons e l ih =>
    by_cases he : e.1 = t
    · simpa [SMap.get, he] using h e (by simp)
    · simpa [SMap.get, he] using ih (fun x hx => h x (by simp [hx]))

/-- Tile 0 has a group without a LAUNCH and a message register. -/
def sTile : State := { s0 with bar0 := [(oMSGSTAT 0, 9)] }

theorem test_tileReset : (∀ t, (tileOf sTile t).sends = []) ∧ tileFitted sTile.asm 0 = true ∧ genBusy sTile (.tile 0) = false ∧ launchesOn sTile 0 = [] ∧ sTile.upds = [] ∧
    sTile.txns = [] ∧
    gives (.tileReset 0) sTile (fun t => tileOf t 0 == Tile.reset && reg t (oMSGSTAT 0) == 0 && genOf t (.tile 0) == 1 && t.resetting == [.tile 0]) = true :=
  ⟨sends_nil (by decide), by decide +kernel, by decide +kernel, by decide +kernel, rfl, rfl, by decide +kernel⟩

theorem test_stackReset : (∀ t, (tileOf (sHome slFull []) t).sends = []) ∧ 0 < crests (sHome slFull []).asm ∧ genBusy (sHome slFull []) (.stack 0) = false ∧
    (∀ t ∈ tilesOfStack (sHome slFull []) 0, launchesOn (sHome slFull []) t = []) ∧ (sHome slFull []).fills = [] :=
  ⟨sends_nil (by decide), by decide +kernel, by decide +kernel, by decide +kernel, rfl⟩

theorem test_partitionReset : (∀ t, (tileOf (sState 2 Part.reset) t).sends = []) ∧ 0 < totalVFs (sState 2 Part.reset).asm ∧ pState (sState 2 Part.reset) 0 ≠ 6 ∧
    genBusy (noEsc (sState 2 Part.reset)) (.part 0) = false ∧ genBusy (sState 2 Part.reset) (.part 0) = false ∧ NoEscalation (noEsc (sState 2 Part.reset)) ∧
    pState (sState 6 Part.reset) 0 = 6 ∧ gives (.partitionReset 0) (sState 6 Part.reset) (fun t => t.resetting == []) = true ∧
    gives (.vfFlr 1) (sState 6 Part.reset) (fun t => t.resetting == []) = true :=
  ⟨sends_nil (by decide), by decide +kernel, by decide +kernel, by decide +kernel, by decide +kernel, by unfold NoEscalation; decide +kernel, by decide +kernel,
    by decide +kernel, by decide +kernel⟩

theorem test_ioDieReset : 1 < ioDies (noEsc sUp).asm ∧ genBusy (noEsc sUp) (.ioDie 1) = false ∧ NoEscalation (noEsc sUp) ∧
    ∀ t, (tileOf (noEsc sUp) t).sends = [] :=
  ⟨by decide +kernel, by decide +kernel, by unfold NoEscalation; decide +kernel, sends_nil (by decide)⟩

/-- Domains in reset. -/
def sResetting (d : ResetDomain) : State := { sHost Part.reset [] [] with resetting := [.ioDie 3, d] }

theorem test_domainResetDone :
    gives (.domainResetDone (.tile 0)) (sResetting (.tile 0)) (fun t => t.resetting == [.ioDie 3]) = true ∧
    gives (.domainResetDone (.tile 1)) (sResetting (.tile 0)) (fun t => t.resetting.length == 2) = true ∧
    gives (.domainResetDone (.ctrl 2)) (sResetting (.ctrl 2)) (fun t => regB t (oMEMSTAT 2) 2) = true ∧
    (pState (sResetting (.part 0)) 0 ≠ 6 ∧ (partOf (sResetting (.part 0)) 0).replay = none ∧ partValid (sResetting (.part 0)) 0 = true ∧
      gives (.domainResetDone (.part 0)) (sResetting (.part 0)) (fun t => pState t 0 == 1) = true) ∧ ∀ t, (tileOf (sResetting (.tile 0)) t).sends = [] :=
  ⟨by decide +kernel, by decide +kernel, by decide +kernel, by decide +kernel, sends_nil (by decide)⟩

/-- Partition 0 is FAULTED with contexts; the replay waits, or its first context has ended. -/
def replay0 (ctxs : List Cmd) (ended : Option Nat) : Replay := ⟨ctxs, [15], 0, ended.isSome, ended, 2, 0, 0⟩
def sFaulted (ctxs : List Cmd) (ended : Option Nat) : State :=
  let s := sState 4 { Part.reset with replay := some (replay0 ctxs ended), quarantine := ended.isSome }
  { s with head := { s.head with replays := [0] } }

theorem test_engineFaultReplay : (let l := [cmd0 (entry0 10 [])]
    let s := sFaulted l none
    (∀ t, (tileOf s t).sends = []) ∧ (partOf s 0).replay = some (replay0 l none) ∧ pState s 0 = 4 ∧ s.head.inReset = false ∧ genBusy s (.part 0) = false ∧
    bit (replay0 l none).report.toNat 63 = false ∧ (∀ c ∈ l, c.entry.length = 128 ∧ replayable c = false) ∧ s.power.aon = true ∧
    s.head.replays.head? = some 0 ∧ (∀ e ∈ s.parts, e.2.quarantine = false)) :=
  ⟨sends_nil (by decide), by decide +kernel⟩

theorem test_replayContextEnd : ∀ v ∈ [2, 0], (let l := [cmd0 (entry0 2 [])]
    let s := sFaulted l (some v)
    (∀ t, (tileOf s t).sends = []) ∧ (partOf s 0).replay = some (replay0 l (some v)) ∧ pState s 0 = 4 ∧ s.head.inReset = false ∧ genBusy s (.part 0) = false ∧
    (∀ c ∈ l, c.entry.length = 128) ∧ (replay0 l (some v)).running = true ∧ (replay0 l (some v)).ended = some v ∧ (replay0 l (some v)).place < l.length ∧
    ∀ i c, 0 < i → l[i]? = some c → replayable c = false) := by
  intro v hv
  refine ⟨sends_nil (fun e h => by cases h), ?_, ?_, ?_, ?_, ?_, ?_, ?_, ?_, ?_⟩
  case refine_9 => intro i c hi h; rw [List.getElem?_eq_none (Nat.succ_le_of_lt hi)] at h; cases h
  all_goals (revert v; decide +kernel)

/-- THRESH is 1: the first counted reset takes the instance out. -/
theorem test_escalation : (let s := setReg (sState 2 Part.reset) oESCCFG 0x0000_0003_8400_0001
    partValid s 0 = true ∧ canWrite s 0 (hstPage 0 + 0x18) = true ∧ pState s 0 = 2 ∧ (partOf s 0).cmds = [] ∧ (partOf s 0).quarantine = false ∧
    regB s oHLMSTAT 17 = true ∧ regF s oESCCFG 7 0 = 1 ∧ isOut s (.part 0) = false ∧ (∀ t, (tileOf s t).sends = []) ∧
    gives (.hang 0 0) s (fun t => pState t 0 == 6 && t.head.out == [(.part 0, 1)] && t.irqs == [(1, 48), (0, 8)]) = true) :=
  ⟨by decide +kernel, by decide +kernel, by decide +kernel, by decide +kernel, by decide +kernel, by decide +kernel, by decide +kernel, by decide +kernel,
    sends_nil (by decide), by decide +kernel⟩

/-- Premises that the tests above share: no slice of BIST or of a retrain holds their units; one that holds a pseudo-channel. -/
theorem test_units_free : bankInBist sWrite 1 = false ∧ bankInBist (sLaunch [0]) 0 = false ∧ bankInBist (sBar2 0x4000_0000_0000) 0 = false ∧
    pipeInBist (sBlock 0 2) 0 = false ∧ (∀ i < 2, granHeld sScrub (16 + i) = false) ∧ (∀ i < 8, granHeld sScrubbing i = false) ∧
    (let s := { State.reset with ctrls := [(0, { Ctrl.reset with adds := [⟨4, leBytes 64 7⟩], run := some ⟨1, 1, 2, true⟩ })] }
     granHeld s 1 = true ∧ gives (.addEntryTimeout 0 4) s (fun t => t.dram == [] && (ctrlOf t 0).adds.length == 1) = true) := by decide +kernel

/-! ### Registers and the queue -/

theorem test_registerWrite : (∃ d, regDesc sUp.asm oTHMEVT = some d) ∧ canWrite sUp 0 oTHMEVT = true ∧
    writeIgnored sUp oTHMEVT = false ∧ pageOf oTHMEVT = none ∧
    gives (.registerWrite 0 oTHMEVT 8 0x5) { sUp with bar0 := [(oTHMEVT, 9), (oHLMSTAT, 0xF002_0000)] } (fun t => reg t oTHMEVT == 5) = true ∧
    gives (.registerWrite 0 oTHMEVT 4 0x5) sUp (fun t => reg t oTHMEVT == 0) = true ∧
    gives (.registerWrite 0 oTHMCFG 8 0) sUp (fun t => reg t oTHMCFG == regReset sUp.asm oTHMCFG) = true ∧
    gives (.registerWrite 0 (oTMEMERR 0) 8 (2 ^ 63)) { sUp with bar0 := [(oTMEMERR 0, 2 ^ 63 + 5 * 2 ^ 48), (oHLMSTAT, 0xF002_0000)] }
      (fun t => reg t (oTMEMERR 0) == 0) = true :=
  ⟨Option.isSome_iff_exists.mp (by decide +kernel), by decide +kernel⟩

theorem test_step : (match step { State.reset with pending := [.refresh 0 1, .brownoutEnd] } with
    | .next t => t.pending == [.brownoutEnd] && SMap.get 0 (ctrlOf t 0).refreshes 1 == 1
    | _ => false) = true := by decide +kernel

/-- IdentityHolds at reset, so a step from a state that meets it is spoken of. -/
theorem test_identity : IdentityHolds State.reset ∧ ∃ s', step State.reset = .next s' := ⟨by unfold IdentityHolds; decide +kernel, _, rfl⟩

/-- A word of another row is refused by the name of that row; a well-formed command is answered. -/
theorem test_otherWord : Instr.wf .c12m8x4 (.iadd 0 0 (wordR 1 3 1 2 0 0)) = false ∧ Instr.wf .c12m8x4 (.iadd 0 0 (wordR 0 3 1 2 0 0)) = true ∧
    (match exec (.iadd 0 0 (wordR 1 3 1 2 0 0)) s0 with
    | .refused (.otherWord m) => m == "ISUB"
    | _ => false) = true := by decide +kernel

theorem test_tileWords : tileDecode 3 2 (wordR 0 3 1 2 0 0) = some (.iadd 3 2 (wordR 0 3 1 2 0 0)) ∧ tileDecode 3 2 (wordR 31 0 0 0 0 0) = none ∧
    tileDecode 0 0 0x6B00_0000_0000_0000 = some (.nop 0 0 0x6B00_0000_0000_0000) := by decide +kernel

/-! ### Well-formedness: for each check a term it refuses -/

theorem test_wf_registerWrite : Instr.wf .c12m8x4 (.registerWrite 0 oTHMCFG 8 0) = true ∧ Instr.wf .c12m8x4 (.registerWrite 0 oTHMCFG 3 0) = false ∧
    Instr.wf .c12m8x4 (.registerWrite 0 oTHMCFG 4 (2 ^ 32)) = false ∧ Instr.wf .c12m8x4 (.registerWrite 1000 oTHMCFG 8 0) = false := by decide

theorem test_wf_queues : Instr.wf .c12m8x4 (.fenceCommand 0 15) = true ∧ Instr.wf .c12m8x4 (.fenceCommand 0 16) = false ∧
    Instr.wf .c12m8x4 (.scrub 8 0) = true ∧ Instr.wf .c12m8x4 (.scrub 8 1) = false := by decide

theorem test_wf_units : Instr.wf .c12m8x4 (.refresh 0 64) = false ∧ Instr.wf .c12m8x4 (.refresh 1000 0) = false ∧
    Instr.wf .c12m8x4 (.retrainSlice 0 (.ends 0 [(128, 0)])) = false ∧ Instr.wf .c12m8x4 (.scan 0 4) = false ∧
    Instr.wf .c12m8x4 (.unitPoll (.part 1000) true) = false ∧ Instr.wf .c12m8x4 (.headerSwitchGroup ((.tile 0 12 0), .logic) true) = false ∧
    Instr.wf .c12m8x4 (.bistSliceEnd 0 (.column 0 4096)) = false ∧ Instr.wf .c12m8x4 (.cvuScanDone 4096) = false := by decide +kernel

theorem test_wf_frames : Instr.wf .c12m8x4 (.idleF 0 0 0 []) = true ∧ Instr.wf .c12m8x4 (.idleF 0 256 0 []) = false ∧
    Instr.wf .c12m8x4 (.idleF 0 0 0 [1]) = false ∧ Instr.wf .c12m8x4 (.closeF 0 0 0 []) = false ∧
    Instr.wf .c12m8x4 (.trainingEnd 0 (.locked 0 64 [])) = false := by decide +kernel

theorem test_wf_bringup : Instr.wf .c12m8x4 (.stageComplete ⟨0, none, [], [], [], [], [], [], true, [], []⟩) = true ∧
    Instr.wf .c12m8x4 (.bar2Read 1 (2 ^ 33) 1) = false ∧ Instr.wf .c12m8x4 (.readFlash (2 ^ 28) 1) = false := by decide +kernel

end Sys2Proof.Tests
end

section

namespace Sys2Proof.Machine

/-! ## REGISTER_WRITE (R9 to R11, R29) -/

/-! ### One field (Table 0.4) -/

theorem bit_fld (v : DWord) (hi lo j : Nat) : bit (fld v hi lo) j = (decide (j < hi + 1 - lo) && bit v.toNat (lo + j)) := by
  rw [bit_eq, fld, bits_testBit, bit_eq]

/-- A bit of a field that takes the same field of `x` is the bit of `x`. -/
theorem bit_setFld_fld (r x : DWord) (hi lo i : Nat) (hhi : hi < 64) (hlo : lo ≤ i) (hi' : i ≤ hi) :
    bit (setFld r hi lo (fld x hi lo)).toNat i = bit x.toNat i := by
  rw [bit_setFld_in _ _ _ _ _ (by omega) ⟨hlo, hi'⟩, bit_fld, decide_eq_true (by omega), Bool.true_and, Nat.add_sub_cancel' hlo]

theorem bit_and_not (r v : DWord) (i : Nat) (h : i < 64) : bit (r &&& ~~~ v).toNat i = (bit r.toNat i && !bit v.toNat i) := by
  simp only [bit_eq, BitVec.testBit_toNat, BitVec.getLsbD_and, BitVec.getLsbD_not, h, decide_true, Bool.true_and]

/-- A write reaches no bit outside the field. -/
theorem bit_writeField_out (fn : Nat) (v r : DWord) (hi lo : Nat) (a : Acc0) (i : Nat) (h : i < 64) (ho : i < lo ∨ hi < i) :
    bit (writeField fn v r (hi, lo, a)).toNat i = bit r.toNat i := by
  cases a <;> simp only [writeField] <;> (try split) <;> simp only [bit_setFld_ne _ _ _ _ _ h ho]

/-- What a write leaves in a bit of the field, by its access code. -/
theorem bit_writeField_in (fn : Nat) (v r : DWord) (hi lo i : Nat) (hhi : hi < 64) (hlo : lo ≤ i) (hi' : i ≤ hi) :
    bit (writeField fn v r (hi, lo, .rw)).toNat i = bit v.toNat i ∧
    bit (writeField fn v r (hi, lo, .rw1c)).toNat i = (bit r.toNat i && !bit v.toNat i) ∧
    writeField fn v r (hi, lo, .rl) = r ∧
    bit (writeField fn v r (hi, lo, .rwPf)).toNat i = (if fn = 0 then bit v.toNat i else bit r.toNat i) ∧
    bit (writeField fn v r (hi, lo, .stPf)).toNat i = (if fn = 0 then bit v.toNat i else bit r.toNat i) := by
  have pf : bit (if fn = 0 then setFld r hi lo (fld v hi lo) else r).toNat i = if fn = 0 then bit v.toNat i else bit r.toNat i := by
    split
    · exact bit_setFld_fld r v hi lo i hhi hlo hi'
    · rfl
  exact ⟨bit_setFld_fld r v hi lo i hhi hlo hi',
    (bit_setFld_fld r _ hi lo i hhi hlo hi').trans (bit_and_not r v i (by omega)), rfl, pf, pf⟩

/-! ### What a written queue register lets go on -/

theorem drainWaiting_nil (s : State) (p q : Nat) (h : (partOf s p).waiting = []) : drainWaiting s p q = s :=
  List.foldl_fixed' (fun _ => by simp only [h, List.find?_nil]) _

theorem skipInvalid_nil (s : State) (p q : Nat) (h : entriesOf s p q = []) : skipInvalid s p q = s := by
  simp only [skipInvalid, h, List.length_nil, List.range_zero, List.foldl_nil]

theorem settleStopping_ne (s : State) (p : Nat) (h : p = 8 ∨ pState s p ≠ 3) : settleStopping s p = s :=
  if_neg (by rcases h with h | h <;> simp [h])

theorem advance_idle (s : State) (p : Nat) (he : ∀ q, entriesOf s p q = []) (hp : p = 8 ∨ pState s p ≠ 3) : advance s p = s := by
  rw [advance, List.foldl_fixed' (f := fun s q => skipInvalid s p q) (fun q => skipInvalid_nil s p q (he q)), settleStopping_ne s p hp]

/-- A written register of no queue page and not of Cupping does nothing further. -/
theorem afterWrite_plain (s : State) (o : Nat) (h : pageOf o = none) (hc : ¬ (0x5F_0000 ≤ o ∧ o < 0x60_0000)) : afterWrite s o = s := by
  simp only [afterWrite, h, Bool.and_eq_true, decide_eq_true_eq, if_neg hc]

/-- Nothing goes on at a queue page whose partition has no completion and no entry waiting and is not STOPPING. -/
theorem afterWrite_idle (s : State) (o p : Nat) (h : pageOf o = some p) (hw : (partOf s p).waiting = [])
    (he : ∀ q, entriesOf s p q = []) (hp : p = 8 ∨ pState s p ≠ 3) : afterWrite s o = s := by
  simp only [afterWrite, h]
  rw [List.foldl_fixed' (f := fun s q => drainWaiting s p q) (fun q => drainWaiting_nil s p q hw), advance_idle s p he hp]

/-! ### The command -/

/-- A write that R9, R11 or R29 ignores. -/
theorem execRegisterWrite_ignored (fn off width : Nat) (v : DWord) (s : State)
    (h : width ≠ 8 ∨ off % 8 ≠ 0 ∨ regDesc s.asm off = none ∨ canWrite s fn off = false ∨ s.power.aon = false ∨ writeIgnored s off = true) :
    execRegisterWrite fn off width v s = .next s := by
  unfold execRegisterWrite
  split
  · rfl
  · next d hd =>
    refine if_pos ?_
    rcases h with h | h | h | h | h | h <;> simp_all

/-- A write that takes effect. -/
theorem execRegisterWrite_taken (fn off : Nat) (v : DWord) (s : State) (d : RegDesc) (ha : off % 8 = 0) (hd : regDesc s.asm off = some d)
    (hw : canWrite s fn off = true) (hp : s.power.aon = true) (hi : writeIgnored s off = false) :
    execRegisterWrite fn off 8 v s = .next (afterWrite (setReg s off (writeAlso off (reg s off) (written d fn (reg s off) v))) off) := by
  simp [execRegisterWrite, hd, ha, hw, hp, hi]

/-- Settles O55: the access codes bit by bit, and the cases of the command; what comes after a write is the queues' or
Cupping's own. -/
theorem registerWrites : Obligations.RegisterWrites := by
  unfold Obligations.RegisterWrites
  refine ⟨fun fn off width v s => ⟨fun h => ?_, fun h => ?_, fun d ha hd hw hp hi => ?_⟩, fun fn hi lo v r hhi _ => ⟨?_, ?_⟩⟩
  · exact execRegisterWrite_ignored fn off width v s (by tauto)
  · exact execRegisterWrite_ignored fn off width v s (by tauto)
  · refine ⟨_, reg_setReg_self _ _ _, fun o ho => reg_setReg_ne _ _ (by simpa using ho), rfl,
      execRegisterWrite_taken fn off v s d ha hd hw hp hi, afterWrite_plain _ _, fun p hpg hwt he hst => ?_⟩
    exact afterWrite_idle _ off p hpg hwt he hst
  · exact fun a i h ho => bit_writeField_out fn v r hi lo a i h ho
  · exact fun i hlo hi' => bit_writeField_in fn v r hi lo i hhi hlo hi'

end Sys2Proof.Machine

end

section

namespace Sys2Proof.Machine

/-! ## What no command changes

A lemma for each function of the model that answers with a state, in the model's order: `kept_f` says that f leaves what `kept` names,
or only its first component where f may set the mark of a stalled access. `settles_execX` says it of a command. They apply before
simp enters the state they speak of (↓), so that no term of the model is rewritten on the way. -/

/-- What a command leaves as it is in every state: the assembly, the queue's rest, the two identity registers; and the mark of
a stalled access beside them. -/
def kept (s : State) : (Assembly × List Instr × DWord × DWord) × Bool :=
  ((s.asm, s.pending, reg s 0, reg s 8), s.stalled)

/-! ### Updates of fields -/

section

variable (s : State) (fresh nextId : Nat) (tiles : SMap Tile) (shelf : SMap (SMap Slice)) (fills : List Fill) (upds : List ScoreUpd)
  (ctrls : SMap Ctrl) (dram hostMem : List Host.Cell) (dramErr : SMap (List (Nat × Byte))) (txns : List Txn) (prevCfg : SMap DWord)
  (gens : List (ResetDomain × BitVec 4)) (resetting : List ResetDomain) (tg : Tidegauge) (ports : SMap Port) (surf : Surf)
  (peers : SMap Nat) (parts : SMap Part) (irqs : List (Nat × Nat)) (hostReads : List (Nat × List Byte))
  (hostReqs : List (Nat × Nat × Bool)) (power : Power) (heat : Heat) (ras : Ras) (head : Headland) (pins : Pins)

/-- No field but the registers, the queue and the mark matters. -/
@[simp ↓] theorem kept_with : kept { s with
    fresh := fresh, tiles := tiles, shelf := shelf, fills := fills, upds := upds, ctrls := ctrls, dram := dram, dramErr := dramErr
    hostMem := hostMem, txns := txns, nextId := nextId, prevCfg := prevCfg, gens := gens, resetting := resetting, tg := tg
    ports := ports, surf := surf, peers := peers, parts := parts, irqs := irqs, hostReads := hostReads, hostReqs := hostReqs
    power := power, heat := heat, ras := ras, head := head, pins := pins } = kept s := Prod.ext rfl rfl

end

/-- Setting the mark changes the mark alone. -/
@[simp ↓] theorem kept_setStalled (s : State) (b : Bool) : kept { s with stalled := b } = ((kept s).1, b) := Prod.ext rfl rfl

/-- The mark put back to what it was. -/
@[simp] theorem kept_fst_stalled (s : State) : ((kept s).1, s.stalled) = kept s := rfl

@[simp ↓] theorem kept_setReg (s : State) (o : Nat) (v : DWord) (h : 8 < o) : kept (setReg s o v) = kept s := by
  have h0 : reg (setReg s o v) 0 = reg s 0 := reg_setReg_ne s v (by omega)
  have h8 : reg (setReg s o v) 8 = reg s 8 := reg_setReg_ne s v (by omega)
  simp only [kept, setReg_asm, setReg_pending, setReg_stalled, h0, h8]

@[simp ↓] theorem kept_setF (s : State) (o hi lo x : Nat) (h : 8 < o) : kept (setF s o hi lo x) = kept s := kept_setReg s o _ h

@[simp ↓] theorem kept_addSat (s : State) (o hi lo n : Nat) (h : 8 < o) :
    kept (addSat s o hi lo n) = kept s := kept_setF s o hi lo _ h

/-- Registers that are no identity registers go back to their reset values. -/
theorem kept_filterRegs (s : State) (p : Nat → Bool) (h0 : p 0 = true) (h8 : p 8 = true) :
    kept { s with bar0 := s.bar0.filter (fun e => p e.1) } = kept s := by
  have get (d : DWord) (i : Nat) (hi : p i = true) : SMap.get d (s.bar0.filter (fun e => p e.1)) i = SMap.get d s.bar0 i := by
    induction s.bar0 with
    | nil => rfl
    | cons e m ih =>
      obtain ⟨k, v⟩ := e
      by_cases hk : k = i
      · subst hk; simp [hi, SMap.get]
      · by_cases hp : p k = true <;> simp [hp, hk, SMap.get, ih]
  simp only [kept, reg, get _ 0 h0, get _ 8 h8]

@[simp ↓] theorem kept_clearReg (s : State) (o : Nat) (h : 8 < o) : kept (clearReg s o) = kept s :=
  kept_filterRegs s (fun i => i != o) (by simp; omega) (by simp; omega)

@[simp ↓] theorem kept_clearRegs (s : State) (lo hi : Nat) (p : Nat → Bool) (h : 8 < lo) : kept (clearRegs s lo hi p) = kept s :=
  kept_filterRegs s (fun i => !(lo ≤ i && i < hi && p i)) (by simp; omega) (by simp; omega)

/-! ### Choices and repetitions -/

/-- What every step of a repetition leaves as it is, the repetition leaves. -/
theorem foldl_keeps {α β γ : Type} (φ : β → γ) (f : β → α → β) (l : List α) (b : β) (h : ∀ b a, φ (f b a) = φ b) :
    φ (l.foldl f b) = φ b := by
  induction l generalizing b with
  | nil => rfl
  | cons a l ih => rw [List.foldl_cons, ih, h]

@[simp ↓] theorem kept_ite (c : Prop) [Decidable c] (s t : State) : kept (if c then s else t) = if c then kept s else kept t :=
  apply_ite kept c s t

@[simp ↓] theorem kept_fst_ite {β : Type} (c : Prop) [Decidable c] (r t : State × β) :
    kept (if c then r else t).1 = if c then kept r.1 else kept t.1 := apply_ite (fun r => kept r.1) c r t

@[simp ↓] theorem kept_foldl {α : Type} (f : State → α → State) (l : List α) (s : State) (h : ∀ s a, kept (f s a) = kept s) :
    kept (l.foldl f s) = kept s :=
  foldl_keeps kept f l s h

@[simp ↓] theorem kept_foldl_fst {α β : Type} (f : State × β → α → State × β) (l : List α) (r : State × β)
    (h : ∀ r a, kept (f r a).1 = kept r.1) : kept (l.foldl f r).1 = kept r.1 :=
  foldl_keeps (fun r => kept r.1) f l r h

@[simp ↓] theorem kept1_foldl {α : Type} (f : State → α → State) (l : List α) (s : State)
    (h : ∀ s a, (kept (f s a)).1 = (kept s).1) : (kept (l.foldl f s)).1 = (kept s).1 :=
  foldl_keeps (fun s => (kept s).1) f l s h

@[simp ↓] theorem kept1_foldl_fst {α β : Type} (f : State × β → α → State × β) (l : List α) (r : State × β)
    (h : ∀ r a, (kept (f r a).1).1 = (kept r.1).1) : (kept (l.foldl f r).1).1 = (kept r.1).1 :=
  foldl_keeps (fun r => (kept r.1).1) f l r h

@[simp ↓] theorem kept1_ite (c : Prop) [Decidable c] (s t : State) :
    (kept (if c then s else t)).1 = if c then (kept s).1 else (kept t).1 := apply_ite (fun s => (kept s).1) c s t

@[simp ↓] theorem kept1_fst_ite {β : Type} (c : Prop) [Decidable c] (r t : State × β) :
    (kept (if c then r else t).1).1 = if c then (kept r.1).1 else (kept t.1).1 := apply_ite (fun r => (kept r.1).1) c r t

/-- The state of a pair that a function makes of the answer of another one. -/
theorem kept1_pair {β : Type} {s t : State} (b : β) (h : (kept s).1 = (kept t).1) : (kept (s, b).1).1 = (kept t).1 := h

/-- The same for a step whose answer has a name: the kernel then compares no unfolded steps. -/
theorem kept1_foldl_of {α β : Type} (f : State × β → α → State × β) (l : List α) (r : State × β)
    (h : ∀ r a t, f r a = t → (kept t.1).1 = (kept r.1).1) : (kept (l.foldl f r).1).1 = (kept r.1).1 :=
  kept1_foldl_fst f l r fun r a => h r a _ rfl

/-! ### Places of registers: every register that a command sets lies above the identity registers (Table 1.7) -/

@[simp] theorem offsets_single_gt : 8 < oPFWIN ∧ 8 < oTGCFG ∧ 8 < oTGNOW ∧ 8 < oTGFRAC ∧ 8 < oTGSTAT ∧ 8 < oTGERR ∧ 8 < oTGLNCFG ∧
    8 < oTGCMT ∧ 8 < oTGEVT ∧ 8 < oPWRCFG ∧ 8 < oPWRSTAT ∧ 8 < oPWREVT ∧ 8 < oTHMCFG ∧ 8 < oTHMSTAT ∧ 8 < oTHMREC ∧ 8 < oTHMEVT ∧
    8 < oTHMPHASE ∧ 8 < oRASCFG ∧ 8 < oRASUE ∧ 8 < oRASDECODE ∧ 8 < oCLSEVT ∧ 8 < oBISTSTAT ∧ 8 < oBISTLOG ∧ 8 < oSHOALIDX ∧
    8 < oSHOALDATA ∧ 8 < oSHOALSTAT ∧ 8 < oCVSURF ∧ 8 < oBWRCFG ∧ 8 < oBWRPRIO ∧ 8 < oBWRSTAT ∧ 8 < oBWREVT ∧ 8 < oLNKDEV ∧
    8 < oLNKETH ∧ 8 < oHLMSTAT ∧ 8 < oHLMMBDB ∧ 8 < oHLMRCFG ∧ 8 < oESCCFG := by decide

@[simp] theorem offsetsHost_gt (p : Nat) : 8 < hstPage p ∧ 8 < oPCFG p ∧ 8 < oPSTAT p ∧ 8 < oCANCEL p ∧ 8 < oWIN p ∧ 8 < oFAULT p ∧
    8 < oRPTADDR p ∧ 8 < oPTABA p ∧ 8 < oPTABB p := by
  simp only [oPCFG, oPSTAT, oCANCEL, oWIN, oFAULT, oRPTADDR, oPTABA, oPTABB, hstPage]
  omega

@[simp] theorem offsetsHost2_gt (p n : Nat) : 8 < oSQA p n ∧ 8 < oSQB p n ∧ 8 < oCQA p n ∧ 8 < oCQB p n := by
  simp only [oSQA, oSQB, oCQA, oCQB]
  omega

@[simp] theorem offsetsTideTable_gt (p : Nat) : 8 < oCMTST p ∧ 8 < oENTA p ∧ 8 < oENTB p := by
  simp only [oCMTST, oENTA, oENTB]
  omega

@[simp] theorem offsetsPower_gt (p : Nat) : 8 < oRAIL p ∧ 8 < oPHFAIL p ∧ 8 < oDUTY p ∧ 8 < oSENS p := by
  simp only [oRAIL, oPHFAIL, oDUTY, oSENS]
  omega

@[simp] theorem offsetsRas_gt (p : Nat) : 8 < oLB p ∧ 8 < oCUPEVT p ∧ 8 < oCVCFG p ∧ 8 < oCVPOLY p ∧ 8 < oCVINIT p ∧ 8 < oCVRUN p ∧
    8 < oCVSTAT p ∧ 8 < oCVEVT p ∧ 8 < oBUDGET p := by
  simp only [oLB, oCUPEVT, oCVCFG, oCVPOLY, oCVINIT, oCVRUN, oCVSTAT, oCVEVT, oBUDGET]
  omega

@[simp] theorem offsetsRas2_gt (p n : Nat) : 8 < oSCRA p n ∧ 8 < oSCRB p n ∧ 8 < oCUPHIST p n ∧ 8 < oBWRCNT p n := by
  simp only [oSCRA, oSCRB, oCUPHIST, oBWRCNT]
  omega

@[simp] theorem offsetsMemory_gt (p : Nat) : 8 < memBase p ∧ 8 < oMEMCFG p ∧ 8 < oMEMSTAT p ∧ 8 < oMEMARB p ∧ 8 < oMEMEVT p ∧
    8 < oXCSTAT p ∧ 8 < oMEMERR p ∧ 8 < oMEMRTN p := by
  simp only [oMEMCFG, oMEMSTAT, oMEMARB, oMEMEVT, oXCSTAT, oMEMERR, oMEMRTN, memBase]
  omega

@[simp] theorem offsetsMemory2_gt (p n : Nat) : 8 < oXCLO p n ∧ 8 < oXCHI p n ∧ 8 < oEYE p n ∧ 8 < oPCH p n := by
  simp only [oXCLO, oXCHI, oEYE, oPCH, memBase]
  omega

@[simp] theorem offsetsShelf_gt (p : Nat) : 8 < shfBase p ∧ 8 < oSHFCFG p ∧ 8 < oSHFSTAT p ∧ 8 < oSHFEVT p := by
  simp only [oSHFCFG, oSHFSTAT, oSHFEVT, shfBase]
  omega

@[simp] theorem offsetsShelf2_gt (p n : Nat) : 8 < oSHFSLICE p n := by
  simp only [oSHFSLICE, shfBase]
  omega

@[simp] theorem offsetsShelf3_gt (p n j : Nat) : 8 < oSHFCNT p n j := by
  simp only [oSHFCNT, shfBase]
  omega

@[simp] theorem offsetsLinks_gt (p : Nat) : 8 < oLNKCFG p ∧ 8 < oLNKSTAT p ∧ 8 < oLNKEVT p ∧ 8 < oLNKFEC p ∧ 8 < oROUTE p := by
  simp only [oLNKCFG, oLNKSTAT, oLNKEVT, oLNKFEC, oROUTE, lnkBase]
  omega

@[simp] theorem offsetsLinks2_gt (p n : Nat) : 8 < oQCFG p n ∧ 8 < oSLOT p n := by
  simp only [oQCFG, oSLOT, lnkBase]
  omega

@[simp] theorem offsetsTile_gt (p : Nat) : 8 < tilBase p ∧ 8 < oGRPFAULT p ∧ 8 < oMSGSTAT p ∧ 8 < oARRFAULT p ∧ 8 < oATTSTAT p ∧
    8 < oATTCNT p ∧ 8 < oCUPCTL p ∧ 8 < oSHADOWA p ∧ 8 < oSHADOWB p ∧ 8 < oTMEMERR p := by
  simp only [oGRPFAULT, oMSGSTAT, oARRFAULT, oATTSTAT, oATTCNT, oCUPCTL, oSHADOWA, oSHADOWB, oTMEMERR, tilBase]
  omega

@[simp] theorem offsetsTile2_gt (p n : Nat) : 8 < oGRPSTAT p n ∧ 8 < oMSGRING p n ∧ 8 < oARRSTAT p n := by
  simp only [oGRPSTAT, oMSGRING, oARRSTAT, tilBase]
  omega

@[simp] theorem offsetsHeadland_gt (p : Nat) : 8 < oSREP p ∧ 8 < oESCLOG p ∧ 8 < oMBOX p := by
  simp only [oSREP, oESCLOG, oMBOX]
  omega

@[simp] theorem offsetsHeadland2_gt (p n : Nat) : 8 < oRPT p n := by
  simp only [oRPT]
  omega

/-! ### What a command leaves -/

/-- A command answers with a state in which all that is kept stands as before, and the mark is clear if it was. -/
def Settles (s : State) : Host.Outcome State Fault Refusal → Prop
  | .next s' => (kept s').1 = (kept s).1 ∧ (s.stalled = false → s'.stalled = false)
  | .fault _ | .refused _ => True

@[simp ↓] theorem settles_refused (s : State) (r : Refusal) : Settles s (.refused r) := trivial

@[simp ↓] theorem settles_next (s s' : State) (h : kept s' = kept s) : Settles s (.next s') :=
  ⟨congrArg Prod.fst h, fun hs => (congrArg Prod.snd h).trans hs⟩

/-- A command that leaves nothing when an access of it is stalled ends with the mark clear, wherever it was set within it. -/
@[simp ↓] theorem settles_whole (s s' : State) (h : (kept s').1 = (kept s).1) : Settles s (.next (whole s s')) := by
  unfold whole
  split
  · exact settles_next s s rfl
  · next hs => exact ⟨h, fun _ => by simpa using hs⟩

@[simp ↓] theorem settles_ite (s : State) (c : Prop) [Decidable c] (a b : Host.Outcome State Fault Refusal) :
    Settles s (if c then a else b) = if c then Settles s a else Settles s b := apply_ite (Settles s) c a b

/-! ### The functions of Sys2Proof/Machine/Ops.lean -/

@[simp ↓] theorem kept_setTile (s : State) (t : Nat) (x : Tile) : kept (setTile s t x) = kept s := by simp [setTile]

@[simp ↓] theorem kept_updTile (s : State) (t : Nat) (f : Tile → Tile) : kept (updTile s t f) = kept s := by simp [updTile]

@[simp ↓] theorem kept_setGroup (s : State) (t g : Nat) (y : Group) : kept (setGroup s t g y) = kept s := by simp [setGroup]

@[simp ↓] theorem kept_updGroup (s : State) (t g : Nat) (f : Group → Group) : kept (updGroup s t g f) = kept s := by
  simp [updGroup]

@[simp ↓] theorem kept_setArray (s : State) (t n : Nat) (y : ArrayUnit) : kept (setArray s t n y) = kept s := by simp [setArray]

@[simp ↓] theorem kept_updArray (s : State) (t n : Nat) (f : ArrayUnit → ArrayUnit) : kept (updArray s t n f) = kept s := by
  simp [updArray]

@[simp ↓] theorem kept_setSlice (s : State) (st k : Nat) (x : Slice) : kept (setSlice s st k x) = kept s := by simp [setSlice]

@[simp ↓] theorem kept_updSlice (s : State) (st k : Nat) (f : Slice → Slice) : kept (updSlice s st k f) = kept s := by
  simp [updSlice]

@[simp ↓] theorem kept_setCtrl (s : State) (i : Nat) (c : Ctrl) : kept (setCtrl s i c) = kept s := by simp [setCtrl]

@[simp ↓] theorem kept_updCtrl (s : State) (i : Nat) (f : Ctrl → Ctrl) : kept (updCtrl s i f) = kept s := by simp [updCtrl]

@[simp ↓] theorem kept_setPort (s : State) (p : Nat) (x : Port) : kept (setPort s p x) = kept s := by simp [setPort]

@[simp ↓] theorem kept_updPort (s : State) (p : Nat) (f : Port → Port) : kept (updPort s p f) = kept s := by simp [updPort]

@[simp ↓] theorem kept_setPart (s : State) (p : Nat) (x : Part) : kept (setPart s p x) = kept s := by simp [setPart]

@[simp ↓] theorem kept_updPart (s : State) (p : Nat) (f : Part → Part) : kept (updPart s p f) = kept s := by simp [updPart]

@[simp ↓] theorem kept_draw (s : State) : kept (draw s).2 = kept s := by simp [draw]

theorem kept_of_pick (s : State) (n : Nat) (p : Nat → Bool) (r : Nat × State) (h : pick s n p = some r) : kept r.2 = kept s := by
  unfold pick at h
  split at h <;> simp only [Option.some.injEq, reduceCtorEq] at h
  rw [← h]
  rfl

@[simp ↓] theorem kept_setPState (s : State) (p x : Nat) : kept (setPState s p x) = kept s := by simp [setPState]

@[simp ↓] theorem kept_bumpGen (s : State) (d : ResetDomain) : kept (bumpGen s d) = kept s := by
  unfold bumpGen
  split <;> simp

@[simp ↓] theorem kept_pfIrq (s : State) (v : Nat) : kept (pfIrq s v) = kept s := by simp [pfIrq]

@[simp ↓] theorem kept_partIrq (s : State) (p k : Nat) : kept (partIrq s p k) = kept s := by simp [partIrq]

@[simp ↓] theorem kept_inject (s : State) (p c : Nat) : kept (inject s p c).1 = kept s := by simp [inject]

@[simp ↓] theorem kept_retire (s : State) (p c : Nat) : kept (retire s p c) = kept s := by simp [retire]

@[simp ↓] theorem kept_pass (s : State) (p c : Nat) : kept (pass s p c) = kept s := by simp [pass]

@[simp ↓] theorem kept_injectN (s : State) (p c n : Nat) : kept (injectN s p c n) = kept s := by simp [injectN]

@[simp ↓] theorem kept_retireN (s : State) (p c n : Nat) : kept (retireN s p c n) = kept s := by simp [retireN]

@[simp ↓] theorem kept_decodeError (s : State) (m : Master) (a : Nat) : kept (decodeError s m a) = kept s := by simp [decodeError]

@[simp ↓] theorem kept_ueEvent (s : State) (u src loc : Nat) : kept (ueEvent s u src loc) = kept s := by simp [ueEvent]

@[simp ↓] theorem kept_corrError (s : State) (u : Nat) : kept (corrError s u) = kept s := by simp [corrError]

@[simp ↓] theorem kept_countColumn (s : State) : kept (countColumn s) = kept s := by simp [countColumn]

@[simp ↓] theorem kept_bistRan (s : State) : kept (bistRan s) = kept s := by simp [bistRan]

@[simp ↓] theorem kept_bistFailed (s : State) (u kind elem detail : Nat) : kept (bistFailed s u kind elem detail) = kept s := by
  simp [bistFailed]

@[simp ↓] theorem kept_alert (s : State) : kept (alert s) = kept s := by simp [alert]

@[simp ↓] theorem kept_logEvent (s : State) (e : DWord) : kept (logEvent s e) = kept s := by simp [logEvent]

/-! ### The functions of Sys2Proof/Machine/Ecc.lean -/

@[simp ↓] theorem kept_addOverlay (s : State) (e : DWord) : kept (addOverlay s e) = kept s := by simp [addOverlay]

@[simp ↓] theorem kept_spareColumn (s : State) (kind die where_ col unit : Nat) :
    kept (spareColumn s kind die where_ col unit).1 = kept s := by
  simp [spareColumn]

@[simp ↓] theorem kept_spareRow (s : State) (kind die where_ row : Nat) : kept (spareRow s kind die where_ row).1 = kept s := by
  simp [spareRow]

@[simp ↓] theorem kept_marchBank (s : State) (t bank : Nat) : kept (marchBank s t bank) = kept s := by simp [marchBank]

@[simp ↓] theorem kept_marched (unit elem col : Nat) (spare : State × Bool) (restore : State → State)
    (h : ∀ s, kept (restore s) = kept s) :
    kept (marched unit elem col spare restore) = kept spare.1 := by simp [marched, h]

@[simp ↓] theorem kept_rewriteRow (s : State) (t bank row : Nat) : kept (rewriteRow s t bank row) = kept s := by
  unfold rewriteRow
  simp

@[simp ↓] theorem kept_tmClassify (s : State) (t p pos : Nat) : kept (tmClassify s t p pos) = kept s := by simp [tmClassify]

@[simp ↓] theorem kept_tmCapture (s : State) (t : Nat) (ue : Bool) (synd src p : Nat) :
    kept (tmCapture s t ue synd src p) = kept s := by
  simp [tmCapture]

@[simp ↓] theorem kept_tmCheck (s : State) (t src p : Nat) : kept (tmCheck s t src p).1 = kept s := by
  unfold tmCheck
  dsimp only
  split
  · rfl
  · split <;> simp

@[simp ↓] theorem kept_tmWord (s : State) (t src w : Nat) : kept (tmWord s t src w).1 = kept s := by simp [tmWord]

@[simp ↓] theorem kept_tmWords (s : State) (t src : Nat) (ws : List Nat) : kept (tmWords s t src ws).1 = kept s := by
  simp [tmWords]

@[simp ↓] theorem kept_tmRead (s : State) (t src a n : Nat) : kept (tmRead s t src a n).1 = kept s := by simp [tmRead]

@[simp ↓] theorem kept_tmWrite (s : State) (t src : Nat) (cs : List Host.Cell) : kept (tmWrite s t src cs) = kept s := by
  simp [tmWrite]

/-! ### The functions of Sys2Proof/Machine/Hbm.lean -/

@[simp ↓] theorem kept_setCwErr (s : State) (cw : Nat) (p : List (Nat × Byte)) : kept (setCwErr s cw p) = kept s := by
  simp [setCwErr]

@[simp ↓] theorem kept_cwPut (s : State) (cw : Nat) (b : List Byte) (poison : Bool) : kept (cwPut s cw b poison) = kept s := by
  simp [cwPut]

@[simp ↓] theorem kept_memErrCapture (s : State) (i : Nat) (ue poison lostw : Bool) (nsym pch cw gran : Nat) :
    kept (memErrCapture s i ue poison lostw nsym pch cw gran) = kept s := by
  simp [memErrCapture]

@[simp ↓] theorem kept_logFree (s : State) : kept (logFree s) = kept s := by simp [logFree]

@[simp ↓] theorem kept_pinTrack (s : State) (i c : Nat) (syms : List Nat) : kept (pinTrack s i c syms) = kept s := by
  unfold pinTrack
  dsimp only
  split <;> simp

@[simp ↓] theorem kept_rowFailing (s : State) (i c row : Nat) : kept (rowFailing s i c row) = kept s := by simp [rowFailing]

@[simp ↓] theorem kept_cwRead (s : State) (cw : Nat) (force : Bool) : kept (cwRead s cw force).1 = kept s := by
  unfold cwRead
  dsimp only
  split
  · simp
  · split <;> simp

@[simp ↓] theorem kept_addFlushCw (s : State) (i cw : Nat) : kept (addFlushCw s i cw) = kept s := by
  unfold addFlushCw
  split <;> simp

@[simp ↓] theorem kept_addFlushGran (s : State) (gran : Nat) : kept (addFlushGran s gran) = kept s := by simp [addFlushGran]

@[simp ↓] theorem kept_granRead (s : State) (gran : Nat) (force : Bool) : kept (granRead s gran force).1 = kept s := by
  simp [granRead]

@[simp ↓] theorem kept_granWrite (s : State) (gran : Nat) (mask : BitVec 256) (bytes : List Host.Cell) (poison : BitVec 16) :
    kept (granWrite s gran mask bytes poison) = kept s := by
  simp [granWrite]

@[simp ↓] theorem kept_addApply (s : State) (i ty a x : Nat) (b : List Byte) : kept (addApply s i ty a x b).1 = kept s := by
  unfold addApply
  split
  · simp
  · refine kept_foldl_fst _ _ _ fun r a => ?_
    split <;> simp

@[simp ↓] theorem kept_addEntry (s : State) (i cw : Nat) : kept (addEntry s i cw).1 = kept s := by
  unfold addEntry
  split
  · rfl
  · dsimp only
    split
    · simp
    · split <;> simp

@[simp ↓] theorem kept_addOne (s : State) (ty a x : Nat) : kept (addOne s ty a x) = kept s := by
  unfold addOne
  dsimp only
  split <;> simp

/-! ### The functions of Sys2Proof/Machine/Shelf.lean -/

@[simp ↓] theorem kept_updSec (s : State) (st k key j : Nat) (f : Sector → Sector) : kept (updSec s st k key j f) = kept s := by
  simp [updSec]

@[simp ↓] theorem kept_marchSet (s : State) (st k set : Nat) (p : Nat → Bool) : kept (marchSet s st k set p) = kept s := by
  unfold marchSet
  refine kept_foldl _ _ _ fun s a => ?_
  simp

@[simp ↓] theorem kept_shfClassify (s : State) (st k set i pos : Nat) : kept (shfClassify s st k set i pos) = kept s := by
  simp [shfClassify]

@[simp ↓] theorem kept_wordCheck (s : State) (st k key j w a : Nat) : kept (wordCheck s st k key j w a).1 = kept s := by
  unfold wordCheck
  dsimp only
  split
  · rfl
  · split <;> simp

@[simp ↓] theorem kept_mbRetire (s : State) (st k : Nat) (e : MbEntry) : kept (mbRetire s st k e) = kept s := by
  unfold mbRetire
  split
  · dsimp only
    split <;> simp
  · dsimp only
    split <;> simp

@[simp ↓] theorem kept_mbRetireAll (s : State) (st k : Nat) (p : MbEntry → Bool) : kept (mbRetireAll s st k p) = kept s := by
  simp [mbRetireAll]

@[simp ↓] theorem kept_wordWrite (s : State) (st k key word : Nat) (cs : List Host.Cell) :
    kept (wordWrite s st k key word cs) = kept s := by
  unfold wordWrite
  split
  · simp
  · split <;> simp

@[simp ↓] theorem kept_noteDrain (s : State) (gran : Nat) : kept (noteDrain s gran) = kept s := by simp [noteDrain]

@[simp ↓] theorem kept_enqueue (s : State) (r : HbmReq) : kept (enqueue s r) = kept s := by simp [enqueue]

@[simp ↓] theorem kept_checkSector (s : State) (st k key j lam : Nat) : kept (checkSector s st k key j lam).1 = kept s := by
  simp [checkSector]

@[simp ↓] theorem kept_writeBack (s : State) (st k key j : Nat) : kept (writeBack s st k key j) = kept s := by simp [writeBack]

@[simp ↓] theorem kept_writeBackLine (s : State) (st k key : Nat) : kept (writeBackLine s st k key) = kept s := by
  simp [writeBackLine]

@[simp ↓] theorem kept_deadFills (s : State) (st k : Nat) (p : Nat → Bool) : kept (deadFills s st k p) = kept s := by
  simp [deadFills]

@[simp ↓] theorem kept_dropLine (s : State) (st k key : Nat) : kept (dropLine s st k key) = kept s := by
  unfold dropLine
  split <;> simp

@[simp ↓] theorem kept_fillSector (s : State) (st k key j : Nat) (data : List Byte) (badCw : BitVec 4) :
    kept (fillSector s st k key j data badCw).1 = kept s := by
  simp [fillSector]

@[simp ↓] theorem kept_allocLine (s : State) (st k lam : Nat) : kept (allocLine s st k lam).1 = kept s := by
  unfold allocLine
  split <;> simp

@[simp ↓] theorem kept_tagCheck (s : State) (st k key : Nat) : kept (tagCheck s st k key).1 = kept s := by
  unfold tagCheck
  dsimp only
  split
  · rfl
  · split <;> simp

@[simp ↓] theorem kept_lineRead (s : State) (st k key : Nat) (want : List Nat) : kept (lineRead s st k key want).1 = kept s := by
  simp [lineRead]

@[simp ↓] theorem kept_lineWrite (s : State) (st k key : Nat) (cs : List Host.Cell) :
    kept (lineWrite s st k key cs) = kept s := by
  simp [lineWrite]

@[simp ↓] theorem kept_issueFill (s : State) (st k sec level : Nat) : kept (issueFill s st k sec level).1 = kept s := by
  unfold issueFill
  split <;> simp

@[simp ↓] theorem kept_updTxn (s : State) (id : Nat) (f : Txn → Txn) : kept (updTxn s id f) = kept s := by simp [updTxn]

@[simp ↓] theorem kept_answerFill (s : State) (f : Fill) (data : List Byte) (bad : BitVec 4) (words : List Nat) :
    kept (answerFill s f data bad words) = kept s := by
  simp [answerFill]

@[simp ↓] theorem kept_arriveFill (s : State) (f : Fill) : kept (arriveFill s f) = kept s := by
  unfold arriveFill
  split
  · simp
  · split
    · simp
    · split
      · dsimp only
        split <;> simp
      · simp

@[simp ↓] theorem kept_dequeue (s : State) (i : Nat) (r : HbmReq) : kept (dequeue s i r) = kept s := by simp [dequeue]

@[simp ↓] theorem kept_freeWb (s : State) (st sec : Nat) : kept (freeWb s st sec) = kept s := by simp [freeWb]

@[simp ↓] theorem kept_serveReq (s : State) (i : Nat) (r : HbmReq) : kept (serveReq s i r) = kept s := by
  unfold serveReq
  dsimp only
  split
  · split <;> simp
  · split
    · simp
    · split <;> simp
    · split <;> simp
    · split <;> simp

@[simp ↓] theorem kept_serveGran (s : State) (gran : Nat) : kept (serveGran s gran) = kept s := by simp [serveGran]

@[simp ↓] theorem kept_settleGran (s : State) (gran : Nat) : (kept (settleGran s gran)).1 = (kept s).1 := by
  unfold settleGran
  simp

@[simp ↓] theorem kept_roomFor (s : State) (st k lam : Nat) : (kept (roomFor s st k lam)).1 = (kept s).1 := by
  unfold roomFor
  refine kept1_foldl _ _ _ fun s a => ?_
  split
  · split <;> simp
  · simp

@[simp ↓] theorem kept_flushSlice (s : State) (st k : Nat) : kept (flushSlice s st k) = kept s := by simp [flushSlice]

@[simp ↓] theorem kept_settleRetiring (s : State) (st k lam : Nat) : (kept (settleRetiring s st k lam)).1 = (kept s).1 := by
  simp [settleRetiring]

@[simp ↓] theorem kept_settleLine (s : State) (st k lam : Nat) (secs : List Nat) :
    (kept (settleLine s st k lam secs)).1 = (kept s).1 := by
  simp [settleLine]

@[simp ↓] theorem kept_shelfFetchNow (s : State) (st k lam : Nat) (want : List Nat) (level : Nat) :
    (kept (shelfFetchNow s st k lam want level).1).1 = (kept s).1 := by
  simp [shelfFetchNow]

@[simp ↓] theorem kept_shelfReadNow (s : State) (st k lam : Nat) (want : List Nat) (level : Nat) :
    (kept (shelfReadNow s st k lam want level).1).1 = (kept s).1 := by
  unfold shelfReadNow
  dsimp only
  split <;> simp

@[simp ↓] theorem kept_shelfWriteNow (s : State) (st k lam : Nat) (cs : List Host.Cell) :
    (kept (shelfWriteNow s st k lam cs)).1 = (kept s).1 := by
  simp [shelfWriteNow]

/-! ### The functions of Sys2Proof/Machine/BistElem.lean -/

@[simp ↓] theorem kept_setGroups (s : State) (d : PowerDomain) (u : Supply) (v : BitVec 4) :
    kept (setGroups s d u v) = kept s := by
  simp [setGroups]

@[simp ↓] theorem kept_setUnit (s : State) (d : PowerDomain) (v : BitVec 4) : kept (setUnit s d v) = kept s := by simp [setUnit]

@[simp ↓] theorem kept_elemStart (s : State) (u kind e : Nat) : kept (elemStart s u kind e) = kept s := by
  unfold elemStart
  split
  · simp
  · split <;> simp

@[simp ↓] theorem kept_saveWord (s : State) (u kind e : Nat) (w : Nat × BitVec 72) : kept (saveWord s u kind e w) = kept s := by
  unfold saveWord
  split
  · simp
  · simp
  · split
    · dsimp only
      split <;> simp
    · simp

@[simp ↓] theorem kept_elemEnd (s : State) (u kind e : Nat) : kept (elemEnd s u kind e) = kept s := by
  unfold elemEnd
  split
  · simp
  · split
    · simp
    · split <;> simp

@[simp ↓] theorem kept_sliceEnd (s : State) (b : BistRun) : kept (sliceEnd s b) = kept s := by simp [sliceEnd]

@[simp ↓] theorem kept_endSlices (s : State) (p : BistRun → Bool) : kept (endSlices s p) = kept s := by simp [endSlices]

/-! ### The functions of Sys2Proof/Machine/Routes.lean -/

@[simp ↓] theorem kept_nextLane (s : State) (q d : Nat) : kept (nextLane s q d).1 = kept s := by
  unfold nextLane
  dsimp only
  split <;> simp

@[simp ↓] theorem kept_queueNew (s : State) (p q dev : Nat) (f : Frame) : kept (queueNew s p q dev f) = kept s := by
  simp [queueNew]

@[simp ↓] theorem kept_queueXfer (s : State) (x : XferOut) : kept (queueXfer s x) = kept s := by simp [queueXfer]

@[simp ↓] theorem kept_beginOut (s : State) (x : XferOut) : kept (beginOut s x) = kept s := by
  unfold beginOut
  split
  · rfl
  · next r xid s1 h1 =>
    have h2 := kept_nextLane s1 x.queue x.dev
    rw [← kept_of_pick s 4096 _ _ h1]
    split
    · next h => rw [h] at h2; exact h2
    · next h => rw [h] at h2; simpa using h2

@[simp ↓] theorem kept_addOut (s : State) (x : XferOut) : kept (addOut s x).1 = kept s := by simp [addOut]

@[simp ↓] theorem kept_pushBytes (s : State) (q part dev off : Nat) (bs : List Byte) (txn : Option Nat) :
    kept (pushBytes s q part dev off bs txn) = kept s := by
  unfold pushBytes
  dsimp only
  split <;> simp

/-! ### The functions of Sys2Proof/Machine/DevMem.lean -/

@[simp ↓] theorem kept_noteHost (s : State) (p : Option Nat) (key : Nat) (wr : Bool) : kept (noteHost s p key wr) = kept s := by
  simp [noteHost]

@[simp ↓] theorem kept_drawBytes (s : State) (len : Nat) : kept (drawBytes s len).1 = kept s := by simp [drawBytes]

@[simp ↓] theorem kept_settleTile (s : State) (t : Nat) : (kept (settleTile s t)).1 = (kept s).1 := by
  unfold settleTile
  simp

@[simp ↓] theorem kept_readAt (s : State) (w : Who) (a n : Nat) : (kept (readAt s w a n).1).1 = (kept s).1 := by
  conv in readAt => delta readAt
  split <;> simp

@[simp ↓] theorem kept_readPiece (s : State) (w : Who) (a n : Nat) : (kept (readPiece s w a n).1).1 = (kept s).1 := by
  simp [readPiece]

@[simp ↓] theorem kept_writeAt (s : State) (w : Who) (a : Nat) (bs : List Byte) : (kept (writeAt s w a bs).1).1 = (kept s).1 := by
  unfold writeAt
  split
  · simp
  · split <;> simp

@[simp ↓] theorem kept_writePiece (s : State) (w : Who) (a : Nat) (bs : List Byte) :
    (kept (writePiece s w a bs).1).1 = (kept s).1 := by
  simp [writePiece]

@[simp ↓] theorem kept_devRead (s : State) (w : Who) (a n : Nat) : (kept (devRead s w a n).1).1 = (kept s).1 := by
  unfold devRead
  refine kept1_foldl_fst _ _ _ fun r l => ?_
  dsimp only
  rw [kept_retireN]
  refine (kept1_foldl_fst _ _ _ fun r pc => ?_).trans (by rw [kept_injectN])
  exact kept1_pair _ (kept_readAt r.1 w pc.1 pc.2)

@[simp ↓] theorem kept_devWrite (s : State) (w : Who) (a : Nat) (bs : List Byte) :
    (kept (devWrite s w a bs).1).1 = (kept s).1 := by
  simp [devWrite]

@[simp ↓] theorem kept_devNat (s : State) (w : Who) (a n : Nat) : (kept (devNat s w a n).1).1 = (kept s).1 := by simp [devNat]

/-! ### The functions of Sys2Proof/Machine/Groups.lean -/

@[simp ↓] theorem kept_releaseArrays (s : State) (t slot : Nat) : kept (releaseArrays s t slot) = kept s := by
  simp [releaseArrays]

@[simp ↓] theorem kept_stopGroup (s : State) (t slot : Nat) (st : GroupState) : kept (stopGroup s t slot st) = kept s := by
  simp [stopGroup]

@[simp ↓] theorem kept_captureGroupFault (s : State) (t slot cause thread iaddr : Nat) :
    kept (captureGroupFault s t slot cause thread iaddr) = kept s := by
  simp [captureGroupFault]

@[simp ↓] theorem kept_captureArrayFault (s : State) (t slot cause arrNo iaddr : Nat) :
    kept (captureArrayFault s t slot cause arrNo iaddr) = kept s := by
  simp [captureArrayFault]

@[simp ↓] theorem kept_stopLaunch (s : State) (p cmd : Nat) : kept (stopLaunch s p cmd) = kept s := by
  unfold stopLaunch
  refine kept_foldl _ _ _ fun s a => ?_
  refine kept_foldl _ _ _ fun s a => ?_
  split <;> simp

/-! ### The functions of Sys2Proof/Machine/Host.lean -/

@[simp ↓] theorem kept_cqWrite (s : State) (p q : Nat) (b : List Byte) (irq : Bool) : kept (cqWrite s p q b irq) = kept s := by
  simp [cqWrite]

@[simp ↓] theorem kept_postCompletion (s : State) (p sq : Nat) (b : List Byte) (irq : Bool) :
    kept (postCompletion s p sq b irq) = kept s := by
  simp [postCompletion]

@[simp ↓] theorem kept_drainWaiting (s : State) (p q : Nat) : kept (drainWaiting s p q) = kept s := by
  unfold drainWaiting
  refine kept_foldl _ _ _ fun s a => ?_
  split <;> simp

@[simp ↓] theorem kept_setInflight (s : State) (p : Nat) : kept (setInflight s p) = kept s := by simp [setInflight]

@[simp ↓] theorem kept_updCmd (s : State) (p id : Nat) (f : Cmd → Cmd) : kept (updCmd s p id f) = kept s := by simp [updCmd]

@[simp ↓] theorem kept_settleStopping (s : State) (p : Nat) : kept (settleStopping s p) = kept s := by simp [settleStopping]

@[simp ↓] theorem kept_retireCmd (s : State) (p : Nat) (c : Cmd) (status detail : Nat) :
    kept (retireCmd s p c status detail) = kept s := by
  simp [retireCmd]

@[simp ↓] theorem kept_completeGo (n : Nat) (s : State) (p id status detail : Nat) :
    kept (completeGo n s p id status detail) = kept s := by
  induction n generalizing s id status detail with
  | zero => rfl
  | succ n ih =>
    unfold completeGo
    split <;> simp [ih]

@[simp ↓] theorem kept_setHead (s : State) (p sq : Nat) : kept (setHead s p sq) = kept s := by simp [setHead]

@[simp ↓] theorem kept_setEntries (s : State) (p sq : Nat) (l : List SqEntry) : kept (setEntries s p sq l) = kept s := by
  simp [setEntries]

@[simp ↓] theorem kept_completeEntry (s : State) (p sq : Nat) (e : SqEntry) (status : Nat) :
    kept (completeEntry s p sq e status) = kept s := by
  simp [completeEntry]

@[simp ↓] theorem kept_skipInvalid (s : State) (p sq : Nat) : kept (skipInvalid s p sq) = kept s := by
  unfold skipInvalid
  refine kept_foldl _ _ _ fun s a => ?_
  split <;> simp

@[simp ↓] theorem kept_advance (s : State) (p : Nat) : kept (advance s p) = kept s := by simp [advance]

@[simp ↓] theorem kept_complete (s : State) (p id status detail : Nat) : kept (complete s p id status detail) = kept s := by
  simp [complete]

@[simp ↓] theorem kept_startCmd (s : State) (p sq : Nat) (e : SqEntry) : kept (startCmd s p sq e).1 = kept s := by simp [startCmd]

@[simp ↓] theorem kept_endWhenStored (s : State) (p : Nat) (c : Cmd) (status detail : Nat) :
    kept (endWhenStored s p c status detail) = kept s := by
  simp [endWhenStored]

@[simp ↓] theorem kept_engineFault (s : State) (p cause : Nat) (expired : Option Cmd) :
    kept (engineFault s p cause expired) = kept s := by
  unfold engineFault
  simp

@[simp ↓] theorem kept_launchFault (s : State) (t : Nat) (l : LaunchRef) (cause : Nat) :
    kept (launchFault s t l cause) = kept s := by
  unfold launchFault
  split <;> simp

@[simp ↓] theorem kept_tileFaultAt (s : State) (t slot cause thread iaddr : Nat) :
    kept (tileFaultAt s t slot cause thread iaddr) = kept s := by
  unfold tileFaultAt
  dsimp only
  split <;> simp

@[simp ↓] theorem kept_tileFault (s : State) (t slot cause thread : Nat) : kept (tileFault s t slot cause thread) = kept s := by
  simp [tileFault]

@[simp ↓] theorem kept_arrayFault (s : State) (t slot cause arrNo : Nat) : kept (arrayFault s t slot cause arrNo) = kept s := by
  unfold arrayFault
  dsimp only
  split <;> simp

/-! ### The functions of Sys2Proof/Machine/Messages.lean -/

@[simp ↓] theorem kept_updSend (s : State) (t h : Nat) (f : Send → Send) : kept (updSend s t h f) = kept s := by simp [updSend]

@[simp ↓] theorem kept_grantGo (n : Nat) (s : State) (t q : Nat) : kept (grantGo n s t q) = kept s := by
  induction n generalizing s with
  | zero => rfl
  | succ n ih =>
    simp only [grantGo]
    split
    · simp
    · split <;> simp [ih]

@[simp ↓] theorem kept_makeGrants (s : State) (t q : Nat) : kept (makeGrants s t q) = kept s := by simp [makeGrants]

@[simp ↓] theorem kept_freeGrant (s : State) (t q src h : Nat) : kept (freeGrant s t q src h) = kept s := by simp [freeGrant]

@[simp ↓] theorem kept_finalizeSend (s : State) (t h status : Nat) : kept (finalizeSend s t h status) = kept s := by
  simp [finalizeSend]

@[simp ↓] theorem kept_releaseAll (s : State) (t : Nat) (m : Send) : kept (releaseAll s t m) = kept s := by simp [releaseAll]

@[simp ↓] theorem kept_failSend (s : State) (t : Nat) (m : Send) (status : Nat) : kept (failSend s t m status) = kept s := by
  simp [failSend]

@[simp ↓] theorem kept_deliver (s : State) (t slot q wd : Nat) (m : RingSpace) : kept (deliver s t slot q wd m) = kept s := by
  simp [deliver]

@[simp ↓] theorem kept_serveWaiters (s : State) (t q : Nat) : kept (serveWaiters s t q) = kept s := by
  unfold serveWaiters
  refine kept_foldl _ _ _ fun s a => ?_
  split <;> simp

@[simp ↓] theorem settles_execReservation (src h dst : Nat) (s : State) : Settles s (execReservation src h dst s) := by
  unfold execReservation
  split <;> simp

@[simp ↓] theorem settles_execGrant (src h dst : Nat) (s : State) : Settles s (execGrant src h dst s) := by
  unfold execGrant
  split <;> simp

@[simp ↓] theorem kept_readPayload (s : State) (t off len : Nat) : kept (readPayload s t off len).1 = kept s := by
  simp [readPayload]

@[simp ↓] theorem settles_execMessageInject (src h : Nat) (s : State) : Settles s (execMessageInject src h s) := by
  unfold execMessageInject
  split <;> simp

@[simp ↓] theorem settles_execMessageWrite (src h dst : Nat) (s : State) : Settles s (execMessageWrite src h dst s) := by
  unfold execMessageWrite
  split
  · simp
  · split
    · dsimp only
      split <;> simp
    · simp

@[simp ↓] theorem settles_execMessageComplete (src h : Nat) (s : State) : Settles s (execMessageComplete src h s) := by
  unfold execMessageComplete
  split <;> simp

@[simp ↓] theorem settles_execGrantTimeout (src h : Nat) (s : State) : Settles s (execGrantTimeout src h s) := by
  unfold execGrantTimeout
  split <;> simp

@[simp ↓] theorem settles_execReservationRetry (src h : Nat) (s : State) : Settles s (execReservationRetry src h s) := by
  unfold execReservationRetry
  split <;> simp

@[simp ↓] theorem settles_execGrantRelease (src h dst : Nat) (s : State) : Settles s (execGrantRelease src h dst s) := by
  simp [execGrantRelease]

@[simp ↓] theorem settles_execRecvTimeout (t slot : Nat) (s : State) : Settles s (execRecvTimeout t slot s) := by
  unfold execRecvTimeout
  split <;> simp

@[simp ↓] theorem kept_destReset (s : State) (t : Nat) : kept (destReset s t) = kept s := by
  unfold destReset
  refine kept_foldl _ _ _ fun s a => ?_
  simp

@[simp ↓] theorem kept_senderReset (s : State) (t : Nat) : kept (senderReset s t) = kept s := by
  unfold senderReset
  refine kept_foldl _ _ _ fun s a => ?_
  split <;> simp

/-! ### The functions of Sys2Proof/Machine/Resets.lean -/

@[simp ↓] theorem kept_enterReset (s : State) (d : ResetDomain) : kept (enterReset s d) = kept s := by simp [enterReset]

@[simp ↓] theorem kept_reclaim (s : State) (d : ResetDomain) : kept (reclaim s d) = kept s := by simp [reclaim]

@[simp ↓] theorem kept_nextGen (s : State) (d : ResetDomain) : kept (nextGen s d) = kept s := by simp [nextGen]

@[simp ↓] theorem kept_dropUpds (s : State) (t : Nat) : kept (dropUpds s t) = kept s := by
  unfold dropUpds
  refine kept_foldl _ _ _ fun s a => ?_
  dsimp only
  split <;> simp

@[simp ↓] theorem kept_clearTile (s : State) (t : Nat) : kept (clearTile s t) = kept s := by simp [clearTile]

@[simp ↓] theorem kept_failLaunches (s : State) (l : List (Nat × Nat)) (status : Nat) :
    kept (failLaunches s l status) = kept s := by
  simp [failLaunches]

@[simp ↓] theorem kept_partsOut (s : State) (q : Nat → Bool) : kept (partsOut s q) = kept s := by simp [partsOut]

@[simp ↓] theorem kept_outEffect (s : State) (d : ResetDomain) : kept (outEffect s d) = kept s := by
  cases d <;> simp [outEffect]

@[simp ↓] theorem kept_escLog (s : State) (d : ResetDomain) (cause : Nat) : kept (escLog s d cause) = kept s := by
  unfold escLog
  split <;> simp

@[simp ↓] theorem kept_takeOut (s : State) (d : ResetDomain) (cause : Nat) : kept (takeOut s d cause) = kept s := by
  simp [takeOut]

@[simp ↓] theorem kept_countReset (s : State) (d : ResetDomain) : kept (countReset s d) = kept s := by simp [countReset]

@[simp ↓] theorem kept_resetTile (s : State) (t : Nat) : kept (resetTile s t) = kept s := by simp [resetTile]

@[simp ↓] theorem kept_regFault (s : State) (t slot : Nat) : kept (regFault s t slot) = kept s := by simp [regFault]

@[simp ↓] theorem kept_dropQueued (s : State) (st : Nat) (ds : List ResetDomain) : kept (dropQueued s st ds) = kept s := by
  simp [dropQueued]

@[simp ↓] theorem kept_clearStack (s : State) (ds : List ResetDomain) (st : Nat) : kept (clearStack s ds st) = kept s := by
  simp [clearStack]

@[simp ↓] theorem kept_resetStack (s : State) (st : Nat) : kept (resetStack s st) = kept s := by simp [resetStack]

@[simp ↓] theorem kept_clearHst (s : State) (p : Nat) : kept (clearHst s p) = kept s := by simp [clearHst]

@[simp ↓] theorem kept_clearPart (s : State) (p : Nat) : kept (clearPart s p) = kept s := by
  unfold clearPart
  extract_lets sts ds s1 s2 s3 s4 s5 s6 s7 x s8 r s9
  simp [s9, s8, s7, s6, s5, s4, s3, s2, s1]

@[simp ↓] theorem kept_resetPart (s : State) (p : Nat) : kept (resetPart s p) = kept s := by simp [resetPart]

/-! ### The functions of Sys2Proof/Machine/Operands.lean -/

@[simp ↓] theorem kept_readRegs (s : State) (t slot : Nat) (ks : List Nat) : kept (readRegs s t slot ks).1 = kept s := by
  unfold readRegs
  refine kept_foldl_fst _ _ _ fun r a => ?_
  dsimp only
  split <;> simp

/-! ### The functions of Sys2Proof/Machine/Issue.lean -/

@[simp ↓] theorem kept_unhold (s : State) (t slot : Nat) : kept (unhold s t slot) = kept s := by simp [unhold]

@[simp ↓] theorem kept_fillIbuf (s : State) (t k : Nat) (bad : BitVec 8) : kept (fillIbuf s t k bad) = kept s := by
  simp [fillIbuf]

@[simp ↓] theorem kept_fetchCheck (s : State) (t slot : Nat) : kept (fetchCheck s t slot).1 = kept s := by simp [fetchCheck]

@[simp ↓] theorem kept_movePtr (s : State) (t slot : Nat) : kept (movePtr s t slot) = kept s := by simp [movePtr]

@[simp ↓] theorem kept_advancePc (s : State) (t slot : Nat) : kept (advancePc s t slot) = kept s := by simp [advancePc]

@[simp ↓] theorem kept_regLost (s s' : State) (t slot : Nat) (h : kept s' = kept s) : kept (regLost s s' t slot) = kept s := by
  simp [regLost, h]

/-- The states in a body's end keep what is kept. -/
def ResKeeps (s : State) : Res → Prop
  | .done s' | .jump s' | .trap s' _ _ | .atrap s' _ _ | .lost s' => kept s' = kept s
  | .hold _ => True

@[simp ↓] theorem resKeeps_done (s s' : State) : ResKeeps s (.done s') ↔ kept s' = kept s := Iff.rfl

@[simp ↓] theorem resKeeps_jump (s s' : State) : ResKeeps s (.jump s') ↔ kept s' = kept s := Iff.rfl

@[simp ↓] theorem resKeeps_trap (s s' : State) (c th : Nat) : ResKeeps s (.trap s' c th) ↔ kept s' = kept s := Iff.rfl

@[simp ↓] theorem resKeeps_atrap (s s' : State) (c a : Nat) : ResKeeps s (.atrap s' c a) ↔ kept s' = kept s := Iff.rfl

@[simp ↓] theorem resKeeps_lost (s s' : State) : ResKeeps s (.lost s') ↔ kept s' = kept s := Iff.rfl

@[simp ↓] theorem resKeeps_hold (s : State) (st : GroupState) : ResKeeps s (.hold st) := trivial

@[simp ↓] theorem resKeeps_ite (s : State) (c : Prop) [Decidable c] (a b : Res) :
    ResKeeps s (if c then a else b) = if c then ResKeeps s a else ResKeeps s b := apply_ite (ResKeeps s) c a b

@[simp ↓] theorem kept_finish (s : State) (t slot : Nat) (r : Res) (h : ResKeeps s r) : kept (finish s t slot r) = kept s := by
  cases r <;> simp_all [finish]

/-- A body may begin in a state that keeps what is kept. -/
theorem resKeeps_of {s s' : State} {r : Res} (h : ResKeeps s' r) (hs : kept s' = kept s) : ResKeeps s r := by
  cases r <;> simp_all

@[simp ↓] theorem kept_dispatchIssue (row : Row) (t slot : Nat) (w : DWord) (s : State) (body : State → Res)
    (h : ∀ s, ResKeeps s (body s)) : kept (dispatchIssue row t slot w s body) = kept s := by
  simp [dispatchIssue, resKeeps_of (h _)]

@[simp ↓] theorem settles_issue (row : Row) (t slot : Nat) (w : DWord) (s : State) (body : State → Res)
    (h : ∀ s, ResKeeps s (body s)) :
    Settles s (issue row t slot w s body) := by
  have hf : kept (fetchCheck (unhold s t slot) t slot).1 = kept s := by simp
  simp only [issue]
  split
  · simp
  · split
    · split
      · next h1 => rw [h1] at hf; simp [hf]
      · next h1 => rw [h1] at hf; simp [hf, h]
    · simp

@[simp ↓] theorem resKeeps_laneBody (t slot : Nat) (w : DWord) (f : Group → Nat → LaneOut) (s : State) :
    ResKeeps s (laneBody t slot w f s) := by
  simp [laneBody]

/-! ### The functions of Sys2Proof/Machine/Access.lean -/

@[simp ↓] theorem settles_execLdt (t slot : Nat) (w : DWord) (s : State) : Settles s (execLdt t slot w s) := by
  unfold execLdt
  refine settles_issue _ _ _ _ _ _ fun s => ?_
  dsimp only
  split
  · simp
  · split <;> simp

@[simp ↓] theorem settles_execStt (t slot : Nat) (w : DWord) (s : State) : Settles s (execStt t slot w s) := by
  unfold execStt
  refine settles_issue _ _ _ _ _ _ fun s => ?_
  dsimp only
  split <;> simp

@[simp ↓] theorem kept_launchTxn (s : State) (t slot serial line : Nat) (x : Txn) :
    kept (launchTxn s t slot serial line x) = kept s := by
  simp [launchTxn]

@[simp ↓] theorem kept_sendLines (s : State) (t slot : Nat) (w : DWord) (kind : TxnKind) :
    kept (sendLines s t slot w kind) = kept s := by
  simp [sendLines]

@[simp ↓] theorem resKeeps_devBody (t slot : Nat) (w : DWord) (kind : TxnKind) (madd : Bool) (s : State) :
    ResKeeps s (devBody t slot w kind madd s) := by
  unfold devBody
  dsimp only
  split
  · simp
  · split <;> simp

@[simp ↓] theorem settles_execLdd (t slot : Nat) (w : DWord) (s : State) : Settles s (execLdd t slot w s) := by simp [execLdd]

@[simp ↓] theorem settles_execStd (t slot : Nat) (w : DWord) (s : State) : Settles s (execStd t slot w s) := by simp [execStd]

@[simp ↓] theorem settles_execMadd (t slot : Nat) (w : DWord) (s : State) : Settles s (execMadd t slot w s) := by simp [execMadd]

@[simp ↓] theorem settles_execFence (t slot : Nat) (w : DWord) (s : State) : Settles s (execFence t slot w s) := by
  simp [execFence]

/-! ### The functions of Sys2Proof/Machine/Sending.lean -/

@[simp ↓] theorem kept_putActive (s : State) (t slot r v : Nat) : kept (putActive s t slot r v) = kept s := by simp [putActive]

@[simp ↓] theorem settles_execSend (t slot : Nat) (w : DWord) (s : State) : Settles s (execSend t slot w s) := by
  refine settles_issue _ _ _ _ _ _ fun s => ?_
  split
  · simp
  · next h =>
    have hp := kept_of_pick s 32 _ _ h
    simp [hp]

@[simp ↓] theorem kept_recvNone (s : State) (t slot wd status : Nat) : kept (recvNone s t slot wd status) = kept s := by
  simp [recvNone]

@[simp ↓] theorem settles_execRecv (t slot : Nat) (w : DWord) (s : State) : Settles s (execRecv t slot w s) := by
  unfold execRecv
  refine settles_issue _ _ _ _ _ _ fun s => ?_
  dsimp only
  split <;> simp

@[simp ↓] theorem settles_execMfree (t slot : Nat) (w : DWord) (s : State) : Settles s (execMfree t slot w s) := by
  unfold execMfree
  refine settles_issue _ _ _ _ _ _ fun s => ?_
  dsimp only
  split <;> simp

@[simp ↓] theorem settles_execMstat (t slot : Nat) (w : DWord) (s : State) : Settles s (execMstat t slot w s) := by
  unfold execMstat
  refine settles_issue _ _ _ _ _ _ fun s => ?_
  dsimp only
  split
  · simp
  · split <;> simp

@[simp ↓] theorem settles_execMcancel (t slot : Nat) (w : DWord) (s : State) : Settles s (execMcancel t slot w s) := by
  unfold execMcancel
  refine settles_issue _ _ _ _ _ _ fun s => ?_
  dsimp only
  split
  · simp
  · split <;> simp

@[simp ↓] theorem kept_putPair (s : State) (t slot r v : Nat) : kept (putPair s t slot r v) = kept s := by simp [putPair]

@[simp ↓] theorem settles_execSread (t slot : Nat) (w : DWord) (s : State) : Settles s (execSread t slot w s) := by
  simp [execSread]

/-! ### The functions of Sys2Proof/Machine/Arrays.lean -/

@[simp ↓] theorem resKeeps_arrayBody (t slot : Nat) (w : DWord) (s : State) (keys : List Nat) (dsts : List Span)
    (causes : List (Bool × Nat)) (waits : Bool) (k : State → Res) (h : ∀ s, ResKeeps s (k s)) :
    ResKeeps s (arrayBody t slot w s keys dsts causes waits k) := by
  simp only [arrayBody]
  split
  · simp
  · split
    · simp
    · simp [resKeeps_of (h _)]

@[simp ↓] theorem settles_execAzero (t slot : Nat) (w : DWord) (s : State) : Settles s (execAzero t slot w s) := by
  refine settles_issue _ _ _ _ _ _ fun s => ?_
  exact resKeeps_arrayBody _ _ _ _ _ _ _ _ _ fun s => by simp

@[simp ↓] theorem settles_execAload (t slot : Nat) (w : DWord) (s : State) : Settles s (execAload t slot w s) := by
  refine settles_issue _ _ _ _ _ _ fun s => ?_
  refine resKeeps_arrayBody _ _ _ _ _ _ _ _ _ fun s => ?_
  simp

@[simp ↓] theorem settles_execAmul (t slot : Nat) (w : DWord) (s : State) : Settles s (execAmul t slot w s) := by
  refine settles_issue _ _ _ _ _ _ fun s => ?_
  refine resKeeps_arrayBody _ _ _ _ _ _ _ _ _ fun s => ?_
  simp

@[simp ↓] theorem kept_releaseBlock (s : State) (t no : Nat) : kept (releaseBlock s t no) = kept s := by simp [releaseBlock]

@[simp ↓] theorem settles_execAdrain (t slot : Nat) (w : DWord) (s : State) : Settles s (execAdrain t slot w s) := by
  refine settles_issue _ _ _ _ _ _ fun s => ?_
  refine resKeeps_arrayBody _ _ _ _ _ _ _ _ _ fun s => ?_
  simp

@[simp ↓] theorem settles_execAstat (t slot : Nat) (w : DWord) (s : State) : Settles s (execAstat t slot w s) := by
  refine settles_issue _ _ _ _ _ _ fun s => ?_
  refine resKeeps_arrayBody _ _ _ _ _ _ _ _ _ fun s => ?_
  simp

@[simp ↓] theorem kept_cupCheck (s : State) (p : Nat) : kept (cupCheck s p) = kept s := by simp [cupCheck]

@[simp ↓] theorem kept_cupCount (s : State) (p bin : Nat) : kept (cupCount s p bin) = kept s := by simp [cupCount]

@[simp ↓] theorem settles_execCuppingShadowDone (t arr_ : Nat) (s : State) : Settles s (execCuppingShadowDone t arr_ s) := by
  unfold execCuppingShadowDone
  split
  · simp
  · dsimp only
    split
    · simp
    · split
      · simp
      · split <;> simp

/-! ### The functions of Sys2Proof/Machine/Attention.lean -/

@[simp ↓] theorem kept_readDesc (s : State) (w : Who) (p : AttPar) (n : Nat) : (kept (readDesc s w p n).1).1 = (kept s).1 := by
  simp [readDesc]

@[simp ↓] theorem kept_readBitmap (s : State) (w : Who) (a : Nat) : (kept (readBitmap s w a).1).1 = (kept s).1 := by
  simp [readBitmap]

@[simp ↓] theorem kept_readPage (s : State) (w : Who) (p : AttPar) (c : PageDesc) (bmp vals : Bool) :
    (kept (readPage s w p c bmp vals).1).1 = (kept s).1 := by
  unfold readPage
  split <;> split <;> simp

@[simp ↓] theorem kept_overPages {α : Type} (s : State) (w : Who) (p : AttPar) (bmp : PageDesc → Bool) (vals : Bool) (x : α)
    (f : State → PageDesc → PageData → α → State × α) (h : ∀ s d g x, (kept (f s d g x).1).1 = (kept s).1) :
    (kept (overPages s w p bmp vals x f).1).1 = (kept s).1 := by
  simp [overPages, h]

@[simp ↓] theorem kept_countPage (s : State) (t : Nat) : kept (countPage s t) = kept s := by simp [countPage]

@[simp ↓] theorem kept_scanCore (s : State) (w : Who) (p : AttPar) (qs : List (List Elem)) (count : State → State)
    (h : ∀ s, (kept (count s)).1 = (kept s).1) : (kept (scanCore s w p qs count).1).1 = (kept s).1 := by
  simp [scanCore, h]

@[simp ↓] theorem kept_updAtt (s : State) (t h : Nat) (f : AttCmd → AttCmd) : kept (updAtt s t h f) = kept s := by simp [updAtt]

@[simp ↓] theorem settles_execAttn (t slot : Nat) (w : DWord) (s : State) : Settles s (execAttn t slot w s) := by
  refine settles_issue _ _ _ _ _ _ fun s => ?_
  dsimp only
  split
  · simp
  · next h =>
    have hp := kept_of_pick s 4 _ _ h
    simp [hp]

@[simp ↓] theorem settles_execAttnw (t slot : Nat) (w : DWord) (s : State) : Settles s (execAttnw t slot w s) := by
  unfold execAttnw
  refine settles_issue _ _ _ _ _ _ fun s => ?_
  dsimp only
  split
  · simp
  · split <;> simp

@[simp ↓] theorem kept_readBlock (s : State) (t : Nat) (c : AttCmd) : kept (readBlock s t c).1 = kept s := by simp [readBlock]

@[simp ↓] theorem settles_attStart (op t h : Nat) (s : State) (k : State → AttCmd → List Byte → State)
    (hk : ∀ s c b, (kept (k s c b)).1 = (kept s).1) : Settles s (.next (attStart op t h s k)) := by
  unfold attStart
  split
  · simp
  · next c _ =>
    have hr := kept_readBlock s t c
    split
    · simp
    · split
      · next h1 => rw [h1] at hr; simp [hr]
      · next h1 =>
        rw [h1] at hr
        split
        · simp
        · split
          · exact settles_whole _ _ (by rw [hk, hr])
          · simp [hr]

@[simp ↓] theorem kept_queryRows (s : State) (t : Nat) (p : AttPar) (at_ pitch : Nat) :
    kept (queryRows s t p at_ pitch).1 = kept s := by
  simp [queryRows]

@[simp ↓] theorem kept_readQueries (s : State) (t : Nat) (b : List Byte) : kept (readQueries s t b).1 = kept s := by
  simp [readQueries]

@[simp ↓] theorem kept_countNan (s : State) (t m : Nat) (rows : List AttRow) : kept (countNan s t m rows) = kept s := by
  simp [countNan]

@[simp ↓] theorem kept_setLastSt (s : State) (t code : Nat) : kept (setLastSt s t code) = kept s := by simp [setLastSt]

@[simp ↓] theorem kept_attOutput (s : State) (t h : Nat) (b : List Byte) (rows : List AttRow) :
    kept (attOutput s t h b rows) = kept s := by
  simp [attOutput]

@[simp ↓] theorem settles_execScan (t h : Nat) (s : State) : Settles s (execScan t h s) := by simp [execScan]

@[simp ↓] theorem settles_execMerge (t h : Nat) (s : State) : Settles s (execMerge t h s) := by simp [execMerge]

/-! ### The functions of Sys2Proof/Machine/AttnScore.lean -/

@[simp ↓] theorem kept_scorePage (t h decay age part : Nat) (p : AttPar) (st : List (Nat × Nat × Nat × List Elem))
    (s : State) (c : PageDesc) (g : PageData) :
    kept (scorePage t h decay age part p st s c g) = kept s := by
  simp [scorePage]

@[simp ↓] theorem kept_scoreCore (s : State) (w : Who) (t h decay age : Nat) (p : AttPar) (stats : List Byte)
    (qs : List (List Elem))
    (count : State → State) (hc : ∀ s, (kept (count s)).1 = (kept s).1) :
    (kept (scoreCore s w t h decay age p stats qs count).1).1 = (kept s).1 := by
  simp [scoreCore, hc]

@[simp ↓] theorem settles_execScore (t h : Nat) (s : State) : Settles s (execScore t h s) := by simp [execScore]

@[simp ↓] theorem kept_updFailed (s : State) (u : ScoreUpd) (code : Nat) : kept (updFailed s u code) = kept s := by
  simp [updFailed]

@[simp ↓] theorem kept_scoreRmw (s : State) (u : ScoreUpd) : (kept (scoreRmw s u).1).1 = (kept s).1 := by
  have hr := kept_readAt s (updWho u) u.score 2
  have e := scoreRmw.eq_1 s u
  dsimp only at e
  rw [e]
  split
  · exact kept1_pair _ hr
  · exact kept1_pair _ ((kept_writeAt _ _ _ _).trans hr)

@[simp ↓] theorem kept_clearRmw (s : State) (u : ScoreUpd) : (kept (clearRmw s u).1).1 = (kept s).1 := by
  have hr := kept_readAt s (updWho u) u.bitmap 64
  have e := clearRmw.eq_1 s u
  dsimp only at e
  rw [e]
  split
  · exact kept1_pair _ hr
  · split
    · exact kept1_pair _ hr
    · refine kept1_pair _ ?_
      rw [kept1_ite, kept_addSat _ _ _ _ _ (by simp), kept_addSat _ _ _ _ _ (by simp), kept_writeAt, hr, ite_self]

@[simp ↓] theorem kept_applyScore (s : State) (u : ScoreUpd) : (kept (applyScore s u)).1 = (kept s).1 := by simp [applyScore]

@[simp ↓] theorem kept_applyClear (s : State) (u : ScoreUpd) : (kept (applyClear s u)).1 = (kept s).1 := by simp [applyClear]

@[simp ↓] theorem settles_execScoreUpdate (id : Nat) (s : State) : Settles s (execScoreUpdate id s) := by
  unfold execScoreUpdate
  split <;> simp

@[simp ↓] theorem kept_openPage (s : State) (w : Who) (p : AttPar) (dst ndst : Nat) (c : PageDesc) (x : CmpState) :
    (kept (openPage s w p dst ndst c x).1).1 = (kept s).1 := by
  unfold openPage
  simp

@[simp ↓] theorem kept_compactPage (s : State) (w : Who) (p : AttPar) (dst ndst lim : Nat) (c : PageDesc)
    (valid : Nat) (ks vs sc : List Byte) (x : CmpState) :
    (kept (compactPage s w p dst ndst lim c valid ks vs sc x).1).1 = (kept s).1 := by
  unfold compactPage
  refine kept1_foldl_fst _ _ _ fun r t => ?_
  split
  · rfl
  · split
    · rfl
    · split
      · rfl
      · extract_lets full x o
        have ho : (kept o.1).1 = (kept r.1).1 := by
          simp only [o]
          split <;> simp
        clear_value o
        split <;> exact ho

@[simp ↓] theorem kept_compactCore (s : State) (w : Who) (p : AttPar) (dst ndst lim : Nat) :
    (kept (compactCore s w p dst ndst lim).1).1 = (kept s).1 := by
  simp [compactCore]

@[simp ↓] theorem settles_execCompact (t h : Nat) (s : State) : Settles s (execCompact t h s) := by simp [execCompact]

@[simp ↓] theorem kept_attFinal (s : State) (t h : Nat) (st : BitVec 32) : kept (attFinal s t h st) = kept s := by simp [attFinal]

@[simp ↓] theorem kept_attWrite (s : State) (t : Nat) (c : AttCmd) : (kept (attWrite s t c)).1 = (kept s).1 := by simp [attWrite]

@[simp ↓] theorem kept_attDone (s : State) (t h : Nat) (c : AttCmd) (st : BitVec 32) :
    (kept (attDone s t h c st)).1 = (kept s).1 := by
  unfold attDone
  split
  · simp
  · split
    · rfl
    · next h =>
      rw [← kept_of_pick s 32 _ _ h]
      simp

@[simp ↓] theorem settles_execAttnCommandFinal (t h : Nat) (s : State) : Settles s (execAttnCommandFinal t h s) := by
  unfold execAttnCommandFinal
  split
  · simp
  · next c _ =>
    have hr := kept_readBlock s t c
    split
    · split
      · split
        · next h1 => rw [h1] at hr; split <;> simp [hr]
        · simp
      · simp
    · simp
    · simp
    · split
      · split <;> simp
      · simp
    · simp

/-! ### The functions of Sys2Proof/Machine/AttnBatch.lean -/

@[simp ↓] theorem kept_someTile (s : State) (ts : List Nat) : kept (someTile s ts).1 = kept s := by simp [someTile]

@[simp ↓] theorem kept_putPartial (s : State) (t d : Nat) (buf : Option Nat) (rows : List AttRow) :
    kept (putPartial s t d buf rows) = kept s := by
  unfold putPartial
  split <;> simp

@[simp ↓] theorem kept_copyQueries (s : State) (w : Who) (p : AttPar) (r : List Byte) (t : Nat) :
    (kept (copyQueries s w p r t).1).1 = (kept s).1 := by
  simp [copyQueries]

@[simp ↓] theorem kept_scanChunk (s : State) (t : Nat) (p : AttPar) : (kept (scanChunk s t p).1).1 = (kept s).1 := by
  unfold scanChunk
  simp

@[simp ↓] theorem kept_mergeMessage (s : State) (t d : Nat) (y : BNode) : kept (mergeMessage s t d y).1 = kept s := by
  unfold mergeMessage
  split <;> simp

@[simp ↓] theorem kept_mergeNodes (s : State) (p : AttPar) (x y : BNode) : kept (mergeNodes s p x y).1 = kept s := by
  unfold mergeNodes
  split <;> simp

@[simp ↓] theorem kept_settleNodes (all : Bool) (p : AttPar) (n : Nat) (s : State) (l : List BNode) :
    kept (settleNodes all p n s l).1 = kept s := by
  induction n generalizing s l with
  | zero => simp [settleNodes]
  | succ n ih =>
    match l with
    | [] => simp [settleNodes]
    | [x] => simp [settleNodes]
    | y :: x :: l => simp [settleNodes, ih]

@[simp ↓] theorem kept_seqTile (s : State) (w : Who) (p : AttPar) (r : List Byte) (ts : List Nat) (x : BRun) :
    (kept (seqTile s w p r ts x).1).1 = (kept s).1 := by
  unfold seqTile
  simp

@[simp ↓] theorem kept_addLeaf (s : State) (p : AttPar) (t j : Nat) (rows : List AttRow) (x : BRun) :
    kept (addLeaf s p t j rows x).1 = kept s := by
  simp [addLeaf]

@[simp ↓] theorem kept_runChunks (s : State) (w : Who) (b : List Byte) (p : AttPar) (r : List Byte) (ts : List Nat) :
    (kept (runChunks s w b p r ts).1).1 = (kept s).1 := by
  simp [runChunks]

@[simp ↓] theorem kept_batchOutput (s : State) (w : Who) (b : List Byte) (p : AttPar) (r : List Byte) (root : List AttRow) :
    (kept (batchOutput s w b p r root).1).1 = (kept s).1 := by
  simp [batchOutput]

@[simp ↓] theorem kept_freeAppend (s : State) (w : Who) (ring desc : Nat) :
    (kept (freeAppend s w ring desc).1).1 = (kept s).1 := by
  unfold freeAppend
  simp

@[simp ↓] theorem kept_batchUpds (s : State) (us : List ScoreUpd) : (kept (batchUpds s us).1).1 = (kept s).1 := by
  refine kept1_foldl_of _ _ _ fun r u t ht => ?_
  dsimp only at ht
  split at ht <;> rw [← ht]
  · exact kept1_pair _ ((kept_clearRmw _ _).trans (kept_scoreRmw r.1 u))
  · exact kept1_pair _ (kept_scoreRmw r.1 u)

@[simp ↓] theorem kept_scoreChunk (s : State) (part t : Nat) (b : List Byte) (p : AttPar) (root : List AttRow) (code : Nat) :
    (kept (scoreChunk s part t b p root code).1).1 = (kept s).1 := by
  simp only [scoreChunk]
  split
  · simp
  · rw [kept_setLastSt, kept_overPages]
    · simp
    · intro s c g code
      dsimp only
      split <;> simp

@[simp ↓] theorem kept_batchScore (s : State) (part : Nat) (b : List Byte) (p : AttPar) (r : List Byte)
    (root : List AttRow) (ts : List Nat) (x : BRun) :
    (kept (batchScore s part b p r root ts x).1).1 = (kept s).1 := by
  simp [batchScore]

@[simp ↓] theorem kept_finishSeq (s : State) (part : Nat) (b r : List Byte) (ts : List Nat) (x : BRun) :
    (kept (finishSeq s part b r ts x).1).1 = (kept s).1 := by
  unfold finishSeq
  simp

@[simp ↓] theorem kept_runSeq (s : State) (part : Nat) (b : List Byte) (ts : List Nat) (r : List Byte) :
    (kept (runSeq s part b ts r).1).1 = (kept s).1 := by
  unfold runSeq
  simp

@[simp ↓] theorem kept_readRecords (s : State) (part : Nat) (b : List Byte) : (kept (readRecords s part b).1).1 = (kept s).1 := by
  simp [readRecords]

@[simp ↓] theorem kept_runPasses (s : State) (part : Nat) (b : List Byte) (ts : List Nat) (qs : List BSeq) :
    (kept (runPasses s part b ts qs).1).1 = (kept s).1 := by
  unfold runPasses
  refine kept1_foldl_fst _ _ _ fun r a => ?_
  simp

@[simp ↓] theorem kept_setRing7 (s : State) (t : Nat) (on : Bool) : kept (setRing7 s t on) = kept s := by simp [setRing7]

@[simp ↓] theorem kept_undefineUpper (s : State) (t : Nat) : kept (undefineUpper s t) = kept s := by simp [undefineUpper]

@[simp ↓] theorem kept_batchRelease (s : State) (ts : List Nat) : kept (batchRelease s ts) = kept s := by simp [batchRelease]

@[simp ↓] theorem kept_batchEnd (s : State) (p id : Nat) (ts : List Nat) (status detail : Nat) :
    kept (batchEnd s p id ts status detail) = kept s := by
  simp [batchEnd]

@[simp ↓] theorem kept_batchDone (s : State) (p id : Nat) (ts : List Nat) (code idx : Nat) :
    kept (batchDone s p id ts code idx) = kept s := by
  simp [batchDone]

/-! ### The functions of Sys2Proof/Machine/Holds.lean -/

@[simp ↓] theorem kept_setScans (s : State) (c : Nat) (l : List (Nat × Nat)) : kept (setScans s c l) = kept s := by
  simp [setScans]

@[simp ↓] theorem settles_starting (op : Nat) (s : State) (p sq : Nat) (body : State → Cmd → State)
    (h : ∀ s c, (kept (body s c)).1 = (kept s).1) : Settles s (.next (starting op s p sq body)) := by
  unfold starting
  split
  · split
    · exact settles_whole _ _ (by simp [h])
    · simp
  · simp

/-! ### The functions of Sys2Proof/Machine/Queues.lean -/

@[simp ↓] theorem kept_sqError (s : State) (p q : Nat) : kept (sqError s p q) = kept s := by simp [sqError]

@[simp ↓] theorem kept_cqError (s : State) (p q : Nat) : kept (cqError s p q) = kept s := by simp [cqError]

@[simp ↓] theorem settles_execSqDoorbell (fn part q : Nat) (v : DWord) (s : State) :
    Settles s (execSqDoorbell fn part q v s) := by
  simp [execSqDoorbell]

@[simp ↓] theorem settles_execCqDoorbell (fn part q : Nat) (v : DWord) (s : State) :
    Settles s (execCqDoorbell fn part q v s) := by
  simp [execCqDoorbell]

@[simp ↓] theorem settles_execSqEntryFetch (part sq : Nat) (s : State) : Settles s (execSqEntryFetch part sq s) := by
  unfold execSqEntryFetch
  dsimp only
  split
  · split
    · simp
    · split <;> simp
  · simp

@[simp ↓] theorem settles_execStart (fn part : Nat) (s : State) : Settles s (execStart fn part s) := by simp [execStart]

@[simp ↓] theorem settles_execStop (fn part : Nat) (s : State) : Settles s (execStop fn part s) := by simp [execStop]

@[simp ↓] theorem settles_execResume (fn part : Nat) (s : State) : Settles s (execResume fn part s) := by simp [execResume]

@[simp ↓] theorem kept_takeEngineFault (s : State) (p cause : Nat) (c : Option Cmd) :
    kept (takeEngineFault s p cause c) = kept s := by
  simp [takeEngineFault]

@[simp ↓] theorem settles_execHang (fn part : Nat) (s : State) : Settles s (execHang fn part s) := by simp [execHang]

@[simp ↓] theorem kept_watchdogFault (s : State) (p : Nat) : kept (watchdogFault s p) = kept s := by simp [watchdogFault]

@[simp ↓] theorem kept_expire (s : State) (part : Nat) (c : Cmd) : kept (expire s part c) = kept s := by simp [expire]

@[simp ↓] theorem settles_execCommandTimeout (part : Nat) (cnt : Counters) (s : State) :
    Settles s (execCommandTimeout part cnt s) := by
  unfold execCommandTimeout
  split <;> simp

@[simp ↓] theorem settles_execWatchdogTest (part : Nat) (flagged : Bool) (s : State) :
    Settles s (execWatchdogTest part flagged s) := by
  simp [execWatchdogTest]

@[simp ↓] theorem kept_cancelEntry (s : State) (p sq idx : Nat) : kept (cancelEntry s p sq idx) = kept s := by
  unfold cancelEntry
  split <;> simp

@[simp ↓] theorem kept_cancelLate (s : State) (p sq idx : Nat) : kept (cancelLate s p sq idx) = kept s := by simp [cancelLate]

@[simp ↓] theorem settles_execCancel (fn part : Nat) (v : DWord) (s : State) : Settles s (execCancel fn part v s) := by
  simp [execCancel]

@[simp ↓] theorem settles_execFenceCommand (part sq : Nat) (s : State) : Settles s (execFenceCommand part sq s) := by
  simp [execFenceCommand]

@[simp ↓] theorem settles_execNote (part sq : Nat) (s : State) : Settles s (execNote part sq s) := by simp [execNote]

/-! ### The functions of Sys2Proof/Machine/Launch.lean -/

@[simp ↓] theorem kept_launchGo (part : Nat) (s : State) (c : Cmd) : (kept (launchGo part s c)).1 = (kept s).1 := by
  unfold launchGo
  simp

@[simp ↓] theorem settles_execLaunch (part sq : Nat) (s : State) : Settles s (execLaunch part sq s) := by simp [execLaunch]

@[simp ↓] theorem kept_loadTile (s : State) (t : Nat) (c : Cmd) (l : LaunchRef) : kept (loadTile s t c l) = kept s := by
  simp [loadTile]

@[simp ↓] theorem settles_execTileProgramLoad (t part cmd : Nat) (s : State) : Settles s (execTileProgramLoad t part cmd s) := by
  unfold execTileProgramLoad
  split <;> simp

@[simp ↓] theorem settles_execTileReport (t part cmd : Nat) (s : State) : Settles s (execTileReport t part cmd s) := by
  unfold execTileReport
  split <;> simp

@[simp ↓] theorem kept_markPinned (s : State) (st k lam : Nat) (v : Bool) : kept (markPinned s st k lam v) = kept s := by
  unfold markPinned
  split <;> simp

@[simp ↓] theorem kept_pinLine (s : State) (p lam : Nat) : (kept (pinLine s p lam).1).1 = (kept s).1 := by
  unfold pinLine
  split <;> simp

@[simp ↓] theorem settles_execPin (part sq : Nat) (s : State) : Settles s (execPin part sq s) := by simp [execPin]

@[simp ↓] theorem settles_execUnpin (part sq : Nat) (s : State) : Settles s (execUnpin part sq s) := by
  refine settles_starting _ _ _ _ _ fun s c => ?_
  split
  · simp
  · rw [kept_complete]
    refine congrArg Prod.fst (kept_foldl _ _ _ fun s lam => ?_)
    split <;> simp

@[simp ↓] theorem kept_bar2ReadPiece (s : State) (fn a n : Nat) : (kept (bar2ReadPiece s fn a n).1).1 = (kept s).1 := by
  have hr := kept_readPiece s (bar2Who fn) a n
  have e := bar2ReadPiece.eq_1 s fn a n
  dsimp only at e
  rw [e]
  split
  · split
    · rw [kept_drawBytes, hr]
    · exact kept1_pair _ hr
  · simp

@[simp ↓] theorem settles_execBar2Read (fn off len : Nat) (s : State) : Settles s (execBar2Read fn off len s) := by
  unfold execBar2Read
  split
  · refine settles_whole _ _ ?_
    rw [kept_with]
    refine kept1_foldl_fst _ _ _ fun r pc => ?_
    exact kept1_pair _ (kept_bar2ReadPiece r.1 fn pc.1 pc.2)
  · simp

@[simp ↓] theorem settles_execBar2Write (fn off : Nat) (bytes : List Byte) (s : State) :
    Settles s (execBar2Write fn off bytes s) := by
  simp [execBar2Write]

/-! ### The functions of Sys2Proof/Machine/Cvu.lean -/

@[simp ↓] theorem kept_aliveCount (s : State) (c : Nat) (r : AliveRes) : kept (aliveCount s c r) = kept s := by
  unfold aliveCount
  split <;> simp

@[simp ↓] theorem kept_readStream (s : State) (c : Nat) (x : Stream) : kept (readStream s c x).1 = kept s := by
  unfold readStream
  split <;> simp

@[simp ↓] theorem kept_loadStream (s : State) (c k : Nat) : kept (loadStream s c k) = kept s := by simp [loadStream]

@[simp ↓] theorem kept_startScan (n : Nat) (s : State) (c : Nat) : (kept (startScan n s c)).1 = (kept s).1 := by
  induction n generalizing s with
  | zero => rfl
  | succ n ih =>
    unfold startScan
    split
    · rfl
    · split <;> simp [ih]

@[simp ↓] theorem settles_execCvuScan (part sq : Nat) (s : State) : Settles s (execCvuScan part sq s) := by simp [execCvuScan]

@[simp ↓] theorem kept_scanBytes (s : State) (p a n : Nat) : (kept (scanBytes s p a n).1).1 = (kept s).1 := by
  refine kept1_foldl_of _ _ _ fun r pc t ht => ?_
  have hx := kept_readPiece r.1 (scanWho p) pc.1 pc.2
  dsimp only at ht
  split at ht
  · rw [← ht]
  · split at ht <;> rw [← ht] <;> exact kept1_pair _ hx

@[simp ↓] theorem kept_scanFinish (s : State) (p : Nat) (m : Cmd) (cv res gaps n status : Nat) :
    (kept (scanFinish s p m cv res gaps n status)).1 = (kept s).1 := by
  simp [scanFinish]

@[simp ↓] theorem settles_execCvuScanDone (ch : Nat) (s₀ : State) : Settles s₀ (execCvuScanDone ch s₀) := by
  simp only [execCvuScanDone]
  split
  · simp
  · split <;> simp

/-! ### The functions of Sys2Proof/Machine/Surf.lean -/

@[simp ↓] theorem kept_setPort6 (s : State) (p x : Nat) : kept (setPort6 s p x) = kept s := by simp [setPort6]

@[simp ↓] theorem kept_setSpace (s : State) (p dev : Nat) (x : SeqSpace) : kept (setSpace s p dev x) = kept s := by
  simp [setSpace]

@[simp ↓] theorem kept_addCtl (s : State) (p dev : Nat) (f : Frame) : kept (addCtl s p dev f) = kept s := by simp [addCtl]

@[simp ↓] theorem kept_refreshSlotted (s : State) : kept (refreshSlotted s) = kept s := by simp [refreshSlotted]

@[simp ↓] theorem kept_dropFrames (s : State) (id : Nat) : kept (dropFrames s id) = kept s := by simp [dropFrames]

@[simp ↓] theorem kept_finishCopy (s : State) (p : Nat) (m : Cmd) : kept (finishCopy s p m) = kept s := by
  unfold finishCopy
  split <;> simp

@[simp ↓] theorem kept_endOut (s : State) (x : XferOut) (status gaps : Nat) : kept (endOut s x status gaps) = kept s := by
  unfold endOut
  split
  · split
    · simp
    · dsimp only
      split <;> simp
  · split
    · simp
    · dsimp only
      split <;> simp

@[simp ↓] theorem kept_startOut (s : State) (x : XferOut) : kept (startOut s x) = kept s := by simp [startOut]

@[simp ↓] theorem kept_startOuts (s : State) : kept (startOuts s) = kept s := by simp [startOuts]

@[simp ↓] theorem kept_endXfer (s : State) (x : XferOut) (status gaps : Nat) : kept (endXfer s x status gaps) = kept s := by
  simp [endXfer]

@[simp ↓] theorem kept_readSector (s : State) (port : Nat) (x : XferOut) (n : Nat) :
    (kept (readSector s port x n).1).1 = (kept s).1 := by
  unfold readSector
  simp

@[simp ↓] theorem kept_sectorPayload (s : State) (x : XferOut) (n : Nat) (bs : List Byte) :
    kept (sectorPayload s x n bs).1 = kept s := by
  simp [sectorPayload]

@[simp ↓] theorem kept_readWhole (s : State) (port : Nat) (x : XferOut) : (kept (readWhole s port x).1).1 = (kept s).1 := by
  simp [readWhole]

@[simp ↓] theorem kept_noteFail (s : State) (x : XferOut) (st : ReplySt) (a : Nat) : kept (noteFail s x st a) = kept s := by
  unfold noteFail
  split <;> simp

@[simp ↓] theorem kept_loseXfer (s : State) (f : Frame) : kept (loseXfer s f) = kept s := by
  unfold loseXfer
  split
  · simp
  · split <;> simp

@[simp ↓] theorem kept_abandonSent (s : State) (p dev : Nat) (f : Frame) : kept (abandonSent s p dev f) = kept s := by
  simp [abandonSent]

@[simp ↓] theorem kept_movePort (s : State) (p dev q : Nat) : kept (movePort s p dev q).1 = kept s := by simp [movePort]

@[simp ↓] theorem kept_moveSent (s : State) (p : Nat) (e : Nat × Frame) : kept (moveSent s p e) = kept s := by
  have hm := kept_movePort s p e.1 e.2.queue
  simp only [moveSent]
  split
  · next h => rw [h] at hm; simp [hm]
  · next h => rw [h] at hm; simp [hm]

@[simp ↓] theorem kept_moveNew (s : State) (p q : Nat) (e : Nat × Frame) : kept (moveNew s p q e) = kept s := by
  have hm := kept_movePort s p e.1 q
  simp only [moveNew]
  split
  · next h => rw [h] at hm; simp [hm]
  · next h => rw [h] at hm; simp [hm]

@[simp ↓] theorem kept_moveFrames (s : State) (p : Nat) : kept (moveFrames s p) = kept s := by simp [moveFrames]

@[simp ↓] theorem kept_beginTraining (s : State) (p : Nat) : kept (beginTraining s p) = kept s := by simp [beginTraining]

@[simp ↓] theorem kept_enterRetrain (s : State) (p : Nat) : kept (enterRetrain s p) = kept s := by simp [enterRetrain]

@[simp ↓] theorem kept_leaveUp (s : State) (p : Nat) : kept (leaveUp s p) = kept s := by simp [leaveUp]

@[simp ↓] theorem kept_enterTrain (s : State) (p : Nat) : kept (enterTrain s p) = kept s := by simp [enterTrain]

/-! ### The functions of Sys2Proof/Machine/SurfSend.lean -/

@[simp ↓] theorem kept_emit (s : State) (p dev : Nat) (f : Frame) : kept (emit s p dev f) = kept s := by simp [emit]

@[simp ↓] theorem kept_sendNumbered (s : State) (p dev : Nat) (f : Frame) : kept (sendNumbered s p dev f) = kept s := by
  simp [sendNumbered]

@[simp ↓] theorem kept_grantDma (s : State) (p q : Nat) : kept (grantDma s p q) = kept s := by
  unfold grantDma
  split <;> simp

@[simp ↓] theorem kept_fillFrame (s : State) (p : Nat) (f : Frame) : (kept (fillFrame s p f).1).1 = (kept s).1 := by
  unfold fillFrame
  split
  · simp
  · split
    · dsimp only
      split <;> simp
    · split
      · split <;> simp
      · simp

@[simp ↓] theorem kept_sendNew (s : State) (p dev : Nat) (f : Frame) : (kept (sendNew s p dev f)).1 = (kept s).1 := by
  simp [sendNew]

@[simp ↓] theorem kept_readReplay (s : State) (p dev : Nat) (f : Frame) : kept (readReplay s p dev f).1 = kept s := by
  unfold readReplay
  split <;> simp

@[simp ↓] theorem kept_resendFrame (s : State) (p dev seq : Nat) : kept (resendFrame s p dev seq) = kept s := by
  unfold resendFrame
  split <;> simp

@[simp ↓] theorem kept_sendCtl (s : State) (p : Nat) (e : Nat × Frame) : (kept (sendCtl s p e)).1 = (kept s).1 := by
  unfold sendCtl
  simp

@[simp ↓] theorem settles_execFrameSend (port : Nat) (s : State) : Settles s (execFrameSend port s) := by
  unfold execFrameSend
  split
  · simp
  · split
    · simp
    · split
      · split <;> simp
      · simp

@[simp ↓] theorem settles_execHelloTimer (port : Nat) (s : State) : Settles s (execHelloTimer port s) := by simp [execHelloTimer]

@[simp ↓] theorem kept_trainedPort (s : State) (p d q : Nat) : kept (trainedPort s p d q) = kept s := by simp [trainedPort]

@[simp ↓] theorem kept_saveTraining (s : State) (k : Nat) (v : List Byte) : kept (saveTraining s k v) = kept s := by
  simp [saveTraining]

@[simp ↓] theorem settles_execTrainingEnd (port : Nat) (res : TrainResult) (s : State) :
    Settles s (execTrainingEnd port res s) := by
  unfold execTrainingEnd
  split
  · simp
  · split <;> simp

@[simp ↓] theorem kept_requestRetrain (s : State) (p : Nat) : kept (requestRetrain s p) = kept s := by simp [requestRetrain]

@[simp ↓] theorem settles_execBlockLockLoss (port : Nat) (s : State) : Settles s (execBlockLockLoss port s) := by
  simp [execBlockLockLoss]

@[simp ↓] theorem settles_execFecErrorRatio (rep : FecReport) (s : State) : Settles s (execFecErrorRatio rep s) := by
  simp [execFecErrorRatio]

@[simp ↓] theorem settles_execLnkRetrain (fn port : Nat) (s : State) : Settles s (execLnkRetrain fn port s) := by
  simp [execLnkRetrain]

@[simp ↓] theorem kept_clearPort (s : State) (p : Nat) : kept (clearPort s p) = kept s := by simp [clearPort]

@[simp ↓] theorem settles_execLnkReset (fn port : Nat) (s : State) : Settles s (execLnkReset fn port s) := by simp [execLnkReset]

/-! ### The functions of Sys2Proof/Machine/AttnRing.lean -/

@[simp ↓] theorem kept_stepScans (s : State) (part : Nat) (b : List Byte) (qs : List BSeq) (ts : List Nat) (r : Nat) :
    (kept (stepScans s part b qs ts r).1).1 = (kept s).1 := by
  simp [stepScans]

@[simp ↓] theorem kept_pageSends (s : State) (part : Nat) (b : List Byte) (qs : List BSeq) (r : Nat) (q : BSeq) (n : Nat) :
    (kept (pageSends s part b qs r q n).1).1 = (kept s).1 := by
  unfold pageSends
  dsimp only
  split <;> simp

@[simp ↓] theorem kept_addRange (s : State) (p cmd dev src dst n : Nat) (pull : Bool) :
    kept (addRange s p cmd dev src dst n pull).1 = kept s := by
  simp [addRange]

@[simp ↓] theorem kept_ringSend (s : State) (part : Nat) (c : Cmd) (r : Nat) : (kept (ringSend s part c r)).1 = (kept s).1 := by
  simp only [ringSend, kept1_ite, kept_startOuts, kept_updCmd, ite_self]
  refine kept1_foldl_fst _ _ _ fun x q => ?_
  simp

@[simp ↓] theorem kept_ringStep (s : State) (part : Nat) (c : Cmd) (r : Nat) : (kept (ringStep s part c r)).1 = (kept s).1 := by
  unfold ringStep
  simp

@[simp ↓] theorem kept_ringFinish (s : State) (part : Nat) (c : Cmd) : (kept (ringFinish s part c)).1 = (kept s).1 := by
  simp only [ringFinish, kept_batchDone]
  refine kept1_foldl_fst _ _ _ fun r q => ?_
  split <;> simp

@[simp ↓] theorem kept_batchGo (part : Nat) (s : State) (c : Cmd) : (kept (batchGo part s c)).1 = (kept s).1 := by
  unfold batchGo
  dsimp only
  split
  · simp
  · split <;> simp

@[simp ↓] theorem settles_execAttnBatch (part sq : Nat) (s : State) : Settles s (execAttnBatch part sq s) := by
  simp [execAttnBatch]

@[simp ↓] theorem settles_execRingStepEnd (part cmd : Nat) (s : State) : Settles s (execRingStepEnd part cmd s) := by
  unfold execRingStepEnd
  split <;> simp

@[simp ↓] theorem kept_ringLose (s : State) (part : Nat) (c : Cmd) : kept (ringLose s part c) = kept s := by simp [ringLose]

@[simp ↓] theorem settles_execBlockAbandon (part cmd : Nat) (s : State) : Settles s (execBlockAbandon part cmd s) := by
  unfold execBlockAbandon
  split <;> simp

@[simp ↓] theorem kept_ringGap (s : State) (p dst : Nat) : kept (ringGap s p dst) = kept s := by
  unfold ringGap
  split <;> simp

/-! ### The functions of Sys2Proof/Machine/SurfRecv.lean -/

@[simp ↓] theorem kept_takeAck (s : State) (p dev ack : Nat) : kept (takeAck s p dev ack) = kept s := by simp [takeAck]

@[simp ↓] theorem kept_noteSeq (s : State) (p dev n : Nat) : kept (noteSeq s p dev n) = kept s := by simp [noteSeq]

@[simp ↓] theorem kept_updIn (s : State) (id : Nat) (f : XferIn → XferIn) : kept (updIn s id f) = kept s := by simp [updIn]

@[simp ↓] theorem kept_dropIn (s : State) (id : Nat) : kept (dropIn s id) = kept s := by simp [dropIn]

@[simp ↓] theorem kept_queueAck (s : State) (p dev xid q status : Nat) (gaps : List Nat) :
    kept (queueAck s p dev xid q status gaps) = kept s := by
  simp [queueAck]

@[simp ↓] theorem kept_endIn (s : State) (x : XferIn) (status : Nat) : kept (endIn s x status) = kept s := by
  unfold endIn
  split
  · dsimp only
    split <;> simp
  · dsimp only
    split <;> simp

@[simp ↓] theorem kept_surfAlive (s : State) (x : XferIn) (port : Nat) (cv : Option (BitVec 64)) :
    kept (surfAlive s x port cv).1 = kept s := by
  simp [surfAlive]

@[simp ↓] theorem kept_settleIn (s : State) (id : Nat) : kept (settleIn s id) = kept s := by
  unfold settleIn
  split <;> simp

@[simp ↓] theorem kept_writeSector (s : State) (p : Nat) (x : XferIn) (n : Nat) (pay : List Byte) :
    kept (writeSector s p x n pay) = kept s := by
  simp [writeSector]

@[simp ↓] theorem kept_freeEntry (s : State) (p dev q : Nat) : kept (freeEntry s p dev q) = kept s := by simp [freeEntry]

@[simp ↓] theorem kept_takePart (s : State) (p : Nat) (x : XferIn) (f : Frame) : kept (takePart s p x f) = kept s := by
  unfold takePart
  split <;> simp

@[simp ↓] theorem kept_takeWaiting (s : State) (dev xid : Nat) : kept (takeWaiting s dev xid) = kept s := by
  unfold takeWaiting
  dsimp only
  refine kept_foldl _ _ _ fun s a => ?_
  split
  · simp
  · refine kept_foldl _ _ _ fun s a => ?_
    split <;> simp

@[simp ↓] theorem kept_takeOpen (s : State) (p dev xid : Nat) (pay : List Byte) : kept (takeOpen s p dev xid pay) = kept s := by
  simp [takeOpen]

@[simp ↓] theorem kept_takeCloseAck (s : State) (dev xid : Nat) (pay : List Byte) :
    kept (takeCloseAck s dev xid pay) = kept s := by
  unfold takeCloseAck
  split <;> simp

@[simp ↓] theorem kept_receive (s : State) (ty p dev : Nat) (h : BitVec 48) (pay : List Byte) (k : State → Nat → State)
    (hk : ∀ s d, kept (k s d) = kept s) : kept (receive s ty p dev h pay k) = kept s := by
  simp [receive, hk]

@[simp ↓] theorem kept_receivePart (s : State) (ty p dev : Nat) (h : BitVec 48) (pay : List Byte) :
    kept (receivePart s ty p dev h pay) = kept s := by
  refine kept_receive _ _ _ _ _ _ _ fun s d => ?_
  dsimp only
  split <;> simp

@[simp ↓] theorem settles_execIdleF (port dev : Nat) (hdr : BitVec 48) (pay : List Byte) (s : State) :
    Settles s (execIdleF port dev hdr pay s) := by
  simp [execIdleF]

@[simp ↓] theorem settles_execDataF (port dev : Nat) (hdr : BitVec 48) (pay : List Byte) (s : State) :
    Settles s (execDataF port dev hdr pay s) := by
  simp [execDataF]

@[simp ↓] theorem settles_execOpenF (port dev : Nat) (hdr : BitVec 48) (pay : List Byte) (s : State) :
    Settles s (execOpenF port dev hdr pay s) := by
  simp [execOpenF]

@[simp ↓] theorem settles_execCloseF (port dev : Nat) (hdr : BitVec 48) (pay : List Byte) (s : State) :
    Settles s (execCloseF port dev hdr pay s) := by
  simp [execCloseF]

@[simp ↓] theorem settles_execCloseAck (port dev : Nat) (hdr : BitVec 48) (pay : List Byte) (s : State) :
    Settles s (execCloseAck port dev hdr pay s) := by
  simp [execCloseAck]

@[simp ↓] theorem settles_execAbandon (port dev : Nat) (hdr : BitVec 48) (pay : List Byte) (s : State) :
    Settles s (execAbandon port dev hdr pay s) := by
  simp [execAbandon]

@[simp ↓] theorem kept_askResend (s : State) (p dev seq : Nat) : kept (askResend s p dev seq) = kept s := by
  unfold askResend
  split <;> simp

@[simp ↓] theorem settles_execNak (port dev : Nat) (hdr : BitVec 48) (pay : List Byte) (s : State) :
    Settles s (execNak port dev hdr pay s) := by
  simp [execNak]

@[simp ↓] theorem settles_execCredit (port dev : Nat) (hdr : BitVec 48) (pay : List Byte) (s : State) :
    Settles s (execCredit port dev hdr pay s) := by
  simp [execCredit]

@[simp ↓] theorem settles_execHello (port dev : Nat) (hdr : BitVec 48) (pay : List Byte) (s : State) :
    Settles s (execHello port dev hdr pay s) := by
  refine settles_next _ _ (kept_receive _ _ _ _ _ _ _ fun s d => ?_)
  simp

@[simp ↓] theorem settles_execRetrainReq (port dev : Nat) (hdr : BitVec 48) (pay : List Byte) (s : State) :
    Settles s (execRetrainReq port dev hdr pay s) := by
  simp [execRetrainReq]

@[simp ↓] theorem settles_execBadFrame (port : Nat) (why : BadFrame) (s : State) : Settles s (execBadFrame port why s) := by
  simp [execBadFrame]

@[simp ↓] theorem settles_execRtoExpiry (port dev seq : Nat) (nak : Bool) (s : State) :
    Settles s (execRtoExpiry port dev seq nak s) := by
  unfold execRtoExpiry
  split
  · simp
  · split
    · simp
    · dsimp only
      split <;> simp

@[simp ↓] theorem kept_readWritten (s : State) (port : Nat) (x : XferIn) : (kept (readWritten s port x).1).1 = (kept s).1 := by
  simp [readWritten]

@[simp ↓] theorem settles_execCvuTransferCheck (id : Nat) (s : State) : Settles s (execCvuTransferCheck id s) := by
  unfold execCvuTransferCheck
  split
  · simp
  · split <;> simp

@[simp ↓] theorem settles_execClrstrm (fn : Nat) (s : State) : Settles s (execClrstrm fn s) := by simp [execClrstrm]

/-! ### The functions of Sys2Proof/Machine/Copy.lean -/

@[simp ↓] theorem kept_copyPiece (p src dst : Nat) (r : State × AccSt) (pc : Nat × Nat) :
    (kept (copyPiece p src dst r pc).1).1 = (kept r.1).1 := by
  have hx := kept_readPiece r.1 (copyWho p) pc.1 pc.2
  have e := copyPiece.eq_1 p src dst r pc
  dsimp only at e
  rw [e]
  split
  · exact kept1_pair _ ((kept_devWrite _ _ _ _).trans hx)
  · exact kept1_pair _ hx

@[simp ↓] theorem kept_copyLocal (s : State) (p src dst n : Nat) :
    (kept (copyLocal s p src dst n).1).1 = (kept s).1 := kept1_foldl_fst _ _ _ fun r pc => kept_copyPiece p src dst r pc

@[simp ↓] theorem kept_copyPeer (s : State) (p : Nat) (m : Cmd) (dev src dst n : Nat) (pull : Bool) :
    kept (copyPeer s p m dev src dst n pull) = kept s := by
  simp [copyPeer]

@[simp ↓] theorem kept_copyGo (part : Nat) (s : State) (c : Cmd) : (kept (copyGo part s c)).1 = (kept s).1 := by
  rw [copyGo]
  split
  · simp
  · split
    · simp
    · simp
    · extract_lets r
      split <;> simp [r]

@[simp ↓] theorem settles_execCopy (part sq : Nat) (s : State) : Settles s (execCopy part sq s) := by simp [execCopy]

/-! ### The functions of Sys2Proof/Machine/Power.lean -/

@[simp ↓] theorem kept_setPwrState (s : State) (x : Nat) : kept (setPwrState s x) = kept s := by simp [setPwrState]

@[simp ↓] theorem kept_enableRail (s : State) (r : Nat) (b : Bool) : kept (enableRail s r b) = kept s := by simp [enableRail]

@[simp ↓] theorem kept_setRail (s : State) (r : Nat) (b : Bool) : kept (setRail s r b) = kept s := by
  unfold setRail
  simp

@[simp ↓] theorem kept_dropRail (s : State) (r : Nat) : kept (dropRail s r) = kept s := by simp [dropRail]

@[simp ↓] theorem kept_driveNotice (s : State) (c : Nat) : kept (driveNotice s c) = kept s := by simp [driveNotice]

@[simp ↓] theorem kept_writeCell (s : State) (cause src : Nat) (temp : BitVec 16) :
    kept (writeCell s cause src temp) = kept s := by
  simp [writeCell]

@[simp ↓] theorem kept_writeCellFree (s : State) (cause src : Nat) : kept (writeCellFree s cause src) = kept s := by
  simp [writeCellFree]

@[simp ↓] theorem kept_startEbb (s : State) : kept (startEbb s) = kept s := by simp [startEbb]

@[simp ↓] theorem kept_recordShutdown (s : State) : kept (recordShutdown s) = kept s := by simp [recordShutdown]

@[simp ↓] theorem kept_railsDown (s : State) : kept (railsDown s) = kept s := by simp [railsDown]

@[simp ↓] theorem settles_execHeaderSwitchGroup (dom : PowerDomain × Supply) (close : Bool) (s : State) :
    Settles s (execHeaderSwitchGroup dom close s) := by
  simp [execHeaderSwitchGroup]

@[simp ↓] theorem kept_nextFlood (s : State) : kept (nextFlood s) = kept s := by
  unfold nextFlood
  dsimp only
  split <;> simp

@[simp ↓] theorem settles_execPowerGood (rail : Nat) (s : State) : Settles s (execPowerGood rail s) := by simp [execPowerGood]

@[simp ↓] theorem kept_floodCell (s : State) : kept (floodCell s) = kept s := by
  unfold floodCell
  split <;> simp

@[simp ↓] theorem settles_execRailFail (rail : Nat) (belowRst : Bool) (s : State) : Settles s (execRailFail rail belowRst s) := by
  simp [execRailFail]

@[simp ↓] theorem settles_execEbbStep (s : State) : Settles s (execEbbStep s) := by
  unfold execEbbStep
  split
  · simp
  · split <;> simp

@[simp ↓] theorem settles_execPowerLoop (volts : RailVolts) (amps : List Nat) (s : State) :
    Settles s (execPowerLoop volts amps s) := by
  unfold execPowerLoop
  split
  · simp
  · extract_lets a s1 w v mw total share q d
    have h1 : kept s1 = kept s := by simp [s1]
    simp [h1]

@[simp ↓] theorem settles_execBrownout (rail : Nat) (s : State) : Settles s (execBrownout rail s) := by simp [execBrownout]

@[simp ↓] theorem settles_execBrownoutEnd (s : State) : Settles s (execBrownoutEnd s) := by simp [execBrownoutEnd]

@[simp ↓] theorem kept_scanRail (s : State) (r : Nat) (amps : List Nat) (faults : BitVec 64) :
    kept (scanRail s r amps faults) = kept s := by
  simp [scanRail]

@[simp ↓] theorem settles_execPhaseScan (amps : List (List Nat)) (faults : List (BitVec 64)) (s : State) :
    Settles s (execPhaseScan amps faults s) := by
  simp [execPhaseScan]

/-! ### The functions of Sys2Proof/Machine/Heat.lean -/

@[simp ↓] theorem kept_setTemp (s : State) (n : Nat) (t : ℤ) : kept (setTemp s n t) = kept s := by simp [setTemp]

@[simp ↓] theorem kept_breakSensor (s : State) (n : Nat) : kept (breakSensor s n) = kept s := by simp [breakSensor]

@[simp ↓] theorem kept_trip (s : State) (cause src : Nat) (t : ℤ) : kept (trip s cause src t) = kept s := by simp [trip]

@[simp ↓] theorem kept_moveTerm (s : State) (n : Nat) : kept (moveTerm s n) = kept s := by simp [moveTerm]

@[simp ↓] theorem kept_sampleSensor (s : State) (n : Nat) (c : Option ℤ) : kept (sampleSensor s n c) = kept s := by
  unfold sampleSensor
  split <;> simp

@[simp ↓] theorem kept_tripCheck (s : State) (n : Nat) : kept (tripCheck s n) = kept s := by simp [tripCheck]

@[simp ↓] theorem settles_execThermalSample (unit : Nat) (codes : List (Option ℤ)) (s : State) :
    Settles s (execThermalSample unit codes s) := by
  unfold execThermalSample
  split <;> simp

@[simp ↓] theorem settles_execSensorResample (n : Nat) (code : Option ℤ) (s : State) :
    Settles s (execSensorResample n code s) := by
  unfold execSensorResample
  split
  · simp
  · split <;> simp

@[simp ↓] theorem settles_execHbmTempSample (ctrl : Nat) (degC limit maximum : ℤ) (s : State) :
    Settles s (execHbmTempSample ctrl degC limit maximum s) := by
  simp [execHbmTempSample]

@[simp ↓] theorem kept_clearRecord (s : State) : kept (clearRecord s) = kept s := by simp [clearRecord]

@[simp ↓] theorem settles_execThmClear (fn : Nat) (s : State) : Settles s (execThmClear fn s) := by simp [execThmClear]

/-! ### The functions of Sys2Proof/Machine/Integrity.lean -/

@[simp ↓] theorem kept_scrubCw (r : State × ScrubSum) (cw : Nat) :
    kept (scrubCw r cw).1 = kept r.1 := by simp [scrubCw]

@[simp ↓] theorem kept_scrubGran (r : State × ScrubSum) (gran : Nat) :
    (kept (scrubGran r gran).1).1 = (kept r.1).1 := by simp [scrubGran]

@[simp ↓] theorem kept_scrubWord (st k key j sec : Nat) (r : State × ScrubSum) (w : Nat) :
    kept (scrubWord st k key j sec r w).1 = kept r.1 := by simp [scrubWord]

@[simp ↓] theorem kept_scrubSec (st k key j : Nat) (r : State × ScrubSum) :
    kept (scrubSec st k key j r).1 = kept r.1 := by simp [scrubSec]

@[simp ↓] theorem kept_scrubShelfSec (r : State × ScrubSum) (sec : Nat) :
    (kept (scrubShelfSec r sec).1).1 = (kept r.1).1 := by
  unfold scrubShelfSec
  split
  · rfl
  · extract_lets s1 r1
    have h1 : (kept r1.1).1 = (kept r.1).1 := by
      simp only [r1, kept_fst_ite]
      split <;> simp [s1]
    split <;> simp [h1]

@[simp ↓] theorem settles_execScrub (part sq : Nat) (s : State) : Settles s (execScrub part sq s) := by simp [execScrub]

@[simp ↓] theorem kept_scrubStart (s : State) (e k : Nat) : kept (scrubStart s e k) = kept s := by simp [scrubStart]

@[simp ↓] theorem kept_scrubSet (st set : Nat) (r : State × ScrubSum) : (kept (scrubSet st set r).1).1 = (kept r.1).1 := by
  refine kept1_foldl_fst _ _ _ fun r k => ?_
  simp

@[simp ↓] theorem kept_scrubUnit (e base : Nat) (r : State × ScrubSum) (i : Nat) :
    (kept (scrubUnit e base r i).1).1 = (kept r.1).1 := by
  unfold scrubUnit
  extract_lets r1
  have h1 : (kept r1.1).1 = (kept r.1).1 := by simp [r1]
  split
  · split <;> simp [h1]
  · split <;> simp [h1]

@[simp ↓] theorem settles_execScrubSliceEnd (engine done : Nat) (s₀ : State) : Settles s₀ (execScrubSliceEnd engine done s₀) := by
  unfold execScrubSliceEnd
  dsimp only
  split <;> simp

@[simp ↓] theorem kept_bistStart (s : State) (u kind : Nat) : kept (bistStart s u kind) = kept s := by simp [bistStart]

@[simp ↓] theorem kept_bistAdvance (s : State) (b : BistRun) : kept (bistAdvance s b) = kept s := by simp [bistAdvance]

@[simp ↓] theorem kept_bistEffect (s : State) (b : BistRun) : kept (bistEffect s b) = kept s := by
  unfold bistEffect
  split
  · simp
  · simp
  · split <;> simp
  · simp
  · simp

@[simp ↓] theorem kept_bistFail (s : State) (b : BistRun) (detail : Nat) : kept (bistFail s b detail) = kept s := by
  simp [bistFail]

@[simp ↓] theorem kept_bistRepair (s : State) (b : BistRun) (column : Bool) (row col : Nat) :
    kept (bistRepair s b column row col) = kept s := by
  simp [bistRepair]

@[simp ↓] theorem kept_bistBegin (s : State) (b : BistRun) : kept (bistBegin s b) = kept s := by simp [bistBegin]

@[simp ↓] theorem settles_execBistSliceEnd (unit : Nat) (res : BistResult) (s : State) :
    Settles s (execBistSliceEnd unit res s) := by
  unfold execBistSliceEnd
  split
  · simp
  · split
    · simp
    · split <;> simp

@[simp ↓] theorem settles_execBistWaitTimeout (unit : Nat) (s : State) : Settles s (execBistWaitTimeout unit s) := by
  unfold execBistWaitTimeout
  split <;> simp

@[simp ↓] theorem settles_execBucketLeak (s : State) : Settles s (execBucketLeak s) := by
  refine settles_next _ _ (kept_foldl _ _ _ fun s u => ?_)
  simp

/-! ### The functions of Sys2Proof/Machine/CommitApply.lean -/

/-- An identity register holds no RL field, so a record leaves it as it is (R2 to R5). -/
theorem stageRL_identity (asm : Assembly) (o : Nat) (ho : o = 0 ∨ o = 8) (old v : DWord) : stageRL asm o old v = old := by
  rcases ho with rfl | rfl <;> rfl

/-- A register other than the identity registers, or one set to what it holds. -/
theorem kept_setReg_of (s : State) (o : Nat) (v : DWord) (h : o = 0 ∨ o = 8 → v = reg s o) : kept (setReg s o v) = kept s := by
  have get (i : Nat) (hi : i = 0 ∨ i = 8) : reg (setReg s o v) i = reg s i := by
    by_cases ho : i = o
    · subst ho
      rw [reg_setReg_self, h hi]
    · exact reg_setReg_ne s v ho
  simp only [kept, setReg_asm, setReg_pending, setReg_stalled, get 0 (.inl rfl), get 8 (.inr rfl)]

/-- A register that a commit or the record writes. -/
@[simp ↓] theorem kept_setStaged (s : State) (o : Nat) (v : DWord) : kept (setReg s o (stageRL s.asm o (reg s o) v)) = kept s :=
  kept_setReg_of s o _ fun ho => stageRL_identity s.asm o ho _ v

@[simp ↓] theorem kept_putRecs (s : State) (rs : List (Nat × DWord)) : kept (putRecs s rs) = kept s :=
  kept_foldl _ _ _ fun s r => kept_setStaged s r.1 r.2

@[simp ↓] theorem kept_portApply (s0 s : State) (p : Nat) : kept (portApply s0 s p) = kept s := by simp [portApply]

@[simp ↓] theorem kept_portLeave (s1 s : State) (p : Nat) : kept (portLeave s1 s p) = kept s := by simp [portLeave]

@[simp ↓] theorem kept_shelfApply (s0 s : State) (st : Nat) : kept (shelfApply s0 s st) = kept s := by simp [shelfApply]

@[simp ↓] theorem kept_dropOuts (s : State) (p : Nat) : kept (dropOuts s p) = kept s := by simp [dropOuts]

@[simp ↓] theorem kept_clearPartition (s : State) (p : Nat) : kept (clearPartition s p) = kept s := by simp [clearPartition]

@[simp ↓] theorem kept_endReplay (s : State) (p : Nat) : kept (endReplay s p) = kept s := by simp [endReplay]

@[simp ↓] theorem kept_partLeave (s1 s : State) (p : Nat) : kept (partLeave s1 s p) = kept s := by simp [partLeave]

@[simp ↓] theorem kept_partEnter (s0 s : State) (p : Nat) : kept (partEnter s0 s p) = kept s := by simp [partEnter]

@[simp ↓] theorem kept_onceGens (s0 s : State) : kept (onceGens s0 s) = kept s := by simp [onceGens]

@[simp ↓] theorem kept_refreshOut (s : State) : kept (refreshOut s) = kept s := by simp [refreshOut]

@[simp ↓] theorem kept_applyRecs (s : State) (rs : List (Nat × DWord)) : kept (applyRecs s rs) = kept s := by simp [applyRecs]

@[simp ↓] theorem kept_putCmtst (s : State) (j result epoch step : Nat) : kept (putCmtst s j result epoch step) = kept s := by
  simp [putCmtst]

@[simp ↓] theorem kept_putSlotEntry (s : State) (j step : Nat) : kept (putSlotEntry s j step) = kept s := by simp [putSlotEntry]

@[simp ↓] theorem kept_reportCommit (s : State) (p id status detail : Nat) :
    kept (reportCommit s p id status detail) = kept s := by
  unfold reportCommit
  split <;> simp

@[simp ↓] theorem kept_deferCommits (s : State) : kept (deferCommits s) = kept s := by simp [deferCommits]

@[simp ↓] theorem kept_keepEpoch (s0 s : State) (rs : List (Nat × DWord)) : kept (keepEpoch s0 s rs) = kept s := by
  simp [keepEpoch]

@[simp ↓] theorem kept_takeCommits (s : State) (cs : List Commit) : kept (takeCommits s cs) = kept s := by simp [takeCommits]

@[simp ↓] theorem kept_enterEpoch (s0 s : State) (due : List Commit) : kept (enterEpoch s0 s due) = kept s := by simp [enterEpoch]

@[simp ↓] theorem kept_applyCommits (s : State) : kept (applyCommits s) = kept s := by simp [applyCommits]

/-! ### The functions of Sys2Proof/Machine/TideTable.lean -/

@[simp ↓] theorem kept_spend (s : State) (n m last : Nat) : kept (spend s n m last) = kept s := by
  unfold spend
  simp

@[simp ↓] theorem kept_skipFirings (s : State) (m : Nat) : kept (skipFirings s m) = kept s := by simp [skipFirings]

@[simp ↓] theorem kept_slotOpenAct (s : State) (n : Nat) : kept (slotOpenAct s n) = kept s := by simp [slotOpenAct]

@[simp ↓] theorem kept_slotCloseAct (s : State) (n : Nat) : kept (slotCloseAct s n) = kept s := by simp [slotCloseAct]

@[simp ↓] theorem kept_cupAct (s : State) (n : Nat) (opens : Bool) : kept (cupAct s n opens) = kept s := by simp [cupAct]

@[simp ↓] theorem kept_phaseAct (s : State) (n : Nat) : kept (phaseAct s n) = kept s := by simp [phaseAct]

@[simp ↓] theorem kept_stateAct (s : State) (n : Nat) : kept (stateAct s n) = kept s := by
  unfold stateAct
  split <;> simp

@[simp ↓] theorem kept_fire (act n : Nat) (q : Bool) (body : State → State) (s : State) (h : ∀ s, kept (body s) = kept s) :
    kept (fire act n q body s) = kept s := by
  unfold fire
  split <;> simp [h]

@[simp ↓] theorem settles_execSlotOpen (n : Nat) (s : State) : Settles s (execSlotOpen n s) := by simp [execSlotOpen]

@[simp ↓] theorem settles_execSlotClose (n : Nat) (s : State) : Settles s (execSlotClose n s) := by simp [execSlotClose]

@[simp ↓] theorem settles_execNone (n : Nat) (s : State) : Settles s (execNone n s) := by simp [execNone]

@[simp ↓] theorem settles_execCupOpen (n : Nat) (s : State) : Settles s (execCupOpen n s) := by simp [execCupOpen]

@[simp ↓] theorem settles_execCupClose (n : Nat) (s : State) : Settles s (execCupClose n s) := by simp [execCupClose]

@[simp ↓] theorem settles_execPhase (n : Nat) (s : State) : Settles s (execPhase n s) := by simp [execPhase]

@[simp ↓] theorem settles_execBistSlice (n : Nat) (s : State) : Settles s (execBistSlice n s) := by simp [execBistSlice]

@[simp ↓] theorem settles_execScrubSlice (n : Nat) (s : State) : Settles s (execScrubSlice n s) := by simp [execScrubSlice]

@[simp ↓] theorem settles_execLoadNotice (n : Nat) (s : State) : Settles s (execLoadNotice n s) := by
  unfold execLoadNotice
  split <;> simp

@[simp ↓] theorem settles_execLoadNoticeEnd (s : State) : Settles s (execLoadNoticeEnd s) := by simp [execLoadNoticeEnd]

@[simp ↓] theorem kept_passNotice (s : State) (n : Nat) : kept (passNotice s n) = kept s := by simp [passNotice]

@[simp ↓] theorem kept_passNotices (s : State) : kept (passNotices s) = kept s := by simp [passNotices]

@[simp ↓] theorem kept_passOver (s : State) (target : Nat) : kept (passOver s target) = kept s := by simp [passOver]

@[simp ↓] theorem kept_settleCommits (s : State) : kept (settleCommits s) = kept s := by simp [settleCommits]

@[simp ↓] theorem settles_execCommitApply (s : State) : Settles s (execCommitApply s) := by simp [execCommitApply]

/-! ### The functions of Sys2Proof/Machine/Tidegauge.lean -/

@[simp ↓] theorem kept_refreshErr (s : State) : kept (refreshErr s) = kept s := by simp [refreshErr]

@[simp ↓] theorem kept_setTgState (s : State) (x : Nat) : kept (setTgState s x) = kept s := by simp [setTgState]

@[simp ↓] theorem kept_setPhase (s : State) (p : ℤ) : kept (setPhase s p) = kept s := by simp [setPhase]

@[simp ↓] theorem kept_setSlew (s : State) (p : ℤ) : kept (setSlew s p) = kept s := by simp [setSlew]

@[simp ↓] theorem kept_setSlotOk (s : State) (b : Bool) : kept (setSlotOk s b) = kept s := by simp [setSlotOk]

@[simp ↓] theorem kept_setTime (s : State) (step tick : Nat) : kept (setTime s step tick) = kept s := by simp [setTime]

@[simp ↓] theorem kept_drawInstant (s : State) : kept (drawInstant s) = kept s := by simp [drawInstant]

@[simp ↓] theorem kept_slewStep (s : State) : kept (slewStep s) = kept s := by simp [slewStep]

@[simp ↓] theorem kept_boundary (s : State) : kept (boundary s) = kept s := by simp [boundary]

@[simp ↓] theorem kept_passTo (s : State) (target : Nat) : kept (passTo s target) = kept s := by simp [passTo]

@[simp ↓] theorem kept_land (s : State) (target : Nat) : kept (land s target) = kept s := by simp [land]

@[simp ↓] theorem kept_countCorrect (s : State) : kept (countCorrect s) = kept s := by simp [countCorrect]

@[simp ↓] theorem kept_countGlitch (s : State) : kept (countGlitch s) = kept s := by simp [countGlitch]

@[simp ↓] theorem kept_lockIf (s : State) : kept (lockIf s) = kept s := by simp [lockIf]

@[simp ↓] theorem kept_corrected (s : State) : kept (corrected s) = kept s := by simp [corrected]

@[simp ↓] theorem kept_takeLoad (s : State) : kept (takeLoad s).1 = kept s := by
  unfold takeLoad
  split <;> simp

@[simp ↓] theorem kept_forwardStep (s : State) (p : ℤ) (target : Nat) : kept (forwardStep s p target) = kept s := by
  simp [forwardStep]

@[simp ↓] theorem kept_removePhase (s : State) (p : ℤ) : kept (removePhase s p) = kept s := by simp [removePhase]

@[simp ↓] theorem kept_lockedEdge (s : State) (p : ℤ) : kept (lockedEdge s p) = kept s := by simp [lockedEdge]

@[simp ↓] theorem kept_countEdge (s : State) (p : ℤ) : kept (countEdge s p) = kept s := by simp [countEdge]

@[simp ↓] theorem kept_acceptedEdge (s : State) (p : ℤ) : kept (acceptedEdge s p) = kept s := by
  unfold acceptedEdge
  extract_lets t1 s1 s2 s3
  have h3 : kept s3 = kept s := by simp [s3, s2, s1]
  have ht := kept_takeLoad s3
  clear_value s3
  split
  · next h => rw [h] at ht; simp [ht, h3]
  · next h => rw [h] at ht; simp [ht, h3]

@[simp ↓] theorem kept_alignEdge (s : State) : kept (alignEdge s) = kept s := by
  unfold alignEdge
  extract_lets t1 s1
  have h1 : kept s1 = kept s := by simp [s1]
  have ht := kept_takeLoad s1
  clear_value s1
  split
  · next h => rw [h] at ht; simp [ht, h1]
  · next h => rw [h] at ht; simp [ht, h1]

@[simp ↓] theorem kept_holdEdge (s : State) : kept (holdEdge s) = kept s := by
  unfold holdEdge
  dsimp only
  split <;> simp

@[simp ↓] theorem settles_execStepInEdge (s : State) : Settles s (execStepInEdge s) := by
  have ht := kept_takeLoad (drawInstant s)
  simp only [execStepInEdge]
  split
  · simp
  · split
    · simp
    · split
      · split
        · next h => rw [h] at ht; simp [ht]
        · next h => rw [h] at ht; simp_all
      · simp

@[simp ↓] theorem settles_execStepMissed (s : State) : Settles s (execStepMissed s) := by
  unfold execStepMissed
  simp

@[simp ↓] theorem settles_execTimeHold (s : State) : Settles s (execTimeHold s) := by simp [execTimeHold]

@[simp ↓] theorem settles_execRefQualified (s : State) : Settles s (execRefQualified s) := by
  unfold execRefQualified
  split
  · dsimp only
    split <;> simp
  · simp

@[simp ↓] theorem settles_execRefLost (s : State) : Settles s (execRefLost s) := by
  simp only [execRefLost]
  split
  · split <;> simp
  · simp

@[simp ↓] theorem settles_execTgCfgWrite (v : BitVec 64) (s : State) : Settles s (execTgCfgWrite v s) := by simp [execTgCfgWrite]

@[simp ↓] theorem settles_execSlotokClear (s : State) : Settles s (execSlotokClear s) := by simp [execSlotokClear]

@[simp ↓] theorem settles_execTgLoad (fn : Nat) (v : BitVec 64) (s : State) : Settles s (execTgLoad fn v s) := by
  simp [execTgLoad]

@[simp ↓] theorem settles_execTgNowRead (fn : Nat) (s : State) : Settles s (execTgNowRead fn s) := by
  unfold execTgNowRead
  simp

@[simp ↓] theorem settles_execStepBoundary (s : State) : Settles s (execStepBoundary s) := by simp [execStepBoundary]

@[simp ↓] theorem settles_execStepOutEnd (s : State) : Settles s (execStepOutEnd s) := by simp [execStepOutEnd]

@[simp ↓] theorem kept_tick (s : State) : kept (tick s) = kept s := by simp [tick]

/-! ### The functions of Sys2Proof/Machine/Commit.lean -/

@[simp ↓] theorem kept_configAt (s : State) (at_ : Nat) : kept (configAt s at_) = kept s := by simp [configAt]

@[simp ↓] theorem kept_acceptCommit (s : State) (p id at_ : Nat) (rs : List (Nat × DWord)) :
    kept (acceptCommit s p id at_ rs) = kept s := by
  unfold acceptCommit
  split
  · rfl
  · next h =>
    rw [← kept_of_pick s 8 _ _ h]
    simp

@[simp ↓] theorem kept_rejectCommit (s : State) (p id result at_ : Nat) : kept (rejectCommit s p id result at_) = kept s := by
  unfold rejectCommit
  split
  · next h =>
    rw [← kept_of_pick s 8 _ _ h]
    simp
  · simp

@[simp ↓] theorem settles_execCommit (part sq : Nat) (s : State) : Settles s (execCommit part sq s) := by
  refine settles_starting _ _ _ _ _ fun s c => ?_
  split
  · simp
  · dsimp only
    split
    · simp
    · simp

/-! ### The functions of Sys2Proof/Machine/Flash.lean -/

@[simp ↓] theorem kept_replayJournal (s : State) : kept (replayJournal s) = kept s := by simp [replayJournal]

/-! ### The functions of Sys2Proof/Machine/ShelfEvents.lean -/

@[simp ↓] theorem kept_atHome (s : State) (id : Nat) (p : TxnKind → Bool) (k : State → Txn → Home → State)
    (hk : ∀ s x h, kept (k s x h) = kept s) : kept (atHome s id p k) = kept s := by
  unfold atHome
  split
  · simp
  · split
    · simp
    · split <;> simp [hk]

@[simp ↓] theorem settles_execShelfRead (id : Nat) (s : State) : Settles s (execShelfRead id s) := by
  refine settles_next _ _ (kept_atHome _ _ _ _ fun s x h => ?_)
  simp

@[simp ↓] theorem settles_execShelfWrite (id : Nat) (s : State) : Settles s (execShelfWrite id s) := by simp [execShelfWrite]

@[simp ↓] theorem kept_yieldSector (s : State) (h : Home) (c : Nat) : kept (yieldSector s h c) = kept s := by
  unfold yieldSector
  split <;> simp

@[simp ↓] theorem settles_execShelfMadd (id : Nat) (s : State) : Settles s (execShelfMadd id s) := by
  refine settles_next _ _ (kept_atHome _ _ _ _ fun s x h => ?_)
  split <;> simp

@[simp ↓] theorem settles_execFillArrival (id : Nat) (s : State) : Settles s (execFillArrival id s) := by
  unfold execFillArrival
  split <;> simp

@[simp ↓] theorem settles_execMergeEntryTimeout (stack slice word : Nat) (s : State) :
    Settles s (execMergeEntryTimeout stack slice word s) := by
  unfold execMergeEntryTimeout
  split <;> simp

@[simp ↓] theorem settles_execSliceRetireDone (stack slice : Nat) (s : State) :
    Settles s (execSliceRetireDone stack slice s) := by
  simp [execSliceRetireDone]

@[simp ↓] theorem kept_serveDirect (s : State) (x : Txn) : kept (serveDirect s x).1 = kept s := by
  conv in serveDirect => delta serveDirect
  split
  · rfl
  · rfl
  · dsimp only
    split
    · split <;> simp
    · simp
  · simp
  · simp
  · simp

@[simp ↓] theorem kept_deliverReply (s : State) (t slot : Nat) (x : Txn) (st : ReplySt) :
    kept (deliverReply s t slot x st) = kept s := by
  unfold deliverReply
  split
  · dsimp only
    split <;> simp
  · dsimp only
    split <;> simp

@[simp ↓] theorem kept_passEdge (s : State) (x : Txn) (st : ReplySt) : kept (passEdge s x st) = kept s := by
  unfold passEdge
  split <;> simp

@[simp ↓] theorem settles_execDeviceReply (id : Nat) (s : State) : Settles s (execDeviceReply id s) := by
  unfold execDeviceReply
  split
  · simp
  · split
    · simp
    · split
      · simp
      · dsimp only
        split <;> simp
    · simp

/-! ### The functions of Sys2Proof/Machine/HbmEvents.lean -/

@[simp ↓] theorem kept_noteServed (s : State) (i : Nat) (r : HbmReq) : kept (noteServed s i r) = kept s := by simp [noteServed]

@[simp ↓] theorem kept_serveKind (s : State) (i id : Nat) (p : HbmKind → Bool) : kept (serveKind s i id p) = kept s := by
  unfold serveKind
  split <;> simp

@[simp ↓] theorem settles_execHbmRead (ctrl id : Nat) (s : State) : Settles s (execHbmRead ctrl id s) := by simp [execHbmRead]

@[simp ↓] theorem settles_execHbmWrite (ctrl id : Nat) (s : State) : Settles s (execHbmWrite ctrl id s) := by simp [execHbmWrite]

@[simp ↓] theorem settles_execHbmMaskedWrite (ctrl id : Nat) (s : State) : Settles s (execHbmMaskedWrite ctrl id s) := by
  simp [execHbmMaskedWrite]

@[simp ↓] theorem settles_execHbmAdd (ctrl id : Nat) (s : State) : Settles s (execHbmAdd ctrl id s) := by simp [execHbmAdd]

@[simp ↓] theorem settles_execAddEntryTimeout (ctrl cw : Nat) (s : State) : Settles s (execAddEntryTimeout ctrl cw s) := by
  simp [execAddEntryTimeout]

@[simp ↓] theorem settles_execRequestPromote (ctrl id : Nat) (s : State) : Settles s (execRequestPromote ctrl id s) := by
  unfold execRequestPromote
  split <;> simp

@[simp ↓] theorem settles_execRefresh (ctrl pch : Nat) (s : State) : Settles s (execRefresh ctrl pch s) := by simp [execRefresh]

@[simp ↓] theorem settles_execRefreshManagement (ctrl pch : Nat) (s : State) : Settles s (execRefreshManagement ctrl pch s) := by
  simp [execRefreshManagement]

@[simp ↓] theorem settles_execLowPromote (id : Nat) (s : State) : Settles s (execLowPromote id s) := by simp [execLowPromote]

@[simp ↓] theorem kept_startRun (s : State) (by_ i pch op : Nat) : kept (startRun s by_ i pch op) = kept s := by simp [startRun]

@[simp ↓] theorem settles_execMemRetrain (by_ ctrl pch : Nat) (s : State) : Settles s (execMemRetrain by_ ctrl pch s) := by
  simp [execMemRetrain]

@[simp ↓] theorem settles_execReadTimingMargin (by_ ctrl pch : Nat) (s : State) :
    Settles s (execReadTimingMargin by_ ctrl pch s) := by
  simp [execReadTimingMargin]

@[simp ↓] theorem settles_execReadVoltageMargin (by_ ctrl pch : Nat) (s : State) :
    Settles s (execReadVoltageMargin by_ ctrl pch s) := by
  simp [execReadVoltageMargin]

@[simp ↓] theorem settles_execWriteTimingMargin (by_ ctrl pch : Nat) (s : State) :
    Settles s (execWriteTimingMargin by_ ctrl pch s) := by
  simp [execWriteTimingMargin]

@[simp ↓] theorem settles_execWriteVoltageMargin (by_ ctrl pch : Nat) (s : State) :
    Settles s (execWriteVoltageMargin by_ ctrl pch s) := by
  simp [execWriteVoltageMargin]

@[simp ↓] theorem kept_softRepair (s : State) (i c row : Nat) : kept (softRepair s i c row) = kept s := by simp [softRepair]

@[simp ↓] theorem kept_retrained (s : State) (i : Nat) (r : MemRun) : kept (retrained s i r) = kept s := by simp [retrained]

@[simp ↓] theorem kept_endRun (s : State) (i : Nat) (r : MemRun) (status : Nat) : kept (endRun s i r status) = kept s := by
  simp [endRun]

@[simp ↓] theorem kept_putEyes (s : State) (i : Nat) (eyes : List (ℤ × ℤ)) : kept (putEyes s i eyes) = kept s := by simp [putEyes]

@[simp ↓] theorem settles_execRetrainSlice (ctrl : Nat) (ev : RunEvent) (s : State) : Settles s (execRetrainSlice ctrl ev s) := by
  unfold execRetrainSlice
  split
  · simp
  · split <;> simp

@[simp ↓] theorem kept_loseWrite (s : State) (i gran : Nat) : kept (loseWrite s i gran) = kept s := by simp [loseWrite]

@[simp ↓] theorem kept_captureLost (s : State) (i : Nat) (before : List Nat) : kept (captureLost s i before) = kept s := by
  simp [captureLost]

@[simp ↓] theorem kept_dropWrite (s : State) (i : Nat) (r : HbmReq) : kept (dropWrite s i r) = kept s := by
  unfold dropWrite
  split <;> simp

@[simp ↓] theorem kept_reissueFills (s : State) (i : Nat) : kept (reissueFills s i) = kept s := by simp [reissueFills]

@[simp ↓] theorem kept_clearMem (s : State) (i : Nat) : kept (clearMem s i) = kept s := by simp [clearMem]

@[simp ↓] theorem kept_clearCtrl (s : State) (i : Nat) (phyOk : Bool) : kept (clearCtrl s i phyOk) = kept s := by
  unfold clearCtrl
  simp

@[simp ↓] theorem settles_execHbmControllerReset (ctrl : Nat) (phyOk : Bool) (s : State) :
    Settles s (execHbmControllerReset ctrl phyOk s) := by
  simp [execHbmControllerReset]

/-! ### The functions of Sys2Proof/Machine/Boot.lean -/

@[simp ↓] theorem kept_refreshShoal (s : State) : kept (refreshShoal s) = kept s := by simp [refreshShoal]

@[simp ↓] theorem kept_readShutdown (s : State) : kept (readShutdown s) = kept s := by
  unfold readShutdown
  split <;> simp

@[simp ↓] theorem kept_loadReg (s : State) (r : Nat × DWord) : kept (loadReg s r) = kept s := kept_setStaged s r.1 r.2

@[simp ↓] theorem kept_loadRails (s : State) (r : Record) : kept (loadRails s r) = kept s := by simp [loadRails]

@[simp ↓] theorem kept_bootStart (s : State) : kept (bootStart s) = kept s := by
  simp only [bootStart, kept_refreshShoal, kept_replayJournal, kept_setPwrState, kept_readShutdown]
  split <;> split <;> split <;> simp

@[simp ↓] theorem kept_keepGens (s t : State) : kept (keepGens s t) = kept t := by simp [keepGens]

@[simp ↓] theorem kept_keepPower (s : State) : kept (keepPower s) = kept s := by simp [keepPower]

/-- The identity registers read as their tables give them exactly when they hold their reset values (R3, R4). -/
theorem identityHolds_iff (s : State) : IdentityHolds s ↔ reg s 0 = regReset s.asm 0 ∧ reg s 8 = regReset s.asm 8 := Iff.rfl

/-- Identity is a matter of what is kept. -/
theorem identityHolds_congr {s s' : State} (h : (kept s').1 = (kept s).1) : IdentityHolds s' ↔ IdentityHolds s := by
  simp only [kept, Prod.mk.injEq] at h
  obtain ⟨hasm, -, h0, h8⟩ := h
  rw [identityHolds_iff, identityHolds_iff, hasm, h0, h8]

/-- What no entry of a map lists reads as the map's default. -/
theorem get_of_not_listed {α : Type} (d : α) (i : Nat) (m : SMap α) (hm : ∀ e ∈ m, e.1 ≠ i) : SMap.get d m i = d := by
  induction m with
  | nil => rfl
  | cons e m ih =>
    have he : e.1 ≠ i := hm e List.mem_cons_self
    simp only [SMap.get, he, if_false]
    exact ih fun e' h => hm e' (List.mem_cons_of_mem _ h)

/-- Identity registers that are not listed any more read their reset values, which they held. -/
theorem kept1_of_not_listed (s s' : State) (h : IdentityHolds s) (hasm : s'.asm = s.asm) (hp : s'.pending = s.pending)
    (h0 : ∀ e ∈ s'.bar0, e.1 ≠ 0) (h8 : ∀ e ∈ s'.bar0, e.1 ≠ 8) : (kept s').1 = (kept s).1 := by
  obtain ⟨r0, r8⟩ := (identityHolds_iff s).1 h
  simp only [kept, hasm, hp, r0, r8]
  simp only [reg, get_of_not_listed _ 0 _ h0, get_of_not_listed _ 8 _ h8, hasm]

/-- No identity register is among those that a device reset keeps. -/
theorem ne_of_mem_keptRegister {m : SMap DWord} {i : Nat} (hi : keptRegister i = false) :
    ∀ e ∈ m.filter (fun e => keptRegister e.1), e.1 ≠ i := by
  rintro e he rfl
  simp [hi] at he

theorem kept_clearDevice (s : State) (h : IdentityHolds s) : kept (clearDevice s) = kept s := by
  have he : kept (endSlices s (fun _ => true)) = kept s := by simp
  unfold clearDevice
  extract_lets s1 tg port power ras head pins t
  have hs : IdentityHolds s1 := (identityHolds_congr (congrArg Prod.fst he)).2 h
  have ht : kept t = kept s1 :=
    Prod.ext (kept1_of_not_listed s1 t hs rfl rfl (ne_of_mem_keptRegister (by decide)) (ne_of_mem_keptRegister (by decide))) rfl
  simp [ht, s1]

theorem kept_resetDevice (s : State) (h : IdentityHolds s) : kept (resetDevice s) = kept s := by
  simp [resetDevice, kept_clearDevice s h]

/-- A device reset from a state that a command has come to. -/
theorem kept_resetDevice_of {s s' : State} (h : IdentityHolds s) (hs : kept s' = kept s) : kept (resetDevice s') = kept s :=
  (kept_resetDevice s' ((identityHolds_congr (congrArg Prod.fst hs)).2 h)).trans hs

/-- Without VDD_AON the mark is clear too. -/
theorem kept_powerLost (s : State) (h : IdentityHolds s) : kept (powerLost s) = ((kept s).1, false) :=
  have hb : (powerLost s).bar0 = [] := rfl
  Prod.ext (kept1_of_not_listed s (powerLost s) h rfl rfl (by simp [hb]) (by simp [hb])) rfl

/-- A command that ends with the mark clear. -/
theorem settles_clear {s s' : State} (h : kept s' = ((kept s).1, false)) : Settles s (.next s') :=
  ⟨by rw [h], fun _ => show (kept s').2 = false by rw [h]⟩

theorem settles_execVddAonFall (s : State) (h : IdentityHolds s) : Settles s (execVddAonFall s) := by
  unfold execVddAonFall
  split
  · simp
  · refine settles_clear ?_
    have hc : kept (if 1 ≤ pwrState s && pwrState s ≤ 3 then writeCellFree s 3 4 else s) = kept s := by simp
    rw [kept_powerLost _ ((identityHolds_congr (congrArg Prod.fst hc)).2 h), hc]

theorem settles_execVddAonRise (stagedN haltInN : Bool) (s : State) (h : IdentityHolds s) :
    Settles s (execVddAonRise stagedN haltInN s) := by
  unfold execVddAonRise
  split
  · simp
  · exact settles_clear (by simp [kept_powerLost s h])

theorem settles_execPerstN (s : State) (h : IdentityHolds s) : Settles s (execPerstN s) := by
  refine settles_next _ _ ?_
  dsimp only
  split
  · exact kept_resetDevice_of h (by simp)
  · simp

@[simp ↓] theorem settles_execPerstNRise (s : State) : Settles s (execPerstNRise s) := by simp [execPerstNRise]

theorem settles_execPfFlr (s : State) (h : IdentityHolds s) : Settles s (execPfFlr s) := by
  refine settles_next _ _ ?_
  split
  · exact kept_resetDevice_of h (by simp)
  · rfl

theorem settles_execDevrst (fn : Nat) (s : State) (h : IdentityHolds s) : Settles s (execDevrst fn s) := by
  refine settles_next _ _ ?_
  split
  · exact kept_resetDevice_of h (by simp)
  · rfl

theorem settles_execDeviceReset (s : State) (h : IdentityHolds s) : Settles s (execDeviceReset s) := by
  refine settles_next _ _ ?_
  split
  · exact kept_resetDevice_of h (by simp)
  · rfl

@[simp ↓] theorem settles_execVfFlr (vf : Nat) (s : State) : Settles s (execVfFlr vf s) := by simp [execVfFlr]

@[simp ↓] theorem settles_execPartitionReset (part : Nat) (s : State) : Settles s (execPartitionReset part s) := by
  simp [execPartitionReset]

@[simp ↓] theorem settles_execTileReset (t : Nat) (s : State) : Settles s (execTileReset t s) := by simp [execTileReset]

@[simp ↓] theorem settles_execStackReset (stack : Nat) (s : State) : Settles s (execStackReset stack s) := by
  simp [execStackReset]

@[simp ↓] theorem kept_clearIoDie (s : State) (d : Nat) : kept (clearIoDie s d) = kept s := by simp [clearIoDie]

@[simp ↓] theorem kept_resetIoDie (s : State) (d : Nat) : kept (resetIoDie s d) = kept s := by simp [resetIoDie]

@[simp ↓] theorem settles_execIoDieReset (die : Nat) (s : State) : Settles s (execIoDieReset die s) := by simp [execIoDieReset]

@[simp ↓] theorem kept_ctrlBack (s : State) (c : Nat) : kept (ctrlBack s c) = kept s := by simp [ctrlBack]

@[simp ↓] theorem kept_partBack (s : State) (p : Nat) : kept (partBack s p) = kept s := by simp [partBack]

@[simp ↓] theorem settles_execDomainResetDone (dom : ResetDomain) (s : State) : Settles s (execDomainResetDone dom s) := by
  unfold execDomainResetDone
  split
  · simp
  · split <;> simp

@[simp ↓] theorem settles_execSlowClockFallback (s : State) : Settles s (execSlowClockFallback s) := by
  simp [execSlowClockFallback]

/-! ### The functions of Sys2Proof/Machine/Bringup.lean -/

@[simp ↓] theorem kept_postReport (s : State) (stage result ms failcode : Nat) :
    kept (postReport s stage result ms failcode) = kept s := by
  simp [postReport]

@[simp ↓] theorem kept_portOn (s : State) : kept (portOn s) = kept s := by simp [portOn]

@[simp ↓] theorem kept_failStage (s : State) (ms failcode : Nat) : kept (failStage s ms failcode) = kept s := by simp [failStage]

@[simp ↓] theorem kept_loadShutdown (s : State) : kept (loadShutdown s) = kept s := by simp [loadShutdown]

@[simp ↓] theorem kept_loadRate (s : State) (r : Record) : kept (loadRate s r) = kept s := by simp [loadRate]

@[simp ↓] theorem kept_loadRecord (s : State) (r : Record) : kept (loadRecord s r) = kept s := by simp [loadRecord]

@[simp ↓] theorem kept_stage0 (s : State) (x : StageFindings) : kept (stage0 s x).1 = kept s := by
  unfold stage0
  split
  · dsimp only
    split <;> simp
  · dsimp only
    split <;> simp

@[simp ↓] theorem kept_retireAbsent (s : State) (st : Nat) : kept (retireAbsent s st) = kept s := by simp [retireAbsent]

@[simp ↓] theorem kept_convertRepairs (s : State) : kept (convertRepairs s) = kept s := by simp [convertRepairs]

@[simp ↓] theorem kept_marchRepair (s : State) (m : Nat × Nat × Nat × Bool × Nat) : kept (marchRepair s m) = kept s := by
  simp [marchRepair]

@[simp ↓] theorem kept_saveTrainings (s : State) (x : StageFindings) (mine : Nat → Bool) :
    kept (saveTrainings s x mine) = kept s := by
  simp [saveTrainings]

@[simp ↓] theorem kept_trainCtrl (bad : List (Nat × Nat)) (s : State) (i : Nat) : kept (trainCtrl bad s i) = kept s := by
  simp [trainCtrl]

@[simp ↓] theorem kept_stage2 (s : State) (x : StageFindings) : kept (stage2 s x).1 = kept s := by simp [stage2]

@[simp ↓] theorem kept_bringPort (x : StageFindings) (s : State) (p : Nat) : kept (bringPort x s p) = kept s := by
  unfold bringPort
  split
  · simp
  · split <;> simp

@[simp ↓] theorem kept_stage3 (s : State) (x : StageFindings) : kept (stage3 s x).1 = kept s := by simp [stage3]

@[simp ↓] theorem kept_remapDie (x : StageFindings) (s : State) (st : Nat) : kept (remapDie x s st) = kept s := by
  unfold remapDie
  split <;> simp

@[simp ↓] theorem kept_logFirmware (s : State) (e : Nat × Nat × Nat) : kept (logFirmware s e) = kept s := by simp [logFirmware]

@[simp ↓] theorem kept_loadTable (s : State) (r : Record) : kept (loadTable s r) = kept s := by simp [loadTable]

@[simp ↓] theorem kept_hideColumns (s : State) : kept (hideColumns s) = kept s := by simp [hideColumns]

@[simp ↓] theorem kept_stage4 (s : State) (x : StageFindings) : kept (stage4 s x).1 = kept s := by simp [stage4]

@[simp ↓] theorem kept_stageWork (s : State) (x : StageFindings) : kept (stageWork s x).1 = kept s := by
  unfold stageWork
  split
  · simp
  · split <;> simp
  · simp
  · simp
  · simp

@[simp ↓] theorem kept_nextStage (s : State) : kept (nextStage s) = kept s := by
  unfold nextStage
  simp

@[simp ↓] theorem kept_goOn (s : State) : kept (goOn s) = kept s := by simp [goOn]

@[simp ↓] theorem settles_execStageComplete (found : StageFindings) (s : State) : Settles s (execStageComplete found s) := by
  simp [execStageComplete]

@[simp ↓] theorem settles_execStageTimeout (ms : Nat) (s : State) : Settles s (execStageTimeout ms s) := by
  simp [execStageTimeout]

@[simp ↓] theorem settles_execFloodTimeout (s : State) : Settles s (execFloodTimeout s) := by simp [execFloodTimeout]

@[simp ↓] theorem settles_execContinue (fn : Nat) (s : State) : Settles s (execContinue fn s) := by simp [execContinue]

@[simp ↓] theorem settles_execHaltInNRise (s : State) : Settles s (execHaltInNRise s) := by simp [execHaltInNRise]

/-! ### The functions of Sys2Proof/Machine/Control.lean -/

@[simp ↓] theorem resKeeps_branch (s : State) (t slot : Nat) (w : DWord) (g : Group) : ResKeeps s (branch s t slot w g) := by
  simp [branch]

@[simp ↓] theorem resKeeps_branchIfEmpty (s : State) (t slot : Nat) (w : DWord) (g : Group) :
    ResKeeps s (branchIfEmpty s t slot w g) := by
  simp [branchIfEmpty]

@[simp ↓] theorem resKeeps_uniform (s : State) (t slot : Nat) (w : DWord) (k : Group → Res) (h : ∀ g, ResKeeps s (k g)) :
    ResKeeps s (uniform s t slot w k) := by
  simp [uniform, h]

@[simp ↓] theorem resKeeps_pushMask (s : State) (g : Group) (e : MaskEntry) (k : Group → Res) (h : ∀ g, ResKeeps s (k g)) :
    ResKeeps s (pushMask s g e k) := by
  simp [pushMask, h]

@[simp ↓] theorem settles_execBra (t slot : Nat) (w : DWord) (s : State) : Settles s (execBra t slot w s) := by simp [execBra]

@[simp ↓] theorem settles_execIf (t slot : Nat) (w : DWord) (s : State) : Settles s (execIf t slot w s) := by simp [execIf]

@[simp ↓] theorem settles_execElse (t slot : Nat) (w : DWord) (s : State) : Settles s (execElse t slot w s) := by
  unfold execElse
  refine settles_issue _ _ _ _ _ _ fun s => ?_
  dsimp only
  split <;> simp

@[simp ↓] theorem settles_execEndif (t slot : Nat) (w : DWord) (s : State) : Settles s (execEndif t slot w s) := by
  unfold execEndif
  refine settles_issue _ _ _ _ _ _ fun s => ?_
  dsimp only
  split <;> simp

@[simp ↓] theorem settles_execLoop (t slot : Nat) (w : DWord) (s : State) : Settles s (execLoop t slot w s) := by simp [execLoop]

@[simp ↓] theorem settles_execBrk (t slot : Nat) (w : DWord) (s : State) : Settles s (execBrk t slot w s) := by
  unfold execBrk
  refine settles_issue _ _ _ _ _ _ fun s => ?_
  dsimp only
  split <;> simp

@[simp ↓] theorem settles_execEndloop (t slot : Nat) (w : DWord) (s : State) : Settles s (execEndloop t slot w s) := by
  unfold execEndloop
  refine settles_issue _ _ _ _ _ _ fun s => ?_
  dsimp only
  split <;> simp

@[simp ↓] theorem settles_execCall (t slot : Nat) (w : DWord) (s : State) : Settles s (execCall t slot w s) := by simp [execCall]

@[simp ↓] theorem settles_execRet (t slot : Nat) (w : DWord) (s : State) : Settles s (execRet t slot w s) := by
  unfold execRet
  refine settles_issue _ _ _ _ _ _ fun s => ?_
  dsimp only
  split <;> simp

@[simp ↓] theorem settles_execBar (t slot : Nat) (w : DWord) (s : State) : Settles s (execBar t slot w s) := by simp [execBar]

@[simp ↓] theorem settles_execEnd (t slot : Nat) (w : DWord) (s : State) : Settles s (execEnd t slot w s) := by simp [execEnd]

@[simp ↓] theorem settles_execNop (t slot : Nat) (w : DWord) (s : State) : Settles s (execNop t slot w s) := by simp [execNop]

/-! ### The functions of Sys2Proof/Machine/Headland.lean -/

@[simp ↓] theorem kept_headlandReset (s : State) : kept (headlandReset s) = kept s := by simp [headlandReset]

@[simp ↓] theorem settles_execHlmrst (fn : Nat) (s : State) : Settles s (execHlmrst fn s) := by simp [execHlmrst]

@[simp ↓] theorem settles_execHeadlandWatchdog (s : State) : Settles s (execHeadlandWatchdog s) := by simp [execHeadlandWatchdog]

@[simp ↓] theorem settles_execKeepok (s : State) : Settles s (execKeepok s) := by simp [execKeepok]

@[simp ↓] theorem settles_execKeeperExpiry (s : State) : Settles s (execKeeperExpiry s) := by simp [execKeeperExpiry]

theorem kept_fenceReset (s : State) (d : ResetDomain) (h : IdentityHolds s) : kept (fenceReset s d) = kept s := by
  cases d <;> simp [fenceReset, kept_resetDevice s h]

@[simp ↓] theorem kept_setPolls (s : State) (d : ResetDomain) (n : Nat) : kept (setPolls s d n) = kept s := by simp [setPolls]

@[simp ↓] theorem kept_sramWord (s : State) (w : Nat × BitVec 72) : kept (sramWord s w) = kept s := by
  unfold sramWord
  split <;> simp

@[simp ↓] theorem kept_readSram (s : State) : kept (readSram s) = kept s := by simp [readSram]

theorem kept_pollUnit (s : State) (dom : ResetDomain) (agrees : Bool) (h : IdentityHolds s) :
    kept (pollUnit s dom agrees) = kept s := by
  have hp : kept (setPolls s dom 0) = kept s := by simp
  simp [pollUnit, kept_fenceReset _ dom ((identityHolds_congr (congrArg Prod.fst hp)).2 h)]

theorem settles_execUnitPoll (dom : ResetDomain) (agrees : Bool) (s : State) (h : IdentityHolds s) :
    Settles s (execUnitPoll dom agrees s) := by
  have hr : kept (readSram s) = kept s := by simp
  simp [execUnitPoll, kept_pollUnit _ dom agrees ((identityHolds_congr (congrArg Prod.fst hr)).2 h)]

@[simp ↓] theorem kept_mailDone (s : State) (status : Nat) (reply : List Byte) : kept (mailDone s status reply) = kept s := by
  simp [mailDone]

@[simp ↓] theorem kept_mailbox (s : State) (body : State → State) (h : ∀ s, kept (body s) = kept s) :
    kept (mailbox s body) = kept s := by
  simp [mailbox, h]

@[simp ↓] theorem kept_refuseFlash (s : State) : kept (refuseFlash s) = kept s := by simp [refuseFlash]

@[simp ↓] theorem settles_execReadFlash (off len : Nat) (s : State) : Settles s (execReadFlash off len s) := by
  simp [execReadFlash]

@[simp ↓] theorem settles_execWriteInactiveFirmwareBank (off : Nat) (bytes : List (BitVec 8)) (s : State) :
    Settles s (execWriteInactiveFirmwareBank off bytes s) := by
  simp [execWriteInactiveFirmwareBank]

@[simp ↓] theorem settles_execWriteInactiveRecordSlot (off : Nat) (bytes : List (BitVec 8)) (s : State) :
    Settles s (execWriteInactiveRecordSlot off bytes s) := by
  simp [execWriteInactiveRecordSlot]

@[simp ↓] theorem settles_execMakePreferred (bank slot : Nat) (s : State) : Settles s (execMakePreferred bank slot s) := by
  simp [execMakePreferred]

@[simp ↓] theorem settles_execRetireTile (x y : Nat) (s : State) : Settles s (execRetireTile x y s) := by
  refine settles_next _ _ (kept_mailbox _ _ fun s => ?_)
  dsimp only
  split
  · simp
  · split
    · simp
    · split <;> simp

@[simp ↓] theorem kept_tileFirmware (s : State) (bad : List (Nat × Nat)) (t : Nat) : kept (tileFirmware s bad t) = kept s := by
  simp [tileFirmware]

@[simp ↓] theorem settles_execBroadcastTileFirmware (fw : FwBroadcast) (s : State) :
    Settles s (execBroadcastTileFirmware fw s) := by
  refine settles_next _ _ (kept_mailbox _ _ fun s => ?_)
  simp

@[simp ↓] theorem kept_endBroadcast (s : State) : kept (endBroadcast s) = kept s := by simp [endBroadcast]

@[simp ↓] theorem settles_execReadEventLog (idx : Nat) (s : State) : Settles s (execReadEventLog idx s) := by
  refine settles_next _ _ (kept_mailbox _ _ fun s => ?_)
  split <;> simp

@[simp ↓] theorem settles_execJournalWrite (s : State) : Settles s (execJournalWrite s) := by simp [execJournalWrite]

@[simp ↓] theorem kept_idle (s : State) : kept (idle s) = kept s := by simp [idle]

/-! ### The functions of Sys2Proof/Machine/Lanes.lean -/

@[simp ↓] theorem settles_execIadd (t slot : Nat) (w : DWord) (s : State) : Settles s (execIadd t slot w s) := by simp [execIadd]

@[simp ↓] theorem settles_execIsub (t slot : Nat) (w : DWord) (s : State) : Settles s (execIsub t slot w s) := by simp [execIsub]

@[simp ↓] theorem settles_execImul (t slot : Nat) (w : DWord) (s : State) : Settles s (execImul t slot w s) := by simp [execImul]

@[simp ↓] theorem settles_execImulh (t slot : Nat) (w : DWord) (s : State) : Settles s (execImulh t slot w s) := by
  simp [execImulh]

@[simp ↓] theorem settles_execImad (t slot : Nat) (w : DWord) (s : State) : Settles s (execImad t slot w s) := by simp [execImad]

@[simp ↓] theorem settles_execAnd (t slot : Nat) (w : DWord) (s : State) : Settles s (execAnd t slot w s) := by simp [execAnd]

@[simp ↓] theorem settles_execOr (t slot : Nat) (w : DWord) (s : State) : Settles s (execOr t slot w s) := by simp [execOr]

@[simp ↓] theorem settles_execXor (t slot : Nat) (w : DWord) (s : State) : Settles s (execXor t slot w s) := by simp [execXor]

@[simp ↓] theorem settles_execShl (t slot : Nat) (w : DWord) (s : State) : Settles s (execShl t slot w s) := by simp [execShl]

@[simp ↓] theorem settles_execShr (t slot : Nat) (w : DWord) (s : State) : Settles s (execShr t slot w s) := by simp [execShr]

@[simp ↓] theorem settles_execSar (t slot : Nat) (w : DWord) (s : State) : Settles s (execSar t slot w s) := by simp [execSar]

@[simp ↓] theorem settles_execImin (t slot : Nat) (w : DWord) (s : State) : Settles s (execImin t slot w s) := by simp [execImin]

@[simp ↓] theorem settles_execImax (t slot : Nat) (w : DWord) (s : State) : Settles s (execImax t slot w s) := by simp [execImax]

@[simp ↓] theorem settles_execSel (t slot : Nat) (w : DWord) (s : State) : Settles s (execSel t slot w s) := by simp [execSel]

@[simp ↓] theorem settles_execIsetp (t slot : Nat) (w : DWord) (s : State) : Settles s (execIsetp t slot w s) := by
  simp [execIsetp]

@[simp ↓] theorem settles_execBitop (t slot : Nat) (w : DWord) (s : State) : Settles s (execBitop t slot w s) := by
  simp [execBitop]

@[simp ↓] theorem settles_execIadd64 (t slot : Nat) (w : DWord) (s : State) : Settles s (execIadd64 t slot w s) := by
  unfold execIadd64
  exact settles_issue _ _ _ _ _ _ fun s => resKeeps_laneBody t slot w _ s

@[simp ↓] theorem settles_execFadd (t slot : Nat) (w : DWord) (s : State) : Settles s (execFadd t slot w s) := by simp [execFadd]

@[simp ↓] theorem settles_execFmul (t slot : Nat) (w : DWord) (s : State) : Settles s (execFmul t slot w s) := by simp [execFmul]

@[simp ↓] theorem settles_execFfma (t slot : Nat) (w : DWord) (s : State) : Settles s (execFfma t slot w s) := by simp [execFfma]

@[simp ↓] theorem settles_execFmin (t slot : Nat) (w : DWord) (s : State) : Settles s (execFmin t slot w s) := by simp [execFmin]

@[simp ↓] theorem settles_execFmax (t slot : Nat) (w : DWord) (s : State) : Settles s (execFmax t slot w s) := by simp [execFmax]

@[simp ↓] theorem settles_execFsetp (t slot : Nat) (w : DWord) (s : State) : Settles s (execFsetp t slot w s) := by
  simp [execFsetp]

@[simp ↓] theorem settles_execFsfu (t slot : Nat) (w : DWord) (s : State) : Settles s (execFsfu t slot w s) := by simp [execFsfu]

@[simp ↓] theorem settles_execCvt (t slot : Nat) (w : DWord) (s : State) : Settles s (execCvt t slot w s) := by simp [execCvt]

@[simp ↓] theorem settles_execCvtraw (t slot : Nat) (w : DWord) (s : State) : Settles s (execCvtraw t slot w s) := by
  simp [execCvtraw]

@[simp ↓] theorem settles_execDadd (t slot : Nat) (w : DWord) (s : State) : Settles s (execDadd t slot w s) := by simp [execDadd]

@[simp ↓] theorem settles_execDmul (t slot : Nat) (w : DWord) (s : State) : Settles s (execDmul t slot w s) := by simp [execDmul]

@[simp ↓] theorem settles_execDfma (t slot : Nat) (w : DWord) (s : State) : Settles s (execDfma t slot w s) := by simp [execDfma]

@[simp ↓] theorem settles_execDsetp (t slot : Nat) (w : DWord) (s : State) : Settles s (execDsetp t slot w s) := by
  simp [execDsetp]

@[simp ↓] theorem settles_execShfl (t slot : Nat) (w : DWord) (s : State) : Settles s (execShfl t slot w s) := by simp [execShfl]

/-! ### The functions of Sys2Proof/Machine/Replays.lean -/

@[simp ↓] theorem kept_startContext (s : State) (p : Nat) (c : Cmd) : (kept (startContext s p c)).1 = (kept s).1 := by
  unfold startContext
  split <;> simp

@[simp ↓] theorem kept_finishReplay (s : State) (p : Nat) (r : Replay) (guilty : Option Nat) :
    kept (finishReplay s p r guilty) = kept s := by
  unfold finishReplay
  extract_lets s1 b s2 written s3
  have h2 : kept s2 = kept s := by simp [s2, s1]
  have h3 : kept s3 = kept s2 := by
    simp only [s3]
    split
    · rw [kept_setStalled, kept_devWrite, kept_fst_stalled]
    · rfl
  clear_value s3
  split <;> simp [h3, h2]

@[simp ↓] theorem kept_runReplay (s : State) (p : Nat) (r : Replay) (place : Nat) :
    (kept (runReplay s p r place)).1 = (kept s).1 := by
  unfold runReplay
  split
  · simp
  · split <;> simp

@[simp ↓] theorem settles_execEngineFaultReplay (part : Nat) (s : State) : Settles s (execEngineFaultReplay part s) := by
  unfold execEngineFaultReplay
  split <;> simp

@[simp ↓] theorem settles_execReplayContextEnd (part rstat : Nat) (s : State) :
    Settles s (execReplayContextEnd part rstat s) := by
  unfold execReplayContextEnd
  split
  · simp
  · split <;> simp

/-! ### The functions of Sys2Proof/Machine/RegWrite.lean -/

@[simp ↓] theorem kept_afterWrite (s : State) (o : Nat) : kept (afterWrite s o) = kept s := by
  unfold afterWrite
  split <;> simp

/-- No write changes an identity register: none of its fields is written (Tables 0.2, 0.3). -/
theorem written_identity (asm : Assembly) (o fn : Nat) (d : RegDesc) (old v : DWord) (ho : o = 0 ∨ o = 8)
    (hd : regDesc asm o = some d) :
    writeAlso o old (written d fn old v) = old := by
  rcases ho with rfl | rfl
  · obtain rfl : _ = d := Option.some.inj hd
    rfl
  · obtain rfl : _ = d := Option.some.inj hd
    rfl

@[simp ↓] theorem settles_execRegisterWrite (fn off width : Nat) (v : BitVec 64) (s : State) :
    Settles s (execRegisterWrite fn off width v s) := by
  unfold execRegisterWrite
  split
  · simp
  · next d hd =>
    split
    · simp
    · exact settles_next _ _ (by simp [kept_setReg_of s off _ fun ho => written_identity s.asm off fn d _ v ho hd])

/-! ## Every command, and the step -/

/-- Every command settles. The resets alone rest on the identity registers, which they bring back to their reset values. -/
theorem settles_exec (i : Instr) (s : State) (h : IdentityHolds s) : Settles s (exec i s) := by
  cases i
  case perstN => exact settles_execPerstN s h
  case pfFlr => exact settles_execPfFlr s h
  case devrst fn => exact settles_execDevrst fn s h
  case deviceReset => exact settles_execDeviceReset s h
  case unitPoll dom agrees => exact settles_execUnitPoll dom agrees s h
  case vddAonFall => exact settles_execVddAonFall s h
  case vddAonRise stagedN haltInN => exact settles_execVddAonRise stagedN haltInN s h
  all_goals simp [exec]

/-- A step settles, on the state whose queue has lost its front command. -/
theorem settles_step (s : State) (h : IdentityHolds s) : Settles { s with pending := s.pending.drop 1 } (step s) := by
  unfold step
  split
  · next c rest hp => simpa [hp] using settles_exec c { s with pending := rest } h
  · next hp => exact settles_next _ _ (by rw [kept_idle]; simp only [kept, hp, List.drop_nil]; rfl)

/-- Settles O59: a step is a command or a tick, each of which keeps what `kept` names. -/
theorem identityKept : Obligations.IdentityKept := by
  unfold Obligations.IdentityKept
  intro s s' h hstep
  have hs := settles_step s h
  rw [hstep] at hs
  obtain ⟨hkept, hmark⟩ := hs
  have hid : IdentityHolds s' := (identityHolds_congr hkept).2 h
  simp only [kept, Prod.mk.injEq] at hkept
  obtain ⟨hasm, hpending, -, -⟩ := hkept
  exact ⟨hid, hasm, hpending, hmark⟩

end Sys2Proof.Machine

end

section

/-! ## LDD, STD, MADD and FENCE (R28, R111 to R116)

R28's replacement of an address in the device's own peer window asks for the device's number, which stands in LNK_DEV. A count of
Breakwater has a place of its own for partitions 0 to 7 and the device alone (Tables 8.11, 8.12); the state is plain data, so a
group's LAUNCH can carry a number whose count would stand in LNK_DEV, and counting one request there renames the device before the
next one is made. -/

namespace Sys2Proof.Machine

/-- The byte addresses that the requests on their way read, after a command. -/
def wantsAfter (c : Instr) (s : State) : List (List Nat) :=
  match exec c s with
  | .next s' => s'.txns.map (fun x => x.want)
  | _ => []

theorem wantsAfter_of_next {c : Instr} {s s' : State} (h : exec c s = .next s') : wantsAfter c s = s'.txns.map (fun x => x.want) := by
  simp only [wantsAfter, h]

/-- Device 0 with one group, whose threads 0 and 1 hold the addresses of the first two lines of the device's own peer window in
pair w22, and whose LAUNCH carries the partition number 0x9FFF8: its count of class 0 would stand at 0x70_0200 + 0x9FFF8 * 0x40, which
is 0x2F0_0000, the place of LNK_DEV. -/
def farPartition : State := { State.reset with
  tiles := [(0, { Tile.reset with
    ibuf := [⟨0, [], 0⟩]
    groups := [(0, { Group.reset with
      st := .ready
      active := 3
      codeLen := 64
      launch := some ⟨0x9FFF8, 0, 0, 0⟩
      regs := [(23, 0xC000), (150, 0x800), (151, 0xC000)] })] })] }

/-- LDD of four bytes from the address in pair w22 into w3 (Tables 4.2, 4.8). -/
def lddWord : DWord := BitVec.ofNat 64 (2 * 2 ^ 61 + 2 * 2 ^ 56 + 3 * 2 ^ 45 + 22 * 2 ^ 38 + 2 * 2 ^ 35)

theorem canIssue_farPartition : CanIssue rowLdd 0 0 lddWord farPartition := by
  unfold CanIssue Undamaged
  decide +kernel

/-- The first request reads HBM line 0. By the second the device's number is 1, and the addresses of its window stay as they are. -/
theorem wantsAfter_farPartition : wantsAfter (.ldd 0 0 lddWord) farPartition =
    [[0, 1, 2, 3], [0xC000_0000_0800, 0xC000_0000_0801, 0xC000_0000_0802, 0xC000_0000_0803]] := by
  decide +kernel

/-- Under the number that the device has before the command, the second thread's first byte stands for HBM address 0x800 (R28). -/
theorem hbmAddr_farPartition : hbmAddr farPartition (devAddr (grp farPartition 0 0) lddWord 1 + 0) = 0x800 := by decide +kernel

/-- Refutes O12: nothing bounds the partition of the group's LAUNCH, and with partition 0x9FFF8 the count of the first request
falls into LNK_DEV, so that the second request does not read the HBM address its thread's address stood for. -/
theorem not_deviceAccess : ¬ Obligations.DeviceAccess := by
  unfold Obligations.DeviceAccess
  intro h
  obtain ⟨haccess, -⟩ := h 0 0 lddWord farPartition
  obtain ⟨-, hsent, -⟩ := haccess (.ldd 0 0 lddWord, rowLdd, .load, false) (by simp)
  obtain ⟨s', new, hexec, htxns, -, -, -, hload, -⟩ := hsent canIssue_farPartition (by decide +kernel) (by decide +kernel) (by decide +kernel)
  have hwants : new.map (fun x => x.want) =
      [[0, 1, 2, 3], [0xC000_0000_0800, 0xC000_0000_0801, 0xC000_0000_0802, 0xC000_0000_0803]] := by
    rw [← wantsAfter_farPartition, wantsAfter_of_next hexec, htxns]
    rfl
  obtain ⟨x, y, rfl⟩ : ∃ x y, new = [x, y] := List.length_eq_two.1 (by simpa using congrArg List.length hwants)
  obtain ⟨-, -, hwant, -⟩ := hload rfl 1 (by simp) y rfl (devAddr (grp farPartition 0 0) lddWord 1 / 2048) (by decide +kernel)
  have hread : 0x800 ∈ y.want :=
    (hwant 0x800).2 ⟨1, by decide +kernel, 0, by decide +kernel, hbmAddr_farPartition.symm⟩
  simp only [List.map_cons, List.cons.injEq] at hwants
  obtain ⟨-, hy, -⟩ := hwants
  rw [hy] at hread
  exact absurd hread (by decide)

end Sys2Proof.Machine

end

section

/-! ## DEVICE_REPLY (R111, R115, R116, R219, R222, R227 to R229) -/

namespace Sys2Proof.Machine

/-! ### Sparse maps and units: the last write counts -/

theorem SMap.del_ins_self {α : Type} (m : SMap α) (i : Nat) (v : α) : SMap.del (SMap.ins i v m) i = SMap.del m i := by
  induction m with
  | nil => simp [SMap.ins, SMap.del]
  | cons e m ih =>
    obtain ⟨k, w⟩ := e
    by_cases hk : i < k
    · simp [SMap.ins, SMap.del, hk]
    · simp only [SMap.ins, hk, if_false, SMap.del, List.filter_cons] at ih ⊢
      rw [ih]

theorem SMap.del_set_self {α : Type} [DecidableEq α] (d : α) (m : SMap α) (i : Nat) (v : α) :
    SMap.del (SMap.set d m i v) i = SMap.del m i := by
  unfold SMap.set
  split
  · simp [SMap.del]
  · rw [SMap.del_ins_self]
    simp [SMap.del]

@[simp] theorem SMap.set_set_self {α : Type} [DecidableEq α] (d : α) (m : SMap α) (i : Nat) (v w : α) :
    SMap.set d (SMap.set d m i v) i w = SMap.set d m i w := by
  rw [SMap.set, SMap.del_set_self, ← SMap.set]

/-- A key that a list of entries made from keys lists has its value, another the default. -/
theorem SMap.get_map_key {α : Type} (d : α) (l : List Nat) (f : Nat → α) (a : Nat) :
    SMap.get d (l.map (fun i => (i, f i))) a = if a ∈ l then f a else d := by
  induction l with
  | nil => simp
  | cons i l ih =>
    by_cases h : i = a
    · subst h; simp [SMap.get_cons]
    · simp [SMap.get_cons, ih, h, Ne.symm h]

@[simp] theorem tileOf_setGroup_self (s : State) (t k : Nat) (y : Group) : tileOf (setGroup s t k y) t = setGrp (tileOf s t) k y :=
  tileOf_updTile_self s t _

theorem tileOf_setGroup_ne (s : State) {t u : Nat} (k : Nat) (y : Group) (h : u ≠ t) : tileOf (setGroup s t k y) u = tileOf s u :=
  tileOf_updTile_ne s _ h

@[simp] theorem grp_setGroup_self (s : State) (t k : Nat) (y : Group) : grp (setGroup s t k y) t k = y := by
  simp [grp]

theorem grp_setGroup_slot (s : State) (t : Nat) {k j : Nat} (y : Group) (h : j ≠ k) : grp (setGroup s t k y) t j = grp s t j := by
  rw [grp, tileOf_setGroup_self, groupOf_setGrp_ne _ _ h, grp]

/-- Of two writes of a group the later one counts. -/
@[simp] theorem setGroup_setGroup (s : State) (t k : Nat) (y z : Group) : setGroup (setGroup s t k y) t k z = setGroup s t k z := by
  simp only [setGroup, updTile, setTile, tileOf, SMap.get_set_self, setGrp, SMap.set_set_self]

/-- A group written and then changed. -/
@[simp] theorem updGroup_setGroup (s : State) (t k : Nat) (y : Group) (f : Group → Group) :
    updGroup (setGroup s t k y) t k f = setGroup s t k (f y) := by
  rw [updGroup, setGroup_setGroup, grp_setGroup_self]

/-! ### Word registers -/

/-- Register k of thread th has a key of its own. -/
theorem rget_rset (g : Group) (th th' k k' : Nat) (v : Word) (hk : k < 128) (hk' : k' < 128) :
    rget (rset g th' k' v) th k = if th = th' ∧ k = k' then v else rget g th k := by
  rw [rget, rset, SMap.get_set, rget]
  exact if_congr (by omega) rfl rfl

/-- What of a group no word register shows, a loaded value leaves as it is. -/
theorem loadRegs_field {β : Type} (φ : Group → β) (hφ : ∀ g m e, φ { g with regs := m, regErr := e } = φ g)
    (g : Group) (th r n : Nat) (b : List Byte) : φ (loadRegs g th r n b) = φ g :=
  foldl_keeps φ _ _ _ (fun y _ => hφ y _ _)

/-- The registers of a size hold the words of the bytes, least significant first (R111); the others are as before. -/
theorem rget_loadRegs (g : Group) (th r n : Nat) (b : List Byte) (hr : r + max 1 (n / 4) ≤ 128) (th' k : Nat) (hk : k < 128) :
    rget (loadRegs g th r n b) th' k =
      if th' = th ∧ r ≤ k ∧ k < r + max 1 (n / 4) then BitVec.ofNat 32 (leNat ((b.drop (4 * (k - r))).take 4)) else rget g th' k := by
  unfold loadRegs
  generalize max 1 (n / 4) = m at hr ⊢
  induction m with
  | zero => rw [if_neg (by omega)]; rfl
  | succ m ih =>
    rw [List.range_succ, List.foldl_append, List.foldl_cons, List.foldl_nil, rget_rset _ _ _ _ _ _ hk (by omega), ih (by omega)]
    by_cases h : th' = th ∧ k = r + m
    · obtain ⟨rfl, rfl⟩ := h
      simp
    · rw [if_neg h]
      exact if_congr (by omega) rfl rfl

/-- The bytes of word i of a value of n bytes. -/
theorem take_drop_map_range {α : Type} (f : Nat → α) (n i : Nat) (h : i < max 1 (n / 4)) :
    (((List.range n).map f).drop (4 * i)).take 4 = (List.range (min 4 n)).map (fun j => f (4 * i + j)) := by
  apply List.ext_getElem
  · simp
    omega
  · intro j h1 h2
    simp


/-! ### What a reply may change -/

/-- Nothing changes but tiles, registers and the requests on their way. -/
def ReplyFrame (s s' : State) : Prop := { s' with tiles := s.tiles, bar0 := s.bar0, txns := s.txns } = s

theorem ReplyFrame.trans {s s1 s2 : State} (h : ReplyFrame s s1) (h' : ReplyFrame s1 s2) : ReplyFrame s s2 :=
  Eq.trans (congrArg (fun y : State => { y with tiles := s.tiles, bar0 := s.bar0, txns := s.txns }) h') h

theorem replyFrame_setReg (s : State) (o : Nat) (v : DWord) : ReplyFrame s (setReg s o v) := rfl

theorem replyFrame_setGroup (s : State) (t k : Nat) (y : Group) : ReplyFrame s (setGroup s t k y) := rfl

theorem replyFrame_txns (s : State) (l : List Txn) : ReplyFrame s { s with txns := l } := rfl

theorem tileOf_setReg (s : State) (o : Nat) (v : DWord) (t : Nat) : tileOf (setReg s o v) t = tileOf s t := rfl

theorem grp_setReg (s : State) (o : Nat) (v : DWord) (t k : Nat) : grp (setReg s o v) t k = grp s t k := rfl

theorem reg_setGroup (s : State) (t k : Nat) (y : Group) (o : Nat) : reg (setGroup s t k y) o = reg s o := rfl

theorem reg_updTile (s : State) (t : Nat) (f : Tile → Tile) (o : Nat) : reg (updTile s t f) o = reg s o := rfl

/-! ### The count falls -/

/-- The state when the reply of x has passed its master's edge and is not delivered yet: the request is gone, the count of its
class has fallen (R222). -/
def counted (s : State) (x : Txn) : State := retire { s with txns := s.txns.filter (fun y => y.id != x.id) } x.part x.cls

@[simp] theorem counted_txns (s : State) (x : Txn) : (counted s x).txns = s.txns.filter (fun y => y.id != x.id) := rfl

theorem replyFrame_counted (s : State) (x : Txn) : ReplyFrame s (counted s x) :=
  (replyFrame_txns s _).trans (replyFrame_setReg _ _ _)

theorem tileOf_counted (s : State) (x : Txn) (t : Nat) : tileOf (counted s x) t = tileOf s t := rfl

theorem grp_counted (s : State) (x : Txn) (t k : Nat) : grp (counted s x) t k = grp s t k := rfl

theorem reg_counted (s : State) (x : Txn) {o : Nat} (h : o ≠ oBWRCNT x.part x.cls) : reg (counted s x) o = reg s o :=
  reg_setF_ne _ _ _ _ h

/-- The count is one less; at 0 it stays. -/
theorem regF_counted (s : State) (x : Txn) :
    regF (counted s x) (oBWRCNT x.part x.cls) 19 0 = regF s (oBWRCNT x.part x.cls) 19 0 - 1 := by
  rw [counted, retire, regF_setF_self _ _ _ _ _ (by decide)]
  exact Nat.mod_eq_of_lt (Nat.lt_of_le_of_lt (Nat.sub_le _ _) (regF_lt s _ 19 0))

/-- The counts of the nine partitions and eight classes lie in Breakwater's block, apart from its event register, from RAS_DECODE
and from the tiles (Table 1.7). -/
theorem oBWRCNT_ne {p c : Nat} (hp : p ≤ 8) (hc : c < 8) :
    oBWRCNT p c ≠ oBWREVT ∧ oBWRCNT p c ≠ oRASDECODE ∧ ∀ t n, oBWRCNT p c ≠ oGRPFAULT t ∧ oBWRCNT p c ≠ oARRSTAT t n := by
  simp only [oBWRCNT, oBWREVT, oRASDECODE, oGRPFAULT, oARRSTAT, tilBase]
  refine ⟨by omega, by omega, fun t n => ⟨by omega, by omega⟩⟩

/-! ### Delivery to the group -/

/-- The group's outstanding instructions when one request of instruction o is answered (R115). -/
def fewerOut (g : Group) (x : Txn) (o : OutInst) : List OutInst :=
  if o.left ≤ 1 then g.outst.filter (fun y => y.serial != x.serial)
  else g.outst.map (fun y => if y.serial = x.serial then { y with left := y.left - 1 } else y)

/-- The group with its outstanding instructions so reduced, and nothing else changed. -/
def lessOut (g : Group) (x : Txn) (o : OutInst) : Group := { g with outst := fewerOut g x o }

/-- The group with the loaded bytes of a reply in the registers they are for (R111). -/
def loaded (g : Group) (x : Txn) : Group :=
  x.dests.foldl (fun g d =>
    loadRegs g d.thread d.reg d.size ((List.range d.size).map (fun i => SMap.get 0 x.got (d.addr + i)))) g

/-- The group when a reply that brings no fault has been delivered: its bytes, its instruction, and a FENCE that waited for it alone
(R111, R115, R116). -/
def answered (g : Group) (x : Txn) (o : OutInst) : Group :=
  let y := loaded (lessOut g x o) x
  if g.wait = .fence ∧ ∀ y ∈ fewerOut g x o, y.store = false then wake y else y

theorem loaded_field {β : Type} (φ : Group → β) (hφ : ∀ g m e, φ { g with regs := m, regErr := e } = φ g) (g : Group) (x : Txn) :
    φ (loaded g x) = φ g :=
  foldl_keeps φ _ _ _ (fun y _ => loadRegs_field φ hφ y _ _ _ _)

/-- A group that waits at no FENCE keeps its state and its place. -/
theorem answered_of_ne_fence (g : Group) (x : Txn) (o : OutInst) (hw : g.wait ≠ .fence) :
    answered g x o = loaded (lessOut g x o) x :=
  if_neg (fun h => hw h.1)

/-- A reply without destinations writes no register. -/
theorem answered_of_no_dests (g : Group) (x : Txn) (o : OutInst) (hd : x.dests = []) :
    answered g x o = if g.wait = .fence ∧ ∀ y ∈ fewerOut g x o, y.store = false
      then { g with outst := fewerOut g x o, st := .ready, wait := .none } else { g with outst := fewerOut g x o } := by
  simp only [answered, loaded, hd, List.foldl_nil, wake, lessOut]

/-- The registers of a reply with one destination (R111): the words of the bytes, zero-extended. `v` names the bytes of the reply. -/
theorem rget_loaded (g : Group) (x : Txn) (d : LoadDest) (v : Nat → Byte) (hd : x.dests = [d])
    (hr : d.reg + max 1 (d.size / 4) ≤ 128) (hv : ∀ i < d.size, SMap.get 0 x.got (d.addr + i) = v (d.addr + i))
    (th k : Nat) (hk : k < 128) :
    rget (loaded g x) th k =
      if th = d.thread ∧ d.reg ≤ k ∧ k < d.reg + max 1 (d.size / 4) then
        BitVec.ofNat 32 (leNat ((List.range (min 4 d.size)).map (fun i => v (d.addr + 4 * (k - d.reg) + i))))
      else rget g th k := by
  rw [loaded, hd, List.foldl_cons, List.foldl_nil, rget_loadRegs _ _ _ _ _ hr _ _ hk]
  split
  · next h =>
    obtain ⟨-, hlo, hhi⟩ := h
    rw [take_drop_map_range _ _ _ (by omega)]
    congr 2
    refine List.map_congr_left (fun i hi => ?_)
    rw [List.mem_range] at hi
    rw [hv _ (by omega), Nat.add_assoc]
  · rfl

/-- A reply that brings no fault, to a group that runs. -/
theorem deliverReply_answered (s : State) (t slot : Nat) (x : Txn) (st : ReplySt) (o : OutInst)
    (ho : (grp s t slot).outst.find? (fun y => y.serial == x.serial) = some o) (hl : (grp s t slot).live = true)
    (hst : ¬ (x.kind = .load ∧ (st = .uncorr ∨ st = .dropped))) :
    deliverReply s t slot x st = setGroup s t slot (answered (grp s t slot) x o) := by
  unfold deliverReply
  simp only [ho, hl, answered, Bool.not_true]
  rw [if_neg (by simp), if_neg (by simpa using hst), updGroup_setGroup]
  rw [← fewerOut]
  change (if _ then updGroup (setGroup s t slot (loaded _ x)) t slot wake else setGroup s t slot (loaded _ x)) = _
  rw [updGroup_setGroup, apply_ite (setGroup s t slot)]
  exact if_congr (by simp) rfl rfl

/-- A load that brought back a byte that is not good (R183). -/
theorem deliverReply_failed (s : State) (t slot : Nat) (x : Txn) (st : ReplySt) (o : OutInst)
    (ho : (grp s t slot).outst.find? (fun y => y.serial == x.serial) = some o) (hl : (grp s t slot).live = true)
    (hk : x.kind = .load) (hst : st = .uncorr ∨ st = .dropped) :
    deliverReply s t slot x st =
      tileFaultAt (setGroup s t slot (lessOut (grp s t slot) x o)) t slot 0x18 (failingThread x) o.pc.toNat := by
  unfold deliverReply
  simp only [ho, hl, hk, Bool.not_true]
  rw [if_neg (by simp), if_pos (by simpa using hst)]
  rfl

/-! ### A group stops (R73, R129, R134) -/

/-- Released arrays change the arrays of their tile and their status registers: what shows neither is as before. -/
theorem releaseArrays_keeps {β : Type} (φ : State → β) (s : State) (t slot : Nat) (ha : ∀ s n f, φ (updArray s t n f) = φ s)
    (hr : ∀ s n, φ (addSat s (oARRSTAT t n) 39 32 1) = φ s) : φ (releaseArrays s t slot) = φ s := by
  refine foldl_keeps φ _ _ _ (fun s n => ?_)
  split
  · rw [hr, ha]
  · rfl

theorem txns_stopGroup (s : State) (t slot : Nat) (st : GroupState) : (stopGroup s t slot st).txns = s.txns := by
  rw [stopGroup, updTile_txns]
  exact releaseArrays_keeps (fun s => s.txns) s t slot (fun _ _ _ => rfl) (fun _ _ => rfl)

theorem reg_stopGroup (s : State) (t slot : Nat) (st : GroupState) {o : Nat} (h : ∀ n, o ≠ oARRSTAT t n) :
    reg (stopGroup s t slot st) o = reg s o := by
  rw [stopGroup, reg_updTile]
  exact releaseArrays_keeps (fun s => reg s o) s t slot (fun _ _ _ => rfl) (fun _ n => reg_addSat_ne _ _ _ _ (h n))

theorem tileOf_stopGroup_ne (s : State) {t u : Nat} (slot : Nat) (st : GroupState) (h : u ≠ t) :
    tileOf (stopGroup s t slot st) u = tileOf s u := by
  rw [stopGroup, tileOf_updTile_ne _ _ h]
  exact releaseArrays_keeps (fun s => tileOf s u) s t slot (fun _ _ _ => tileOf_updTile_ne _ _ h) (fun _ _ => rfl)

/-- The groups of the tile: the one that stops is in its final state and waits for nothing. -/
theorem groups_stopGroup (s : State) (t slot : Nat) (st : GroupState) :
    (tileOf (stopGroup s t slot st) t).groups =
      (setGrp (tileOf s t) slot { grp s t slot with st := st, wait := .none }).groups := by
  have hg : (tileOf (releaseArrays s t slot) t).groups = (tileOf s t).groups :=
    releaseArrays_keeps (fun s => (tileOf s t).groups) s t slot
      (fun s n f => by rw [updArray, setArray, tileOf_updTile_self, setArr]) (fun _ _ => rfl)
  rw [stopGroup, tileOf_updTile_self]
  simp only [dropWaiter, orphanAttn, setGrp, grp, groupOf, hg]

theorem grp_stopGroup_self (s : State) (t slot : Nat) (st : GroupState) :
    grp (stopGroup s t slot st) t slot = { grp s t slot with st := st, wait := .none } := by
  rw [grp, groupOf, groups_stopGroup]
  exact groupOf_setGrp_self _ _ _

theorem grp_stopGroup_slot (s : State) (t : Nat) {slot k : Nat} (st : GroupState) (h : k ≠ slot) :
    grp (stopGroup s t slot st) t k = grp s t k := by
  rw [grp, groupOf, groups_stopGroup]
  exact groupOf_setGrp_ne _ _ h

/-- The fault of a group of no LAUNCH, the first of its tile: the group stops and the capture register records it (Table 4.13). -/
theorem tileFaultAt_first (s : State) (t slot cause th ia : Nat) (hl : (grp s t slot).launch = none)
    (hv : regB s (oGRPFAULT t) 63 = false) :
    tileFaultAt s t slot cause th ia = setReg (stopGroup s t slot .faulted) (oGRPFAULT t)
      (BitVec.ofNat 64 (2 ^ 63 + cause * 2 ^ 40 + slot * 2 ^ 37 + th * 2 ^ 32 + ia)) := by
  have hv' : regB (stopGroup s t slot .faulted) (oGRPFAULT t) 63 = false := by
    rw [regB, reg_stopGroup _ _ _ _ (by simp only [oGRPFAULT, oARRSTAT]; omega), ← regB, hv]
  simp only [tileFaultAt, hl, captureGroupFault, hv']
  rfl

/-- The capture of Table 4.13 reads back: its cause in bits 47 to 40, its place in the code in bits 31 to 0. -/
theorem fld_groupFault (cause slot th ia : Nat) (hc : cause < 256) (hs : slot < 8) (ht : th < 32) (hi : ia < 2 ^ 32) :
    fld (BitVec.ofNat 64 (2 ^ 63 + cause * 2 ^ 40 + slot * 2 ^ 37 + th * 2 ^ 32 + ia)) 47 40 = cause ∧
    fld (BitVec.ofNat 64 (2 ^ 63 + cause * 2 ^ 40 + slot * 2 ^ 37 + th * 2 ^ 32 + ia)) 31 0 = ia := by
  simp only [fld, bits, BitVec.toNat_ofNat, Nat.shiftRight_eq_div_pow]
  omega

/-- What such a fault changes: the group, what stands in its tile beside the groups, and two kinds of registers of the tile. -/
theorem tileFaultAt_first_gives (s : State) (t slot cause th ia : Nat) (hl : (grp s t slot).launch = none)
    (hv : regB s (oGRPFAULT t) 63 = false) (hc : cause < 256) (hs : slot < 8) (ht : th < 32) (hi : ia < 2 ^ 32) :
    (tileFaultAt s t slot cause th ia).txns = s.txns ∧
    (∀ o, o ≠ oGRPFAULT t → (∀ n, o ≠ oARRSTAT t n) → reg (tileFaultAt s t slot cause th ia) o = reg s o) ∧
    regF (tileFaultAt s t slot cause th ia) (oGRPFAULT t) 47 40 = cause ∧
    regF (tileFaultAt s t slot cause th ia) (oGRPFAULT t) 31 0 = ia ∧
    grp (tileFaultAt s t slot cause th ia) t slot = { grp s t slot with st := .faulted, wait := .none } ∧
    (∀ u ≠ t, tileOf (tileFaultAt s t slot cause th ia) u = tileOf s u) ∧
    ∀ k ≠ slot, grp (tileFaultAt s t slot cause th ia) t k = grp s t k := by
  obtain ⟨hcause, hplace⟩ := fld_groupFault cause slot th ia hc hs ht hi
  rw [tileFaultAt_first s t slot cause th ia hl hv]
  refine ⟨by rw [setReg_txns, txns_stopGroup], fun o ho hn => ?_, ?_, ?_, ?_, fun u hu => ?_, fun k hk => ?_⟩
  · rw [reg_setReg_ne _ _ ho, reg_stopGroup _ _ _ _ hn]
  · rw [regF, reg_setReg_self, hcause]
  · rw [regF, reg_setReg_self, hplace]
  · rw [grp_setReg, grp_stopGroup_self]
  · rw [tileOf_setReg, tileOf_stopGroup_ne _ _ _ hu]
  · rw [grp_setReg, grp_stopGroup_slot _ _ _ hk]

theorem failingThread_lt (x : Txn) : failingThread x < 32 := by
  have hmin (l : List Nat) : ∀ m < 32, l.foldl min m < 32 := by
    induction l with
    | nil => exact fun _ hm => hm
    | cons a l ih => exact fun m hm => ih _ (Nat.lt_of_le_of_lt (Nat.min_le_left _ _) hm)
  exact hmin _ 31 (by decide)

/-! ### The edge of the master (R227, R228) -/

/-- A reply of the current generation of its tile is delivered. -/
theorem passEdge_current (s : State) (x : Txn) (st : ReplySt) (t slot : Nat) (hsrc : x.src = .tile t slot)
    (hg : x.gen = genOf s (.tile t)) : passEdge s x st = deliverReply (counted s x) t slot x st := by
  have hg' : x.gen = genOf (counted s x) (domainOf x.src) := by rw [hsrc]; exact hg
  rw [passEdge, ← counted, if_neg (by simpa using hg'), hsrc]

/-- One of an old generation is counted in STALE, and what the fabric had lent it in RECLAIM. -/
theorem passEdge_stale (s : State) (x : Txn) (st : ReplySt) (t slot : Nat) (hsrc : x.src = .tile t slot)
    (hg : x.gen ≠ genOf s (.tile t)) :
    passEdge s x st = addSat (addSat (counted s x) oBWREVT 63 48 1) oBWREVT 15 0 x.ledger := by
  have hg' : x.gen ≠ genOf (counted s x) (domainOf x.src) := by rw [hsrc]; exact hg
  rw [passEdge, ← counted, if_pos (by simpa using hg')]

/-- The counters of stale replies and of reclaimed entries, each saturating, and no other register. -/
theorem stale_gives (s : State) (n : Nat) :
    regF (addSat (addSat s oBWREVT 63 48 1) oBWREVT 15 0 n) oBWREVT 63 48 = min 0xFFFF (regF s oBWREVT 63 48 + 1) ∧
    regF (addSat (addSat s oBWREVT 63 48 1) oBWREVT 15 0 n) oBWREVT 15 0 = min 0xFFFF (regF s oBWREVT 15 0 + n) ∧
    ∀ o ≠ oBWREVT, reg (addSat (addSat s oBWREVT 63 48 1) oBWREVT 15 0 n) o = reg s o := by
  refine ⟨?_, ?_, fun o ho => ?_⟩
  · rw [regF_addSat_ne _ _ _ _ _ _ _ (by decide) (by decide), regF_addSat_self _ _ _ _ _ (by decide)]
    rfl
  · rw [regF_addSat_self _ _ _ _ _ (by decide), regF_addSat_ne _ _ _ _ _ _ _ (by decide) (by decide)]
    rfl
  · rw [reg_addSat_ne _ _ _ _ ho, reg_addSat_ne _ _ _ _ ho]

/-! ### Endpoints beside the shelf (R26, R27, R281) -/

/-- A request as its endpoint has answered it. -/
def servedBy (x : Txn) (st : ReplySt) (got : List Host.Cell) : Txn := { x with stage := .replied st, got := got }

/-- The first byte that a load wants is the address of its line that routing sees. -/
theorem txnAddr_of_want (x : Txn) (a n : Nat) (hw : x.want = (List.range n).map (fun i => a + i)) (hn : 0 < n) : txnAddr x = a := by
  obtain ⟨m, rfl⟩ := Nat.exists_eq_succ_of_ne_zero hn.ne'
  simp [txnAddr, txnAddrs, hw, List.range_succ_eq_map]

/-- The bytes that come back to a load of n bytes from `a`, where `f` names the byte at an address. -/
theorem get_got_of_want (l : List Nat) (f : Nat → Byte) (a n i : Nat) (hw : l = (List.range n).map (fun i => a + i)) (hi : i < n) :
    SMap.get 0 (l.map (fun b => (b, f b))) (a + i) = f (a + i) := by
  rw [SMap.get_map_key, if_pos (by simpa [hw] using hi)]

/-- A load of n bytes from `a` that reaches host memory brings the bytes there, from `key` for its first byte. -/
theorem serveDirect_host (s : State) (x : Txn) (key a n : Nat) (hr : routeOfTxn s x = .host key) (hk : x.kind = .load)
    (hw : x.want = (List.range n).map (fun i => a + i)) (hn : 0 < n) :
    ∃ got, serveDirect s x = (noteHost s (some x.part) key false, servedBy x .ok got) ∧
      ∀ i < n, SMap.get 0 got (a + i) = Mem.byte s.hostMem (a + i - a + key) := by
  refine ⟨x.want.map (fun b => (b, Mem.byte s.hostMem (b - a + key))), ?_,
    fun i hi => get_got_of_want _ (fun b => Mem.byte s.hostMem (b - a + key)) a n i hw hi⟩
  conv in serveDirect => delta serveDirect
  generalize routeOfTxn s x = r at hr
  subst hr
  simp [hk, servedBy, noteHost, txnAddr_of_want x a n hw hn]

/-- A load that decodes nowhere is answered with zeros and captured. -/
theorem serveDirect_decode (s : State) (x : Txn) (a n : Nat) (hr : routeOfTxn s x = .decode)
    (hw : x.want = (List.range n).map (fun i => a + i)) :
    ∃ got, serveDirect s x = (decodeError s x.src x.dev, servedBy x .decode got) ∧ ∀ i < n, SMap.get 0 got (a + i) = 0 := by
  refine ⟨x.want.map (fun b => (b, 0)), ?_, fun i hi => get_got_of_want _ (fun _ => 0) a n i hw hi⟩
  conv in serveDirect => delta serveDirect
  generalize routeOfTxn s x = r at hr
  subst hr
  rfl

/-- RAS_DECODE, free before, holds the address (Table 13.8). -/
theorem decodeError_first (s : State) (m : Master) (a : Nat) (hv : regB s oRASDECODE 63 = false) :
    ∃ v : DWord, decodeError s m a = setReg s oRASDECODE v ∧ bit v.toNat 63 = true ∧ fld v 47 0 = a % 2 ^ 48 := by
  have hm : (Config.masterPort (masterCode m)).toNat < 2 ^ 15 := BitVec.isLt _
  refine ⟨_, by rw [decodeError, hv]; exact if_neg (by decide), ?_, ?_⟩
  · simp only [bit, BitVec.toNat_ofNat, Nat.shiftRight_eq_div_pow, beq_iff_eq]
    omega
  · simp only [fld, bits, BitVec.toNat_ofNat, Nat.shiftRight_eq_div_pow]
    omega

/-! ### The command, and what it leaves -/

theorem execDeviceReply_replied (s : State) (x : Txn) (st : ReplySt) (hx : txnOf s x.id = some x) (hst : x.stage = .replied st) :
    exec (.deviceReply x.id) s = .next (if earlierReply s x = true then s else passEdge s x st) := by
  simp only [exec, execDeviceReply, hx, hst]

/-- A reply of the current generation that brings no fault. -/
theorem passEdge_answered (s : State) (x : Txn) (st : ReplySt) (t slot : Nat) (o : OutInst) (hsrc : x.src = .tile t slot)
    (hg : x.gen = genOf s (.tile t)) (ho : (grp s t slot).outst.find? (fun y => y.serial == x.serial) = some o)
    (hl : (grp s t slot).live = true) (hst : ¬ (x.kind = .load ∧ (st = .uncorr ∨ st = .dropped))) :
    passEdge s x st = setGroup (counted s x) t slot (answered (grp s t slot) x o) := by
  rw [passEdge_current s x st t slot hsrc hg, deliverReply_answered (counted s x) t slot x st o ho hl hst, grp_counted]

/-- A load that no earlier request keeps waiting is answered by its endpoint, which leaves the tiles and the generations as they are,
and the answer goes on to its group. -/
theorem execDeviceReply_served (s s1 : State) (x : Txn) (st : ReplySt) (got : List Host.Cell) (t slot : Nat) (o : OutInst)
    (hx : txnOf s x.id = some x) (hst : x.stage = .toHome) (hov : earlierOverlap s x = false) (hh : earlierHost s x = false)
    (hserve : serveDirect s x = (s1, servedBy x st got)) (htiles : s1.tiles = s.tiles) (hgens : s1.gens = s.gens)
    (hsrc : x.src = .tile t slot) (hg : x.gen = genOf s (.tile t))
    (ho : (grp s t slot).outst.find? (fun y => y.serial == x.serial) = some o) (hl : (grp s t slot).live = true)
    (hgood : st ≠ .uncorr ∧ st ≠ .dropped) :
    exec (.deviceReply x.id) s = .next (setGroup (counted s1 x) t slot (answered (grp s t slot) (servedBy x st got) o)) := by
  have hgrp : grp s1 t slot = grp s t slot := by simp only [grp, tileOf, htiles]
  have hg1 : x.gen = genOf s1 (.tile t) := by rw [hg]; simp only [genOf, hgens]
  rw [← hgrp] at ho hl
  have hexec : exec (.deviceReply x.id) s = .next (passEdge s1 (servedBy x st got) st) := by
    simp [exec, execDeviceReply, hx, hst, hov, hh, hserve, servedBy]
  rw [hexec, passEdge_answered s1 (servedBy x st got) st t slot o hsrc hg1 ho hl (by tauto), hgrp]
  rfl

/-- A reply that is delivered by writing its group once, over a state `s1` in which its endpoint has changed registers of the list alone
and no tile: the count of its class falls, and the other tiles, the other groups and the tile's memory are as before. -/
theorem setGroup_counted_gives (s s1 : State) (x : Txn) (t slot : Nat) (y : Group) (l : List Nat) (htiles : s1.tiles = s.tiles)
    (htxns : s1.txns = s.txns) (hregs : RegsBut s s1 l) (hl : oBWRCNT x.part x.cls ∉ l) :
    ((setGroup (counted s1 x) t slot y).txns = s.txns.filter (fun y => y.id != x.id) ∧
      regF (setGroup (counted s1 x) t slot y) (oBWRCNT x.part x.cls) 19 0 = regF s (oBWRCNT x.part x.cls) 19 0 - 1) ∧
    ((∀ u ≠ t, tileOf (setGroup (counted s1 x) t slot y) u = tileOf s u) ∧
      (∀ k ≠ slot, grp (setGroup (counted s1 x) t slot y) t k = grp s t k) ∧
      (tileOf (setGroup (counted s1 x) t slot y) t).mem = (tileOf s t).mem) ∧
    RegsBut s (setGroup (counted s1 x) t slot y) (oBWRCNT x.part x.cls :: l) := by
  have htile (u : Nat) : tileOf s1 u = tileOf s u := by simp only [tileOf, htiles]
  refine ⟨⟨?_, ?_⟩, ⟨fun u hu => ?_, fun k hk => ?_, ?_⟩, fun o ho => ?_⟩
  · rw [setGroup_txns, counted_txns, htxns]
  · rw [regF, reg_setGroup, ← regF, regF_counted, regF, hregs _ hl, ← regF]
  · rw [tileOf_setGroup_ne _ _ _ hu, tileOf_counted, htile]
  · rw [grp_setGroup_slot _ _ _ hk, grp_counted, grp, htile, grp]
  · rw [tileOf_setGroup_self, setGrp, tileOf_counted, htile]
  · rw [List.mem_cons, not_or] at ho
    rw [reg_setGroup, reg_counted s1 x ho.1, hregs o ho.2]

/-- The group after the reply of a load with one destination, where it waits at no FENCE. -/
theorem grp_setGroup_answered (s : State) (t slot : Nat) (g : Group) (x : Txn) (o : OutInst) (d : LoadDest) (v : Nat → Byte)
    (hw : g.wait ≠ .fence) (hd : x.dests = [d]) (hr : d.reg + max 1 (d.size / 4) ≤ 128)
    (hv : ∀ i < d.size, SMap.get 0 x.got (d.addr + i) = v (d.addr + i)) :
    (grp (setGroup s t slot (answered g x o)) t slot).outst = fewerOut g x o ∧
    (∀ th < 32, ∀ k < 128, rget (grp (setGroup s t slot (answered g x o)) t slot) th k =
      if th = d.thread ∧ d.reg ≤ k ∧ k < d.reg + max 1 (d.size / 4) then
        BitVec.ofNat 32 (leNat ((List.range (min 4 d.size)).map (fun i => v (d.addr + 4 * (k - d.reg) + i))))
      else rget g th k) ∧
    (grp (setGroup s t slot (answered g x o)) t slot).st = g.st ∧ (grp (setGroup s t slot (answered g x o)) t slot).pc = g.pc := by
  rw [grp_setGroup_self, answered_of_ne_fence g x o hw]
  exact ⟨loaded_field Group.outst (fun _ _ _ => rfl) _ x, fun th _ k hk => rget_loaded _ x d v hd hr hv th k hk,
    loaded_field Group.st (fun _ _ _ => rfl) _ x, loaded_field Group.pc (fun _ _ _ => rfl) _ x⟩

/-- Settles O18: the command ends in `passEdge` of the request, as it came back or as its endpoint has just answered it; a reply of the
current generation then writes its group once, over the state in which the count has fallen. -/
theorem deviceReplies : Obligations.DeviceReplies := by
  unfold Obligations.DeviceReplies
  intro t slot x o s hx hsrc hslot hp hc g count fewer others gets
  obtain ⟨hevt, hdec, htile⟩ := oBWRCNT_ne hp hc
  have hexec (st : ReplySt) (hst : x.stage = .replied st) (he : earlierReply s x = false) :
      exec (.deviceReply x.id) s = .next (passEdge s x st) := by
    rw [execDeviceReply_replied s x st hx hst, he, if_neg (by decide)]
  refine ⟨fun hg ho hl => ⟨?load, ?accepted, ?failed, ?host, ?nowhere⟩, ?stale, ?waits⟩
  case load =>
    intro d hk hst he hw hd hth hr
    obtain ⟨hcount, hothers, hregs⟩ :=
      setGroup_counted_gives s s x t slot (answered g x o) [] rfl rfl (fun _ _ => rfl) List.not_mem_nil
    obtain ⟨hout, hgets, hstate, hpc⟩ := grp_setGroup_answered (counted s x) t slot g x o d _ hw hd hr (fun _ _ => rfl)
    refine ⟨setGroup (counted s x) t slot (answered g x o), ?_, hcount, hothers, hout, hgets, hstate, hpc, hregs,
      (replyFrame_counted s x).trans (replyFrame_setGroup _ t slot _)⟩
    rw [hexec _ hst he, passEdge_answered s x .ok t slot o hsrc hg ho hl (by simp)]
  case accepted =>
    intro hk hst he hd
    obtain ⟨hcount, hothers, hregs⟩ :=
      setGroup_counted_gives s s x t slot (answered g x o) [] rfl rfl (fun _ _ => rfl) List.not_mem_nil
    refine ⟨setGroup (counted s x) t slot (answered g x o), ?_, hcount, hothers, ?_, hregs,
      (replyFrame_counted s x).trans (replyFrame_setGroup _ t slot _)⟩
    · rw [hexec _ hst he, passEdge_answered s x .ok t slot o hsrc hg ho hl (by simp)]
    · rw [grp_setGroup_self, answered_of_no_dests g x o hd]
      rfl
  case failed =>
    intro st hk hst hbad he hlaunch hv
    have hv' : regB (counted s x) (oGRPFAULT t) 63 = false := by rw [regB, reg_counted s x (htile t 0).1.symm, ← regB, hv]
    obtain ⟨htxns, hreg, hcause, hplace, hgrp, htiles, hslots⟩ :=
      tileFaultAt_first_gives (setGroup (counted s x) t slot (lessOut g x o)) t slot 0x18 (failingThread x) o.pc.toNat
        (by rw [grp_setGroup_self]; exact hlaunch) hv' (by decide) hslot (failingThread_lt x) o.pc.isLt
    rw [grp_setGroup_self] at hgrp
    refine ⟨tileFaultAt (setGroup (counted s x) t slot (lessOut g x o)) t slot 0x18 (failingThread x) o.pc.toNat, ?_, ⟨htxns, ?_⟩,
      by rw [hgrp], by rw [hgrp, lessOut], hcause, hplace, fun u hu => ?_, fun k hk => ?_⟩
    · rw [hexec _ hst he, passEdge_current s x st t slot hsrc hg, deliverReply_failed (counted s x) t slot x st o ho hl hk hbad,
        grp_counted]
    · rw [regF, hreg _ (htile t 0).1 (fun n => (htile t n).2)]
      exact regF_counted s x
    · rw [htiles u hu, tileOf_setGroup_ne _ _ _ hu, tileOf_counted]
    · rw [hslots k hk, grp_setGroup_slot _ _ _ hk, grp_counted]
  case host =>
    intro d key hk hst hov hh hroute hw hd hth hr hwant h0 hb ha
    obtain ⟨got, hserve, hgot⟩ := serveDirect_host s x key d.addr d.size hroute hk hwant h0
    obtain ⟨hcount, hothers, hregs⟩ := setGroup_counted_gives s (noteHost s (some x.part) key false) x t slot
      (answered g (servedBy x .ok got) o) [] rfl rfl (fun _ _ => rfl) List.not_mem_nil
    obtain ⟨hout, hgets, -, -⟩ := grp_setGroup_answered (counted (noteHost s (some x.part) key false) x) t slot g
      (servedBy x .ok got) o d (fun a => if a < d.addr + d.size then Mem.byte s.hostMem (a - d.addr + key) else 0) hw hd hr
      (fun i hi => (hgot i hi).trans (if_pos (by omega)).symm)
    refine ⟨_, execDeviceReply_served s _ x .ok got t slot o hx hst hov hh hserve rfl rfl hsrc hg ho hl (by simp),
      hcount, hothers, hout, hgets, rfl, hregs, ?_⟩
    exact congrArg (fun y : State => { y with hostReqs := s.hostReqs })
      ((replyFrame_counted _ x).trans (replyFrame_setGroup _ t slot (answered g (servedBy x .ok got) o)))
  case nowhere =>
    intro d hk hst hov hh hroute hw hd hth hr hwant h0 hb ha hv
    obtain ⟨v, hcapture, hvalid, haddr⟩ := decodeError_first s x.src x.dev hv
    obtain ⟨got, hserve, hgot⟩ := serveDirect_decode s x d.addr d.size hroute hwant
    rw [hcapture] at hserve
    obtain ⟨hcount, hothers, hregs⟩ := setGroup_counted_gives s (setReg s oRASDECODE v) x t slot (answered g (servedBy x .decode got) o)
      [oRASDECODE] rfl rfl (fun a ha => reg_setReg_ne s v (by simpa using ha)) (by simpa using hdec)
    obtain ⟨hout, hgets, -, -⟩ := grp_setGroup_answered (counted (setReg s oRASDECODE v) x) t slot g (servedBy x .decode got) o d
      (fun _ => 0) hw hd hr hgot
    refine ⟨_, execDeviceReply_served s _ x .decode got t slot o hx hst hov hh hserve rfl rfl hsrc hg ho hl (by simp),
      hcount, hothers, hout, hgets, ?_, ?_, hregs,
      (replyFrame_setReg s oRASDECODE v).trans ((replyFrame_counted _ x).trans (replyFrame_setGroup _ t slot _))⟩
    · rw [regB, reg_setGroup, reg_counted _ x hdec.symm, reg_setReg_self, hvalid]
    · rw [regF, reg_setGroup, reg_counted _ x hdec.symm, reg_setReg_self, haddr]
  case stale =>
    intro st hg hst he
    obtain ⟨hstale, hreclaim, hrest⟩ := stale_gives (counted s x) x.ledger
    have hevents : reg (counted s x) oBWREVT = reg s oBWREVT := reg_counted s x hevt.symm
    simp only [regF, hevents] at hstale hreclaim
    refine ⟨_, (hexec _ hst he).trans (congrArg Host.Outcome.next (passEdge_stale s x st t slot hsrc hg)), ⟨counted_txns s x, ?_⟩,
      ((replyFrame_counted s x).trans (replyFrame_setReg _ _ _)).trans (replyFrame_setReg _ _ _), hstale, hreclaim,
      fun a ha => ?_⟩
    · rw [regF, hrest _ hevt, ← regF, regF_counted]
    · simp only [List.mem_cons, List.not_mem_nil, or_false, not_or] at ha
      rw [hrest a ha.2, reg_counted s x ha.1]
  case waits =>
    intro st hst he
    rw [execDeviceReply_replied s x st hx hst, if_pos he]

end Sys2Proof.Machine

end

section

/-! ## Exact rounding (R32, R34, R101) -/

namespace Sys2Proof.Machine

/-- A value whose last place is that of the code it rounds to loses nothing (R101). -/
theorem FFmt.round_of_lastPlace (f : FFmt) (mode : Nat) (neg : Bool) (m : Nat) (e : Int) (hm : m ≠ 0)
    (hq : max (Nat.log2 m + e - f.mw) f.emin = e) (hfin : (e - f.emin).toNat * 2 ^ f.mw + m ≤ f.maxFin) :
    f.round mode neg m e = (f.sign neg ((e - f.emin).toNat * 2 ^ f.mw + m), 0) := by
  have hmag : f.roundMag mode neg m e = ((e - f.emin).toNat * 2 ^ f.mw + m, false) := by
    simp only [roundMag, hq, roundAt, le_refl, if_true, Int.sub_self, Int.toNat_zero, pow_zero, mul_one]
  simp only [round, if_neg hm, hmag, if_neg (Nat.not_lt.2 hfin), fIf, Bool.false_and, Bool.false_eq_true, if_false]
  rfl

/-- A subnormal significand keeps its code. -/
theorem FFmt.round_subnormal (f : FFmt) (mode : Nat) (neg : Bool) (m : Nat) (hlt : m < 2 ^ f.mw) (hfin : m ≤ f.maxFin) :
    f.round mode neg m f.emin = (f.sign neg m, 0) := by
  rcases Nat.eq_zero_or_pos m with rfl | hm
  · rfl
  · have hlog : Nat.log2 m < f.mw := (Nat.log2_lt hm.ne').2 hlt
    rw [f.round_of_lastPlace mode neg m f.emin hm.ne' (by omega) (by simpa using hfin)]
    simp

/-- A normal significand with its leading bit keeps the code of its exponent field and fraction. -/
theorem FFmt.round_normal (f : FFmt) (mode : Nat) (neg : Bool) (frac ex : Nat) (hlt : frac < 2 ^ f.mw) (hex : 0 < ex)
    (hfin : ex * 2 ^ f.mw + frac ≤ f.maxFin) :
    f.round mode neg (frac + 2 ^ f.mw) (f.emin + ex - 1) = (f.sign neg (ex * 2 ^ f.mw + frac), 0) := by
  have hm : frac + 2 ^ f.mw ≠ 0 := by omega
  have hlog : Nat.log2 (frac + 2 ^ f.mw) = f.mw := (Nat.log2_eq_iff hm).2 ⟨by omega, by rw [pow_succ]; omega⟩
  have hplace : (f.emin + ex - 1 - f.emin).toNat = ex - 1 := by omega
  have hmag : (ex - 1) * 2 ^ f.mw + (frac + 2 ^ f.mw) = ex * 2 ^ f.mw + frac := by
    obtain ⟨k, rfl⟩ := Nat.exists_eq_succ_of_ne_zero hex.ne'
    rw [Nat.succ_sub_one, Nat.succ_mul]
    omega
  rw [f.round_of_lastPlace mode neg _ _ hm (by rw [hlog]; omega) (by rw [hplace, hmag]; exact hfin), hplace, hmag]

/-- A code is its sign bit, exponent field and fraction field (R32). -/
theorem FFmt.code_eq (f : FFmt) (hew : 0 < f.ew) (v : Nat) (hv : v < 2 ^ f.width) :
    f.sign (bit v (f.ew + f.mw)) (bits v (f.ew + f.mw - 1) f.mw * 2 ^ f.mw + v % 2 ^ f.mw) = v := by
  have hw : f.ew + f.mw - 1 + 1 - f.mw = f.ew := by omega
  have hsign : b2n (bit v (f.ew + f.mw)) = v / 2 ^ (f.ew + f.mw) := by
    have htop : v / 2 ^ (f.ew + f.mw) < 2 := by
      rw [Nat.div_lt_iff_lt_mul (Nat.two_pow_pos _), ← pow_succ']
      rwa [width, show 1 + f.ew + f.mw = f.ew + f.mw + 1 by omega] at hv
    rw [bit, Nat.shiftRight_eq_div_pow, Nat.mod_eq_of_lt htop]
    rcases Nat.lt_succ_iff_lt_or_eq.1 htop with h | h
    · rw [Nat.lt_one_iff.1 h]; rfl
    · rw [h]; rfl
  have hlow : bits v (f.ew + f.mw - 1) f.mw * 2 ^ f.mw + v % 2 ^ f.mw = v % 2 ^ (f.ew + f.mw) := by
    rw [bits, hw, Nat.shiftRight_eq_div_pow, Nat.add_comm f.ew, pow_add, Nat.mod_mul, Nat.mul_comm, Nat.add_comm]
  rw [sign, hsign, hlow, Nat.div_add_mod']

/-- The code of a finite value is what the value rounds to. -/
theorem FFmt.round_dec (f : FFmt) (he : f.e4m3 = false) (hew : 0 < f.ew) (mode v : Nat) (hv : v < 2 ^ f.width) (neg : Bool) (m : Nat)
    (e : Int) (hd : f.dec v = .fin neg m e) : f.round mode neg m e = (v, 0) := by
  have hcode := f.code_eq hew v hv
  have hfrac : v % 2 ^ f.mw < 2 ^ f.mw := Nat.mod_lt _ (Nat.two_pow_pos _)
  have hex : bits v (f.ew + f.mw - 1) f.mw < 2 ^ f.ew := by
    rw [bits, show f.ew + f.mw - 1 + 1 - f.mw = f.ew by omega]
    exact Nat.mod_lt _ (Nat.two_pow_pos _)
  simp only [dec, he, Bool.false_eq_true, if_false] at hd
  generalize bits v (f.ew + f.mw - 1) f.mw = ex at *
  split at hd
  · split at hd <;> simp at hd
  · next htop =>
    have hfin : ex * 2 ^ f.mw + v % 2 ^ f.mw ≤ f.maxFin := by
      have : (ex + 1) * 2 ^ f.mw ≤ (2 ^ f.ew - 1) * 2 ^ f.mw := Nat.mul_le_mul_right _ (by omega)
      rw [Nat.succ_mul] at this
      simp only [maxFin, he, Bool.false_eq_true, if_false]
      omega
    split at hd
    · next h0 =>
      subst h0
      obtain ⟨rfl, rfl, rfl⟩ := hd
      rw [Nat.zero_mul, Nat.zero_add] at hcode hfin
      rw [f.round_subnormal mode _ _ hfrac hfin, hcode]
    · next h0 =>
      obtain ⟨rfl, rfl, rfl⟩ := hd
      rw [f.round_normal mode _ _ ex hfrac (by omega) hfin, hcode]

/-- Settles O6: a finite code's value has the last place of its code, so the rounding takes it as it is. -/
theorem exactRounding : Obligations.ExactRounding := by
  unfold Obligations.ExactRounding
  intro f hf mode v hv _
  have hwide : f.e4m3 = false ∧ 0 < f.ew := by
    simp only [List.mem_cons, List.not_mem_nil, or_false] at hf
    rcases hf with rfl | rfl | rfl | rfl <;> decide
  split
  · next neg m e hd => exact f.round_dec hwide.1 hwide.2 mode v hv neg m e hd
  · trivial

end Sys2Proof.Machine

end

section

/-! ## Tiles without damage: reads, writes and the issue of an instruction (R107, R117, R332)

With no error in tile memory and in the group's registers, the checks of a read find nothing and leave the state as it is. -/

namespace Sys2Proof.Machine

/-! ### One tile replaced: arrays, groups, registers -/

theorem tileOf_setArray_self (s : State) (t n : Nat) (y : ArrayUnit) : tileOf (setArray s t n y) t = setArr (tileOf s t) n y :=
  tileOf_updTile_self s t _

theorem tileOf_setArray_ne (s : State) {t u : Nat} (n : Nat) (y : ArrayUnit) (h : u ≠ t) : tileOf (setArray s t n y) u = tileOf s u :=
  tileOf_updTile_ne s _ h

theorem arr_setArray_self (s : State) (t n : Nat) (y : ArrayUnit) : arr (setArray s t n y) t n = y := by
  rw [arr, tileOf_setArray_self, arrayOf_setArr_self]

theorem arr_setArray_ne (s : State) (t : Nat) {n k : Nat} (y : ArrayUnit) (h : k ≠ n) : arr (setArray s t n y) t k = arr s t k := by
  rw [arr, tileOf_setArray_self, arrayOf_setArr_ne _ _ h, arr]

/-- An array is no part of a group, nor of tile memory. -/
theorem grp_setArray (s : State) (t n : Nat) (y : ArrayUnit) (k : Nat) : grp (setArray s t n y) t k = grp s t k := by
  rw [grp, tileOf_setArray_self]
  rfl

theorem mem_setArray (s : State) (t n : Nat) (y : ArrayUnit) : (tileOf (setArray s t n y) t).mem = (tileOf s t).mem := by
  rw [tileOf_setArray_self]
  rfl

theorem memErr_setArray (s : State) (t n : Nat) (y : ArrayUnit) : (tileOf (setArray s t n y) t).memErr = (tileOf s t).memErr := by
  rw [tileOf_setArray_self]
  rfl

/-- A group is no part of an array, nor of tile memory. -/
theorem arr_setGroup (s : State) (t k : Nat) (y : Group) (n : Nat) : arr (setGroup s t k y) t n = arr s t n := by
  rw [arr, tileOf_setGroup_self]
  rfl

theorem mem_setGroup (s : State) (t k : Nat) (y : Group) : (tileOf (setGroup s t k y) t).mem = (tileOf s t).mem := by
  rw [tileOf_setGroup_self]
  rfl

/-! ### Reads that find no error -/

theorem tmCheck_of_memErr_nil (s : State) (t src p : Nat) (h : (tileOf s t).memErr = []) : tmCheck s t src p = (s, false) := by
  simp [tmCheck, h]

theorem tmWord_of_memErr_nil (s : State) (t src w : Nat) (h : (tileOf s t).memErr = []) : tmWord s t src w = (s, []) :=
  List.foldl_fixed' (fun i => by simp [tmCheck_of_memErr_nil s t src _ h]) _

theorem tmWords_of_memErr_nil (s : State) (t src : Nat) (ws : List Nat) (h : (tileOf s t).memErr = []) : tmWords s t src ws = (s, []) :=
  List.foldl_fixed' (fun w => by simp [tmWord_of_memErr_nil s t src w h]) _

/-- Written parts without errors get fresh check bits: the bytes alone change. -/
theorem tmWrite_of_memErr_nil (s : State) (t src : Nat) (cs : List Host.Cell) (h : (tileOf s t).memErr = []) :
    tmWrite s t src cs = updTile s t (fun x => { x with mem := Mem.cells x.mem cs }) := by
  simp only [tmWrite, tmWords_of_memErr_nil s t src _ h, updTile]
  congr 1
  simp only [h, List.contains_nil, List.filter_false, Bool.not_false, List.filter_true, Tile.mk.injEq, true_and, and_true]
  exact List.foldl_fixed' (fun i => by split <;> rfl) _

theorem readRegs_of_regErr_nil (s : State) (t slot : Nat) (ks : List Nat) (h : (grp s t slot).regErr = []) :
    readRegs s t slot ks = (s, false) :=
  List.foldl_fixed' (fun k => by simp [regCheck, h]) ks

/-! ### Issue and what follows it -/

theorem CanIssue.undamaged {row : Row} {t slot : Nat} {w : DWord} {s : State} (h : CanIssue row t slot w s) : Undamaged s t slot := by
  obtain ⟨-, -, -, hu, -⟩ := h
  exact hu

/-- An instruction that can issue runs its body on the state as it is. -/
theorem issue_of_canIssue (row : Row) (t slot : Nat) (w : DWord) (s : State) (body : State → Res) (h : CanIssue row t slot w s) :
    issue row t slot w s body = .next (finish s t slot (body s)) := by
  obtain ⟨hissue, hready, hpc, ⟨hmem, hreg⟩, hbuf, hfmt, hspans, hpend⟩ := h
  have hkey : tileKey w = some row.key := by
    simp only [formatOk, Bool.and_eq_true, beq_iff_eq] at hfmt
    exact hfmt.1.1.1
  have hfetch : fetchCheck s t slot = (s, none) := by
    simp only [fetchCheck, if_neg (Nat.not_lt.2 hpc)]
    exact if_pos hbuf
  simp only [issue, otherRow, hkey, if_true, hissue, unhold, hready, hfetch, dispatchIssue, hfmt, hspans, hpend,
    readRegs_of_regErr_nil s t slot _ hreg, Bool.not_true, Bool.false_eq_true, if_false]

theorem finish_done (s s' : State) (t slot : Nat) : finish s t slot (.done s') = movePtr (advancePc s' t slot) t slot := rfl

/-- A completed instruction moves the program counter and the scheduler's pointer on; nothing else of the tile shows it. -/
theorem grp_finish_done_self (s s' : State) (t slot : Nat) :
    grp (finish s t slot (.done s')) t slot = { grp s' t slot with pc := (grp s' t slot).pc + 8 } := by
  rw [finish_done, grp, movePtr, tileOf_updTile_self, advancePc]
  exact grp_updGroup_self s' t slot _

theorem grp_finish_done_slot (s s' : State) (t : Nat) {slot k : Nat} (h : k ≠ slot) :
    grp (finish s t slot (.done s')) t k = grp s' t k := by
  rw [finish_done, grp, movePtr, tileOf_updTile_self, advancePc]
  exact grp_updGroup_slot s' t _ h

theorem arr_finish_done (s s' : State) (t slot n : Nat) : arr (finish s t slot (.done s')) t n = arr s' t n := by
  rw [finish_done, arr, movePtr, tileOf_updTile_self, advancePc]
  exact arr_setGroup s' t slot _ n

theorem mem_finish_done (s s' : State) (t slot : Nat) : (tileOf (finish s t slot (.done s')) t).mem = (tileOf s' t).mem := by
  rw [finish_done, movePtr, tileOf_updTile_self, advancePc]
  exact mem_setGroup s' t slot _

/-- Nothing changes but the tiles. -/
def TilesOnly (s s' : State) : Prop := { s' with tiles := s.tiles } = s

theorem TilesOnly.trans {s s1 s2 : State} (h : TilesOnly s s1) (h' : TilesOnly s1 s2) : TilesOnly s s2 :=
  Eq.trans (congrArg (fun y : State => { y with tiles := s.tiles }) h') h

theorem tilesOnly_updTile (s : State) (t : Nat) (f : Tile → Tile) : TilesOnly s (updTile s t f) := rfl

theorem tilesOnly_finish_done {s s' : State} (t slot : Nat) (h : TilesOnly s s') : TilesOnly s (finish s t slot (.done s')) :=
  h.trans ((tilesOnly_updTile s' t _).trans (tilesOnly_updTile _ t _))

end Sys2Proof.Machine

end

section

/-! ## CUPPING_SHADOW_DONE (R60 to R63) -/

namespace Sys2Proof.Machine

/-! ### The histogram and the event (R62, R63) -/

/-- A histogram has 16 bins (R62). -/
theorem cupBin_lt (c4 c8 : List (BitVec 32)) : cupBin c4 c8 < 16 := by
  unfold cupBin
  dsimp only
  split
  · decide
  · split
    · split <;> decide
    · split
      · decide
      · split
        · decide
        · next hsmall =>
          have hmag : fdivMag (List.foldl (fun b p => max b (fmag (fp32.add 0 p.1.toNat (p.2 ^^^ 0x8000_0000#32).toNat).1)) 0 (c4.zip c8))
              (List.foldl (fun b v => max b (fmag v.toNat)) 0 c8) / 2 ^ 23 < 125 := by omega
          omega

/-- The bins of a partition lie below its event register (Table 1.7). -/
theorem oCUPHIST_ne_oCUPEVT (p : Nat) {n : Nat} (hn : n < 16) : oCUPHIST p n ≠ oCUPEVT p := by
  simp only [oCUPHIST, oCUPEVT]
  omega

/-- The tail that R63 compares: the counts of the bins from FIRST on. -/
def cupTail (s : State) (p : Nat) : Nat :=
  (((List.range 16).filter (fun n => regF s (oCUPEVT p) 3 0 ≤ n)).map (fun n => regF s (oCUPHIST p n) 31 0)).sum

/-- Is the partition's event to be raised (R63)? -/
def cupRaises (s : State) (p : Nat) : Bool :=
  regB s (oCUPEVT p) 4 && decide (regF s (oCUPEVT p) 63 32 < cupTail s p) && !regB s (oCUPEVT p) 8

/-- The event with its vector, as it is raised. -/
def cupRaised (s : State) (p : Nat) : State := partIrq (setF s (oCUPEVT p) 8 8 1) p 50

theorem cupCheck_eq (s : State) (p : Nat) : cupCheck s p = if cupRaises s p = true then cupRaised s p else s := by
  simp only [cupCheck, cupRaises, cupTail, cupRaised, List.sum_eq_foldl, List.foldl_map]

/-- A signalled vector joins the list of vectors, or nothing changes. -/
theorem partIrq_eq (s : State) (p k : Nat) : ∃ l, partIrq s p k = { s with irqs := l } := by
  unfold partIrq pfIrq
  split
  · exact ⟨s.irqs, rfl⟩
  · split <;> exact ⟨_, rfl⟩

/-- Outside quarantine the vector goes to the VF, or to the PF while VIAPF is 1 (R284). -/
theorem irqs_partIrq (s : State) (p k : Nat) (hq : (partOf s p).quarantine = false) :
    (partIrq s p k).irqs = s.irqs ++ [if regB s (oPCFG p) 17 = true then (0, 64 + 64 * p + k) else (p + 1, k)] := by
  simp only [partIrq, hq, Bool.false_eq_true, if_false, pfIrq]
  split <;> rfl

theorem withTiles_ite (c : Prop) [Decidable c] (a b : State) (T : SMap Tile) :
    { (if c then a else b) with tiles := T } = if c then { a with tiles := T } else { b with tiles := T } := by
  split <;> rfl

/-- What the tiles hold has no part in a vector, nor in the event. -/
theorem partIrq_withTiles (s : State) (T : SMap Tile) (p k : Nat) : { partIrq s p k with tiles := T } = partIrq { s with tiles := T } p k :=
  (withTiles_ite ((partOf s p).quarantine = true) _ _ T).trans
    (if_congr Iff.rfl rfl (withTiles_ite (regB s (oPCFG p) 17 = true) _ _ T))

theorem cupCheck_withTiles (s : State) (T : SMap Tile) (p : Nat) :
    { cupCheck s p with tiles := T } = cupCheck { s with tiles := T } p := by
  rw [cupCheck_eq, cupCheck_eq]
  exact (withTiles_ite (cupRaises s p = true) _ _ T).trans (if_congr Iff.rfl (partIrq_withTiles _ T p 50) rfl)

/-- The check sets the event register of the partition and signals, at most. -/
theorem cupCheck_frame (s : State) (p : Nat) :
    RegsBut s (cupCheck s p) [oCUPEVT p] ∧ { cupCheck s p with bar0 := s.bar0, irqs := s.irqs } = s := by
  rw [cupCheck_eq]
  split
  · obtain ⟨l, hl⟩ := partIrq_eq (setF s (oCUPEVT p) 8 8 1) p 50
    rw [cupRaised, hl]
    exact ⟨fun o ho => reg_setF_ne s 8 8 1 (by simpa using ho), rfl⟩
  · exact ⟨fun _ _ => rfl, rfl⟩

/-- With EN 0 no event is raised. -/
theorem cupCheck_disabled (s : State) (p : Nat) (h : regB s (oCUPEVT p) 4 = false) : cupCheck s p = s := by
  rw [cupCheck_eq, cupRaises, h]
  rfl

/-- What counting a block's bin leaves: one more in the bin, and the event if the tail passes the threshold. -/
theorem cupCount_gives (s : State) (p bin : Nat) (hbin : bin < 16) :
    regF (cupCount s p bin) (oCUPHIST p bin) 31 0 = min (2 ^ 32 - 1) (regF s (oCUPHIST p bin) 31 0 + 1) ∧
    RegsBut s (cupCount s p bin) [oCUPHIST p bin, oCUPEVT p] ∧
    { cupCount s p bin with bar0 := s.bar0, irqs := s.irqs } = s ∧
    (regB s (oCUPEVT p) 4 = false → RegsBut s (cupCount s p bin) [oCUPHIST p bin] ∧ (cupCount s p bin).irqs = s.irqs) := by
  have hne := oCUPHIST_ne_oCUPEVT p hbin
  obtain ⟨hregs, hframe⟩ := cupCheck_frame (addSat s (oCUPHIST p bin) 31 0 1) p
  refine ⟨?_, fun o ho => ?_, ?_, fun hen => ?_⟩
  · rw [cupCount, regF, hregs _ (by simpa using hne), ← regF, regF_addSat_self _ _ _ _ _ (by decide)]
  · simp only [List.mem_cons, List.not_mem_nil, or_false, not_or] at ho
    rw [cupCount, hregs o (by simpa using ho.2), reg_addSat_ne _ _ _ _ ho.1]
  · exact congrArg (fun y : State => { y with bar0 := s.bar0 }) hframe
  · rw [cupCount, cupCheck_disabled _ _ (by rw [regB_addSat_other _ _ _ _ _ hne.symm, hen])]
    exact ⟨fun o ho => reg_addSat_ne s 31 0 1 (by simpa using ho), rfl⟩

/-- An event that is raised: pending, and its vector signalled outside quarantine (R63). -/
theorem cupCheck_raises (s : State) (p : Nat) (hp : p < 8) (hr : cupRaises s p = true) (hq : (partOf s p).quarantine = false) :
    regB (cupCheck s p) (oCUPEVT p) 8 = true ∧
    (cupCheck s p).irqs = s.irqs ++ [if regB s (oPCFG p) 17 = true then (0, 64 + 64 * p + 50) else (p + 1, 50)] := by
  have hpage : oPCFG p ≠ oCUPEVT p := by
    simp only [oPCFG, oCUPEVT, hstPage]
    omega
  rw [cupCheck_eq, if_pos hr, cupRaised]
  constructor
  · obtain ⟨l, hl⟩ := partIrq_eq (setF s (oCUPEVT p) 8 8 1) p 50
    rw [hl]
    exact regB_setF_in s (oCUPEVT p) 8 8 1 8 (by decide) (by decide)
  · rw [irqs_partIrq (setF s (oCUPEVT p) 8 8 1) p 50 hq, setF_irqs, regB_setF_other _ _ _ _ _ hpage]

/-! ### The end of a shadow (R60, R61) -/

/-- The shadow of an array has ended. -/
def shadowEnded (s : State) (t n : Nat) : State := setArray s t n { arr s t n with shadow := none }

/-- The shadow's rows and columns as tile memory holds them (R60). -/
def shadowRows (s : State) (t : Nat) (sh : Shadow) : List (List (List Elem × Scale)) :=
  (List.range sh.m).map (fun i =>
    shadowVec (tileOf s t).mem (regF s (oSHADOWA t) 19 0 + i * regF s (oSHADOWA t) 47 32) sh.kTot sh.intA)

def shadowCols (s : State) (t : Nat) (sh : Shadow) : List (List (List Elem × Scale)) :=
  (List.range sh.n).map (fun j =>
    shadowVec (tileOf s t).mem (regF s (oSHADOWB t) 19 0 + j * regF s (oSHADOWB t) 47 32) sh.kTot sh.intB)

/-- The bin of the shadow's block (R62). -/
def shadowBin (s : State) (t : Nat) (sh : Shadow) : Nat :=
  cupBin sh.c4 ((List.range 256).map (fun i =>
    if i / 8 < sh.m ∧ i % 8 < sh.n then
      shadowElem ((shadowRows s t sh).getD (i / 8) []) ((shadowCols s t sh).getD (i % 8) []) else 0))

/-- Do the shadow's operands lie inside tile memory (R61)? -/
def shadowInside (s : State) (t : Nat) (sh : Shadow) : Bool :=
  shadowRange (regF s (oSHADOWA t) 19 0) (regF s (oSHADOWA t) 47 32) sh.m sh.kTot &&
    shadowRange (regF s (oSHADOWB t) 19 0) (regF s (oSHADOWB t) 47 32) sh.n sh.kTot

theorem regF_setArray (s : State) (t n : Nat) (y : ArrayUnit) (o hi lo : Nat) : regF (setArray s t n y) o hi lo = regF s o hi lo := rfl

theorem execCuppingShadowDone_outside (s : State) (t n : Nat) (sh : Shadow) (hsh : (arr s t n).shadow = some sh)
    (h : shadowInside s t sh = false) : exec (.cuppingShadowDone t n) s = .next (shadowEnded s t n) := by
  rw [shadowInside, Bool.and_eq_false_iff] at h
  simp only [exec, execCuppingShadowDone, hsh]
  refine if_pos ?_
  rw [Bool.or_eq_true, Bool.not_eq_true', Bool.not_eq_true']
  exact h

theorem execCuppingShadowDone_inside (s : State) (t n p : Nat) (sh : Shadow) (hsh : (arr s t n).shadow = some sh)
    (hp : partOfTile s t = some p) (hmem : (tileOf s t).memErr = []) (h : shadowInside s t sh = true) :
    exec (.cuppingShadowDone t n) s = .next (cupCount (shadowEnded s t n) p (shadowBin s t sh)) := by
  rw [shadowInside, Bool.and_eq_true] at h
  obtain ⟨hrows, hcols⟩ := h
  have hclean (ws : List Nat) : tmWords (shadowEnded s t n) t 1 ws = (shadowEnded s t n, []) :=
    tmWords_of_memErr_nil _ t 1 ws ((memErr_setArray s t n _).trans hmem)
  have hpart : partOfTile (shadowEnded s t n) t = some p := hp
  have hbytes : (tileOf (shadowEnded s t n) t).mem = (tileOf s t).mem := mem_setArray s t n _
  rw [shadowEnded] at hclean hpart hbytes
  simp only [exec, execCuppingShadowDone, hsh, updArray, regF_setArray, hrows, hcols, hclean, wantsBad, List.any_nil, hpart, hbytes,
    Bool.not_true, Bool.or_self, Bool.false_eq_true, if_false]
  exact if_neg (by simp)

/-- What the end of a shadow leaves of its tile: the shadow alone is gone. -/
theorem shadowEnded_gives (s : State) (t n : Nat) :
    arr (shadowEnded s t n) t n = { arr s t n with shadow := none } ∧ (∀ k ≠ n, arr (shadowEnded s t n) t k = arr s t k) ∧
    (∀ u ≠ t, tileOf (shadowEnded s t n) u = tileOf s u) ∧
    { tileOf (shadowEnded s t n) t with arrays := (tileOf s t).arrays } = tileOf s t := by
  refine ⟨arr_setArray_self s t n _, fun k hk => arr_setArray_ne s t _ hk, fun u hu => tileOf_setArray_ne s n _ hu, ?_⟩
  rw [shadowEnded, tileOf_setArray_self]
  rfl

/-- Counting a bin leaves the tiles as they are. -/
theorem cupCount_tiles (s : State) (p bin : Nat) : (cupCount s p bin).tiles = s.tiles :=
  (congrArg State.tiles (cupCheck_frame (addSat s (oCUPHIST p bin) 31 0 1) p).2 :)

/-- Settles O20: the shadow ends; its operands decide whether its bin is counted, and the count whether the event is raised. -/
theorem cuppingEvents : Obligations.CuppingEvents := by
  unfold Obligations.CuppingEvents
  refine ⟨fun t n p sh s hsh hp hmem => ?counted, fun t n sh s hsh hout => ?discarded, fun p s hp hen hpend hq htail => ?raised⟩
  case counted =>
    intro ba pa bb pb xs ys c8 bin hrows hcols
    obtain ⟨hself, hothers, htiles, hrest⟩ := shadowEnded_gives s t n
    obtain ⟨hcount, hregs, hframe, hquiet⟩ := cupCount_gives (shadowEnded s t n) p bin (cupBin_lt _ _)
    have hkeep (u : Nat) : tileOf (cupCount (shadowEnded s t n) p bin) u = tileOf (shadowEnded s t n) u := by
      rw [tileOf, cupCount_tiles, tileOf]
    refine ⟨cupCount (shadowEnded s t n) p bin, ?_, cupBin_lt _ _, ?_, fun k hk => ?_, fun u hu => ?_, ?_, ?_, hcount, hregs, ?_,
      hquiet⟩
    · exact execCuppingShadowDone_inside s t n p sh hsh hp hmem (by simp only [shadowInside, Bool.and_eq_true]; exact ⟨hrows, hcols⟩)
    · rw [arr, hkeep, ← arr, hself]
    · rw [arr, hkeep, ← arr, hothers k hk]
    · rw [hkeep, htiles u hu]
    · rw [hkeep, hrest]
    · exact cupCheck_withTiles _ s.tiles p
    · exact congrArg (fun y : State => { y with tiles := s.tiles }) hframe
  case discarded =>
    refine ⟨shadowEnded s t n, execCuppingShadowDone_outside s t n sh hsh ?_, (shadowEnded_gives s t n).1, rfl⟩
    rwa [shadowInside, Bool.and_eq_false_iff]
  case raised =>
    have hr : cupRaises s p = true := by
      simp only [cupRaises, hen, hpend, Bool.true_and, Bool.not_false, Bool.and_true, decide_eq_true_eq]
      exact htail
    obtain ⟨hpending, hirqs⟩ := cupCheck_raises s p hp hr hq
    exact ⟨_, rfl, hpending, (cupCheck_frame s p).1, hirqs⟩

end Sys2Proof.Machine

end

section

/-! ## Firings of the tide table (R247 to R249, Table 9.2) -/

namespace Sys2Proof.Machine

/-! ### Spending a firing -/

/-- The registers of a tide-table entry (Tables 9.5, 9.6). -/
def entRegs (n : Nat) : List Nat := [oENTA n, oENTB n]

/-- A frame composes with the frame of a first part. -/
theorem RegsBut.append {s s1 s2 : State} {l l' : List Nat} (h : RegsBut s s1 l) (h' : RegsBut s1 s2 l') : RegsBut s s2 (l ++ l') := by
  intro o ho
  rw [List.mem_append, not_or] at ho
  rw [h' o ho.2, h o ho.1]

theorem oENTA_ne_oENTB (n : Nat) : oENTA n ≠ oENTB n := by
  simp only [oENTA, oENTB]
  omega

/-- An entry whose turn has come is valid. -/
theorem entValid_of_turnOf {s : State} {n st : Nat} (h : turnOf s n = some st) : entValid s n = true := by
  have hdue : dueStep s n = some st := by
    unfold turnOf at h
    split at h
    · cases h
    · exact h
  have valid_of_fires {k : Nat} (hf : firesAt s n k = true) : entValid s n = true := by
    simp only [firesAt, Bool.and_eq_true] at hf
    exact hf.1.1
  unfold dueStep at hdue
  split at hdue
  · cases hdue
  · split at hdue
    · dsimp only at hdue
      split at hdue
      · next h => exact valid_of_fires h.2.1
      · cases hdue
    · split at hdue
      · cases hdue
      · split at hdue
        · next h => exact valid_of_fires h.2.1
        · cases hdue

/-- The firings of entry n below step k are handled. -/
def handled (s : State) (n k : Nat) : State := { s with tg := { s.tg with fired := SMap.set 0 s.tg.fired n k } }

theorem reg_handled (s : State) (n k o : Nat) : reg (handled s n k) o = reg s o := rfl

theorem entCount_handled (s : State) (n k m : Nat) : entCount (handled s n k) m = entCount s m := rfl

theorem entValid_handled (s : State) (n k m : Nat) : entValid (handled s n k) m = entValid s m := rfl

theorem unhandled_handled (s : State) (n k : Nat) : unhandled (handled s n k) n = k := SMap.get_set_self 0 s.tg.fired n k

/-- The entry's registers when one firing is spent: COUNT has fallen, and VALID is cleared after the last one. -/
def firingCounted (s : State) (n : Nat) : State := setF s (oENTB n) 63 48 (entCount s n - 1)

def entRetired (s : State) (n : Nat) : State := setF (firingCounted s n) (oENTA n) 63 63 0

/-- The last firing: the only one of an entry that does not repeat, or the one that COUNT still allows. -/
def lastFiring (s : State) (n : Nat) : Prop := entRepeat s n = 0 ∨ entCount s n = 1

theorem spend_last {s : State} {n : Nat} (st : Nat) (h : lastFiring s n) : spend s n 1 st = handled (entRetired s n) n 0 := by
  have hlast : (entRepeat s n == 0 || (entCount s n != 0 && decide (entCount s n ≤ 1))) = true := by
    rcases h with h | h <;> simp [h]
  simp only [spend, hlast, if_true, handled, entRetired, firingCounted, setF_tg]

theorem spend_more {s : State} {n : Nat} (st : Nat) (h : ¬ lastFiring s n) : spend s n 1 st = handled (firingCounted s n) n (st + 1) := by
  rw [lastFiring, not_or] at h
  have hmore : (entRepeat s n == 0 || (entCount s n != 0 && decide (entCount s n ≤ 1))) = false := by
    simp only [Bool.or_eq_false_iff, beq_eq_false_iff_ne, Bool.and_eq_false_iff, bne_eq_false_iff_eq, decide_eq_false_iff_not]
    omega
  simp only [spend, hmore, Bool.false_eq_true, if_false, handled, firingCounted, setF_tg]

theorem entCount_firingCounted (s : State) (n : Nat) : entCount (firingCounted s n) n = entCount s n - 1 := by
  rw [firingCounted, entCount, regF_setF_self _ _ _ _ _ (by decide)]
  exact Nat.mod_eq_of_lt (Nat.lt_of_le_of_lt (Nat.sub_le _ _) (regF_lt s _ 63 48))

theorem entCount_entRetired (s : State) (n : Nat) : entCount (entRetired s n) n = entCount s n - 1 :=
  (regF_setF_other _ _ _ _ _ _ (oENTA_ne_oENTB n).symm).trans (entCount_firingCounted s n)

theorem entValid_entRetired (s : State) (n : Nat) : entValid (entRetired s n) n = false :=
  regB_setF_in _ _ 63 63 0 63 (by decide) (by decide)

theorem entValid_firingCounted (s : State) (n : Nat) : entValid (firingCounted s n) n = entValid s n :=
  regB_setF_other _ _ _ _ _ (oENTA_ne_oENTB n)

theorem regsBut_firingCounted (s : State) (n : Nat) : RegsBut s (firingCounted s n) [oENTB n] :=
  fun _ ho => reg_setF_ne _ _ _ _ (by simpa using ho)

theorem regsBut_entRetired (s : State) (n : Nat) : RegsBut s (entRetired s n) (entRegs n) := by
  intro o ho
  simp only [entRegs, List.mem_cons, List.not_mem_nil, or_false, not_or] at ho
  rw [entRetired, reg_setF_ne _ _ _ _ ho.1, regsBut_firingCounted s n o (by simpa using ho.2)]

/-- What a spent firing leaves: COUNT and VALID of its entry, the step up to which its firings are handled. -/
theorem spend_gives (s : State) (n st : Nat) (hv : entValid s n = true) :
    Spent s (spend s n 1 st) n st ∧ RegsBut s (spend s n 1 st) (entRegs n) := by
  by_cases h : lastFiring s n
  · rw [spend_last st h, Spent, entCount_handled, entCount_entRetired, entValid_handled, entValid_entRetired, unhandled_handled]
    refine ⟨⟨rfl, iff_of_false (by decide) (not_not.2 h), Or.inr ⟨h, rfl⟩⟩, fun o ho => ?_⟩
    rw [reg_handled, regsBut_entRetired s n o ho]
  · rw [spend_more st h, Spent, entCount_handled, entCount_firingCounted, entValid_handled, entValid_firingCounted, unhandled_handled]
    refine ⟨⟨rfl, iff_of_true hv h, Or.inl rfl⟩, fun o ho => ?_⟩
    simp only [entRegs, List.mem_cons, List.not_mem_nil, or_false, not_or] at ho
    rw [reg_handled, regsBut_firingCounted s n o (by simpa using ho.2)]

/-- Beside registers, a spent firing changes the handled firings alone. -/
theorem spend_keeps {β : Type} (φ : State → β) (s : State) (n st : Nat) (hr : ∀ s o v, φ (setReg s o v) = φ s)
    (hf : ∀ s k, φ (handled s n k) = φ s) : φ (spend s n 1 st) = φ s := by
  by_cases h : lastFiring s n
  · rw [spend_last st h, hf, entRetired, setF, hr, firingCounted, setF, hr]
  · rw [spend_more st h, hf, firingCounted, setF, hr]

theorem spend_tg (s : State) (n st : Nat) (m : SMap Nat) : { (spend s n 1 st).tg with fired := m } = { s.tg with fired := m } :=
  spend_keeps (fun s => { s.tg with fired := m }) s n st (fun _ _ _ => rfl) (fun _ _ => rfl)

theorem spend_frame (s : State) (n st : Nat) (r : SMap DWord) (tg : Tidegauge) :
    { spend s n 1 st with bar0 := r, tg := tg } = { s with bar0 := r, tg := tg } :=
  spend_keeps (fun s => { s with bar0 := r, tg := tg }) s n st (fun _ _ _ => rfl) (fun _ _ => rfl)

/-- An entry's fields stand in its two registers. -/
theorem ent_congr {s b : State} {n : Nat} (ha : reg b (oENTA n) = reg s (oENTA n)) (hb : reg b (oENTB n) = reg s (oENTB n)) :
    entValid b n = entValid s n ∧ entCount b n = entCount s n ∧ entRepeat b n = entRepeat s n := by
  simp only [entValid, entCount, entRepeat, regB, regF, ha, hb, and_self]

/-- The tide table's registers and no others stand between these offsets (Table 1.7). -/
theorem entRegs_between {n o : Nat} (hn : n < 248) (ho : o ∈ entRegs n) : 0x20_1000 ≤ o ∧ o < 0x20_2000 := by
  simp only [entRegs, List.mem_cons, List.not_mem_nil, or_false, oENTA, oENTB] at ho
  omega

/-- A firing spent after an action that writes registers of the list alone, none of them of the tide table. -/
theorem spend_after {s b : State} {n : Nat} (st : Nat) {l : List Nat} (hn : n < 248) (hv : entValid s n = true) (hb : RegsBut s b l)
    (hl : ∀ o ∈ l, o < 0x20_1000 ∨ 0x20_2000 ≤ o) :
    Spent s (spend b n 1 st) n st ∧ RegsBut s (spend b n 1 st) (l ++ entRegs n) ∧ ∀ o ∈ l, reg (spend b n 1 st) o = reg b o := by
  have hapart (o : Nat) (ho : o ∈ l) (hent : o ∈ entRegs n) : False := by
    have := hl o ho
    have := entRegs_between hn hent
    omega
  obtain ⟨hvalid, hcount, hrepeat⟩ := ent_congr (n := n) (hb _ (fun h => hapart _ h (by simp [entRegs])))
    (hb _ (fun h => hapart _ h (by simp [entRegs])))
  obtain ⟨hspent, hregs⟩ := spend_gives b n st (hvalid.trans hv)
  simp only [Spent, hcount, hrepeat] at hspent ⊢
  exact ⟨hspent, hb.append hregs, fun o ho => hregs o (hapart o ho)⟩

/-- The same where the action leaves Tidegauge's state and all but the registers as they are. -/
theorem spend_after_regs {s b : State} {n : Nat} (st : Nat) {l : List Nat} (hn : n < 248) (hv : entValid s n = true) (hb : RegsBut s b l)
    (hl : ∀ o ∈ l, o < 0x20_1000 ∨ 0x20_2000 ≤ o) (hf : { b with bar0 := s.bar0 } = s) :
    Spent s (spend b n 1 st) n st ∧ { (spend b n 1 st).tg with fired := s.tg.fired } = s.tg ∧
    (∀ o ∈ l, reg (spend b n 1 st) o = reg b o) ∧ RegsBut s (spend b n 1 st) (l ++ entRegs n) ∧
    { spend b n 1 st with bar0 := s.bar0, tg := s.tg } = s := by
  obtain ⟨hspent, hregs, hgiven⟩ := spend_after st hn hv hb hl
  have htg : b.tg = s.tg := (congrArg State.tg hf :)
  refine ⟨hspent, ?_, hgiven, hregs, (spend_frame b n st s.bar0 s.tg).trans ?_⟩
  · rw [spend_tg, htg]
  · exact congrArg (fun y : State => { y with tg := s.tg }) hf

/-- A firing without an action on the rest of the device. -/
theorem spent_alone {s : State} {n : Nat} (st : Nat) (hn : n < 248) (hv : entValid s n = true) :
    Spent s (spend s n 1 st) n st ∧ { (spend s n 1 st).tg with fired := s.tg.fired } = s.tg ∧
    RegsBut s (spend s n 1 st) (entRegs n) ∧ { spend s n 1 st with bar0 := s.bar0, tg := s.tg } = s := by
  obtain ⟨hspent, htg, -, hregs, hframe⟩ := spend_after_regs (l := []) st hn hv (fun _ _ => rfl) (by simp) rfl
  exact ⟨hspent, htg, hregs, hframe⟩

/-- A skipped firing is spent and counted (R248). -/
theorem skipped_gives {s : State} {n st : Nat} (hn : n < 248) (hv : entValid s n = true) :
    Spent s (skipFirings (spend s n 1 st) 1) n st ∧
    { (skipFirings (spend s n 1 st) 1).tg with fired := s.tg.fired } = s.tg ∧
    regF (skipFirings (spend s n 1 st) 1) oTGEVT 47 32 = min 0xFFFF (regF s oTGEVT 47 32 + 1) ∧
    RegsBut s (skipFirings (spend s n 1 st) 1) (oTGEVT :: entRegs n) ∧
    { skipFirings (spend s n 1 st) 1 with bar0 := s.bar0, tg := s.tg } = s := by
  obtain ⟨hspent, hregs⟩ := spend_gives s n st hv
  have hapart (o : Nat) (ho : o ∈ entRegs n) : o ≠ oTGEVT := by
    have := entRegs_between hn ho
    rw [oTGEVT]
    omega
  obtain ⟨hvalid, hcount, -⟩ := ent_congr (s := spend s n 1 st) (b := skipFirings (spend s n 1 st) 1) (n := n)
    (reg_addSat_ne _ 47 32 1 (hapart _ (by simp [entRegs]))) (reg_addSat_ne _ 47 32 1 (hapart _ (by simp [entRegs])))
  refine ⟨?_, spend_tg s n st s.tg.fired, ?_, fun o ho => ?_, spend_frame s n st s.bar0 s.tg⟩
  · simp only [Spent, hvalid, hcount]
    exact hspent
  · rw [skipFirings, regF_addSat_self _ _ _ _ _ (by decide), regF, hregs _ (fun h => hapart _ h rfl), ← regF]
    rfl
  · rw [List.mem_cons, not_or] at ho
    rw [skipFirings, reg_addSat_ne _ _ _ _ ho.1, hregs o ho.2]

/-! ### The command -/

/-- An entry whose turn has come, with its own action: the firing is skipped, or the action runs and the firing is spent. -/
theorem fire_of_turnOf {s : State} {act n st : Nat} (q : Bool) (body : State → State) (ht : turnOf s n = some st) (ha : entAct s n = act) :
    fire act n q body s = if (q && qSkip s n) = true then skipFirings (spend s n 1 st) 1 else spend (body s) n 1 st := by
  simp only [fire, ht, if_pos ha]

theorem fire_done {s : State} {act n st : Nat} {q : Bool} (body : State → State) (ht : turnOf s n = some st) (ha : entAct s n = act)
    (hq : (q && qSkip s n) = false) : fire act n q body s = spend (body s) n 1 st := by
  rw [fire_of_turnOf q body ht ha, hq, if_neg (by decide)]

theorem fire_skipped {s : State} {act n st : Nat} (body : State → State) (ht : turnOf s n = some st) (ha : entAct s n = act)
    (hq : qSkip s n = true) : fire act n true body s = skipFirings (spend s n 1 st) 1 := by
  rw [fire_of_turnOf true body ht ha, hq, Bool.true_and, if_pos rfl]

/-! ### Slots (R268) -/

theorem oLNK_beyond (p : Nat) : 0x20_2000 ≤ oLNKSTAT p ∧ 0x20_2000 ≤ oLNKEVT p := by
  simp only [oLNKSTAT, oLNKEVT, lnkBase]
  omega

/-- The slot numbers that are no slots: counted at the port. -/
theorem slotOpenAct_beyond {s : State} {n : Nat} (hp : entTarget s n % 64 < surfPorts s.asm) (hk : 16 ≤ entArg s n) :
    slotOpenAct s n = addSat s (oLNKEVT (entTarget s n % 64)) 15 0 1 := by
  simp only [slotOpenAct, ge_iff_le, if_neg (Nat.not_le.2 hp), if_pos hk]

theorem slotCloseAct_beyond {s : State} {n : Nat} (hp : entTarget s n % 64 < surfPorts s.asm) (hk : 16 ≤ entArg s n) :
    slotCloseAct s n = addSat s (oLNKEVT (entTarget s n % 64)) 15 0 1 := by
  simp only [slotCloseAct, ge_iff_le, if_neg (Nat.not_le.2 hp), if_pos hk]

/-- Of a port that the assembly does not have there is nothing to open or close. -/
theorem slotOpenAct_noPort {s : State} {n : Nat} (hp : surfPorts s.asm ≤ entTarget s n % 64) : slotOpenAct s n = s := if_pos hp

theorem slotCloseAct_noPort {s : State} {n : Nat} (hp : surfPorts s.asm ≤ entTarget s n % 64) : slotCloseAct s n = s := if_pos hp

/-- The slot of ARG open on port p. -/
def slotOpened (s : State) (p k : Nat) : State := setF (setF s (oLNKSTAT p) 35 32 k) (oLNKSTAT p) 31 31 1

theorem slotOpened_gives (s : State) (p k : Nat) (hk : k < 16) :
    regF (slotOpened s p k) (oLNKSTAT p) 35 32 = k ∧ regB (slotOpened s p k) (oLNKSTAT p) 31 = true ∧
    RegsBut s (slotOpened s p k) [oLNKSTAT p] := by
  refine ⟨?_, regB_setF_in _ _ 31 31 1 31 (by decide) (by decide), fun o ho => ?_⟩
  · rw [slotOpened, regF_setF_ne _ _ _ _ _ _ _ (by decide) (by decide), regF_setF_self _ _ _ _ _ (by decide)]
    exact Nat.mod_eq_of_lt hk
  · rw [List.mem_singleton] at ho
    rw [slotOpened, reg_setF_ne _ _ _ _ ho, reg_setF_ne _ _ _ _ ho]

theorem reg_updPort (s : State) (p : Nat) (f : Port → Port) (o : Nat) : reg (updPort s p f) o = reg s o := rfl

theorem setF_frame (s : State) (o hi lo x : Nat) (r : SMap DWord) (P : SMap Port) :
    { setF s o hi lo x with bar0 := r, ports := P } = { s with bar0 := r, ports := P } := rfl

theorem updPort_frame (s : State) (p : Nat) (f : Port → Port) (r : SMap DWord) (P : SMap Port) :
    { updPort s p f with bar0 := r, ports := P } = { s with bar0 := r, ports := P } := rfl

/-- SLOT_OPEN opens its slot, and the port notes when. -/
theorem slotOpenAct_opens {s : State} {n : Nat} (hp : entTarget s n % 64 < surfPorts s.asm) (hk : entArg s n < 16) :
    regF (slotOpenAct s n) (oLNKSTAT (entTarget s n % 64)) 35 32 = entArg s n ∧
    regB (slotOpenAct s n) (oLNKSTAT (entTarget s n % 64)) 31 = true ∧
    (portOf (slotOpenAct s n) (entTarget s n % 64)).slotAt = nowTicks s ∧
    RegsBut s (slotOpenAct s n) [oLNKSTAT (entTarget s n % 64)] ∧ { slotOpenAct s n with bar0 := s.bar0, ports := s.ports } = s := by
  obtain ⟨hslot, hopen, hregs⟩ := slotOpened_gives s (entTarget s n % 64) (entArg s n) hk
  have hact : slotOpenAct s n = updPort (slotOpened s (entTarget s n % 64) (entArg s n)) (entTarget s n % 64)
      (fun y => { y with slotAt := nowTicks s }) := by
    simp only [slotOpenAct, ge_iff_le, if_neg (Nat.not_le.2 hp), if_neg (Nat.not_le.2 hk), slotOpened]
  rw [hact]
  refine ⟨?_, ?_, ?_, fun o ho => ?_, ?_⟩
  · rw [regF, reg_updPort, ← regF, hslot]
  · rw [regB, reg_updPort, ← regB, hopen]
  · rw [portOf_updPort_self]
  · rw [reg_updPort, hregs o ho]
  · exact (updPort_frame _ _ _ _ _).trans ((setF_frame _ _ _ _ _ _ _).trans (setF_frame _ _ _ _ _ _ _))

theorem setF_restored (s : State) (o hi lo x : Nat) : { setF s o hi lo x with bar0 := s.bar0 } = s := rfl

/-- SLOT_CLOSE closes its slot if that is the open one, and leaves another. -/
theorem slotCloseAct_closes {s : State} {n : Nat} (hp : entTarget s n % 64 < surfPorts s.asm) (hk : entArg s n < 16) :
    regB (slotCloseAct s n) (oLNKSTAT (entTarget s n % 64)) 31 =
      (regB s (oLNKSTAT (entTarget s n % 64)) 31 && regF s (oLNKSTAT (entTarget s n % 64)) 35 32 != entArg s n) ∧
    RegsBut s (slotCloseAct s n) [oLNKSTAT (entTarget s n % 64)] ∧ { slotCloseAct s n with bar0 := s.bar0 } = s := by
  simp only [slotCloseAct, ge_iff_le, if_neg (Nat.not_le.2 hp), if_neg (Nat.not_le.2 hk)]
  split
  · next h =>
    rw [Bool.and_eq_true, beq_iff_eq] at h
    refine ⟨?_, fun o ho => reg_setF_ne _ _ _ _ (by simpa using ho), setF_restored _ _ _ _ _⟩
    rw [regB_setF_in _ _ 31 31 0 31 (by decide) (by decide), h.2, bne_self_eq_false, Bool.and_false]
    rfl
  · next h =>
    refine ⟨?_, fun _ _ => rfl, rfl⟩
    rw [Bool.and_eq_true, beq_iff_eq, not_and] at h
    cases hopen : regB s (oLNKSTAT (entTarget s n % 64)) 31
    · rfl
    · rw [Bool.true_and, eq_comm, bne_iff_ne]
      exact h hopen

/-! ### Phases (R252, R323) -/

theorem crests_le (a : Assembly) : crests a ≤ 12 := by cases a <;> decide

/-- The phases of the first c stacks that a test names. -/
def phased (s : State) (q : Nat → Bool) (v c : Nat) : State :=
  (List.range c).foldl (fun s st => if q st then setF s oTHMPHASE (2 * st + 1) (2 * st) v else s) s

theorem phased_succ (s : State) (q : Nat → Bool) (v c : Nat) :
    phased s q v (c + 1) = if q c then setF (phased s q v c) oTHMPHASE (2 * c + 1) (2 * c) v else phased s q v c := by
  rw [phased, List.range_succ, List.foldl_append]
  rfl

theorem phased_frame (s : State) (q : Nat → Bool) (v c : Nat) :
    RegsBut s (phased s q v c) [oTHMPHASE] ∧ { phased s q v c with bar0 := s.bar0 } = s := by
  refine ⟨fun o ho => foldl_keeps (fun s => reg s o) _ _ _ (fun b i => ?_),
    foldl_keeps (fun y : State => { y with bar0 := s.bar0 }) _ _ _ (fun b i => ?_)⟩
  · split
    · exact reg_setF_ne _ _ _ _ (by simpa using ho)
    · rfl
  · split <;> rfl

/-- The action keeps its entry, so every stack gets what the entry said when it fired. -/
theorem phaseAct_eq (s : State) {n : Nat} (hn : n < 248) :
    phaseAct s n = phased s (bit (entTarget s n)) (entArg s n % 4) (crests s.asm) := by
  rw [phaseAct]
  generalize crests s.asm = c
  induction c with
  | zero => rw [phased, List.range_zero, List.foldl_nil, List.foldl_nil]
  | succ c ih =>
    have hentry : reg (phased s (bit (entTarget s n)) (entArg s n % 4) c) (oENTB n) = reg s (oENTB n) := by
      refine (phased_frame s _ _ c).1 _ ?_
      rw [List.mem_singleton, oENTB, oTHMPHASE]
      omega
    have htarget : entTarget (phased s (bit (entTarget s n)) (entArg s n % 4) c) n = entTarget s n := by
      rw [entTarget, regF, hentry, ← regF, ← entTarget]
    have harg : entArg (phased s (bit (entTarget s n)) (entArg s n % 4) c) n = entArg s n := by
      rw [entArg, regF, hentry, ← regF, ← entArg]
    rw [List.range_succ, List.foldl_append, ih, phased_succ, List.foldl_cons, List.foldl_nil, htarget, harg]

/-- The phase of stack i: the value if i is among the first c and named. -/
theorem regF_phased (s : State) (q : Nat → Bool) {v : Nat} (hv : v < 4) {c i : Nat} (hc : c ≤ 12) (hi : i < 12) :
    regF (phased s q v c) oTHMPHASE (2 * i + 1) (2 * i) =
      if i < c ∧ q i = true then v else regF s oTHMPHASE (2 * i + 1) (2 * i) := by
  induction c with
  | zero => rw [if_neg (by omega)]; rfl
  | succ c ih =>
    have hrest := ih (by omega)
    rw [phased_succ]
    by_cases hic : i = c
    · subst hic
      rw [if_neg (by omega)] at hrest
      by_cases hq : q i = true
      · rw [if_pos hq, if_pos ⟨by omega, hq⟩, regF_setF_self _ _ _ _ _ (by omega)]
        rw [show 2 * i + 1 + 1 - 2 * i = 2 by omega]
        exact Nat.mod_eq_of_lt hv
      · rw [if_neg hq, if_neg (fun h => hq h.2), hrest]
    · have hlt : (i < c + 1 ∧ q i = true) ↔ (i < c ∧ q i = true) := by
        constructor <;> rintro ⟨hi', hq⟩ <;> exact ⟨by omega, hq⟩
      rw [if_congr hlt rfl rfl, ← hrest]
      split
      · exact regF_setF_ne _ _ _ _ _ _ _ (by omega) (by omega)
      · rfl

/-! ### Slices (R337, R344) -/

theorem scrubStart_off {s : State} {e k : Nat}
    (h : ¬ (unitFitted s.asm e = true ∧ 16 ≤ e ∧ e < 40 ∧ k < 4 ∧ regB s (oSCRA e k) 63 = true)) : scrubStart s e k = s := by
  refine if_pos ?_
  rw [Bool.not_eq_true', Bool.eq_false_iff]
  simpa only [Bool.and_eq_true, decide_eq_true_eq, and_assoc, ne_eq] using h

theorem scrubStart_on {s : State} {e k : Nat}
    (h : unitFitted s.asm e = true ∧ 16 ≤ e ∧ e < 40 ∧ k < 4 ∧ regB s (oSCRA e k) 63 = true) :
    scrubStart s e k = if s.ras.scrubs.any (fun x => x.1 == e) then addSat s oBISTSTAT 15 0 1
      else { s with ras := { s.ras with scrubs := s.ras.scrubs ++ [(e, k)] } } := by
  refine if_neg ?_
  rw [Bool.not_eq_true', Bool.not_eq_false]
  simpa only [Bool.and_eq_true, decide_eq_true_eq, and_assoc] using h

/-- The slice of kind k of a unit is listed, as running or as waiting for its element. -/
def sliceListed (s : State) (u k : Nat) : State :=
  let e := SMap.get 0 s.ras.cursors (u * 8 + k)
  { s with ras := { s.ras with bists := s.ras.bists ++ [⟨u, k, e, elemBusy s u k e, []⟩] } }

theorem bistStart_none {s : State} {u k : Nat} (h : bistCount s.asm u k = 0) : bistStart s u k = s := if_pos h

theorem bistStart_running {s : State} {u k : Nat} (h : bistCount s.asm u k ≠ 0) (hr : ∃ b ∈ s.ras.bists, b.unit = u) :
    bistStart s u k = addSat s oBISTSTAT 15 0 1 := by
  have hany : s.ras.bists.any (fun b => b.unit == u) = true := by simpa using hr
  simp only [bistStart, if_neg h, hany, if_true]

theorem bistStart_free {s : State} {u k : Nat} (h : bistCount s.asm u k ≠ 0) (hr : ∀ b ∈ s.ras.bists, b.unit ≠ u) :
    bistStart s u k = if elemBusy s u k (SMap.get 0 s.ras.cursors (u * 8 + k)) = true then sliceListed s u k
      else elemStart (sliceListed s u k) u k (SMap.get 0 s.ras.cursors (u * 8 + k)) := by
  have hany : s.ras.bists.any (fun b => b.unit == u) = false := by simpa using hr
  simp only [bistStart, if_neg h, hany, Bool.false_eq_true, if_false]
  rfl

/-- Beside power and the tiles, the start of an element's test changes nothing. -/
theorem elemStart_keeps {β : Type} (φ : State → β) (s : State) (u k e : Nat) (hp : ∀ s p, φ { s with power := p } = φ s)
    (ht : ∀ s t x, φ (setTile s t x) = φ s) : φ (elemStart s u k e) = φ s := by
  unfold elemStart
  split
  · rfl
  · split
    · exact foldl_keeps φ _ _ _ (fun b d => hp b _)
    · split
      · exact ht s _ _
      · rfl

/-- Only the elements of the crest dies may be busy, and only theirs are prepared (Table 13.5). -/
theorem elemBusy_beyond (s : State) {u : Nat} (k e : Nat) (hu : 12 ≤ u) : elemBusy s u k e = false := if_pos hu

theorem elemStart_beyond (s : State) {u : Nat} (k e : Nat) (hu : 12 ≤ u) : elemStart s u k e = s := by
  simp only [elemStart, decide_eq_true hu, Bool.true_or, if_true]

/-- An array under test is bound to BIST (R345). -/
theorem elemStart_array {s : State} {u k e t : Nat} (hu : u < 12) (hk : k = 1) (he : e % 5 < 4) (ht : tileAtPhys s u (e / 5) = some t) :
    elemStart s u k e = updArray s t (e % 5) (fun a => { a with owner := some .bist }) := by
  subst hk
  have hplace : elemTile 1 e = e / 5 := rfl
  simp only [elemStart, decide_eq_false (Nat.not_le.2 hu), Bool.false_or, hplace, ht]
  simp [he]

/-! ### The firings -/

theorem portOf_spend (s : State) (n st p : Nat) : portOf (spend s n 1 st) p = portOf s p :=
  spend_keeps (fun s => portOf s p) s n st (fun _ _ _ => rfl) (fun _ _ => rfl)

theorem arr_spend (s : State) (n st t k : Nat) : arr (spend s n 1 st) t k = arr s t k :=
  spend_keeps (fun s => arr s t k) s n st (fun _ _ _ => rfl) (fun _ _ => rfl)

theorem ras_spend (s : State) (n st : Nat) : (spend s n 1 st).ras = s.ras :=
  spend_keeps (fun s => s.ras) s n st (fun _ _ _ => rfl) (fun _ _ => rfl)

theorem cupOpen_spend (s : State) (n st : Nat) : (spend s n 1 st).tg.cupOpen = s.tg.cupOpen :=
  spend_keeps (fun s => s.tg.cupOpen) s n st (fun _ _ _ => rfl) (fun _ _ => rfl)

/-- A firing whose action counts one event of a saturating counter. -/
theorem spent_counting {s : State} {n : Nat} (st : Nat) {o : Nat} (hn : n < 248) (hv : entValid s n = true)
    (ho : o < 0x20_1000 ∨ 0x20_2000 ≤ o) :
    Spent s (spend (addSat s o 15 0 1) n 1 st) n st ∧ { (spend (addSat s o 15 0 1) n 1 st).tg with fired := s.tg.fired } = s.tg ∧
    regF (spend (addSat s o 15 0 1) n 1 st) o 15 0 = min 0xFFFF (regF s o 15 0 + 1) ∧
    RegsBut s (spend (addSat s o 15 0 1) n 1 st) (o :: entRegs n) ∧
    { spend (addSat s o 15 0 1) n 1 st with bar0 := s.bar0, tg := s.tg } = s := by
  obtain ⟨hspent, htg, hgiven, hregs, hframe⟩ := spend_after_regs (b := addSat s o 15 0 1) (l := [o]) st hn hv
    (fun x hx => reg_addSat_ne s 15 0 1 (by simpa using hx)) (by simpa using ho) rfl
  refine ⟨hspent, htg, ?_, hregs, hframe⟩
  rw [regF, hgiven o (List.mem_singleton.2 rfl), ← regF, regF_addSat_self _ _ _ _ _ (by decide)]
  rfl

/-- Beside registers and ports, a firing leaves what its action leaves. -/
theorem spent_frame_ports {s b : State} (n st : Nat) (h : { b with bar0 := s.bar0, ports := s.ports } = s) :
    { (spend b n 1 st).tg with fired := s.tg.fired } = s.tg ∧
    { spend b n 1 st with bar0 := s.bar0, tg := s.tg, ports := s.ports } = s := by
  have htg : b.tg = s.tg := (congrArg State.tg h :)
  refine ⟨by rw [spend_tg, htg], ?_⟩
  exact (spend_keeps (fun y : State => { y with bar0 := s.bar0, tg := s.tg, ports := s.ports }) b n st (fun _ _ _ => rfl)
    (fun _ _ => rfl)).trans (congrArg (fun y : State => { y with tg := s.tg }) h)

/-- A slice of a unit on which none runs: its test begins, or waits for the element (R344). -/
theorem bistStart_spent {s : State} {n : Nat} (st u k : Nat) (hn : n < 248) (hv : entValid s n = true) (hc : bistCount s.asm u k ≠ 0)
    (hr : ∀ b ∈ s.ras.bists, b.unit ≠ u) :
    let s' := spend (bistStart s u k) n 1 st
    Spent s s' n st ∧ { s'.tg with fired := s.tg.fired } = s.tg ∧ s'.ras = (sliceListed s u k).ras ∧ RegsBut s s' (entRegs n) := by
  have hkeep {β : Type} (φ : State → β) (hp : ∀ s p, φ { s with power := p } = φ s) (ht : ∀ s t x, φ (setTile s t x) = φ s) :
      φ (bistStart s u k) = φ (sliceListed s u k) := by
    rw [bistStart_free hc hr]
    split
    · rfl
    · exact elemStart_keeps φ _ u k _ hp ht
  have hregs : RegsBut s (bistStart s u k) [] := fun o _ => hkeep (fun s => reg s o) (fun _ _ => rfl) (fun _ _ _ => rfl)
  have htg : (bistStart s u k).tg = s.tg := hkeep State.tg (fun _ _ => rfl) (fun _ _ _ => rfl)
  obtain ⟨hspent, hrest, -⟩ := spend_after st hn hv hregs (by simp)
  refine ⟨hspent, ?_, ?_, hrest⟩
  · rw [spend_tg, htg]
  · rw [ras_spend]
    exact hkeep State.ras (fun _ _ => rfl) (fun _ _ _ => rfl)

/-- Where the element's test needs no preparation, the list of slices is all that changes beside the entry. -/
theorem sliceListed_spent (s : State) (n st u k : Nat) :
    { spend (sliceListed s u k) n 1 st with bar0 := s.bar0, tg := s.tg, ras := s.ras } = s :=
  congrArg (fun y : State => { y with ras := s.ras }) (spend_frame (sliceListed s u k) n st s.bar0 s.tg)

/-- CUP_OPEN and CUP_CLOSE change the set of open partitions alone (R58). -/
theorem cupAct_spent {s : State} {n : Nat} (st : Nat) (opens : Bool) (hn : n < 248) (hv : entValid s n = true) :
    Spent s (spend (cupAct s n opens) n 1 st) n st ∧
    (spend (cupAct s n opens) n 1 st).tg.cupOpen = (cupAct s n opens).tg.cupOpen ∧
    { (spend (cupAct s n opens) n 1 st).tg with fired := s.tg.fired, cupOpen := s.tg.cupOpen } = s.tg ∧
    RegsBut s (spend (cupAct s n opens) n 1 st) (entRegs n) ∧
    { spend (cupAct s n opens) n 1 st with bar0 := s.bar0, tg := s.tg } = s := by
  obtain ⟨hspent, hregs, -⟩ := spend_after (b := cupAct s n opens) (l := []) st hn hv (fun _ _ => rfl) (by simp)
  exact ⟨hspent, cupOpen_spend _ n st, congrArg (fun y : Tidegauge => { y with cupOpen := s.tg.cupOpen }) (spend_tg _ n st s.tg.fired),
    hregs, spend_frame _ n st s.bar0 s.tg⟩

/-- Settles O36: a firing is its action, which leaves the tide table alone, and the spending of the firing; a skipped firing is spent
and counted. -/
theorem tideFirings : Obligations.TideFirings := by
  unfold Obligations.TideFirings
  intro n st s ht hn a p k ents keeps
  have hv := entValid_of_turnOf ht
  have hdone {act : Nat} {q : Bool} {body : State → State} (ha : entAct s n = act) (hq : (q && qSkip s n) = false) :
      (Host.Outcome.next (fire act n q body s) : Host.Outcome State Fault Refusal) = .next (spend (body s) n 1 st) :=
    congrArg _ (fire_done body ht ha hq)
  refine ⟨?none, ?slotOpen, ?slotClose, ?noPort, ?skipped, fun hq => ⟨?cupOpen, ?cupClose, ?phase, ?bistBeyond, ?bistCrest, ?bistRunning,
    ?bistNone, ?scrubOff, ?scrubOn⟩⟩
  case none => exact fun ha => ⟨_, hdone ha rfl, spent_alone st hn hv⟩
  case slotOpen =>
    intro ha hp
    rcases Nat.lt_or_ge k 16 with hk | hk
    · obtain ⟨hslot, hopen, hport, hleft, hrest⟩ := slotOpenAct_opens hp hk
      obtain ⟨hspent, hregs, hgiven⟩ := spend_after st hn hv hleft (by simpa using Or.inr (oLNK_beyond p).1)
      have hlink := hgiven _ (List.mem_singleton.2 rfl)
      obtain ⟨htg, hframe⟩ := spent_frame_ports n st hrest
      refine ⟨_, hdone ha rfl, hspent, htg, fun _ => ⟨?_, ?_, ?_, hregs, hframe⟩, fun h => absurd hk (Nat.not_lt.2 h)⟩
      · rw [regF, hlink, ← regF, hslot]
      · rw [regB, hlink, ← regB, hopen]
      · rw [portOf_spend, hport]
    · obtain ⟨hspent, htg, hcount, hregs, hframe⟩ := spent_counting st hn hv (Or.inr (oLNK_beyond p).2)
      refine ⟨_, hdone ha rfl, ?_⟩
      rw [slotOpenAct_beyond hp hk]
      exact ⟨hspent, htg, fun h => absurd hk (Nat.not_le.2 h), fun _ => ⟨hcount, hregs, hframe⟩⟩
  case slotClose =>
    intro ha hp
    rcases Nat.lt_or_ge k 16 with hk | hk
    · obtain ⟨hopen, hleft, hrest⟩ := slotCloseAct_closes hp hk
      obtain ⟨hspent, htg, hgiven, hregs, hframe⟩ := spend_after_regs (b := slotCloseAct s n) st hn hv hleft
        (by simpa using Or.inr (oLNK_beyond p).1) hrest
      refine ⟨_, hdone ha rfl, hspent, htg, fun _ => ⟨?_, hregs⟩, fun h => absurd hk (Nat.not_lt.2 h), hframe⟩
      rw [regB, hgiven _ (List.mem_singleton.2 rfl)]
      exact hopen
    · obtain ⟨hspent, htg, hcount, hregs, hframe⟩ := spent_counting st hn hv (Or.inr (oLNK_beyond p).2)
      refine ⟨_, hdone ha rfl, ?_⟩
      rw [slotCloseAct_beyond hp hk]
      exact ⟨hspent, htg, fun h => absurd hk (Nat.not_le.2 h), fun _ => ⟨hcount, hregs⟩, hframe⟩
  case noPort =>
    simp only [List.forall_mem_cons, List.not_mem_nil, false_imp_iff, implies_true, and_true]
    refine ⟨fun ha hp => ⟨_, hdone ha rfl, ?_⟩, fun ha hp => ⟨_, hdone ha rfl, ?_⟩⟩
    · rw [slotOpenAct_noPort hp]
      exact spent_alone st hn hv
    · rw [slotCloseAct_noPort hp]
      exact spent_alone st hn hv
  case skipped =>
    have hskip {act : Nat} {body : State → State} (ha : entAct s n = act) (hq : qSkip s n = true) :
        (Host.Outcome.next (fire act n true body s) : Host.Outcome State Fault Refusal) = .next (skipFirings (spend s n 1 st) 1) :=
      congrArg _ (fire_skipped body ht ha hq)
    intro e he ha hq
    simp only [List.mem_cons, List.not_mem_nil, or_false] at he
    rcases he with rfl | rfl | rfl | rfl | rfl <;> exact ⟨_, hskip ha hq, skipped_gives hn hv⟩
  case cupOpen => exact fun ha => ⟨_, hdone ha hq, cupAct_spent st true hn hv⟩
  case cupClose => exact fun ha => ⟨_, hdone ha hq, cupAct_spent st false hn hv⟩
  case phase =>
    intro ha
    obtain ⟨hleft, hrest⟩ := phased_frame s (bit (entTarget s n)) (k % 4) (crests s.asm)
    obtain ⟨hspent, htg, hgiven, hregs, hframe⟩ := spend_after_regs st hn hv hleft (by decide) hrest
    refine ⟨_, hdone ha hq, ?_⟩
    rw [phaseAct_eq s hn]
    refine ⟨hspent, htg, fun i hi => ?_, hregs, hframe⟩
    rw [regF, hgiven _ (List.mem_singleton.2 rfl)]
    exact regF_phased s _ (Nat.mod_lt _ (by decide)) (crests_le s.asm) hi
  case bistBeyond =>
    intro u el ha hu hc hr
    obtain ⟨hspent, htg, hras, hregs⟩ := bistStart_spent st u k hn hv hc hr
    have hidle := elemBusy_beyond s k el hu
    refine ⟨_, hdone ha hq, hspent, htg, ?_, hregs, ?_⟩
    · rw [hras, ← hidle]
      rfl
    · rw [bistStart_free hc hr, if_neg (by rw [hidle]; decide), elemStart_beyond _ k _ hu]
      exact sliceListed_spent s n st u k
  case bistCrest =>
    intro u el ha hu hc hr
    obtain ⟨hspent, htg, hras, hregs⟩ := bistStart_spent st u k hn hv hc hr
    refine ⟨_, hdone ha hq, hspent, htg, hras, hregs, fun hbusy => ?_, fun t hfree hk he hplace => ?_⟩
    · rw [bistStart_free hc hr, if_pos hbusy]
      exact sliceListed_spent s n st u k
    · have hbound : bistStart s u k = updArray (sliceListed s u k) t (el % 5) (fun a => { a with owner := some .bist }) := by
        rw [bistStart_free hc hr, if_neg (by rw [hfree]; decide)]
        exact elemStart_array (s := sliceListed s u k) hu hk he hplace
      rw [hbound]
      refine ⟨?_, fun j hj => ?_⟩
      · rw [arr_spend, arr_updArray_self]
        rfl
      · rw [arr_spend, updArray, arr_setArray_ne _ _ _ hj]
        rfl
  case bistRunning =>
    intro u ha hc hr
    refine ⟨_, hdone ha hq, ?_⟩
    rw [bistStart_running hc hr]
    exact spent_counting st hn hv (by decide)
  case bistNone =>
    intro ha hc
    refine ⟨_, hdone ha hq, ?_⟩
    rw [bistStart_none hc]
    exact spent_alone st hn hv
  case scrubOff =>
    intro u ha hoff
    refine ⟨_, hdone ha hq, ?_⟩
    rw [scrubStart_off hoff]
    exact spent_alone st hn hv
  case scrubOn =>
    intro u ha hu hlo hhi hk hen
    have hon := scrubStart_on ⟨hu, hlo, hhi, hk, hen⟩
    refine ⟨fun hfree => ?_, fun hrun => ?_⟩
    · have hnone : ¬ s.ras.scrubs.any (fun x => x.1 == u) = true := by
        simp only [List.any_eq_true, beq_iff_eq, not_exists, not_and]
        exact hfree
      rw [if_neg hnone] at hon
      obtain ⟨hspent, hregs, -⟩ := spend_after (b := scrubStart s u k) (l := []) st hn hv (by rw [hon]; exact fun _ _ => rfl) (by simp)
      refine ⟨_, hdone ha hq, hspent, ?_, ?_, hregs, ?_⟩
      · exact (spend_tg _ n st s.tg.fired).trans (by rw [hon])
      · rw [ras_spend, hon]
      · rw [hon]
        exact congrArg (fun y : State => { y with ras := s.ras }) (spend_frame _ n st s.bar0 s.tg)
    · have hany : s.ras.scrubs.any (fun x => x.1 == u) = true := by
        simp only [List.any_eq_true, beq_iff_eq]
        exact hrun
      rw [if_pos hany] at hon
      refine ⟨_, hdone ha hq, ?_⟩
      rw [hon]
      exact spent_counting st hn hv (by decide)

end Sys2Proof.Machine

end

section

/-! ## AZERO, ALOAD, AMUL, ADRAIN and ASTAT (R42, R57, R72, R80 to R86) -/

namespace Sys2Proof.Machine

/-! ### The conditions of an array instruction (R72, R85, R92) -/

theorem firstCause_eq_none {l : List (Bool × Nat)} : firstCause l = none ↔ ∀ e ∈ l, e.1 = false := by
  simp only [firstCause, Option.map_eq_none_iff, List.find?_eq_none, Bool.not_eq_true]

/-- An array that is free or the group's own is bound nowhere else. -/
theorem boundElsewhere_eq_false {a : ArrayUnit} {slot : Nat} (h : a.owner = none ∨ a.owner = some (.group slot)) :
    boundElsewhere a slot = false := by
  rcases h with h | h <;> simp [boundElsewhere, owns, h]

/-- No pending load touches the instruction. -/
def NoPending (s : State) (t slot : Nat) (keys : List Nat) (dsts : List Span) : Prop :=
  (pendingRegs s t slot).any (fun r => dsts.any (fun sp => sp.has r) || keys.any (fun x => x % 128 == r)) = false

theorem noPending_of_nil {s : State} {t slot : Nat} (h : pendingRegs s t slot = []) (keys : List Nat) (dsts : List Span) :
    NoPending s t slot keys dsts := by
  rw [NoPending, h]
  rfl

theorem noPending_of_no_regs (s : State) (t slot : Nat) : NoPending s t slot [] [] := by
  simp [NoPending]

/-- An array instruction that nothing holds back and no cause stops runs on the state as it is. -/
theorem arrayBody_runs {t slot : Nat} {w : DWord} {s : State} {keys : List Nat} {dsts : List Span} {causes : List (Bool × Nat)}
    {waits : Bool} {k : State → Res} (hp : NoPending s t slot keys dsts) (hc : firstCause causes = none) (hw : waits = false)
    (hsh : (arr s t (aARR w)).shadow = none) (hreg : (grp s t slot).regErr = []) :
    arrayBody t slot w s keys dsts causes waits k = k s := by
  rw [NoPending] at hp
  simp only [arrayBody, hp, hc, hw, hsh, readRegs_of_regErr_nil s t slot keys hreg, Option.isSome_none, Bool.or_self, Bool.false_eq_true,
    if_false]

/-! ### What a completed array instruction leaves -/

/-- Only one array of one tile may differ. -/
def ArrayOnly (s s' : State) (t no : Nat) : Prop :=
  TilesOnly s s' ∧ (∀ h, grp s' t h = grp s t h) ∧ (tileOf s' t).mem = (tileOf s t).mem ∧ ∀ k ≠ no, arr s' t k = arr s t k

theorem ArrayOnly.refl (s : State) (t no : Nat) : ArrayOnly s s t no := ⟨rfl, fun _ => rfl, rfl, fun _ _ => rfl⟩

theorem ArrayOnly.trans {s s1 s2 : State} {t no : Nat} (h : ArrayOnly s s1 t no) (h' : ArrayOnly s1 s2 t no) : ArrayOnly s s2 t no := by
  obtain ⟨hs, hg, hm, ha⟩ := h
  obtain ⟨hs', hg', hm', ha'⟩ := h'
  exact ⟨hs.trans hs', fun k => (hg' k).trans (hg k), hm'.trans hm, fun k hk => (ha' k hk).trans (ha k hk)⟩

theorem arrayOnly_setArray (s : State) (t no : Nat) (y : ArrayUnit) : ArrayOnly s (setArray s t no y) t no :=
  ⟨tilesOnly_updTile s t _, grp_setArray s t no y, mem_setArray s t no y, fun _ hk => arr_setArray_ne s t y hk⟩

/-- The state after an array instruction whose effect is the array y. -/
def arraySet (s : State) (t slot no : Nat) (y : ArrayUnit) : State := finish s t slot (.done (setArray s t no y))

theorem arraySet_gives (s : State) (t slot no : Nat) (y : ArrayUnit) :
    { arraySet s t slot no y with tiles := s.tiles } = s ∧ arr (arraySet s t slot no y) t no = y ∧
    grp (arraySet s t slot no y) t slot = { grp s t slot with pc := (grp s t slot).pc + 8 } ∧
    (tileOf (arraySet s t slot no y) t).mem = (tileOf s t).mem ∧ ∀ k ≠ no, arr (arraySet s t slot no y) t k = arr s t k := by
  obtain ⟨hs, hg, hm, ha⟩ := arrayOnly_setArray s t no y
  refine ⟨tilesOnly_finish_done t slot hs, ?_, ?_, (mem_finish_done s _ t slot).trans hm,
    fun k hk => (arr_finish_done s _ t slot k).trans (ha k hk)⟩
  · rw [arraySet, arr_finish_done, arr_setArray_self]
  · rw [arraySet, grp_finish_done_self, hg]

/-! ### AZERO, ALOAD and AMUL -/

section

variable {t slot : Nat} {w : DWord} {s : State}

theorem execAzero_runs (hi : CanIssue (rowA 160) t slot w s) (hf : fld w 45 0 = 0)
    (ho : (arr s t (aARR w)).owner = none ∨ (arr s t (aARR w)).owner = some (.group slot)) (hsh : (arr s t (aARR w)).shadow = none) :
    exec (.azero t slot w) s = .next (arraySet s t slot (aARR w) ((arr s t (aARR w)).openBlock slot (aM w) (aN w))) := by
  obtain ⟨-, hreg⟩ := hi.undamaged
  have hcause : firstCause [(fld w 45 0 != 0, 0x08)] = none := by simp [firstCause_eq_none, hf]
  rw [exec, execAzero, issue_of_canIssue _ _ _ _ _ _ hi,
    arrayBody_runs (noPending_of_no_regs s t slot) hcause (boundElsewhere_eq_false ho) hsh hreg]
  rfl

/-- The array that an ALOAD loads into: bound and emptied first where the instruction says so. -/
def loadTarget (w : DWord) (a : ArrayUnit) (slot : Nat) : ArrayUnit :=
  if bit w.toNat 45 = true then a.openBlock slot (aM w) (aN w) else a

theorem loadTarget_shape (w : DWord) (a : ArrayUnit) (slot : Nat) :
    (loadTarget w a slot).m = (if bit w.toNat 45 = true then aM w else a.m) ∧
    (loadTarget w a slot).n = (if bit w.toNat 45 = true then aN w else a.n) := by
  unfold loadTarget
  split <;> exact ⟨rfl, rfl⟩

/-- What an ALOAD gives element (i, j): a raw record of tile memory, or the FP32 value of a register (R49, R82). -/
def loadElem (s : State) (t slot : Nat) (w : DWord) (i j : Nat) (x : Acc) : Acc × BitVec 4 :=
  if bit w.toNat 44 = true then
    loadRaw x (Mem.read (tileOf s t).mem ((rget (grp s t slot) 0 (fld w 43 37)).toNat % 2 ^ 20 + (8 * i + j) * 32) 32)
  else loadFp32 x (rget (grp s t slot) i (fld w 43 37 + j)).toNat

theorem execAload_runs (hi : CanIssue (rowA 161) t slot w s) (hf : fld w 36 0 = 0)
    (ho : (arr s t (aARR w)).owner = some (.group slot) ∨ (bit w.toNat 45 = true ∧ (arr s t (aARR w)).owner = none))
    (hsh : (arr s t (aARR w)).shadow = none) (hp : pendingRegs s t slot = [])
    (hrange : bit w.toNat 44 = false → fld w 43 37 + (loadTarget w (arr s t (aARR w)) slot).n ≤ 128)
    (hraw : bit w.toNat 44 = true → (rget (grp s t slot) 0 (fld w 43 37)).toNat % 2 ^ 20 % 32 = 0 ∧
      (rget (grp s t slot) 0 (fld w 43 37)).toNat % 2 ^ 20 +
        (8 * ((loadTarget w (arr s t (aARR w)) slot).m - 1) + (loadTarget w (arr s t (aARR w)) slot).n) * 32 ≤ 2 ^ 20 ∧
      0 < (loadTarget w (arr s t (aARR w)) slot).n) :
    exec (.aload t slot w) s =
      .next (arraySet s t slot (aARR w) (loadAll (loadTarget w (arr s t (aARR w)) slot) (loadElem s t slot w))) := by
  obtain ⟨hmem, hreg⟩ := hi.undamaged
  obtain ⟨hm, hn⟩ := loadTarget_shape w (arr s t (aARR w)) slot
  have hat : bits (r0 (grp s t slot) (fld w 43 37)) 19 0 = (rget (grp s t slot) 0 (fld w 43 37)).toNat % 2 ^ 20 := rfl
  have howns : (!bit w.toNat 45 && !owns (arr s t (aARR w)) slot) = false := by
    rcases ho with ho | ⟨hbind, -⟩
    · simp [owns, ho]
    · simp [hbind]
  have hfree : (bit w.toNat 45 && boundElsewhere (arr s t (aARR w)) slot) = false := by
    rw [boundElsewhere_eq_false (ho.elim Or.inr (fun h => Or.inl h.2)), Bool.and_false]
  rw [exec, execAload, issue_of_canIssue _ _ _ _ _ _ hi, arrayBody_runs (noPending_of_nil hp _ _) ?cause hfree hsh hreg]
  case cause =>
    simp only [firstCause_eq_none, ← hm, ← hn, hat, hf, howns, List.forall_mem_cons, List.not_mem_nil, false_imp_iff, implies_true, and_true]
    cases hb : bit w.toNat 44
    · have := hrange hb
      simp [outside]
      omega
    · obtain ⟨halign, hend, hpos⟩ := hraw hb
      simp [outside]
      omega
  have hload : (if bit w.toNat 45 = true then (arr s t (aARR w)).openBlock slot
      (if bit w.toNat 45 = true then aM w else (arr s t (aARR w)).m) (if bit w.toNat 45 = true then aN w else (arr s t (aARR w)).n)
      else arr s t (aARR w)) = loadTarget w (arr s t (aARR w)) slot := by
    by_cases hbind : bit w.toNat 45 = true <;> simp only [loadTarget, hbind, if_true, if_false, Bool.false_eq_true]
  simp only [tmWords_of_memErr_nil s t 1 _ hmem, wantsBad, List.any_nil, hload, hat]
  cases hb : bit w.toNat 44
  · have helem : loadElem s t slot w = fun i j x => loadFp32 x (rget (grp s t slot) i (fld w 43 37 + j)).toNat := by
      funext i j x
      simp only [loadElem, hb, Bool.false_eq_true, if_false]
    rw [helem, if_neg (by decide)]
    rfl
  · have helem : loadElem s t slot w = fun i j x => loadRaw x (Mem.read (tileOf s t).mem
        ((rget (grp s t slot) 0 (fld w 43 37)).toNat % 2 ^ 20 + (8 * i + j) * 32) 32) := by
      funext i j x
      simp only [loadElem, hb, if_true]
    rw [helem, if_pos rfl, if_neg (by simp)]
    rfl

theorem execAmul_runs (hi : CanIssue (rowA 162) t slot w s)
    (hc : firstCause (amulCauses w (amulOp w) (arr s t (aARR w)) slot (bDesc (rget2 (grp s t slot) 0 (amulOp w).wb))) = none)
    (hsh : (arr s t (aARR w)).shadow = none) (hp : pendingRegs s t slot = []) :
    exec (.amul t slot w) s = .next (arraySet s t slot (aARR w)
      (if (amulOp w).k = 0 then (arr s t (aARR w)).noteFormats (amulOp w).fa (amulOp w).fb
      else amulApply (amulOp w) (arr s t (aARR w))
        ((List.range (arr s t (aARR w)).m).map (fun i => regVec (amulOp w) (grp s t slot) i (amulOp w).wa (amulOp w).fa))
        ((List.range (arr s t (aARR w)).n).map (fun j =>
          if (amulOp w).mem = true then memVec (amulOp w) (tileOf s t).mem (bDesc (rget2 (grp s t slot) 0 (amulOp w).wb)) j
          else regVec (amulOp w) (grp s t slot) j (amulOp w).wb (amulOp w).fb)))) := by
  obtain ⟨hmem, hreg⟩ := hi.undamaged
  rw [exec, execAmul, issue_of_canIssue _ _ _ _ _ _ hi, arrayBody_runs (noPending_of_nil hp _ _) hc rfl hsh hreg]
  simp only [tmWords_of_memErr_nil s t 1 _ hmem, wantsBad, List.any_nil]
  split
  · rfl
  · rw [if_neg (by simp)]
    rfl

/-! ### Rows of registers written one after the other -/

/-- Columns of one row: registers r to r + n - 1 of thread i hold the values, the others are as before. -/
theorem rget_foldl_row {β : Type} (step : Group × β → Nat → Group × β) (i r n : Nat) (v : Nat → Word)
    (hstep : ∀ x j, (step x j).1 = rset x.1 i (r + j) (v j)) (hr : r + n ≤ 128) (x : Group × β) (th k : Nat) (hk : k < 128) :
    rget ((List.range n).foldl step x).1 th k = if th = i ∧ r ≤ k ∧ k < r + n then v (k - r) else rget x.1 th k := by
  induction n with
  | zero => rw [if_neg (by omega)]; rfl
  | succ n ih =>
    rw [List.range_succ, List.foldl_append, List.foldl_cons, List.foldl_nil, hstep, rget_rset _ _ _ _ _ _ hk (by omega), ih (by omega)]
    by_cases h : th = i ∧ k = r + n
    · obtain ⟨rfl, rfl⟩ := h
      simp
    · rw [if_neg h]
      exact if_congr (by omega) rfl rfl

/-- Rows 0 to m - 1, each of them the registers of the thread of its number. -/
theorem rget_foldl_rows {β : Type} (step : Group × β → Nat → Group × β) (r n m : Nat) (v : Nat → Nat → Word) (th k : Nat)
    (hstep : ∀ x i, rget (step x i).1 th k = if th = i ∧ r ≤ k ∧ k < r + n then v i (k - r) else rget x.1 th k) (x : Group × β) :
    rget ((List.range m).foldl step x).1 th k = if th < m ∧ r ≤ k ∧ k < r + n then v th (k - r) else rget x.1 th k := by
  induction m with
  | zero => rw [if_neg (by omega)]; rfl
  | succ m ih =>
    rw [List.range_succ, List.foldl_append, List.foldl_cons, List.foldl_nil, hstep, ih]
    by_cases h : th = m
    · subst h
      by_cases hk : r ≤ k ∧ k < r + n
      · rw [if_pos ⟨rfl, hk⟩, if_pos ⟨by omega, hk⟩]
      · rw [if_neg (fun hh => hk hh.2), if_neg (fun hh => hk hh.2), if_neg (fun hh => hk hh.2)]
    · rw [if_neg (fun hh => h hh.1)]
      exact if_congr (by omega) rfl rfl

theorem leNat_leBytes (n v : Nat) : leNat (leBytes n v) = v % 256 ^ n := by
  induction n generalizing v with
  | zero => simp [leBytes, leNat, Nat.mod_one]
  | succ n ih =>
    rw [leBytes, leNat, ih, pow_succ']
    exact (Nat.mod_mul (a := 256)).symm

/-! ### ADRAIN (R50 to R57, R83) -/

/-- The FP32 value that a drain gives element (i, j) (R50 to R54). -/
def drained32 (o : DrainOp) (a : ArrayUnit) (seed t no i j : Nat) : Word :=
  BitVec.ofNat 32 ((accAt a i j).drain fp32 (drainRnd o seed t no (8 * i + j))).1

/-- A row drained to FP32: one register for each live column (R83). -/
theorem rget_drainRow {o : DrainOp} (hf : o.fmt = 0) (a : ArrayUnit) (seed t no i r : Nat) (hr : r + a.n ≤ 128) (g : Group) (th k : Nat)
    (hk : k < 128) :
    rget (drainRow o a seed t no i r g).1 th k =
      if th = i ∧ r ≤ k ∧ k < r + a.n then drained32 o a seed t no i (k - r) else rget g th k := by
  refine rget_foldl_row _ i r a.n (drained32 o a seed t no i) (fun x j => ?_) hr (g, false) th k hk
  have hsize : o.size = 4 := by simp only [DrainOp.size, hf]
  have hfmt : drainFmt o.fmt = fp32 := by rw [hf]; rfl
  have hplace : r + j * 4 / 4 = r + j := by omega
  have hlow : 8 * (j * 4 % 4) = 0 := by omega
  have hword (v : Word) : v.toNat - bits v.toNat (0 + 8 * 4 - 1) 0 * 2 ^ 0 = 0 := by
    have : bits v.toNat (0 + 8 * 4 - 1) 0 = v.toNat := Nat.mod_eq_of_lt v.isLt
    rw [this]
    omega
  simp only [drainElem, hsize, hfmt, hplace, hlow, hword, leNat_leBytes, drained32]
  congr 1
  apply BitVec.eq_of_toNat_eq
  simp

/-- A drained row leaves what of the group no register shows. -/
theorem drainRow_keeps {β : Type} (φ : Group → β) (hφ : ∀ g th r v, φ (rset g th r v) = φ g) (o : DrainOp) (a : ArrayUnit)
    (seed t no i r : Nat) (g : Group) : φ (drainRow o a seed t no i r g).1 = φ g :=
  foldl_keeps (fun x : Group × Bool => φ x.1) _ _ (g, false) (fun _ _ => hφ _ _ _ _)

/-- All live rows drained into the registers of their threads, and whether one saturated. -/
def drainedRows (o : DrainOp) (a : ArrayUnit) (seed t no : Nat) (g : Group) : Group × Bool :=
  (List.range a.m).foldl (fun (x : Group × Bool) i =>
    ((drainRow o a seed t no i o.w x.1).1, x.2 || (drainRow o a seed t no i o.w x.1).2)) (g, false)

theorem rget_drainedRows {o : DrainOp} (hf : o.fmt = 0) (a : ArrayUnit) (seed t no : Nat) (hr : o.w + a.n ≤ 128) (g : Group) (th k : Nat)
    (hk : k < 128) :
    rget (drainedRows o a seed t no g).1 th k =
      if th < a.m ∧ o.w ≤ k ∧ k < o.w + a.n then drained32 o a seed t no th (k - o.w) else rget g th k :=
  rget_foldl_rows (fun (x : Group × Bool) i =>
    ((drainRow o a seed t no i o.w x.1).1, x.2 || (drainRow o a seed t no i o.w x.1).2)) o.w a.n a.m (drained32 o a seed t no) th k
    (fun x i => rget_drainRow hf a seed t no i o.w hr x.1 th k hk) (g, false)

theorem pc_drainedRows (o : DrainOp) (a : ArrayUnit) (seed t no : Nat) (g : Group) : (drainedRows o a seed t no g).1.pc = g.pc :=
  foldl_keeps (fun x : Group × Bool => x.1.pc) _ _ (g, false)
    (fun x i => drainRow_keeps Group.pc (fun _ _ _ _ => rfl) o a seed t no i o.w x.1)

/-- The end of a drain whose output is written: SAT where a value saturated, and the block's release without KEEP. -/
def drainEnd (o : DrainOp) (t no : Nat) (sat : Bool) (s : State) : State :=
  let s := if sat then updArray s t no (fun a => a.flag 2) else s
  if o.keep then s else releaseBlock s t no

theorem drainEnd_gives (o : DrainOp) (t no : Nat) (sat : Bool) (s : State) :
    ArrayOnly s (drainEnd o t no sat s) t no ∧
    (arr (drainEnd o t no sat s) t no).owner = (if o.keep = true then (arr s t no).owner else none) ∧
    (arr (drainEnd o t no sat s) t no).accs = (if o.keep = true then (arr s t no).accs else []) := by
  have hflag : ∃ s1, (if sat then updArray s t no (fun a => a.flag 2) else s) = s1 ∧ ArrayOnly s s1 t no ∧
      (arr s1 t no).owner = (arr s t no).owner ∧ (arr s1 t no).accs = (arr s t no).accs := by
    cases sat
    · exact ⟨s, rfl, ArrayOnly.refl s t no, rfl, rfl⟩
    · refine ⟨updArray s t no (fun a => a.flag 2), rfl, arrayOnly_setArray s t no _, ?_, ?_⟩ <;> rw [arr_updArray_self] <;> rfl
  obtain ⟨s1, hs1, honly, howner, haccs⟩ := hflag
  rw [drainEnd, hs1]
  cases hkeep : o.keep
  · refine ⟨honly.trans (arrayOnly_setArray s1 t no _), ?_, ?_⟩
    · exact congrArg ArrayUnit.owner (arr_setArray_self s1 t no _)
    · exact congrArg ArrayUnit.accs (arr_setArray_self s1 t no _)
  · exact ⟨honly, howner, haccs⟩

/-- The seed of a stochastic drain (R54). -/
def drainSeed (s : State) (t slot : Nat) (o : DrainOp) : Nat := if o.seeded = true then (rget2 (grp s t slot) 0 o.seed).toNat else 0

/-- The cells of a drain to tile memory, and whether a value saturated (R50 to R56). -/
def drainOut (s : State) (t slot : Nat) (w : DWord) : List Host.Cell × Bool :=
  drainCells (drainOp w) (arr s t (aARR w)) (drainSeed s t slot (drainOp w)) t (aARR w)
    (fld (rget2 (grp s t slot) 0 (drainOp w).w) 19 0) (fld (rget2 (grp s t slot) 0 (drainOp w).w) 35 20)

/-- The rows of a drain to registers, in the group that drains (R83). -/
def drainInto (s : State) (t slot : Nat) (w : DWord) : Group × Bool :=
  drainedRows (drainOp w) (arr s t (aARR w)) (drainSeed s t slot (drainOp w)) t (aARR w) (grp s t slot)

/-- The state in which a drain ends, its output written: into tile memory, or into the group's registers. -/
def drainWritten (s : State) (t slot : Nat) (w : DWord) : State × Bool :=
  if (drainOp w).mem = true then
    (updTile s t (fun x => { x with mem := Mem.cells x.mem (drainOut s t slot w).1 }), (drainOut s t slot w).2)
  else (setGroup s t slot (drainInto s t slot w).1, (drainInto s t slot w).2)

theorem execAdrain_runs (hi : CanIssue (rowA 163) t slot w s)
    (hc : firstCause (drainCauses w (drainOp w) (arr s t (aARR w)) slot (rget2 (grp s t slot) 0 (drainOp w).w)) = none)
    (hsh : (arr s t (aARR w)).shadow = none) (hp : pendingRegs s t slot = []) :
    exec (.adrain t slot w) s = .next (finish s t slot (.done
      (drainEnd (drainOp w) t (aARR w) (drainWritten s t slot w).2 (drainWritten s t slot w).1))) := by
  obtain ⟨hmem, hreg⟩ := hi.undamaged
  rw [exec, execAdrain, issue_of_canIssue _ _ _ _ _ _ hi, arrayBody_runs (noPending_of_nil hp _ _) hc rfl hsh hreg]
  simp only [tmWrite_of_memErr_nil s t 1 _ hmem, drainWritten]
  split <;> rfl

/-- A drain to tile memory writes its cells, and no register. -/
theorem drainWritten_mem (s : State) (t slot : Nat) {w : DWord} (hm : (drainOp w).mem = true) :
    (drainWritten s t slot w).1 = updTile s t (fun x => { x with mem := Mem.cells x.mem (drainOut s t slot w).1 }) := by
  rw [drainWritten, if_pos hm]

/-- A drain to registers writes the group's registers, and no memory. -/
theorem drainWritten_regs (s : State) (t slot : Nat) {w : DWord} (hm : (drainOp w).mem = false) :
    (drainWritten s t slot w).1 = setGroup s t slot (drainInto s t slot w).1 := by
  rw [drainWritten, if_neg (by rw [hm]; decide)]

/-- Tile memory written: arrays and groups are as before. -/
theorem updTile_mem_gives (s : State) (t : Nat) (f : List Host.Cell → List Host.Cell) :
    (∀ k, arr (updTile s t (fun x => { x with mem := f x.mem })) t k = arr s t k) ∧
    (∀ h, grp (updTile s t (fun x => { x with mem := f x.mem })) t h = grp s t h) ∧
    (tileOf (updTile s t (fun x => { x with mem := f x.mem })) t).mem = f (tileOf s t).mem := by
  refine ⟨fun k => ?_, fun h => ?_, ?_⟩
  · rw [arr, tileOf_updTile_self]
    rfl
  · rw [grp, tileOf_updTile_self]
    rfl
  · rw [tileOf_updTile_self]

/-- Either way the arrays and the other groups are as before, and the group is at its instruction still. -/
theorem drainWritten_gives (s : State) (t slot : Nat) (w : DWord) :
    TilesOnly s (drainWritten s t slot w).1 ∧ (∀ k, arr (drainWritten s t slot w).1 t k = arr s t k) ∧
    (grp (drainWritten s t slot w).1 t slot).pc = (grp s t slot).pc ∧ ∀ h ≠ slot, grp (drainWritten s t slot w).1 t h = grp s t h := by
  cases hm : (drainOp w).mem
  · rw [drainWritten_regs s t slot hm]
    refine ⟨tilesOnly_updTile s t _, fun k => arr_setGroup s t slot _ k, ?_, fun h hh => grp_setGroup_slot s t _ hh⟩
    rw [grp_setGroup_self, drainInto, pc_drainedRows]
  · rw [drainWritten_mem s t slot hm]
    obtain ⟨harr, hgrp, -⟩ := updTile_mem_gives s t (fun m => Mem.cells m (drainOut s t slot w).1)
    exact ⟨tilesOnly_updTile s t _, harr, congrArg Group.pc (hgrp slot), fun h _ => hgrp h⟩

/-- The registers of a drain to FP32 lie within the register file (R92, cause 0x04). -/
theorem drainRange_of_firstCause {w : DWord} {a : ArrayUnit} {slot : Nat} {desc : DWord}
    (hc : firstCause (drainCauses w (drainOp w) a slot desc) = none) (hm : (drainOp w).mem = false) (hf : (drainOp w).fmt = 0) :
    (drainOp w).w + a.n ≤ 128 := by
  have hregs : (drainOp w).regs a.n = a.n := by
    simp only [DrainOp.regs, DrainOp.size, hf, cdiv]
    omega
  simp only [drainCauses, firstCause_eq_none, List.forall_mem_cons] at hc
  obtain ⟨-, -, -, -, hrange, -⟩ := hc
  rw [Bool.or_eq_false_iff, hm, hregs] at hrange
  simpa using hrange.1

/-! ### ASTAT (R57, R85) -/

theorem mem_setBits {n v i : Nat} : i ∈ setBits n v ↔ i < n ∧ bit v i = true := by
  rw [setBits, List.mem_filter, List.mem_range]

theorem rget_foldl_threads (l : List Nat) (r : Nat) (v : Word) (g : Group) (th k : Nat) (hr : r < 128) (hk : k < 128) :
    rget (l.foldl (fun g th => rset g th r v) g) th k = if th ∈ l ∧ k = r then v else rget g th k := by
  induction l generalizing g with
  | nil => simp
  | cons i l ih =>
    rw [List.foldl_cons, ih, rget_rset _ _ _ _ _ _ hk hr]
    by_cases hl : th ∈ l ∧ k = r
    · rw [if_pos hl, if_pos ⟨List.mem_cons_of_mem i hl.1, hl.2⟩]
    · rw [if_neg hl]
      exact if_congr (by rw [List.mem_cons]; tauto) rfl rfl

/-- A result written to every active thread (R100). -/
theorem activeGive_rsetActive (g : Group) (r : Nat) (v : Word) (hr : r < 128) : ActiveGive g (rsetActive g r v) r 1 (fun _ _ => v) := by
  intro th hth k hk
  rw [rsetActive, rget_foldl_threads _ _ _ _ _ _ hr hk]
  refine if_congr ?_ rfl rfl
  rw [mem_setBits, and_iff_right hth]
  exact and_congr_right (fun _ => by omega)

theorem pc_rsetActive (g : Group) (r : Nat) (v : Word) : (rsetActive g r v).pc = g.pc :=
  foldl_keeps Group.pc _ _ g (fun _ _ => rfl)

/-- An array whose cumulative flags are cleared where b says so (R57). -/
def cumCleared (s : State) (t no : Nat) (b : Bool) : State := if b then updArray s t no (fun a => { a with cum := 0 }) else s

theorem cumCleared_gives (s : State) (t no : Nat) (b : Bool) :
    ArrayOnly s (cumCleared s t no b) t no ∧
    arr (cumCleared s t no b) t no = { arr s t no with cum := if b = true then 0 else (arr s t no).cum } := by
  cases b
  · exact ⟨ArrayOnly.refl s t no, rfl⟩
  · exact ⟨arrayOnly_setArray s t no _, arr_updArray_self s t no (fun a => { a with cum := 0 })⟩

/-- The flag word of Table 2.5. -/
def flagWord (a : ArrayUnit) : Nat := a.blk.toNat + 256 * a.cum.toNat

/-- The state in which an ASTAT ends: the flag word given, the cumulative flags cleared where it asks for that. -/
def statGiven (s : State) (t slot : Nat) (w : DWord) : State :=
  cumCleared (putActive s t slot (fld w 52 46) (flagWord (arr s t (aARR w)))) t (aARR w) (bit w.toNat 53)

theorem statGiven_gives (s : State) (t slot : Nat) (w : DWord) :
    TilesOnly s (statGiven s t slot w) ∧
    grp (statGiven s t slot w) t slot = rsetActive (grp s t slot) (fld w 52 46) (BitVec.ofNat 32 (flagWord (arr s t (aARR w)))) ∧
    arr (statGiven s t slot w) t (aARR w) =
      { arr s t (aARR w) with cum := if bit w.toNat 53 = true then 0 else (arr s t (aARR w)).cum } ∧
    ∀ k ≠ aARR w, arr (statGiven s t slot w) t k = arr s t k := by
  have hput (k : Nat) : arr (putActive s t slot (fld w 52 46) (flagWord (arr s t (aARR w)))) t k = arr s t k :=
    arr_setGroup s t slot _ k
  obtain ⟨⟨htiles, hgrp, -, hothers⟩, hself⟩ :=
    cumCleared_gives (putActive s t slot (fld w 52 46) (flagWord (arr s t (aARR w)))) t (aARR w) (bit w.toNat 53)
  refine ⟨(tilesOnly_updTile s t _).trans htiles, ?_, ?_, fun k hk => (hothers k hk).trans (hput k)⟩
  · rw [statGiven, hgrp, putActive, grp_updGroup_self]
  · rw [statGiven, hself, hput]

theorem execAstat_runs (hi : CanIssue (rowA 164) t slot w s) (hf : fld w 45 0 = 0) (hsh : (arr s t (aARR w)).shadow = none)
    (hp : pendingRegs s t slot = []) : exec (.astat t slot w) s = .next (finish s t slot (.done (statGiven s t slot w))) := by
  obtain ⟨-, hreg⟩ := hi.undamaged
  have hcause : firstCause [(fld w 45 0 != 0, 0x08)] = none := by simp [firstCause_eq_none, hf]
  rw [exec, execAstat, issue_of_canIssue _ _ _ _ _ _ hi, arrayBody_runs (noPending_of_nil hp _ _) hcause rfl hsh hreg]
  rfl

end

/-! ### The statement -/

/-- Settles O15: each instruction runs its body on the state as it is; the first three set one array, a drain writes memory or registers
and then ends the block, ASTAT gives the flag word. -/
theorem arrayInstructions : Obligations.ArrayInstructions := by
  unfold Obligations.ArrayInstructions
  intro t slot w s g no a
  refine ⟨?azero, ?aload, ?amul, ?adrain, ?astat⟩
  case azero =>
    intro hi hf ho hsh
    exact ⟨_, execAzero_runs hi hf ho hsh, arraySet_gives s t slot no _⟩
  case aload =>
    intro bind raw r a0 at_ hi hf ho hsh hp hrange hraw
    exact ⟨_, execAload_runs hi hf ho hsh hp hrange hraw, arraySet_gives s t slot no _⟩
  case amul =>
    intro o b hi hc hsh hp
    exact ⟨_, execAmul_runs hi hc hsh hp, arraySet_gives s t slot no _⟩
  case adrain =>
    intro o desc seed hi hc hsh hp
    obtain ⟨htiles, harr, hpc, hothers⟩ := drainWritten_gives s t slot w
    obtain ⟨⟨htiles', hgrp, hmem, harr'⟩, howner, haccs⟩ :=
      drainEnd_gives o t no (drainWritten s t slot w).2 (drainWritten s t slot w).1
    rw [harr] at howner haccs
    refine ⟨_, execAdrain_runs hi hc hsh hp, tilesOnly_finish_done t slot (htiles.trans htiles'), ?_, ?_, ?_, fun k hk => ?_, fun h hh => ?_,
      fun hm => ⟨?_, ?_⟩, fun hm => ⟨?_, fun hf i hi k hk => ?_⟩⟩
    · rw [grp_finish_done_self, hgrp, hpc]
    · rw [arr_finish_done, howner]
    · rw [arr_finish_done, haccs]
    · rw [arr_finish_done, harr' k hk, harr]
    · rw [grp_finish_done_slot _ _ _ hh, hgrp, hothers h hh]
    · rw [grp_finish_done_self, hgrp, drainWritten_mem s t slot hm, (updTile_mem_gives s t (fun m => Mem.cells m (drainOut s t slot w).1)).2.1]
    · rw [mem_finish_done, hmem, drainWritten_mem s t slot hm, (updTile_mem_gives s t (fun m => Mem.cells m (drainOut s t slot w).1)).2.2]
      rfl
    · rw [mem_finish_done, hmem, drainWritten_regs s t slot hm, mem_setGroup]
    · rw [grp_finish_done_self, hgrp, drainWritten_regs s t slot hm, grp_setGroup_self]
      exact rget_drainedRows hf a seed t no (drainRange_of_firstCause hc hm hf) g i k hk
  case astat =>
    intro hi hf hsh hp
    obtain ⟨htiles, hgrp, hself, hothers⟩ := statGiven_gives s t slot w
    refine ⟨_, execAstat_runs hi hf hsh hp, tilesOnly_finish_done t slot htiles, ?_, ?_, ?_, fun k hk => ?_⟩
    · rw [grp_finish_done_self, hgrp, pc_rsetActive]
    · rw [grp_finish_done_self, hgrp]
      exact activeGive_rsetActive g _ _ (Nat.mod_lt _ (by decide))
    · rw [arr_finish_done, hself]
    · rw [arr_finish_done, hothers k hk]

end Sys2Proof.Machine

end

section

/-! ## BAR and END (R73, R110, R128) -/

namespace Sys2Proof.Machine

/-- A completed instruction touches no tile but its own. -/
theorem tileOf_finish_done_ne (s s' : State) {t u : Nat} (slot : Nat) (h : u ≠ t) :
    tileOf (finish s t slot (.done s')) u = tileOf s' u := by
  rw [finish_done, movePtr, tileOf_updTile_ne _ _ h, advancePc, updGroup, tileOf_setGroup_ne _ _ _ h]

theorem reg_finish_done (s s' : State) (t slot o : Nat) : reg (finish s t slot (.done s')) o = reg s' o := rfl

theorem finish_done_frame (s s' : State) (t slot : Nat) (T : SMap Tile) (r : SMap DWord) :
    { finish s t slot (.done s') with tiles := T, bar0 := r } = { s' with tiles := T, bar0 := r } := rfl

theorem CanIssue.ready {row : Row} {t slot : Nat} {w : DWord} {s : State} (h : CanIssue row t slot w s) : (grp s t slot).st = .ready := by
  obtain ⟨-, hready, -⟩ := h
  exact hready

/-! ### The groups at a barrier (R110) -/

theorem mem_atBarrier {x : Tile} {b h : Nat} :
    h ∈ atBarrier x b ↔ h < 8 ∧ (∃ c, (groupOf x h).wait = .barrier b c) ∧ (groupOf x h).st = .atBarrier := by
  rw [atBarrier, List.mem_filter, slots8, List.mem_range]
  refine and_congr_right fun _ => ?_
  cases (groupOf x h).wait <;> simp

/-- A group that is ready waits at no barrier. -/
theorem not_mem_atBarrier_of_ready {x : Tile} {b h : Nat} (hr : (groupOf x h).st = .ready) : h ∉ atBarrier x b := by
  rw [mem_atBarrier, hr]
  rintro ⟨-, -, hst⟩
  cases hst

/-- Every group that waits at barrier b named the count c. -/
def CountAgrees (x : Tile) (b c : Nat) : Prop :=
  ∀ h < 8, ∀ d, (groupOf x h).wait = .barrier b d → (groupOf x h).st = .atBarrier → d = c

theorem CountAgrees.barrierCount {x : Tile} {b c : Nat} (ha : CountAgrees x b c) :
    (barrierCount x b).any (fun d => d != c) = false := by
  cases hd : Machine.barrierCount x b with
  | none => rfl
  | some d =>
    obtain ⟨h, hmem, hnamed⟩ := List.exists_of_findSome?_eq_some hd
    obtain ⟨hlt, ⟨e, hwait⟩, hst⟩ := mem_atBarrier.1 hmem
    rw [hwait] at hnamed
    have hdc : d = c := (Option.some.inj hnamed).symm.trans (ha h hlt e hwait hst)
    simp [hdc]

/-- The state with the groups of some slots of a tile ready again. -/
def woken (s : State) (t : Nat) (l : List Nat) : State := l.foldl (fun s h => updGroup s t h wake) s

/-- A group of the list is ready and waits for nothing, however often the list names it; another is as before. -/
theorem grp_woken (s : State) (t : Nat) (l : List Nat) (h : Nat) :
    grp (woken s t l) t h = if h ∈ l then wake (grp s t h) else grp s t h := by
  induction l generalizing s with
  | nil => rfl
  | cons k l ih =>
    have hstep : grp (woken s t (k :: l)) t h = if h ∈ l then wake (grp (updGroup s t k wake) t h) else grp (updGroup s t k wake) t h :=
      ih (updGroup s t k wake)
    by_cases hk : h = k
    · subst hk
      rw [hstep, grp_updGroup_self, if_pos List.mem_cons_self]
      exact ite_self _
    · rw [hstep, grp_updGroup_slot _ _ _ hk]
      exact if_congr (by simp [hk]) rfl rfl

theorem tilesOnly_woken (s : State) (t : Nat) (l : List Nat) : TilesOnly s (woken s t l) := by
  rw [TilesOnly, woken]
  exact foldl_keeps (fun y : State => { y with tiles := s.tiles }) (fun y h => updGroup y t h wake) l s (fun _ _ => rfl)

theorem tileOf_woken_ne (s : State) {t u : Nat} (l : List Nat) (h : u ≠ t) : tileOf (woken s t l) u = tileOf s u :=
  foldl_keeps (fun y : State => tileOf y u) (fun y h => updGroup y t h wake) l s (fun _ _ => tileOf_setGroup_ne _ _ _ h)

/-! ### The two outcomes of BAR (R110) -/

section

variable {t slot : Nat} {w : DWord} {s : State}

/-- With the counts agreed, BAR waits or releases as the count decides. -/
theorem execBar_runs (hi : CanIssue rowBar t slot w s) (ha : CountAgrees (tileOf s t) (wBID w) (wCNT w)) :
    exec (.bar t slot w) s = .next (finish s t slot (.done
      (if (atBarrier (tileOf s t) (wBID w)).length + 1 ≥ wCNT w then woken s t (atBarrier (tileOf s t) (wBID w))
      else updGroup s t slot (fun g => { g with st := .atBarrier, wait := .barrier (wBID w) (wCNT w) })))) := by
  rw [exec, execBar, issue_of_canIssue _ _ _ _ _ _ hi, if_neg (by rw [ha.barrierCount]; decide), apply_ite Res.done]
  rfl

theorem execBar_waits (hi : CanIssue rowBar t slot w s) (ha : CountAgrees (tileOf s t) (wBID w) (wCNT w))
    (hlt : (atBarrier (tileOf s t) (wBID w)).length + 1 < wCNT w) :
    exec (.bar t slot w) s = .next (afterGroup s t slot
      { grp s t slot with st := .atBarrier, wait := .barrier (wBID w) (wCNT w), pc := (grp s t slot).pc + 8 }) := by
  rw [execBar_runs hi ha, if_neg (by omega), finish_done]
  exact congrArg (fun y => Host.Outcome.next (movePtr y t slot)) (updGroup_setGroup s t slot _ _)

theorem execBar_releases (hi : CanIssue rowBar t slot w s) (ha : CountAgrees (tileOf s t) (wBID w) (wCNT w))
    (hle : wCNT w ≤ (atBarrier (tileOf s t) (wBID w)).length + 1) :
    exec (.bar t slot w) s = .next (finish s t slot (.done (woken s t (atBarrier (tileOf s t) (wBID w))))) := by
  rw [execBar_runs hi ha, if_pos hle]

theorem execEnd_runs (hi : CanIssue rowEnd t slot w s) :
    exec (.endC t slot w) s = .next (finish s t slot (.done (stopGroup s t slot .ended))) := by
  rw [exec, execEnd, issue_of_canIssue _ _ _ _ _ _ hi]

end

/-! ### What a group that stops gives back (R73) -/

/-- Array k is released if the group holds it. -/
def releaseArray (t slot : Nat) (s : State) (k : Nat) : State :=
  if (arr s t k).owner = some (.group slot) then addSat (updArray s t k ArrayUnit.orphan) (oARRSTAT t k) 39 32 1 else s

theorem releaseArrays_eq (s : State) (t slot : Nat) : releaseArrays s t slot = (List.range 4).foldl (releaseArray t slot) s := rfl

theorem arr_releaseArray (s : State) (t slot k n : Nat) :
    arr (releaseArray t slot s k) t n =
      if n = k ∧ (arr s t n).owner = some (.group slot) then (arr s t n).orphan else arr s t n := by
  have hreg (s : State) : arr (addSat s (oARRSTAT t k) 39 32 1) t n = arr s t n := rfl
  rw [releaseArray]
  by_cases hk : n = k
  · subst hk
    by_cases ho : (arr s t n).owner = some (.group slot)
    · rw [if_pos ho, if_pos ⟨rfl, ho⟩, hreg, arr_updArray_self]
    · rw [if_neg ho, if_neg (fun h => ho h.2)]
  · rw [if_neg (show ¬(n = k ∧ (arr s t n).owner = some (.group slot)) from fun h => hk h.1)]
    split
    · rw [hreg, updArray, arr_setArray_ne _ _ _ hk]
    · rfl

/-- Of the arrays 0 to m - 1 those of the group are released, the others are as before. -/
theorem arr_foldl_releaseArray (s : State) (t slot n m : Nat) :
    arr ((List.range m).foldl (releaseArray t slot) s) t n =
      if n < m ∧ (arr s t n).owner = some (.group slot) then (arr s t n).orphan else arr s t n := by
  induction m with
  | zero => exact (if_neg (by simp)).symm
  | succ m ih =>
    rw [List.range_succ, List.foldl_append, List.foldl_cons, List.foldl_nil, arr_releaseArray, ih]
    by_cases hn : n = m
    · subst hn
      simp
    · rw [if_neg (fun h => hn h.1)]
      exact if_congr (and_congr_left' (by omega)) rfl rfl

theorem regsBut_releaseArray (s : State) (t slot k : Nat) : RegsBut s (releaseArray t slot s k) [oARRSTAT t k] := by
  intro o ho
  rw [releaseArray]
  split
  · exact reg_addSat_ne _ _ _ _ (List.ne_of_not_mem_cons ho)
  · rfl

theorem regsBut_releaseArrays (s : State) (t slot : Nat) : RegsBut s (releaseArrays s t slot) ((List.range 4).map (oARRSTAT t)) := by
  intro o ho
  rw [releaseArrays_eq]
  refine List.foldlRecOn (motive := fun y => reg y o = reg s o) _ _ rfl (fun y hy k hk => ?_)
  rw [regsBut_releaseArray y t slot k o (fun h => ho (List.mem_singleton.1 h ▸ List.mem_map_of_mem hk)), hy]

/-- A group put into its final state, its commands orphaned and its waits dropped: no array and no memory of the tile shows it. -/
theorem stoppedTile_keeps (x : Tile) (slot k : Nat) (y : Group) :
    (dropWaiter (orphanAttn (setGrp x slot y) k) k).arrays = x.arrays ∧ (dropWaiter (orphanAttn (setGrp x slot y) k) k).mem = x.mem :=
  ⟨rfl, rfl⟩

/-- A group that stops keeps no array of its tile. -/
theorem arr_stopGroup (s : State) (t slot n : Nat) (st : GroupState) (hn : n < 4) :
    arr (stopGroup s t slot st) t n = if (arr s t n).owner = some (.group slot) then (arr s t n).orphan else arr s t n := by
  have hrel : arr (stopGroup s t slot st) t n = arr (releaseArrays s t slot) t n := by
    rw [arr, stopGroup, tileOf_updTile_self, arrayOf, (stoppedTile_keeps _ _ _ _).1, arr, arrayOf]
  rw [hrel, releaseArrays_eq, arr_foldl_releaseArray]
  exact if_congr (and_iff_right hn) rfl rfl

theorem mem_stopGroup (s : State) (t slot : Nat) (st : GroupState) : (tileOf (stopGroup s t slot st) t).mem = (tileOf s t).mem := by
  rw [stopGroup, tileOf_updTile_self, (stoppedTile_keeps _ _ _ _).2]
  exact releaseArrays_keeps (fun y => (tileOf y t).mem) s t slot (fun y n _ => mem_setArray y t n _) (fun _ _ => rfl)

theorem regsBut_stopGroup (s : State) (t slot : Nat) (st : GroupState) :
    RegsBut s (stopGroup s t slot st) ((List.range 4).map (oARRSTAT t)) := by
  intro o ho
  rw [stopGroup, reg_updTile]
  exact regsBut_releaseArrays s t slot o ho

/-- A group that stops changes nothing but its tile and registers. -/
theorem stopGroup_frame (s : State) (t slot : Nat) (st : GroupState) :
    { stopGroup s t slot st with tiles := s.tiles, bar0 := s.bar0 } = s := by
  rw [stopGroup, updTile, setTile]
  exact releaseArrays_keeps (fun y : State => { y with tiles := s.tiles, bar0 := s.bar0 }) s t slot (fun _ _ _ => rfl) (fun _ _ => rfl)

/-! ### The statement -/

/-- Settles O10: the count decides between waiting and waking the groups of the barrier, which the arriving group, being ready, is not
one of; END is the stop of a group, whose arrays are released one by one. -/
theorem barrierAndEnd : Obligations.BarrierAndEnd := by
  unfold Obligations.BarrierAndEnd
  intro t slot w s g x
  refine ⟨?waits, ?releases, ?ends⟩
  case waits => exact fun hi ha hlt => execBar_waits hi ha hlt
  case releases =>
    intro hi ha hle
    refine ⟨_, execBar_releases hi ha hle, tilesOnly_finish_done t slot (tilesOnly_woken s t _), ?_, fun u hu => ?_, fun h _ hne => ?_⟩
    · rw [grp_finish_done_self, grp_woken, if_neg (not_mem_atBarrier_of_ready hi.ready)]
    · rw [tileOf_finish_done_ne _ _ _ hu, tileOf_woken_ne _ _ hu]
    · rw [grp_finish_done_slot _ _ _ hne, grp_woken, wake]
  case ends =>
    intro hi
    refine ⟨_, execEnd_runs hi, ?_, fun h hne => ?_, fun u hu => ?_, ?_, fun n hn ho => ?_, fun n hn ho => ?_, fun o ho => ?_, ?_⟩
    · rw [grp_finish_done_self, grp_stopGroup_self]
    · rw [grp_finish_done_slot _ _ _ hne, grp_stopGroup_slot _ _ _ hne]
    · rw [tileOf_finish_done_ne _ _ _ hu, tileOf_stopGroup_ne _ _ _ hu]
    · rw [mem_finish_done, mem_stopGroup]
    · rw [arr_finish_done, arr_stopGroup _ _ _ _ _ hn, if_pos ho]
      exact ⟨rfl, rfl⟩
    · rw [arr_finish_done, arr_stopGroup _ _ _ _ _ hn, if_neg ho]
    · rw [reg_finish_done]
      exact regsBut_stopGroup s t slot .ended o ho
    · rw [finish_done_frame]
      exact stopGroup_frame s t slot .ended

end Sys2Proof.Machine

end

section

/-! ## Lane-block instructions (R95, R96, R99, R101 to R104, Table 4.3)

An instruction of the lane block reads the group as it was and writes what it gives each acting thread: registers, a
predicate, exceptions. -/

namespace Sys2Proof.Machine

/-! ### What may change -/

/-- Only word registers, predicates and the floating-point flags of the group may differ. -/
def LaneFrame (g g' : Group) : Prop := { g' with regs := g.regs, preds := g.preds, fp := g.fp } = g

theorem LaneFrame.congr {β : Type} (φ : Group → β) {g g' : Group} (h : LaneFrame g g') :
    φ { g' with regs := g.regs, preds := g.preds, fp := g.fp } = φ g := congrArg φ h

theorem LaneFrame.regErr {g g' : Group} (h : LaneFrame g g') : g'.regErr = g.regErr := h.congr Group.regErr

theorem LaneFrame.pc {g g' : Group} (h : LaneFrame g g') : g'.pc = g.pc := h.congr Group.pc

/-- With no damaged register, a write leaves the check bits as they are (R330). -/
theorem rset_of_regErr_nil {g : Group} (h : g.regErr = []) (th r : Nat) (v : Word) :
    rset g th r v = { g with regs := SMap.set 0 g.regs (th * 128 + r) v } := by
  rw [rset, h]
  rfl

/-- Only word registers of the group may differ. -/
def RegsOnly (g g' : Group) : Prop := { g' with regs := g.regs } = g

theorem RegsOnly.refl (g : Group) : RegsOnly g g := rfl

theorem RegsOnly.congr {β : Type} (φ : Group → β) {g g' : Group} (h : RegsOnly g g') : φ { g' with regs := g.regs } = φ g := congrArg φ h

theorem RegsOnly.regErr {g g' : Group} (h : RegsOnly g g') : g'.regErr = g.regErr := h.congr Group.regErr

theorem RegsOnly.pc {g g' : Group} (h : RegsOnly g g') : g'.pc = g.pc := h.congr Group.pc

theorem RegsOnly.rset {g g' : Group} (h : RegsOnly g g') (hn : g.regErr = []) (th r : Nat) (v : Word) :
    RegsOnly g (rset g' th r v) := by
  rw [rset_of_regErr_nil (h.regErr.trans hn)]
  exact h

theorem RegsOnly.foldl {α : Type} {g g' : Group} {step : Group → α → Group} (h : RegsOnly g g')
    (hstep : ∀ y a, RegsOnly g y → RegsOnly g (step y a)) (l : List α) : RegsOnly g (l.foldl step g') :=
  List.foldlRecOn (motive := RegsOnly g) l step h (fun y hy a _ => hstep y a hy)

/-- The next instruction after registers were written. -/
theorem RegsOnly.nextInstr {g g' : Group} (h : RegsOnly g g') : NextInstr g { g' with pc := g'.pc + 8 } :=
  ⟨(h.congr (fun y : Group => { y with pc := g.pc }) : _), congrArg (· + 8) h.pc⟩

theorem LaneFrame.rset {g g' : Group} (h : LaneFrame g g') (hn : g.regErr = []) (th r : Nat) (v : Word) :
    LaneFrame g (rset g' th r v) := by
  rw [rset_of_regErr_nil (h.regErr.trans hn)]
  exact h

theorem LaneFrame.pset {g g' : Group} (h : LaneFrame g g') (p th : Nat) (v : Bool) : LaneFrame g (pset g' p th v) := by
  rw [Machine.pset]
  split <;> exact h

theorem LaneFrame.applyLane {g g' : Group} (h : LaneFrame g g') (hn : g.regErr = []) (th : Nat) (o : LaneOut) :
    LaneFrame g (applyLane g' th o) := by
  have hregs : LaneFrame g (o.regs.foldl (fun y e => Machine.rset y th e.1 e.2) g') :=
    List.foldlRecOn (motive := LaneFrame g) _ _ h (fun y hy e _ => hy.rset hn th e.1 e.2)
  rw [Machine.applyLane]
  cases o.pred with
  | none => exact hregs
  | some e => exact hregs.pset e.1 th e.2

theorem laneFrame_lanes {g : Group} (hn : g.regErr = []) (w : DWord) (f : Group → Nat → LaneOut) : LaneFrame g (lanes g w f) :=
  List.foldlRecOn (motive := LaneFrame g) _ _ (Eq.refl g) (fun _ hy th _ => hy.applyLane hn th (f g th))

/-! ### Word registers -/

/-- What the write of each thread of a list shows at one place: the thread's own value if the list names it and the place is
written, else what stood there. -/
theorem foldl_writes {β γ : Type} (φ : β → γ) (step : β → Nat → β) (th : Nat) (P : Prop) [Decidable P] (a : Nat → γ)
    (hstep : ∀ y i, φ (step y i) = if th = i ∧ P then a i else φ y) (l : List Nat) (y : β) :
    φ (l.foldl step y) = if th ∈ l ∧ P then a th else φ y := by
  induction l generalizing y with
  | nil => simp
  | cons i l ih =>
    rw [List.foldl_cons, ih, hstep]
    by_cases hl : th ∈ l ∧ P
    · rw [if_pos hl, if_pos ⟨List.mem_cons_of_mem i hl.1, hl.2⟩]
    · rw [if_neg hl]
      by_cases hi : th = i
      · subst hi
        exact if_congr (by simp) rfl rfl
      · rw [if_neg (fun h => hi h.1), if_neg (fun h => hl ⟨List.mem_of_ne_of_mem hi h.1, h.2⟩)]

/-- Words written to a thread's registers r and after, one after the other. -/
theorem rget_foldl_rset (g : Group) (th r n : Nat) (v : Nat → Word) (hr : r + n ≤ 128) (th' k : Nat) (hk : k < 128) :
    rget (((List.range n).map (fun i => (r + i, v i))).foldl (fun y e => rset y th e.1 e.2) g) th' k =
      if th' = th ∧ r ≤ k ∧ k < r + n then v (k - r) else rget g th' k := by
  have hpair : (List.range n).foldl (fun y i => rset y th (r + i) (v i)) g =
      ((List.range n).foldl (fun (x : Group × Unit) i => (rset x.1 th (r + i) (v i), ())) (g, ())).1 :=
    List.foldl_hom (Prod.fst : Group × Unit → Group) (l := List.range n) (init := (g, ())) (fun _ _ => rfl)
  rw [List.foldl_map, hpair]
  exact rget_foldl_row _ th r n v (fun _ _ => rfl) hr (g, ()) th' k hk

/-- An instruction gives thread th the n registers from r on, with the values v th. -/
def GivesRegs (f : Nat → LaneOut) (r n : Nat) (v : Nat → Nat → Word) : Prop :=
  ∀ th, (f th).regs = (List.range n).map (fun i => (r + i, v th i))

/-- Predicates and flags are no word registers. -/
theorem rget_applyLane (g : Group) (th : Nat) (o : LaneOut) (th' k : Nat) :
    rget (applyLane g th o) th' k = rget (o.regs.foldl (fun y e => rset y th e.1 e.2) g) th' k := by
  rw [applyLane]
  cases o.pred with
  | none => rfl
  | some e =>
    simp only [raiseFlags, pset, rget]
    split <;> rfl

theorem rget_foldl_applyLane {f : Nat → LaneOut} {r n : Nat} {v : Nat → Nat → Word} (hf : GivesRegs f r n v) (hr : r + n ≤ 128)
    (l : List Nat) (g : Group) (th k : Nat) (hk : k < 128) :
    rget (l.foldl (fun y i => applyLane y i (f i)) g) th k = if th ∈ l ∧ r ≤ k ∧ k < r + n then v th (k - r) else rget g th k :=
  foldl_writes (fun y => rget y th k) _ th (r ≤ k ∧ k < r + n) (fun i => v i (k - r))
    (fun y i => by rw [rget_applyLane, hf, rget_foldl_rset _ _ _ _ _ hr _ _ hk]) l g

/-- Registers given to the acting threads (R99). -/
theorem lanesGive_lanes {g : Group} {w : DWord} {f : Group → Nat → LaneOut} {r n : Nat} {v : Nat → Nat → Word}
    (hf : GivesRegs (f g) r n v) (hr : r + n ≤ 128) : LanesGive g (lanes g w f) w r n v :=
  fun th _ k hk => rget_foldl_applyLane hf hr (acting g w) g th k hk

/-! ### Exceptions (R104) -/

theorem fp_pset (g : Group) (p th : Nat) (v : Bool) : (pset g p th v).fp = g.fp := by
  rw [pset]
  split <;> rfl

theorem fp_applyLane (g : Group) (th : Nat) (o : LaneOut) : (applyLane g th o).fp = g.fp ||| o.flags := by
  have hregs : (o.regs.foldl (fun y e => rset y th e.1 e.2) g).fp = g.fp := foldl_keeps Group.fp _ _ g (fun _ _ => rfl)
  rw [applyLane]
  cases o.pred with
  | none => exact congrArg (· ||| o.flags) hregs
  | some e => exact congrArg (· ||| o.flags) ((fp_pset _ _ _ _).trans hregs)

/-- The flags are joined by the exceptions of the acting threads, in their order. -/
theorem fp_lanes (g : Group) (w : DWord) (f : Group → Nat → LaneOut) :
    (lanes g w f).fp = (acting g w).foldl (fun x th => x ||| (f g th).flags) g.fp :=
  (List.foldl_hom Group.fp (fun y th => (fp_applyLane y th (f g th)).symm)).symm

theorem foldl_or_zero (l : List Nat) (x : FFlags) : l.foldl (fun x _ => x ||| 0) x = x :=
  List.foldl_fixed' (fun _ => BitVec.or_zero) l

/-! ### Predicates (R96) -/

theorem pget_applyLane (g : Group) (th : Nat) (o : LaneOut) (p th' : Nat) :
    pget (applyLane g th o) p th' = match o.pred with
      | none => pget g p th'
      | some e => pget (pset g e.1 th e.2) p th' := by
  have hregs : (o.regs.foldl (fun y e => rset y th e.1 e.2) g).preds = g.preds := foldl_keeps Group.preds _ _ g (fun _ _ => rfl)
  rw [applyLane]
  cases o.pred with
  | none => simp only [raiseFlags, pget, hregs]
  | some e =>
    simp only [raiseFlags, pget, pset]
    split <;> simp only [hregs]

theorem bit_toNat (m : Word) (i : Nat) : bit m.toNat i = m.getLsbD i := (bit_eq _ _).trans (BitVec.testBit_toNat m)

/-- One bit of a mask written. -/
theorem bit_writeBit (m : Word) (v : Bool) (i j : Nat) (hj : j < 32) :
    bit (if v = true then m ||| BitVec.ofNat 32 (2 ^ i) else m &&& ~~~ BitVec.ofNat 32 (2 ^ i)).toNat j =
      if j = i then v else bit m.toNat j := by
  have hbit : (BitVec.ofNat 32 (2 ^ i)).getLsbD j = decide (j = i) := by
    rw [BitVec.getLsbD_ofNat, Nat.testBit_two_pow, decide_eq_true hj, Bool.true_and, decide_eq_decide, eq_comm]
  rw [bit_toNat, bit_toNat]
  cases v
  · rw [if_neg Bool.false_ne_true, BitVec.getLsbD_and, BitVec.getLsbD_not, hbit]
    split <;> simp [*]
  · rw [if_pos rfl, BitVec.getLsbD_or, hbit]
    split <;> simp [*]

theorem preds_applyLane_of_none (g : Group) (th : Nat) {o : LaneOut} (hp : o.pred = none) : (applyLane g th o).preds = g.preds := by
  rw [applyLane, hp]
  exact foldl_keeps Group.preds _ _ g (fun _ _ => rfl)

theorem regs_applyLane_of_nil (g : Group) (th : Nat) {o : LaneOut} (hr : o.regs = []) : (applyLane g th o).regs = g.regs := by
  rw [applyLane, hr]
  cases o.pred with
  | none => rfl
  | some e =>
    simp only [raiseFlags, pset, List.foldl_nil]
    split <;> rfl

/-- Reading predicate q after predicate p of a thread was written: p0 is never written and reads 1. -/
theorem pget_pset (g : Group) (p th : Nat) (v : Bool) (q th' : Nat) (h' : th' < 32) :
    pget (pset g p th v) q th' = if th' = th ∧ q = p ∧ q ≠ 0 then v else pget g q th' := by
  by_cases hp : p = 0
  · subst hp
    rw [pset, if_pos rfl, if_neg (fun hh => hh.2.2 hh.2.1)]
  · rw [pset, if_neg hp]
    by_cases hq : q = p
    · subst hq
      simp only [pget, SMap.get_set_self, bit_writeBit _ v _ _ h', hp, ne_eq, not_false_eq_true, and_true, beq_eq_false_iff_ne.2 hp,
        Bool.false_or]
    · simp only [pget, SMap.get_set_ne _ _ _ hq, hq, false_and, and_false, if_false]

/-! ### The command -/

section

variable {t slot : Nat} {w : DWord} {s : State} {row : Row}

/-- A group after a lane-block instruction: what the instruction gives, and the next instruction. -/
def laneGroup (g : Group) (w : DWord) (f : Group → Nat → LaneOut) : Group := { lanes g w f with pc := g.pc + 8 }

/-- A completed instruction that sets its group. -/
theorem finish_done_setGroup (s s' : State) (t slot : Nat) (y : Group) :
    finish s t slot (.done (setGroup s' t slot y)) = afterGroup s' t slot { y with pc := y.pc + 8 } :=
  congrArg (fun x => movePtr x t slot) (updGroup_setGroup s' t slot y _)

theorem issue_laneBody (hi : CanIssue row t slot w s) (f : Group → Nat → LaneOut) :
    issue row t slot w s (laneBody t slot w f) = .next (afterGroup s t slot (laneGroup (grp s t slot) w f)) := by
  obtain ⟨-, hreg⟩ := hi.undamaged
  rw [issue_of_canIssue _ _ _ _ _ _ hi, laneBody, updGroup, finish_done_setGroup, (laneFrame_lanes hreg w f).pc, laneGroup]

/-- A group of undamaged registers after registers and exceptions were given, and no predicate (R104). -/
theorem nextInstrFp_laneGroup {g : Group} (hn : g.regErr = []) {f : Group → Nat → LaneOut} (hp : ∀ th, (f g th).pred = none) :
    NextInstrFp g (laneGroup g w f) w (fun th => (f g th).flags) := by
  have hpreds : (lanes g w f).preds = g.preds :=
    foldl_keeps Group.preds _ _ g (fun y th => preds_applyLane_of_none y th (hp th))
  refine ⟨?_, rfl, fp_lanes g w f⟩
  have h := laneFrame_lanes hn w f
  rw [LaneFrame, ← hpreds] at h
  exact congrArg (fun y : Group => { y with pc := g.pc }) h

/-- Registers and exceptions given to the acting threads (R99, R104). -/
theorem exec_gives_fp {c : Instr} {f : Group → Nat → LaneOut} {r n : Nat} {v : Nat → Nat → Word} {e : Nat → FFlags}
    (hc : exec c s = issue row t slot w s (laneBody t slot w f)) (hi : CanIssue row t slot w s)
    (hf : GivesRegs (f (grp s t slot)) r n v) (hr : r + n ≤ 128)
    (hp : ∀ th, (f (grp s t slot) th).pred = none ∧ (f (grp s t slot) th).flags = e th) :
    ∃ g', exec c s = .next (afterGroup s t slot g') ∧ NextInstrFp (grp s t slot) g' w e ∧ LanesGive (grp s t slot) g' w r n v := by
  obtain ⟨-, hreg⟩ := hi.undamaged
  obtain rfl : (fun th => (f (grp s t slot) th).flags) = e := funext fun th => (hp th).2
  exact ⟨_, hc.trans (issue_laneBody hi f), nextInstrFp_laneGroup hreg (fun th => (hp th).1), lanesGive_lanes hf hr⟩

/-- Registers given, and no exception. -/
theorem exec_gives {c : Instr} {f : Group → Nat → LaneOut} {r n : Nat} {v : Nat → Nat → Word}
    (hc : exec c s = issue row t slot w s (laneBody t slot w f)) (hi : CanIssue row t slot w s)
    (hf : GivesRegs (f (grp s t slot)) r n v) (hr : r + n ≤ 128)
    (hp : ∀ th, (f (grp s t slot) th).pred = none ∧ (f (grp s t slot) th).flags = 0) :
    ∃ g', exec c s = .next (afterGroup s t slot g') ∧ NextInstr (grp s t slot) g' ∧ LanesGive (grp s t slot) g' w r n v := by
  obtain ⟨g', hexec, ⟨hframe, hpc, hfp⟩, hgive⟩ := exec_gives_fp (e := fun _ => 0) hc hi hf hr hp
  rw [foldl_or_zero] at hfp
  rw [← hfp] at hframe
  exact ⟨g', hexec, ⟨hframe, hpc⟩, hgive⟩

/-- The registers that an instruction writes lie in the register file (R95). -/
theorem CanIssue.dst_le (hi : CanIssue row t slot w s) {r n : Nat} (h : sp r n ∈ row.dsts w) : r + n ≤ 128 := by
  obtain ⟨-, -, -, -, -, -, hspans, -⟩ := hi
  have hok := List.all_eq_true.1 hspans _ (List.mem_append_right _ h)
  simp only [Span.ok, sp, Bool.and_eq_true] at hok
  exact of_decide_eq_true hok.1

/-- One word register is always within the register file. -/
theorem wWD_le (w : DWord) : wWD w + 1 ≤ 128 := Nat.mod_lt _ (by decide)

end

theorem givesRegs_reg (r : Nat) (v : Nat → Word) : GivesRegs (fun th => .reg r (v th)) r 1 (fun th _ => v th) := fun _ => rfl

theorem givesRegs_regF (r : Nat) (v : Nat → Nat × FFlags) :
    GivesRegs (fun th => .regF r (v th)) r 1 (fun th i => BitVec.ofNat 32 ((v th).1 / 2 ^ (32 * i))) := by
  intro th
  have hlow : (v th).1 / 2 ^ (32 * 0) = (v th).1 := Nat.div_one _
  simp only [LaneOut.regF, List.range_succ, List.range_zero, List.nil_append, List.map_cons, List.map_nil, hlow, Nat.add_zero]

theorem givesRegs_pairF (r : Nat) (v : Nat → Nat × FFlags) :
    GivesRegs (fun th => .pairF r (v th)) r 2 (fun th i => BitVec.ofNat 32 ((v th).1 / 2 ^ (32 * i))) := by
  intro th
  have hlow : (v th).1 / 2 ^ (32 * 0) = (v th).1 := Nat.div_one _
  simp only [LaneOut.pairF, List.range_succ, List.range_zero, List.nil_append, List.cons_append, List.map_cons, List.map_nil, hlow,
    Nat.add_zero, Nat.mul_one]

/-! ### Integer instructions -/

/-- A two-operand instruction e gives its function of the operands. -/
theorem exec_lane2_gives {t slot : Nat} {w : DWord} {s : State} {e : Instr × Row × (Word → Word → Word)}
    (hc : exec e.1 s = issue e.2.1 t slot w s (laneBody t slot w (lane2 w e.2.2))) (hi : CanIssue e.2.1 t slot w s) :
    ∃ g', exec e.1 s = .next (afterGroup s t slot g') ∧ NextInstr (grp s t slot) g' ∧
      LanesGive (grp s t slot) g' w (wWD w) 1 (fun th _ => e.2.2 (rget (grp s t slot) th (wWA w)) (opB (grp s t slot) w th)) :=
  exec_gives hc hi (givesRegs_reg _ _) (wWD_le w) (fun _ => ⟨rfl, rfl⟩)

/-- IMULH as the high half of the 64-bit product. -/
theorem mulHigh_eq (u : Bool) (a b : Word) : mulHigh u a b =
    if u = true then (a.zeroExtend 64 * b.zeroExtend 64).extractLsb' 32 32 else (a.signExtend 64 * b.signExtend 64).extractLsb' 32 32 := by
  have ha := a.isLt
  have hb := b.isLt
  cases u
  · rw [mulHigh, if_neg Bool.false_ne_true, if_neg Bool.false_ne_true]
    have hprod : a.signExtend 64 * b.signExtend 64 = BitVec.ofInt 64 (a.toInt * b.toInt) := (BitVec.ofInt_mul _ _).symm
    apply BitVec.eq_of_toNat_eq
    rw [hprod, BitVec.extractLsb'_toNat, BitVec.toNat_ofInt, BitVec.toNat_ofInt, Nat.shiftRight_eq_div_pow]
    generalize a.toInt * b.toInt = p
    omega
  · rw [mulHigh, if_pos rfl, if_pos rfl]
    have hlt : a.toNat * b.toNat < 2 ^ 64 := by nlinarith
    apply BitVec.eq_of_toNat_eq
    simp only [BitVec.toNat_ofNat, BitVec.extractLsb'_toNat, BitVec.toNat_mul, BitVec.truncate_eq_setWidth, BitVec.toNat_setWidth, Nat.shiftRight_eq_div_pow]
    rw [Nat.mod_eq_of_lt (show a.toNat < 2 ^ 64 by omega), Nat.mod_eq_of_lt (show b.toNat < 2 ^ 64 by omega), Nat.mod_eq_of_lt hlt]

/-- IMIN as a choice by order. -/
theorem wless_min (u : Bool) (a b : Word) : (if wless u b a = true then b else a) =
    if u = true then (if a.toNat ≤ b.toNat then a else b) else (if a.toInt ≤ b.toInt then a else b) := by
  cases u
  · simp only [wless, BitVec.slt, Bool.false_eq_true, if_false, decide_eq_true_eq, ← not_le, ite_not]
  · simp only [wless, BitVec.ult, if_true, decide_eq_true_eq, ← not_le, ite_not]

/-- IMAX as a choice by order; equal operands are one word. -/
theorem wless_max (u : Bool) (a b : Word) : (if wless u a b = true then b else a) =
    if u = true then (if a.toNat ≤ b.toNat then b else a) else (if a.toInt ≤ b.toInt then b else a) := by
  cases u
  · simp only [wless, BitVec.slt, Bool.false_eq_true, if_false, decide_eq_true_eq]
    rcases lt_trichotomy a.toInt b.toInt with h | h | h
    · rw [if_pos h, if_pos h.le]
    · rw [BitVec.eq_of_toInt_eq h, ite_self, ite_self]
    · rw [if_neg (by omega), if_neg (by omega)]
  · simp only [wless, BitVec.ult, if_true, decide_eq_true_eq]
    rcases lt_trichotomy a.toNat b.toNat with h | h | h
    · rw [if_pos h, if_pos h.le]
    · rw [BitVec.eq_of_toNat_eq h, ite_self, ite_self]
    · rw [if_neg (by omega), if_neg (by omega)]

/-- Settles O1: each is a lane-block instruction of two operands. -/
theorem integerResults : Obligations.IntegerResults := by
  unfold Obligations.IntegerResults
  intro t slot w s e he
  refine exec_lane2_gives ?_
  revert e
  simp only [List.forall_mem_cons, List.not_mem_nil, false_imp_iff, implies_true, and_true]
  refine ⟨rfl, rfl, rfl, ?imulh, rfl, rfl, rfl, rfl, rfl, rfl, ?imin, ?imax⟩
  case imulh => simp only [← mulHigh_eq]; rfl
  case imin => simp only [← wless_min]; rfl
  case imax => simp only [← wless_max]; rfl

/-! ### IMAD, SEL, SHFL, BITOP and IADD64 -/

/-- The population count counts the set bits. -/
theorem popcount_eq (n v : Nat) : popcount n v = (setBits n v).length := by
  induction n with
  | zero => rfl
  | succ n ih =>
    rw [popcount, ih, setBits, setBits, List.range_succ, List.filter_append, List.length_append, Nat.add_comm]
    cases h : bit v n <;> simp [b2n, h]

theorem setBits_length_le (n v : Nat) : (setBits n v).length ≤ n := by
  simpa [setBits] using List.length_filter_le (bit v) (List.range n)

/-- BITOP's population count. -/
theorem toNat_bitFn_count (a : Word) : (bitFn 0 a).toNat = (setBits 32 a.toNat).length := by
  have h := setBits_length_le 32 a.toNat
  rw [bitFn, popcount_eq, BitVec.toNat_ofNat, Nat.mod_eq_of_lt (by omega)]

/-- BITOP's count of leading zeros places the highest set bit. -/
theorem bitFn_leadingZeros {a : Word} (h : a ≠ 0) :
    (bitFn 1 a).toNat < 32 ∧ 2 ^ (31 - (bitFn 1 a).toNat) ≤ a.toNat ∧ a.toNat < 2 ^ (32 - (bitFn 1 a).toNat) := by
  have hne : a.toNat ≠ 0 := fun h0 => h (BitVec.eq_of_toNat_eq h0)
  have hlog : a.toNat.log2 < 32 := (Nat.log2_lt hne).2 a.isLt
  have hval : (bitFn 1 a).toNat = 31 - a.toNat.log2 := by
    rw [bitFn, if_neg h, BitVec.toNat_ofNat, Nat.mod_eq_of_lt (by omega)]
  rw [hval, show 31 - (31 - a.toNat.log2) = a.toNat.log2 by omega, show 32 - (31 - a.toNat.log2) = a.toNat.log2 + 1 by omega]
  exact ⟨by omega, Nat.log2_self_le hne, Nat.lt_log2_self⟩

/-- BITOP's bit reversal. -/
theorem bit_bitFn_reverse (a : Word) (i : Nat) (h : i < 32) : bit (bitFn 2 a).toNat i = bit a.toNat (31 - i) := by
  rw [show bitFn 2 a = a.reverse from rfl, bit_toNat, bit_toNat, BitVec.getLsbD_reverse, BitVec.getMsbD, decide_eq_true h, Bool.true_and]

/-- Word i of a value of several words. -/
theorem extractLsb'_word {n : Nat} (x : BitVec n) (i : Nat) : x.extractLsb' (32 * i) 32 = BitVec.ofNat 32 (x.toNat / 2 ^ (32 * i)) := by
  rw [← Nat.shiftRight_eq_div_pow]
  rfl

/-- Settles O2: the five are lane-block instructions; BITOP's functions are the three of Table 4.3. -/
theorem integerSpecialResults : Obligations.IntegerSpecialResults := by
  unfold Obligations.IntegerSpecialResults
  intro t slot w s g
  refine ⟨?imad, ?sel, ?shfl, ?bitop, ?iadd64⟩
  case imad => exact fun hi => exec_gives rfl hi (givesRegs_reg _ _) (wWD_le w) (fun _ => ⟨rfl, rfl⟩)
  case sel => exact fun hi => exec_gives rfl hi (givesRegs_reg _ _) (wWD_le w) (fun _ => ⟨rfl, rfl⟩)
  case shfl => exact fun hi => exec_gives rfl hi (givesRegs_reg _ _) (wWD_le w) (fun _ => ⟨rfl, rfl⟩)
  case bitop =>
    intro hi
    obtain ⟨g', hexec, hnext, hgive⟩ := exec_gives (c := .bitop t slot w) rfl hi (givesRegs_reg _ _) (wWD_le w) (fun _ => ⟨rfl, rfl⟩)
    refine ⟨g', _, hexec, hnext, hgive, fun th => ⟨fun hm => ?_, fun hm => ⟨fun h0 => ?_, fun h0 => ?_⟩, fun hm i hlt => ?_⟩⟩
    · rw [hm, toNat_bitFn_count]
    · rw [hm, bitFn, if_pos h0]
      rfl
    · rw [hm]
      exact bitFn_leadingZeros h0
    · rw [hm, bit_bitFn_reverse _ _ hlt]
  case iadd64 =>
    intro hi
    simp only [extractLsb'_word]
    exact exec_gives rfl hi (givesRegs_pairF (wWD w) (fun th => (_, 0))) (hi.dst_le (List.mem_singleton.2 rfl)) (fun _ => ⟨rfl, rfl⟩)

/-! ### Compares (R96) -/

/-- ISETP's conditions (Table 4.3). -/
theorem icmp_eq (cond : Nat) (u : Bool) (a b : Word) : icmp cond u a b =
    (let x : Int := if u = true then a.toNat else a.toInt
     let y : Int := if u = true then b.toNat else b.toInt
     match cond with
     | 0 => decide (x = y)
     | 1 => decide (x ≠ y)
     | 2 => decide (x < y)
     | 3 => decide (x ≤ y)
     | 4 => decide (y < x)
     | _ => decide (y ≤ x)) := by
  have hlt : ∀ c d : Word, wless u c d =
      decide ((if u = true then (c.toNat : Int) else c.toInt) < if u = true then (d.toNat : Int) else d.toInt) := by
    intro c d
    cases u <;> simp [wless, BitVec.ult, BitVec.slt]
  have heq : (a == b) = decide ((if u = true then (a.toNat : Int) else a.toInt) = if u = true then (b.toNat : Int) else b.toInt) := by
    rw [Bool.beq_eq_decide_eq]
    cases u <;> simp [BitVec.toInt_inj, BitVec.toNat_inj]
  simp only [icmp, hlt, heq, bne]
  split <;> grind

/-- The predicate of a thread in a list of threads that each had predicate p written. -/
theorem pget_foldl_applyLane {f : Nat → LaneOut} {p : Nat} {v : Nat → Bool} (hf : ∀ th, (f th).pred = some (p, v th)) (l : List Nat) (g : Group)
    (q th : Nat) (h : th < 32) :
    pget (l.foldl (fun y i => applyLane y i (f i)) g) q th = if th ∈ l ∧ q = p ∧ q ≠ 0 then v th else pget g q th :=
  foldl_writes (fun y => pget y q th) _ th (q = p ∧ q ≠ 0) v
    (fun y i => by rw [pget_applyLane, hf]; exact pget_pset y p i (v i) q th h) l g

/-- A compare e gives its predicate, and its exceptions. -/
theorem exec_compare_gives {t slot : Nat} {w : DWord} {s : State} {e : Instr × Row × (Nat → Bool × FFlags)} {f : Group → Nat → LaneOut}
    (hc : exec e.1 s = issue e.2.1 t slot w s (laneBody t slot w f))
    (hf : ∀ th, f (grp s t slot) th = .predF (wWD w % 8) (e.2.2 th)) (hi : CanIssue e.2.1 t slot w s) :
    ∃ g', exec e.1 s = .next (afterGroup s t slot g') ∧
      { g' with pc := (grp s t slot).pc, preds := (grp s t slot).preds, fp := (grp s t slot).fp } = grp s t slot ∧
      g'.pc = (grp s t slot).pc + 8 ∧ g'.fp = (acting (grp s t slot) w).foldl (fun x th => x ||| (e.2.2 th).2) (grp s t slot).fp ∧
      (∀ th < 32, pget g' 0 th = true) ∧
      ∀ th < 32, ∀ p < 8, pget g' p th =
        if th ∈ acting (grp s t slot) w ∧ p = wWD w % 8 ∧ p ≠ 0 then (e.2.2 th).1 else pget (grp s t slot) p th := by
  obtain ⟨-, hreg⟩ := hi.undamaged
  have hregs : (lanes (grp s t slot) w f).regs = (grp s t slot).regs :=
    foldl_keeps Group.regs _ _ _ (fun y th => regs_applyLane_of_nil y th (by rw [hf]; rfl))
  have hframe := laneFrame_lanes hreg w f
  rw [LaneFrame, ← hregs] at hframe
  have hfp := fp_lanes (grp s t slot) w f
  simp only [hf] at hfp
  have hpget (th : Nat) (hth : th < 32) (p : Nat) : pget (lanes (grp s t slot) w f) p th =
      if th ∈ acting (grp s t slot) w ∧ p = wWD w % 8 ∧ p ≠ 0 then (e.2.2 th).1 else pget (grp s t slot) p th :=
    pget_foldl_applyLane (v := fun i => (e.2.2 i).1) (fun i => by rw [hf]; rfl) _ _ p th hth
  exact ⟨_, hc.trans (issue_laneBody hi f), congrArg (fun y : Group => { y with pc := (grp s t slot).pc }) hframe, rfl, hfp,
    fun th _ => rfl, fun th hth p _ => hpget th hth p⟩

/-- Settles O3: each gives its acting threads a predicate by its comparison. -/
theorem compareResults : Obligations.CompareResults := by
  unfold Obligations.CompareResults
  intro t slot w s g e he
  suffices h : ∃ f, exec e.1 s = issue e.2.1 t slot w s (laneBody t slot w f) ∧ ∀ th, f g th = .predF (wWD w % 8) (e.2.2 th) by
    obtain ⟨f, hc, hf⟩ := h
    exact exec_compare_gives hc hf
  revert e
  simp only [List.forall_mem_cons, List.not_mem_nil, false_imp_iff, implies_true, and_true]
  refine ⟨⟨_, rfl, fun th => ?_⟩, ⟨_, rfl, fun th => rfl⟩, ⟨_, rfl, fun th => rfl⟩⟩
  exact congrArg (fun b => LaneOut.predF (wWD w % 8) (b, 0)) (icmp_eq _ _ _ _)

/-! ### Floating instructions (R101 to R104) -/

/-- What an instruction gives each thread: a binary32-sized result in a register, or a binary64-sized one in a pair. -/
def floatLane (w : DWord) (n : Nat) (v : Nat × FFlags) : LaneOut := if n = 2 then .pairF (wWD w) v else .regF (wWD w) v

/-- A floating instruction e gives its result, and its exceptions. -/
theorem exec_float_gives {t slot : Nat} {w : DWord} {s : State} {e : Instr × Row × Nat × (Nat → Nat × FFlags)} {f : Group → Nat → LaneOut}
    (hc : exec e.1 s = issue e.2.1 t slot w s (laneBody t slot w f)) (hf : ∀ th, f (grp s t slot) th = floatLane w e.2.2.1 (e.2.2.2 th))
    (hn : e.2.2.1 = 1 ∨ e.2.2.1 = 2) (hd : e.2.1.dsts w = [sp (wWD w) e.2.2.1]) (hi : CanIssue e.2.1 t slot w s) :
    ∃ g', exec e.1 s = .next (afterGroup s t slot g') ∧ NextInstrFp (grp s t slot) g' w (fun th => (e.2.2.2 th).2) ∧
      LanesGive (grp s t slot) g' w (wWD w) e.2.2.1 (fun th i => BitVec.ofNat 32 ((e.2.2.2 th).1 / 2 ^ (32 * i))) := by
  obtain ⟨c, row, n, v⟩ := e
  have hle : wWD w + n ≤ 128 := hi.dst_le (hd ▸ List.mem_singleton.2 rfl)
  have hg : f (grp s t slot) = fun th => floatLane w n (v th) := funext hf
  rcases hn with rfl | rfl
  · exact exec_gives_fp hc hi (hg ▸ givesRegs_regF (wWD w) v) hle (fun th => hg ▸ ⟨rfl, rfl⟩)
  · exact exec_gives_fp hc hi (hg ▸ givesRegs_pairF (wWD w) v) hle (fun th => hg ▸ ⟨rfl, rfl⟩)

theorem cvtRegs_eq (ty : Nat) : cvtRegs ty = 1 ∨ cvtRegs ty = 2 := by
  unfold cvtRegs
  split
  · exact Or.inr rfl
  · exact Or.inl rfl

/-- Settles O4: each gives its acting threads the result in a register or a pair, and its exceptions. -/
theorem floatResults : Obligations.FloatResults := by
  unfold Obligations.FloatResults
  intro t slot w s g a b pa pb r e he
  suffices h : ∃ f, exec e.1 s = issue e.2.1 t slot w s (laneBody t slot w f) ∧ (∀ th, f g th = floatLane w e.2.2.1 (e.2.2.2 th)) ∧
      (e.2.2.1 = 1 ∨ e.2.2.1 = 2) ∧ e.2.1.dsts w = [sp (wWD w) e.2.2.1] by
    obtain ⟨f, hc, hf, hn, hd⟩ := h
    exact exec_float_gives hc hf hn hd
  revert e
  simp only [List.forall_mem_cons, List.not_mem_nil, false_imp_iff, implies_true, and_true]
  refine ⟨⟨_, rfl, fun th => rfl, Or.inl trivial, rfl⟩, ⟨_, rfl, fun th => rfl, Or.inl trivial, rfl⟩, ⟨_, rfl, fun th => rfl, Or.inl trivial, rfl⟩,
    ⟨_, rfl, fun th => rfl, Or.inl trivial, rfl⟩, ⟨_, rfl, fun th => rfl, Or.inl trivial, rfl⟩, ⟨_, rfl, fun th => rfl, Or.inl trivial, rfl⟩,
    ⟨_, rfl, fun th => rfl, Or.inr trivial, rfl⟩, ⟨_, rfl, fun th => rfl, Or.inr trivial, rfl⟩, ⟨_, rfl, fun th => rfl, Or.inr trivial, rfl⟩,
    ⟨_, rfl, fun th => rfl, Or.inr trivial, rfl⟩, ⟨_, rfl, fun th => rfl, cvtRegs_eq _, rfl⟩⟩

end Sys2Proof.Machine
end

section

/-! ## NaN results (R101, R391) -/

namespace Sys2Proof.Machine

theorem FVal.eq_nan {x : FVal} (h : x.isNan = true) : ∃ b, x = .nan b := by
  cases x with
  | nan b => exact ⟨b, rfl⟩
  | inf n => cases h
  | fin n m e => cases h

/-- A sum with a NaN operand is the quiet NaN, invalid for a signalling one. -/
theorem addV_of_nan (f : FFmt) (mode : Nat) {x y : FVal} (h : x.isNan = true ∨ y.isNan = true) :
    f.addV mode x y = (f.qnan, fIf (x.isSig || y.isSig) fInvalid) := by
  rcases h with h | h <;> obtain ⟨b, rfl⟩ := FVal.eq_nan h
  · rw [FFmt.addV]
  · cases x <;> rw [FFmt.addV] <;> simp

/-- A product with a NaN operand is a NaN. -/
theorem mulV_of_nan {x y : FVal} (h : x.isNan = true ∨ y.isNan = true) : ∃ b, mulV x y = some (.nan b) := by
  rcases h with h | h <;> obtain ⟨b, rfl⟩ := FVal.eq_nan h
  · cases y <;> exact ⟨_, rfl⟩
  · cases x <;> exact ⟨_, rfl⟩

theorem fma_of_product_nan {f : FFmt} {mode x y z : Nat} (h : (f.dec x).isNan = true ∨ (f.dec y).isNan = true) :
    (f.fma mode x y z).1 = f.qnan := by
  obtain ⟨b, hb⟩ := mulV_of_nan h
  simp only [FFmt.fma, hb, addV_of_nan f mode (x := .nan b) (Or.inl rfl)]

/-- A NaN addend, whatever the product: an infinity times a zero gives the quiet NaN too. -/
theorem fma_of_addend_nan {f : FFmt} {mode x y z : Nat} (h : (f.dec z).isNan = true) : (f.fma mode x y z).1 = f.qnan := by
  unfold FFmt.fma
  split
  · rfl
  · rw [addV_of_nan f mode (Or.inr h)]

theorem fIf_invalid_iff (b : Bool) : fIf b fInvalid = fInvalid ↔ b = true := by
  cases b <;> decide

/-- Settles O5: every operation asks for a NaN operand first. -/
theorem nanResults : Obligations.NanResults := by
  unfold Obligations.NanResults
  intro f _ r x y z
  refine ⟨fun h => ⟨?add, ?mul, fma_of_product_nan h, ?invalid⟩, fma_of_addend_nan, rfl, rfl⟩
  case add => rw [FFmt.add, addV_of_nan f r h]
  case mul =>
    obtain ⟨b, hb⟩ := mulV_of_nan h
    simp only [FFmt.mul, hb]
  case invalid => rw [FFmt.add, addV_of_nan f r h, fIf_invalid_iff, Bool.or_eq_true]

end Sys2Proof.Machine
end

section

/-! ## Control instructions (R94, R109, R117, Table 4.7) -/

namespace Sys2Proof.Machine

/-! ### A word that the instruction buffer does not hold (R94, R117) -/

/-- The command that a word decodes to issues the word as the instruction of its row. -/
theorem exec_of_tileDecode {t slot : Nat} {w : DWord} {c : Instr} (h : tileDecode t slot w = some c) :
    ∃ row body, tileKey w = some row.key ∧ ∀ s, exec c s = issue row t slot w s body := by
  unfold tileDecode at h
  split at h
  case h_1 k hk =>
    unfold tileCommand at h
    split at h
    case h_63 => cases h
    all_goals
      obtain rfl := Option.some.inj h
      exact ⟨_, _, hk, fun _ => rfl⟩
  case h_2 => cases h

section

variable {t slot : Nat} {s : State}

/-- The group's next instruction lies in its code and in no word of the instruction buffer, which has room; tile memory is
undamaged. -/
def MustFetch (t slot : Nat) (s : State) : Prop :=
  (grp s t slot).pc.toNat + 8 ≤ (grp s t slot).codeLen ∧ (tileOf s t).memErr = [] ∧
  ibufWord (tileOf s t) (nextAt s t slot / 64) = none ∧ (tileOf s t).ibuf.length < 256

/-- The state when the word has come into the buffer. -/
def fetched (t slot : Nat) (s : State) : State := fillIbuf s t (nextAt s t slot / 64) 0

/-- A buffer with room takes the word as its newest. -/
theorem fetched_eq (h : MustFetch t slot s) : ∃ l, fetched t slot s = updTile s t (fun x => { x with ibuf :=
    ⟨nextAt s t slot / 64, Mem.read x.mem (64 * (nextAt s t slot / 64)) 64, 0⟩ :: l }) := by
  obtain ⟨-, -, -, hroom⟩ := h
  exact ⟨_, if_pos (Nat.lt_of_le_of_lt (List.length_filter_le _ _) hroom)⟩

theorem grp_fetched (h : MustFetch t slot s) : grp (fetched t slot s) t slot = grp s t slot := by
  obtain ⟨l, hl⟩ := fetched_eq h
  rw [hl, grp, tileOf_updTile_self]
  rfl

theorem issuable_fetched (h : MustFetch t slot s) : issuable (fetched t slot s) t slot = issuable s t slot := by
  have hgrp := grp_fetched h
  obtain ⟨l, hl⟩ := fetched_eq h
  rw [issuable, hgrp, hl]
  rfl

/-- The fetch brings the word, without error. -/
theorem fetchCheck_mustFetch (h : MustFetch t slot s) : fetchCheck s t slot = (fetched t slot s, none) := by
  obtain ⟨hpc, hmem, hnone, -⟩ := h
  rw [fetched]
  rw [nextAt] at hnone ⊢
  have hbuf : ibufHas (tileOf s t) ((grp s t slot).codeAt + (grp s t slot).pc.toNat) = false := by
    rw [ibufHas, hnone, Option.any_none]
  simp only [fetchCheck, if_neg (Nat.not_lt.2 hpc), hbuf, Bool.false_eq_true, if_false, hnone, Option.isSome_none,
    tmWord_of_memErr_nil s t 5 _ hmem, List.map_nil, List.contains_nil]
  rfl

/-- What came is found there. -/
theorem fetchCheck_fetched (h : MustFetch t slot s) : fetchCheck (fetched t slot s) t slot = (fetched t slot s, none) := by
  have hgrp := grp_fetched h
  have hhas : ibufHas (tileOf (fetched t slot s) t) (nextAt s t slot) = true := by
    obtain ⟨l, hl⟩ := fetched_eq h
    rw [hl, tileOf_updTile_self, ibufHas, ibufWord, List.find?_cons_of_pos (by simp)]
    simp [bit]
  rw [nextAt] at hhas
  rw [fetchCheck, hgrp]
  simp only [if_neg (Nat.not_lt.2 h.1), hhas, if_true]

/-- An instruction runs as it does when its word has come into the buffer. -/
theorem issue_fetched (row : Row) (w : DWord) (body : State → Res) (hready : (grp s t slot).st = .ready) (h : MustFetch t slot s)
    (hissue : issuable s t slot = true) : issue row t slot w s body = issue row t slot w (fetched t slot s) body := by
  have hready' : (grp (fetched t slot s) t slot).st = .ready := by rw [grp_fetched h, hready]
  simp only [issue, issuable_fetched h, hissue, unhold, hready, hready', if_true, fetchCheck_mustFetch h, fetchCheck_fetched h]

end

/-! ### Where a group goes (R109) -/

theorem testBit_foldl_or_two_pow (l : List Nat) (v i : Nat) : (l.foldl (fun v i => v ||| 2 ^ i) v).testBit i = (v.testBit i || decide (i ∈ l)) := by
  induction l generalizing v with
  | nil => simp
  | cons j l ih =>
    rw [List.foldl_cons, ih, Nat.testBit_or, Nat.testBit_two_pow, Bool.or_assoc]
    congr 1
    simp [eq_comm]

/-- The condition mask holds the acting threads (R109). -/
theorem getLsbD_condMask (g : Group) (w : DWord) {i : Nat} (h : i < 32) : (condMask g w).getLsbD i = decide (i ∈ acting g w) := by
  rw [condMask, BitVec.getLsbD_ofNat, decide_eq_true h, Bool.true_and, ofBits, testBit_foldl_or_two_pow, Nat.zero_testBit, Bool.false_or]

theorem mem_acting {g : Group} {w : DWord} {i : Nat} : i ∈ acting g w ↔ i < 32 ∧ g.active.getLsbD i = true ∧ guard g w i = true := by
  rw [acting, List.mem_filter, mem_setBits, bit_toNat, and_assoc]

theorem condMask_eq_zero {g : Group} {w : DWord} : condMask g w = 0 ↔ acting g w = [] := by
  refine ⟨fun h => List.eq_nil_iff_forall_not_mem.2 fun i hi => ?_, fun h => by rw [condMask, h]; rfl⟩
  have hbit := getLsbD_condMask g w (mem_acting.1 hi).1
  rw [h, decide_eq_true hi] at hbit
  simp at hbit

theorem condMask_eq_active {g : Group} {w : DWord} (h : acting g w = setBits 32 g.active.toNat) : condMask g w = g.active := by
  refine BitVec.eq_of_getLsbD_eq fun i hi => ?_
  rw [getLsbD_condMask g w hi, Bool.eq_iff_iff, decide_eq_true_iff, h, mem_setBits, bit_toNat]
  exact and_iff_right hi

section

variable {t slot : Nat} {s : State} {w : DWord}

/-- A branch to a place in the loaded code. -/
theorem finish_branch (s' : State) (y : Group) (h0 : 0 ≤ (y.pc.toNat + 8 * wTGT w : Int)) (h1 : (y.pc.toNat + 8 * wTGT w : Int) < y.codeLen) :
    finish s' t slot (branch s t slot w y) = afterGroup s t slot { y with pc := BitVec.ofInt 32 (y.pc.toNat + 8 * wTGT w) } := by
  rw [branch, if_pos ⟨h0, h1⟩, finish, afterGroup, ← BitVec.ofInt_natCast, Int.toNat_of_nonneg h0]

/-- A branch taken only when no thread is left active. -/
theorem finish_branchIfEmpty (s' : State) (y : Group)
    (h : y.active = 0 → 0 ≤ (y.pc.toNat + 8 * wTGT w : Int) ∧ (y.pc.toNat + 8 * wTGT w : Int) < y.codeLen) :
    finish s' t slot (branchIfEmpty s t slot w y) = afterGroup s t slot
      { y with pc := if y.active = 0 then BitVec.ofInt 32 (y.pc.toNat + 8 * wTGT w) else y.pc + 8 } := by
  rw [branchIfEmpty]
  by_cases h0 : y.active = 0
  · rw [if_pos h0, if_pos h0, finish_branch s' y (h h0).1 (h h0).2]
  · rw [if_neg h0, if_neg h0, finish_done_setGroup]

/-- The condition is true in every active thread, and one is active. -/
theorem uniform_taken {k : Group → Res} (h : acting (grp s t slot) w = setBits 32 (grp s t slot).active.toNat)
    (hne : acting (grp s t slot) w ≠ []) : uniform s t slot w k = k (grp s t slot) := by
  rw [uniform, if_neg (mt condMask_eq_zero.1 hne), if_pos (condMask_eq_active h)]

theorem uniform_not_taken {k : Group → Res} (h : acting (grp s t slot) w = []) : uniform s t slot w k = .done s :=
  if_pos (condMask_eq_zero.2 h)

/-- A completed instruction without effect. -/
theorem finish_done_same (s : State) (t slot : Nat) :
    finish s t slot (.done s) = afterGroup s t slot { grp s t slot with pc := (grp s t slot).pc + 8 } := rfl

end

/-- Settles O7: a fetch changes nothing that an instruction reads; a branch whose condition is uniform goes where it says. -/
theorem branching : Obligations.Branching := by
  unfold Obligations.Branching
  intro t slot w s g a
  refine ⟨?fetch, ?taken, ?notTaken, ?call, ?ret, ?nop⟩
  case fetch =>
    intro c hc hissue hready hpc hmem hnone hroom _
    obtain ⟨row, body, -, hexec⟩ := exec_of_tileDecode hc
    rw [hexec, hexec]
    exact issue_fetched row w body hready ⟨hpc, hmem, hnone, hroom⟩ hissue
  case taken =>
    intro hi hall hne h0 h1
    rw [exec, execBra, issue_of_canIssue _ _ _ _ _ _ hi, uniform_taken hall hne, finish_branch s g h0 h1]
  case notTaken =>
    intro hi hnone
    rw [exec, execBra, issue_of_canIssue _ _ _ _ _ _ hi, uniform_not_taken hnone, finish_done_same]
  case call =>
    intro hi hall hne hlen h0 h1
    rw [exec, execCall, issue_of_canIssue _ _ _ _ _ _ hi, uniform_taken hall hne, if_neg (Nat.not_le.2 hlen)]
    exact congrArg Host.Outcome.next (finish_branch s { g with rets := ⟨g.pc + 8, g.masks.length⟩ :: g.rets } h0 h1)
  case ret =>
    intro r rest hi hrets hdepth
    rw [exec, execRet, issue_of_canIssue _ _ _ _ _ _ hi]
    simp only [show (grp s t slot).rets = r :: rest from hrets, show r.depth = (grp s t slot).masks.length from hdepth, if_true]
    rfl
  case nop =>
    intro hi
    rw [exec, execNop, issue_of_canIssue _ _ _ _ _ _ hi, finish_done_same]

/-! ### The mask stack (R109) -/

/-- The innermost LOOP entry, below IF entries alone. -/
theorem splitLoop_append {above : List MaskEntry} (ha : ∀ e ∈ above, e.kind = .ifK) {l : MaskEntry} (hl : l.kind = .loopK) (rest : List MaskEntry) :
    splitLoop (above ++ l :: rest) = (above, l :: rest) := by
  have hif : ∀ e ∈ above, (e.kind == MaskKind.ifK) = true := fun e he => by rw [ha e he]; rfl
  have hloop : (l.kind == MaskKind.ifK) = false := by rw [hl]; rfl
  rw [splitLoop, List.takeWhile_append_of_pos hif, List.dropWhile_append_of_pos hif, List.takeWhile_cons_of_neg (by simp [hloop]),
    List.dropWhile_cons_of_neg (by simp [hloop]), List.append_nil]

section

variable {t slot : Nat} {s : State} {w : DWord}

/-- Settles O8: each instruction pushes, pops or rewrites entries of the mask stack and goes on, or branches where no thread is
left active. -/
theorem maskStack : Obligations.MaskStack := by
  unfold Obligations.MaskStack
  intro t slot w s g m a go
  refine ⟨fun i hi => ?mask, ?ifC, ?elseC, ?endif, ?loopC, ?brk, ?endloop, ?endloopOut⟩
  case mask => rw [getLsbD_condMask g w hi, decide_eq_true_iff]
  case ifC =>
    intro hi hlen hm
    rw [exec, execIf, issue_of_canIssue _ _ _ _ _ _ hi, pushMask, if_neg (Nat.not_le.2 hlen)]
    exact congrArg Host.Outcome.next
      (finish_branchIfEmpty s { g with active := m, masks := ⟨.ifK, g.active, g.active &&& ~~~ m⟩ :: g.masks } hm)
  case elseC =>
    intro r e rest hi hmasks hm
    rw [exec, execElse, issue_of_canIssue _ _ _ _ _ _ hi]
    simp only [show (grp s t slot).masks = _ from hmasks]
    rw [← hmasks]
    exact congrArg Host.Outcome.next (finish_branchIfEmpty s { g with active := e } hm)
  case endif =>
    intro r e rest hi hmasks
    rw [exec, execEndif, issue_of_canIssue _ _ _ _ _ _ hi]
    simp only [show (grp s t slot).masks = _ from hmasks, finish_done_setGroup]
    rfl
  case loopC =>
    intro hi hlen
    rw [exec, execLoop, issue_of_canIssue _ _ _ _ _ _ hi, pushMask, if_neg (Nat.not_le.2 hlen), finish_done_setGroup]
  case brk =>
    intro above l rest hi hmasks habove hl hm
    rw [exec, execBrk, issue_of_canIssue _ _ _ _ _ _ hi]
    simp only [show (grp s t slot).masks = _ from hmasks, splitLoop_append habove hl]
    exact congrArg Host.Outcome.next (finish_branchIfEmpty s { g with
      active := g.active &&& ~~~ m
      masks := above.map (fun e => { e with restore := e.restore &&& ~~~ m, els := e.els &&& ~~~ m }) ++ l :: rest } hm)
  case endloop =>
    intro l rest hi hact hmasks hl h0 h1
    rw [exec, execEndloop, issue_of_canIssue _ _ _ _ _ _ hi]
    simp only [show (grp s t slot).masks = [] ++ l :: rest from hmasks, splitLoop_append (List.forall_mem_nil _) hl,
      if_neg (show (grp s t slot).active ≠ 0 from hact), if_true]
    rw [finish_branch s g h0 h1]
  case endloopOut =>
    intro above l rest hi hact hmasks habove hl
    rw [exec, execEndloop, issue_of_canIssue _ _ _ _ _ _ hi]
    simp only [show (grp s t slot).masks = _ from hmasks, splitLoop_append habove hl, if_pos (show (grp s t slot).active = 0 from hact),
      finish_done_setGroup]
    rfl

end

end Sys2Proof.Machine
end

section

/-! ## Tile program faults (R109 to R112, R120, R125, R129, Table 4.13) -/

namespace Sys2Proof.Machine

/-! ### What a fault leaves -/

/-- The state in which the group has stopped and its fault is captured, before its LAUNCH ends (R129). -/
def faultTaken (s : State) (t slot cause th : Nat) : State :=
  captureGroupFault (stopGroup s t slot .faulted) t slot cause th (grp s t slot).pc.toNat

/-- The fault then ends the LAUNCH of the group, if it belongs to one. -/
theorem tileFault_eq (s : State) (t slot cause th : Nat) : tileFault s t slot cause th = match (grp s t slot).launch with
    | some l => launchFault (faultTaken s t slot cause th) t l cause
    | none => faultTaken s t slot cause th := rfl

theorem oGRPFAULT_ne_oARRSTAT (t n : Nat) : oGRPFAULT t ≠ oARRSTAT t n := by
  simp only [oGRPFAULT, oARRSTAT]
  omega

/-- An empty capture register takes the fault. -/
theorem faultTaken_eq {s : State} {t : Nat} (slot cause th : Nat) (hv : regB s (oGRPFAULT t) 63 = false) :
    faultTaken s t slot cause th = setReg (stopGroup s t slot .faulted) (oGRPFAULT t)
      (BitVec.ofNat 64 (2 ^ 63 + cause * 2 ^ 40 + slot * 2 ^ 37 + th * 2 ^ 32 + (grp s t slot).pc.toNat)) := by
  have hv' : regB (stopGroup s t slot .faulted) (oGRPFAULT t) 63 = false := by
    rw [regB, reg_stopGroup _ _ _ _ (fun n => oGRPFAULT_ne_oARRSTAT t n), ← regB, hv]
  rw [faultTaken, captureGroupFault]
  exact if_neg (by rw [hv']; decide)

/-- The capture reads back as valid, with the slot of the group in bits 39 to 37. -/
theorem fld_groupFault_slot (cause slot th ia : Nat) (hc : cause < 256) (hs : slot < 8) (ht : th < 32) (hi : ia < 2 ^ 32) :
    bit (BitVec.ofNat 64 (2 ^ 63 + cause * 2 ^ 40 + slot * 2 ^ 37 + th * 2 ^ 32 + ia)).toNat 63 = true ∧
    fld (BitVec.ofNat 64 (2 ^ 63 + cause * 2 ^ 40 + slot * 2 ^ 37 + th * 2 ^ 32 + ia)) 39 37 = slot := by
  simp only [fld, bits, bit, BitVec.toNat_ofNat, Nat.shiftRight_eq_div_pow, beq_iff_eq]
  omega

/-- A register is no field but the registers. -/
theorem setReg_frame (x : State) (o : Nat) (v : DWord) (T : SMap Tile) (r : SMap DWord) :
    { setReg x o v with tiles := T, bar0 := r } = { x with tiles := T, bar0 := r } := rfl

/-- A group stopped and its tile's capture register set: no other group, memory or register is touched. -/
theorem setReg_stopGroup_gives (s : State) (t slot : Nat) (v : DWord) :
    grp (setReg (stopGroup s t slot .faulted) (oGRPFAULT t) v) t slot = { grp s t slot with st := .faulted, wait := .none } ∧
    (∀ h ≠ slot, grp (setReg (stopGroup s t slot .faulted) (oGRPFAULT t) v) t h = grp s t h) ∧
    (∀ u ≠ t, tileOf (setReg (stopGroup s t slot .faulted) (oGRPFAULT t) v) u = tileOf s u) ∧
    (tileOf (setReg (stopGroup s t slot .faulted) (oGRPFAULT t) v) t).mem = (tileOf s t).mem ∧
    RegsBut s (setReg (stopGroup s t slot .faulted) (oGRPFAULT t) v) (oGRPFAULT t :: (List.range 4).map (oARRSTAT t)) ∧
    { setReg (stopGroup s t slot .faulted) (oGRPFAULT t) v with tiles := s.tiles, bar0 := s.bar0 } = s := by
  refine ⟨?_, fun h hne => ?_, fun u hu => ?_, ?_, fun o ho => ?_, (setReg_frame _ _ _ _ _).trans (stopGroup_frame s t slot .faulted)⟩
  · rw [grp_setReg, grp_stopGroup_self]
  · rw [grp_setReg, grp_stopGroup_slot _ _ _ hne]
  · rw [tileOf_setReg, tileOf_stopGroup_ne _ _ _ hu]
  · rw [tileOf_setReg, mem_stopGroup]
  · rw [List.mem_cons, not_or] at ho
    rw [reg_setReg_ne _ _ ho.1, regsBut_stopGroup s t slot _ o ho.2]

/-- The group stopped and its fault captured. -/
theorem faultTaken_gives {s : State} {t slot cause th : Nat} (hv : regB s (oGRPFAULT t) 63 = false) (hc : cause < 256) (hs : slot < 8)
    (ht : th < 32) :
    let s1 := faultTaken s t slot cause th
    (grp s1 t slot).st = .faulted ∧ (grp s1 t slot).wait = .none ∧ (grp s1 t slot).regs = (grp s t slot).regs ∧
    regB s1 (oGRPFAULT t) 63 = true ∧ regF s1 (oGRPFAULT t) 47 40 = cause ∧ regF s1 (oGRPFAULT t) 39 37 = slot ∧
    regF s1 (oGRPFAULT t) 31 0 = (grp s t slot).pc.toNat ∧ (∀ h ≠ slot, grp s1 t h = grp s t h) ∧
    (∀ u ≠ t, tileOf s1 u = tileOf s u) ∧ (tileOf s1 t).mem = (tileOf s t).mem ∧
    RegsBut s s1 (oGRPFAULT t :: (List.range 4).map (oARRSTAT t)) ∧ { s1 with tiles := s.tiles, bar0 := s.bar0 } = s := by
  dsimp only
  obtain ⟨hcause, hplace⟩ := fld_groupFault cause slot th _ hc hs ht (grp s t slot).pc.isLt
  obtain ⟨hvalid, hslot⟩ := fld_groupFault_slot cause slot th _ hc hs ht (grp s t slot).pc.isLt
  rw [faultTaken_eq slot cause th hv]
  generalize BitVec.ofNat 64 (2 ^ 63 + cause * 2 ^ 40 + slot * 2 ^ 37 + th * 2 ^ 32 + (grp s t slot).pc.toNat) = v at *
  obtain ⟨hgrp, hothers⟩ := setReg_stopGroup_gives s t slot v
  simp only [hgrp, regB, regF, reg_setReg_self]
  exact ⟨trivial, trivial, trivial, hvalid, hcause, hslot, hplace, hothers⟩

/-! ### Which instructions fault -/

section

variable {t slot : Nat} {w : DWord} {s : State}

/-- The command c ends in a tile program fault. -/
def Traps (c : Instr) (t slot cause : Nat) (s : State) : Prop :=
  ∃ th < 32, exec c s = .next (movePtr (tileFault s t slot cause th) t slot)

theorem CanIssue.slot_lt {row : Row} (hi : CanIssue row t slot w s) : slot < 8 := by
  obtain ⟨hissue, -⟩ := hi
  simp only [issuable, Bool.and_eq_true, decide_eq_true_eq] at hissue
  exact hissue.1.1.1.2

/-- A body that ends in a trap. -/
theorem traps_of_body {c : Instr} {row : Row} {body : State → Res} {cause th : Nat} (hi : CanIssue row t slot w s)
    (hc : exec c s = issue row t slot w s body) (hb : body s = .trap s cause th) (ht : th < 32) : Traps c t slot cause s :=
  ⟨th, ht, by rw [hc, issue_of_canIssue _ _ _ _ _ _ hi, hb, finish]⟩

theorem splitLoop_nil : splitLoop [] = ([], []) := rfl

/-- An acting thread whose address is illegal: the first such thread is found (R112). -/
theorem find_illegal {g : Group} (h : ∃ th ∈ acting g w, tmAddrOk g w th = false) :
    ∃ th < 32, (acting g w).find? (fun th => !tmAddrOk g w th) = some th := by
  obtain ⟨i, hi, hbad⟩ := h
  have hsome : ((acting g w).find? (fun th => !tmAddrOk g w th)).isSome = true := List.find?_isSome.2 ⟨i, hi, by simp [hbad]⟩
  obtain ⟨th, hth⟩ := Option.isSome_iff_exists.1 hsome
  exact ⟨th, (mem_acting.1 (List.mem_of_find?_eq_some hth)).1, hth⟩

/-- Some group waits at the barrier, and each named another count. -/
theorem barrierCount_differs {x : Tile} {b c : Nat} (hne : atBarrier x b ≠ [])
    (h : ∀ h < 8, ∀ d, (groupOf x h).wait = .barrier b d → (groupOf x h).st = .atBarrier → d ≠ c) :
    (barrierCount x b).any (fun d => d != c) = true := by
  cases hd : barrierCount x b with
  | none =>
    obtain ⟨k, hk⟩ := List.exists_mem_of_ne_nil _ hne
    obtain ⟨-, ⟨d, hwait⟩, -⟩ := mem_atBarrier.1 hk
    have hnone := List.findSome?_eq_none_iff.1 hd k hk
    rw [hwait] at hnone
    cases hnone
  | some d =>
    obtain ⟨k, hmem, hnamed⟩ := List.exists_of_findSome?_eq_some hd
    obtain ⟨hlt, ⟨e, hwait⟩, hst⟩ := mem_atBarrier.1 hmem
    rw [hwait] at hnamed
    have hdc : d ≠ c := Option.some.inj hnamed ▸ h k hlt e hwait hst
    simpa using hdc

/-- Settles O9: each body ends in a trap; the group stops and its fault is captured, then its LAUNCH ends. -/
theorem instructionFaults : Obligations.InstructionFaults := by
  unfold Obligations.InstructionFaults
  intro t slot w s g a e he
  suffices h : CanIssue e.2.1 t slot w s → e.2.2.2 → e.2.2.1 < 256 ∧ Traps e.1 t slot e.2.2.1 s by
    intro hi hcond hv
    obtain ⟨hlt, th, hth, hexec⟩ := h hi hcond
    refine ⟨faultTaken s t slot e.2.2.1 th, ?_, faultTaken_gives hv hlt hi.slot_lt hth⟩
    exact hexec.trans (congrArg (fun y => Host.Outcome.next (movePtr y t slot)) (tileFault_eq s t slot e.2.2.1 th))
  revert e
  simp only [List.forall_mem_cons, List.not_mem_nil, false_imp_iff, implies_true, and_true]
  refine ⟨?ifC, ?loopC, ?elseC, ?endif, ?brk, ?endloop, ?ret, ?braSplit, ?braFar, ?ldt, ?stt, ?bar, ?mfree⟩ <;>
    refine fun hi h => ⟨by decide, ?_⟩
  case ifC => exact traps_of_body (th := 0) hi rfl (if_pos h) (by decide)
  case loopC => exact traps_of_body (th := 0) hi rfl (if_pos h) (by decide)
  case elseC => exact traps_of_body (th := 0) hi rfl (by simp only [show (grp s t slot).masks = [] from h]) (by decide)
  case endif => exact traps_of_body (th := 0) hi rfl (by simp only [show (grp s t slot).masks = [] from h]) (by decide)
  case brk => exact traps_of_body (th := 0) hi rfl (by simp only [show (grp s t slot).masks = [] from h, splitLoop_nil]) (by decide)
  case endloop => exact traps_of_body (th := 0) hi rfl (by simp only [show (grp s t slot).masks = [] from h, splitLoop_nil]) (by decide)
  case ret => exact traps_of_body (th := 0) hi rfl (by simp only [show (grp s t slot).rets = [] from h]) (by decide)
  case braSplit =>
    obtain ⟨hne, i, hlt, hact, hguard⟩ := h
    have hdiffer : condMask g w ≠ g.active := by
      intro heq
      have hbit := getLsbD_condMask g w hlt
      rw [heq, hact, eq_comm, decide_eq_true_iff] at hbit
      rw [(mem_acting.1 hbit).2.2] at hguard
      cases hguard
    refine traps_of_body (th := 0) hi rfl ?_ (by decide)
    rw [uniform, if_neg (mt condMask_eq_zero.1 hne), if_neg hdiffer]
  case braFar =>
    obtain ⟨hall, hne, hfar⟩ := h
    refine traps_of_body (th := 0) hi rfl ?_ (by decide)
    rw [uniform_taken hall hne, branch, if_neg (fun hh => Int.not_lt.2 hfar hh.2)]
  case ldt =>
    obtain ⟨th, hth, hfind⟩ := find_illegal (g := grp s t slot) h
    exact traps_of_body hi rfl (by simp only [hfind]) hth
  case stt =>
    obtain ⟨th, hth, hfind⟩ := find_illegal (g := grp s t slot) h
    exact traps_of_body hi rfl (by simp only [hfind]) hth
  case bar => exact traps_of_body (th := 0) hi rfl (if_pos (barrierCount_differs h.1 h.2)) (by decide)
  case mfree => exact traps_of_body (th := 0) hi rfl (by simp only [h]) (by decide)

end

end Sys2Proof.Machine
end

section

/-! ## LDT and STT (R111 to R113, R117) -/

namespace Sys2Proof.Machine

/-! ### Bytes written -/

/-- A byte after bytes were written from a place upward. -/
theorem Mem.byte_write (m : List Host.Cell) (a : Nat) (bs : List Byte) (b : Nat) :
    Mem.byte (Mem.write m a bs) b = if a ≤ b ∧ b < a + bs.length then bs.getD (b - a) 0 else Mem.byte m b := by
  split
  · next h =>
    obtain ⟨i, rfl⟩ := Nat.exists_eq_add_of_le h.1
    have hi : i < bs.length := by omega
    rw [Mem.byte_write_in bs m a i hi, Nat.add_sub_cancel_left, List.getD_eq_getElem _ _ hi]
  · next h => exact Mem.byte_write_out bs m a b (by omega)

theorem Mem.lay_cons (a : Nat) (b : Byte) (bs : List Byte) : Mem.lay a (b :: bs) = (a, b) :: Mem.lay (a + 1) bs := by
  simp only [Mem.lay, List.length_cons, List.range_succ_eq_map, List.zip_cons_cons, List.map_cons, Nat.add_zero, List.zip_map_left,
    List.map_map]
  congr 2
  funext p
  exact Prod.ext (by simp; omega) rfl

/-- Cells laid from a place upward are bytes written there. -/
theorem Mem.cells_lay (bs : List Byte) : ∀ (m : List Host.Cell) (a : Nat), Mem.cells m (Mem.lay a bs) = Mem.write m a bs := by
  induction bs with
  | nil => exact fun _ _ => rfl
  | cons b bs ih =>
    intro m a
    rw [Mem.lay_cons, Mem.cells, List.foldl_cons]
    exact ih (Mem.set m a b) (a + 1)

/-- Stores one after the other: a byte holds what the last store that reaches it wrote. -/
theorem Mem.byte_cells_stores (m : List Host.Cell) (n : Nat) (at_ : Nat → Nat) (bs : Nat → List Byte) (l : List Nat)
    (hlen : ∀ i, (bs i).length = n) (b : Nat) :
    Mem.byte (Mem.cells m (l.flatMap (fun i => Mem.lay (at_ i) (bs i)))) b =
      match l.reverse.find? (fun i => decide (at_ i ≤ b ∧ b < at_ i + n)) with
      | some i => (bs i).getD (b - at_ i) 0
      | none => Mem.byte m b := by
  induction l using List.reverseRecOn with
  | nil => rfl
  | append_singleton l i ih =>
    have hlast : Mem.cells m ((l ++ [i]).flatMap (fun i => Mem.lay (at_ i) (bs i))) =
        Mem.write (Mem.cells m (l.flatMap (fun i => Mem.lay (at_ i) (bs i)))) (at_ i) (bs i) := by
      rw [← Mem.cells_lay, List.flatMap_append, List.flatMap_singleton, Mem.cells, List.foldl_append]
      rfl
    rw [hlast, Mem.byte_write, hlen, List.reverse_append, List.reverse_singleton, List.singleton_append, List.find?_cons]
    by_cases h : at_ i ≤ b ∧ b < at_ i + n
    · simp only [h, and_self, if_true, decide_true]
    · simp only [h, if_false, decide_false, ih]

theorem leBytes_length (n v : Nat) : (leBytes n v).length = n := by
  induction n generalizing v with
  | zero => rfl
  | succ n ih => rw [leBytes, List.length_cons, ih]

theorem rbytes_length (g : Group) (th r n : Nat) : (rbytes g th r n).length = 4 * n := by
  rw [rbytes, List.length_flatMap]
  simp [leBytes_length, Nat.mul_comm]

/-- The registers of a size hold its bytes (R111). -/
theorem sizeBytes_le (z : Nat) : 2 ^ z ≤ 4 * sizeRegs z := by
  unfold sizeRegs
  split
  · next h => exact Nat.pow_le_pow_right (by decide) h
  · next h =>
    obtain ⟨k, rfl⟩ := Nat.exists_eq_add_of_le (show 2 ≤ z by omega)
    rw [Nat.add_sub_cancel_left, Nat.pow_add]

/-- Words loaded of a size, and the registers they take (R111). -/
theorem max_sizeBytes (z : Nat) : max 1 (2 ^ z / 4) = sizeRegs z := by
  unfold sizeRegs
  split
  · next h =>
    have := Nat.pow_le_pow_right (show 0 < 2 by decide) h
    omega
  · next h =>
    obtain ⟨k, rfl⟩ := Nat.exists_eq_add_of_le (show 2 ≤ z by omega)
    rw [Nat.add_sub_cancel_left, Nat.pow_add, Nat.mul_div_cancel_left _ (by decide), Nat.max_eq_right Nat.one_le_two_pow]

theorem storeBytes_length (g : Group) (w : DWord) (th : Nat) : (storeBytes g w th).length = sizeBytes w := by
  rw [storeBytes, List.length_take, rbytes_length]
  exact Nat.min_eq_left (sizeBytes_le (wSIZE w))

/-! ### The instructions -/

theorem RegsOnly.loadRegs {g g' : Group} (h : RegsOnly g g') (hn : g.regErr = []) (th r n : Nat) (b : List Byte) :
    RegsOnly g (loadRegs g' th r n b) :=
  h.foldl (fun _ _ hy => hy.rset hn _ _ _) _

section

variable {t slot : Nat} {w : DWord} {s : State}

/-- No acting thread's address is illegal. -/
theorem find_illegal_none {g : Group} (h : ∀ th ∈ acting g w, tmAddrOk g w th = true) :
    (acting g w).find? (fun th => !tmAddrOk g w th) = none :=
  List.find?_eq_none.2 fun th hth => by simp [h th hth]

/-- The group with the bytes that a LDT loads for each acting thread. -/
def ldtGroup (s : State) (t slot : Nat) (w : DWord) : Group :=
  (acting (grp s t slot) w).foldl (fun y th =>
    loadRegs y th (wWD w) (sizeBytes w) (Mem.read (tileOf s t).mem (tmAddr (grp s t slot) w th).toNat (sizeBytes w))) (grp s t slot)

theorem execLdt_runs (hi : CanIssue rowLdt t slot w s) (ha : ∀ th ∈ acting (grp s t slot) w, tmAddrOk (grp s t slot) w th = true) :
    exec (.ldt t slot w) s = .next (afterGroup s t slot { ldtGroup s t slot w with pc := (ldtGroup s t slot w).pc + 8 }) := by
  obtain ⟨hmem, -⟩ := hi.undamaged
  have hgood (g : Group) : (acting g w).find? (fun th => wantsBad [] (tmAddr g w th).toNat (sizeBytes w)) = none :=
    List.find?_eq_none.2 fun _ _ => by simp [wantsBad]
  rw [exec, execLdt, issue_of_canIssue _ _ _ _ _ _ hi]
  simp only [find_illegal_none ha, tmWords_of_memErr_nil s t 0 _ hmem, hgood]
  exact congrArg Host.Outcome.next (finish_done_setGroup s s t slot (ldtGroup s t slot w))

theorem rget_ldtGroup (hr : wWD w + max 1 (sizeBytes w / 4) ≤ 128) (th k : Nat) (hk : k < 128) :
    rget (ldtGroup s t slot w) th k =
      if th ∈ acting (grp s t slot) w ∧ wWD w ≤ k ∧ k < wWD w + max 1 (sizeBytes w / 4) then
        BitVec.ofNat 32 (leNat (((Mem.read (tileOf s t).mem (tmAddr (grp s t slot) w th).toNat (sizeBytes w)).drop (4 * (k - wWD w))).take 4))
      else rget (grp s t slot) th k :=
  foldl_writes (fun y => rget y th k) _ th (wWD w ≤ k ∧ k < wWD w + max 1 (sizeBytes w / 4))
    (fun i => BitVec.ofNat 32 (leNat (((Mem.read (tileOf s t).mem (tmAddr (grp s t slot) w i).toNat (sizeBytes w)).drop (4 * (k - wWD w))).take 4)))
    (fun y i => rget_loadRegs y i (wWD w) (sizeBytes w) _ hr th k hk) _ _

theorem execStt_runs (hi : CanIssue rowStt t slot w s) (ha : ∀ th ∈ acting (grp s t slot) w, tmAddrOk (grp s t slot) w th = true) :
    exec (.stt t slot w) s = .next (finish s t slot (.done
      (updTile s t (fun x => { x with mem := Mem.cells x.mem (tmStoreCells (grp s t slot) w) })))) := by
  obtain ⟨hmem, -⟩ := hi.undamaged
  rw [exec, execStt, issue_of_canIssue _ _ _ _ _ _ hi]
  simp only [find_illegal_none ha, tmWrite_of_memErr_nil s t 6 _ hmem]

/-- A completed instruction changes of its tile the groups and the scheduler's pointer alone. -/
theorem tileOf_finish_done_self (s s' : State) (t slot : Nat) : ∃ gs, tileOf (finish s t slot (.done s')) t =
    { tileOf s' t with groups := gs, ptr := (slot + 1) % 8 } := by
  rw [finish_done, movePtr, tileOf_updTile_self, advancePc, updGroup, tileOf_setGroup_self]
  exact ⟨_, rfl⟩

end

/-- Settles O11: a load reads the bytes of each acting thread into its registers; a store writes the cells of the threads in rising
order. -/
theorem tileMemoryAccess : Obligations.TileMemoryAccess := by
  unfold Obligations.TileMemoryAccess
  intro t slot w s g at_ n
  refine ⟨fun hi ha => ?load, fun hi ha => ?store⟩
  case load =>
    obtain ⟨-, hreg⟩ := hi.undamaged
    have hr : wWD w + max 1 (sizeBytes w / 4) ≤ 128 := by
      rw [sizeBytes, max_sizeBytes]
      exact hi.dst_le (List.mem_singleton.2 rfl)
    have hframe : RegsOnly g (ldtGroup s t slot w) := (RegsOnly.refl g).foldl (fun _ _ hy => hy.loadRegs hreg _ _ _ _) _
    exact ⟨_, execLdt_runs hi ha, hframe.nextInstr, fun th _ k hk => rget_ldtGroup hr th k hk⟩
  case store =>
    obtain ⟨-, hgrp, hmem⟩ := updTile_mem_gives s t (fun m => Mem.cells m (tmStoreCells g w))
    refine ⟨_, execStt_runs hi ha, tilesOnly_finish_done t slot (tilesOnly_updTile s t _), fun u hu => ?_, ?_, fun h hne => ?_, ?_, fun b => ?_⟩
    · rw [tileOf_finish_done_ne _ _ _ hu, tileOf_updTile_ne _ _ hu]
    · rw [grp_finish_done_self, hgrp]
    · rw [grp_finish_done_slot _ _ _ hne, hgrp]
    · obtain ⟨gs, hgs⟩ := tileOf_finish_done_self s (updTile s t (fun x => { x with mem := Mem.cells x.mem (tmStoreCells g w) })) t slot
      rw [hgs, tileOf_updTile_self]
    · rw [mem_finish_done, hmem]
      exact Mem.byte_cells_stores _ n at_ (storeBytes g w) (acting g w) (storeBytes_length g w) b

end Sys2Proof.Machine
end

section

/-! ## Results of group instructions, rings and choices (R100, R119)

What the instructions of classes X and S and the message engines share. -/

namespace Sys2Proof.Machine

/-! ### Registers given to every active thread (R100) -/

/-- Registers r to r + n - 1 of every active thread, written one after the other. -/
def activeRow (g : Group) (r n : Nat) (v : Nat → Word) : Group := (List.range n).foldl (fun y i => rsetActive y (r + i) (v i)) g

theorem rsetActive_field {β : Type} (φ : Group → β) (hφ : ∀ y th r v, φ (rset y th r v) = φ y) (g : Group) (r : Nat) (v : Word) :
    φ (rsetActive g r v) = φ g :=
  foldl_keeps φ _ _ g (fun y th => hφ y th r v)

theorem activeRow_field {β : Type} (φ : Group → β) (hφ : ∀ y th r v, φ (rset y th r v) = φ y) (g : Group) (r n : Nat) (v : Nat → Word) :
    φ (activeRow g r n v) = φ g :=
  foldl_keeps φ _ _ g (fun y i => rsetActive_field φ hφ y (r + i) (v i))

theorem pc_activeRow (g : Group) (r n : Nat) (v : Nat → Word) : (activeRow g r n v).pc = g.pc :=
  activeRow_field Group.pc (fun _ _ _ _ => rfl) g r n v

theorem RegsOnly.rsetActive {g g' : Group} (h : RegsOnly g g') (hn : g.regErr = []) (r : Nat) (v : Word) : RegsOnly g (rsetActive g' r v) :=
  h.foldl (fun _ _ hy => hy.rset hn _ _ _) _

theorem regsOnly_activeRow {g : Group} (hn : g.regErr = []) (r n : Nat) (v : Nat → Word) : RegsOnly g (activeRow g r n v) :=
  (RegsOnly.refl g).foldl (fun _ _ hy => hy.rsetActive hn _ _) _

theorem rget_activeRow (g : Group) (r n : Nat) (v : Nat → Word) (hr : r + n ≤ 128) (th k : Nat) (hth : th < 32) (hk : k < 128) :
    rget (activeRow g r n v) th k = if bit g.active.toNat th = true ∧ r ≤ k ∧ k < r + n then v (k - r) else rget g th k := by
  induction n with
  | zero => rw [if_neg (by omega)]; rfl
  | succ n ih =>
    have hact : (activeRow g r n v).active = g.active := activeRow_field Group.active (fun _ _ _ _ => rfl) g r n v
    have hrow : activeRow g r (n + 1) v = Machine.rsetActive (activeRow g r n v) (r + n) (v n) := by
      rw [activeRow, List.range_succ, List.foldl_append]
      rfl
    rw [hrow, activeGive_rsetActive _ _ _ (by omega) th hth k hk, hact, ih (by omega)]
    by_cases h : bit g.active.toNat th = true ∧ k = r + n
    · obtain ⟨hb, rfl⟩ := h
      simp [hb]
    · rw [if_neg (fun hh => h ⟨hh.1, by omega⟩)]
      refine if_congr (and_congr_right fun hb => ?_) rfl rfl
      have hne : k ≠ r + n := fun e => h ⟨hb, e⟩
      omega

/-- The active threads get the values (R100), whatever else of the group changes but its registers. -/
theorem activeGive_activeRow (g : Group) (r n : Nat) (v : Nat → Word) (hr : r + n ≤ 128) : ActiveGive g (activeRow g r n v) r n (fun _ i => v i) :=
  fun th hth k hk => rget_activeRow g r n v hr th k hth hk

/-- Results depend on the registers and the active mask alone. -/
theorem ActiveGive.of_regs {g g1 y y1 : Group} {r n : Nat} {v : Nat → Nat → Word} (h : ActiveGive g y r n v) (hr : g1.regs = g.regs)
    (ha : g1.active = g.active) (hy : y1.regs = y.regs) : ActiveGive g1 y1 r n v := by
  intro th hth k hk
  have hk' := h th hth k hk
  simp only [rget] at hk' ⊢
  rw [hr, ha, hy, hk']

theorem putActive_eq (s : State) (t slot r v : Nat) :
    putActive s t slot r v = setGroup s t slot (activeRow (grp s t slot) r 1 (fun _ => BitVec.ofNat 32 v)) := rfl

/-! ### Choices -/

/-- Where one of the numbers passes the test, one that passes it is chosen, and a free value is drawn. -/
theorem pick_eq_some (s : State) {n : Nat} {p : Nat → Bool} (h : ∃ i < n, p i = true) :
    ∃ i, pick s n p = some (i, { s with fresh := s.fresh + 1 }) ∧ i < n ∧ p i = true := by
  obtain ⟨i, hlt, hp⟩ := h
  have hmem : i ∈ (List.range n).filter p := List.mem_filter.2 ⟨List.mem_range.2 hlt, hp⟩
  rw [pick]
  cases hl : (List.range n).filter p with
  | nil =>
    rw [hl] at hmem
    cases hmem
  | cons a l =>
    have hidx : (Config.freeWord s.fresh).toNat % (a :: l).length < (a :: l).length := Nat.mod_lt _ (Nat.succ_pos _)
    have hsub : ∀ j ∈ a :: l, j < n ∧ p j = true := fun j hj => by rwa [← hl, List.mem_filter, List.mem_range] at hj
    refine ⟨_, ?_, hsub _ (List.getElem_mem hidx)⟩
    simp only [List.getD_eq_getElem _ _ hidx]

/-! ### The rings of a tile -/

/-- Of two changes of a tile the second one acts on what the first one leaves. -/
theorem updTile_updTile (s : State) (t : Nat) (f f' : Tile → Tile) : updTile (updTile s t f) t f' = updTile s t (fun x => f' (f x)) := by
  simp only [updTile, setTile, tileOf, SMap.get_set_self, SMap.set_set_self]

/-- Of two writes of a ring the later one counts. -/
@[simp] theorem setRing_setRing (x : Tile) (q : Nat) (r r' : Ring) : setRing (setRing x q r) q r' = setRing x q r' := by
  simp only [setRing, SMap.set_set_self]

@[simp] theorem ringOf_setRing_self (x : Tile) (q : Nat) (r : Ring) : ringOf (setRing x q r) q = r := by simp [ringOf, setRing]

theorem ringOf_setRing_ne (x : Tile) {q n : Nat} (r : Ring) (h : n ≠ q) : ringOf (setRing x q r) n = ringOf x n := by
  simp only [ringOf, setRing, SMap.get_set_ne _ _ _ h]

/-- Changes of a tile that touch no group. -/
theorem grp_updTile_self (s : State) (t : Nat) {f : Tile → Tile} (k : Nat) (hf : (f (tileOf s t)).groups = (tileOf s t).groups) :
    grp (updTile s t f) t k = grp s t k := by
  rw [grp, tileOf_updTile_self, groupOf, hf, grp, groupOf]

/-- What of a tile shows neither its groups nor the scheduler's pointer, a completed instruction leaves as its body did. -/
theorem tile_finish_done {β : Type} (φ : Tile → β) (hφ : ∀ x gs p, φ { x with groups := gs, ptr := p } = φ x) (s s' : State) (t slot : Nat) :
    φ (tileOf (finish s t slot (.done s')) t) = φ (tileOf s' t) := by
  obtain ⟨gs, hgs⟩ := tileOf_finish_done_self s s' t slot
  rw [hgs, hφ]

/-- A group is no other part of its tile. -/
theorem tile_setGroup {β : Type} (φ : Tile → β) (hφ : ∀ x gs, φ { x with groups := gs } = φ x) (s : State) (t k : Nat) (y : Group) :
    φ (tileOf (setGroup s t k y) t) = φ (tileOf s t) := by
  rw [tileOf_setGroup_self, setGrp, hφ]

/-- No reservation waits for space: an empty ring starts again at BASE, and nothing else changes. -/
theorem makeGrants_of_held_nil {s : State} {t q : Nat} (h : (ringOf (tileOf s t) q).held = []) :
    makeGrants s t q = updTile s t (fun x => setRing x q (ringOf x q).settle) := by
  have hsettle : (ringOf (tileOf s t) q).settle.held = [] := by
    rw [Ring.settle]
    split <;> exact h
  rw [makeGrants, h, List.length_nil, grantGo]
  simp only [hsettle]
  rfl

/-- The span of several registers that an instruction writes lies in the register file. -/
theorem CanIssue.dsts_le {row : Row} {t slot : Nat} {w : DWord} {s : State} (hi : CanIssue row t slot w s) {r n : Nat}
    (h : spU r n ∈ row.dsts w) : r + n ≤ 128 := by
  obtain ⟨-, -, -, -, -, -, hspans, -⟩ := hi
  have hok := List.all_eq_true.1 hspans _ (List.mem_append_right _ h)
  simp only [Span.ok, spU, Bool.and_eq_true] at hok
  exact of_decide_eq_true hok.1

/-- A body that only writes registers of its group. -/
theorem finish_setGroup_gives {s : State} {t slot : Nat} {y : Group} {r n : Nat} {v : Nat → Nat → Word} (hy : RegsOnly (grp s t slot) y)
    (hv : ActiveGive (grp s t slot) y r n v) :
    ∃ g', finish s t slot (.done (setGroup s t slot y)) = afterGroup s t slot g' ∧ NextInstr (grp s t slot) g' ∧ ActiveGive (grp s t slot) g' r n v :=
  ⟨_, finish_done_setGroup s s t slot y, hy.nextInstr, hv.of_regs rfl rfl rfl⟩

end Sys2Proof.Machine
end

section

/-! ## The send list (R120, R121, R123)

What a change of a send-list entry, a release and a final status do, for the instructions and the events of messages. -/

namespace Sys2Proof.Machine

/-! ### Changes of the send list -/

/-- The entries of handle h of a send list, changed. -/
def sendsAt (l : List Send) (h : Nat) (f : Send → Send) : List Send := updWhere (fun m => m.h == h) f l

theorem updSend_eq (s : State) (t h : Nat) (f : Send → Send) : updSend s t h f = updTile s t (fun x => { x with sends := sendsAt x.sends h f }) := rfl

/-- Of two changes of the same entries the second one acts on what the first one leaves. -/
theorem sendsAt_sendsAt (l : List Send) {h : Nat} {f : Send → Send} (hf : ∀ m, m.h = h → (f m).h = h) (f' : Send → Send) :
    sendsAt (sendsAt l h f) h f' = sendsAt l h (fun m => f' (f m)) := by
  rw [sendsAt, sendsAt, sendsAt, updWhere, updWhere, updWhere, List.map_map]
  refine List.map_congr_left fun m _ => ?_
  by_cases hm : m.h = h
  · simp [hm, hf m hm]
  · simp [hm]

theorem find_sendsAt (l : List Send) (h : Nat) {f : Send → Send} (hf : ∀ m, m.h = h → (f m).h = h) :
    (sendsAt l h f).find? (fun m => m.h == h) = (l.find? (fun m => m.h == h)).map f := by
  induction l with
  | nil => rfl
  | cons y l ih =>
    have hcons : sendsAt (y :: l) h f = (if (y.h == h) = true then f y else y) :: sendsAt l h f := rfl
    by_cases hy : y.h = h
    · simp [hcons, hy, hf y hy]
    · simp [hcons, hy, ih]

/-- An entry found has the handle that was asked for. -/
theorem h_of_sendOf {s : State} {t h : Nat} {m : Send} (hm : sendOf s t h = some m) : m.h = h :=
  beq_iff_eq.1 (List.find?_some (p := fun m : Send => m.h == h) hm)

/-- Of a change of the send list, the entry found is the changed one. -/
theorem sendOf_updTile {s : State} {t h : Nat} {m : Send} {f : Tile → Tile} {f' : Send → Send} (hm : sendOf s t h = some m)
    (hf : (f (tileOf s t)).sends = sendsAt (tileOf s t).sends h f') (hf' : ∀ m, m.h = h → (f' m).h = h) :
    sendOf (updTile s t f) t h = some (f' m) := by
  rw [sendOf, tileOf_updTile_self, hf, find_sendsAt _ _ hf']
  exact congrArg (Option.map f') hm

/-- A field of a tile that a change keeps, in every tile. -/
theorem tile_updTile {β : Type} (φ : Tile → β) {s : State} {t : Nat} {f : Tile → Tile} (hf : φ (f (tileOf s t)) = φ (tileOf s t)) (u : Nat) :
    φ (tileOf (updTile s t f) u) = φ (tileOf s u) := by
  by_cases hu : u = t
  · rw [hu, tileOf_updTile_self, hf]
  · rw [tileOf_updTile_ne s f hu]

/-- A group of any tile, where a change keeps the groups. -/
theorem grp_updTile {s : State} {t : Nat} {f : Tile → Tile} (hf : (f (tileOf s t)).groups = (tileOf s t).groups) (u k : Nat) :
    grp (updTile s t f) u k = grp s u k :=
  congrArg (fun gs => SMap.get Group.reset gs k) (tile_updTile (fun x => x.groups) hf u)

theorem sendOf_updTile_keeps {s : State} {t : Nat} {f : Tile → Tile} (hf : (f (tileOf s t)).sends = (tileOf s t).sends) (u h : Nat) :
    sendOf (updTile s t f) u h = sendOf s u h :=
  congrArg (List.find? (fun m : Send => m.h == h)) (tile_updTile (fun x => x.sends) hf u)

/-! ### Messages that end with no MSTAT waiting (R121, R123) -/

/-- The destinations to which a release of message m sets out (R121). -/
def releasesOf (m : Send) : List (Nat × Nat) :=
  (m.dests.filter (fun d => !m.asked.contains d && !m.written.contains d && !m.lost.contains d)).map (fun d => (m.h, d))

/-- A message in a phase in which it has and awaits no grant. -/
def ungranted (ph : MsgPhase) (y : Send) : Send := { y with phase := ph, asked := [], grants := [], granted := [] }

/-- The tile with the grants of message m given up: its releases on their way, its entry in the phase. -/
def givenUp (m : Send) (ph : MsgPhase) (x : Tile) : Tile :=
  { x with
    rels := x.rels ++ releasesOf m
    sends := sendsAt x.sends m.h (ungranted ph) }

theorem releaseAll_ungranted (s : State) (t : Nat) (m : Send) (ph : MsgPhase) :
    updSend (releaseAll s t m) t m.h (ungranted ph) = updTile s t (givenUp m ph) := by
  rw [updSend_eq, releaseAll, updTile_updTile]
  rfl

theorem sendOf_givenUp {s : State} {t : Nat} {m y : Send} (hy : sendOf s t m.h = some y) (ph : MsgPhase) :
    sendOf (updTile s t (givenUp m ph)) t m.h = some (ungranted ph y) :=
  sendOf_updTile (f' := ungranted ph) hy rfl (fun _ hh => hh)

theorem finalizeSend_of_none {s : State} {t h : Nat} (hw : mstatWaiters (tileOf s t) h = []) (status : Nat) :
    finalizeSend s t h status = updSend s t h (fun m => { m with phase := .final status }) := by
  rw [finalizeSend]
  simp only [hw, if_true]

theorem mstatWaiters_congr {x x' : Tile} (hx : x'.groups = x.groups) (h : Nat) : mstatWaiters x' h = mstatWaiters x h := by
  simp only [mstatWaiters, groupOf, hx]

theorem failSend_of_none {s : State} {t : Nat} {m : Send} (hw : mstatWaiters (tileOf s t) m.h = []) (status : Nat) :
    failSend s t m status = updTile s t (givenUp m (.final status)) := by
  rw [failSend, releaseAll, finalizeSend_of_none (by simp only [updSend_eq, tileOf_updTile_self]; exact (mstatWaiters_congr rfl _).trans hw)]
  simp only [updSend_eq, updTile_updTile]
  refine congrArg (updTile s t) (funext fun x => ?_)
  rw [sendsAt_sendsAt x.sends (fun _ hy => by exact hy)]
  rfl

theorem phase_of_mem_givenUp {m y : Send} {ph : MsgPhase} {x : Tile} (hy : y ∈ (givenUp m ph x).sends) (hh : y.h = m.h) : y.phase = ph := by
  obtain ⟨z, -, rfl⟩ := List.mem_map.1 hy
  by_cases hz : (z.h == m.h) = true
  · rw [if_pos hz]
    rfl
  · rw [if_neg hz] at hh
    exact absurd (beq_iff_eq.2 hh) hz

end Sys2Proof.Machine
end

section

/-! ## SEND, RECV, MSTAT, MCANCEL and MFREE (R119 to R125) -/

namespace Sys2Proof.Machine

section

variable {t slot : Nat} {w : DWord} {s : State}

/-! ### Bodies that change the tile and give registers -/

/-- A body that changes the tile beside its groups and then gives active threads a row of registers. -/
def tileAndRow (s : State) (t slot : Nat) (f : Tile → Tile) (r n : Nat) (v : Nat → Word) : State :=
  setGroup (updTile s t f) t slot (activeRow (grp s t slot) r n v)

/-- Such a body, completed: the rest of the tile is as the change leaves it. -/
theorem finish_tileAndRow_gives (s0 s : State) (t slot : Nat) {f : Tile → Tile} {r n : Nat} (v : Nat → Word) (hr : r + n ≤ 128)
    (hf : (f (tileOf s t)).groups = (tileOf s t).groups) :
    let s' := finish s0 t slot (.done (tileAndRow s t slot f r n v))
    TilesOnly s s' ∧ (grp s' t slot).pc = (grp s t slot).pc + 8 ∧ ActiveGive (grp s t slot) (grp s' t slot) r n (fun _ i => v i) ∧
    (∀ k ≠ slot, grp s' t k = grp s t k) ∧ (∀ u ≠ t, tileOf s' u = tileOf s u) ∧
    ∀ {β : Type} (φ : Tile → β), (∀ x gs p, φ { x with groups := gs, ptr := p } = φ x) → φ (tileOf s' t) = φ (f (tileOf s t)) := by
  intro s'
  refine ⟨tilesOnly_finish_done t slot ((tilesOnly_updTile s t f).trans (tilesOnly_updTile _ t _)), ?_, ?_, fun k hk => ?_, fun u hu => ?_,
    fun φ hφ => ?_⟩
  · rw [grp_finish_done_self, tileAndRow, grp_setGroup_self, pc_activeRow]
  · rw [grp_finish_done_self, tileAndRow, grp_setGroup_self]
    exact (activeGive_activeRow _ r n v hr).of_regs rfl rfl rfl
  · rw [grp_finish_done_slot _ _ _ hk, tileAndRow, grp_setGroup_slot _ _ _ hk, grp_updTile_self _ _ _ hf]
  · rw [tileOf_finish_done_ne _ _ _ hu, tileAndRow, tileOf_setGroup_ne _ _ _ hu, tileOf_updTile_ne _ _ hu]
  · rw [tile_finish_done φ hφ, tileAndRow, tile_setGroup φ (fun x gs => hφ x gs x.ptr), tileOf_updTile_self]

theorem putActive_updTile (s : State) (t slot : Nat) {f : Tile → Tile} (r v : Nat) (hf : (f (tileOf s t)).groups = (tileOf s t).groups) :
    putActive (updTile s t f) t slot r v = tileAndRow s t slot f r 1 (fun _ => BitVec.ofNat 32 v) := by
  rw [putActive_eq, grp_updTile_self _ _ _ hf, tileAndRow]

/-- A body that changes the tile beside its groups, completed. -/
theorem finish_updTile_gives (s0 s : State) (t slot : Nat) {f : Tile → Tile} (hf : (f (tileOf s t)).groups = (tileOf s t).groups) :
    let s' := finish s0 t slot (.done (updTile s t f))
    TilesOnly s s' ∧ grp s' t slot = { grp s t slot with pc := (grp s t slot).pc + 8 } ∧ (∀ k ≠ slot, grp s' t k = grp s t k) ∧
    ∀ {β : Type} (φ : Tile → β), (∀ x gs p, φ { x with groups := gs, ptr := p } = φ x) → φ (tileOf s' t) = φ (f (tileOf s t)) := by
  intro s'
  refine ⟨tilesOnly_finish_done t slot (tilesOnly_updTile s t f), ?_, fun k hk => ?_, fun φ hφ => ?_⟩
  · rw [grp_finish_done_self, grp_updTile_self _ _ _ hf]
  · rw [grp_finish_done_slot _ _ _ hk, grp_updTile_self _ _ _ hf]
  · rw [tile_finish_done φ hφ, tileOf_updTile_self]

/-- A body that changes the tile beside its groups and counts, completed. -/
theorem finish_counted_gives (s : State) (t slot : Nat) {f : Tile → Tile} (o hi lo n : Nat) (hf : (f (tileOf s t)).groups = (tileOf s t).groups)
    (hhi : hi < 64) :
    let s' := finish s t slot (.done (addSat (updTile s t f) o hi lo n))
    grp s' t slot = { grp s t slot with pc := (grp s t slot).pc + 8 } ∧ (∀ k ≠ slot, grp s' t k = grp s t k) ∧
    (tileOf s' t).sends = (f (tileOf s t)).sends ∧ regF s' o hi lo = min (2 ^ (hi + 1 - lo) - 1) (regF s o hi lo + n) ∧
    RegsBut s s' [o] ∧ { s' with tiles := s.tiles, bar0 := s.bar0 } = s := by
  intro s'
  have hcounted (k : Nat) : grp (addSat (updTile s t f) o hi lo n) t k = grp (updTile s t f) t k := rfl
  refine ⟨?_, fun k hk => ?_, ?_, ?_, fun o' ho => ?_, rfl⟩
  · rw [grp_finish_done_self, hcounted, grp_updTile_self _ _ _ hf]
  · rw [grp_finish_done_slot _ _ _ hk, hcounted, grp_updTile_self _ _ _ hf]
  · rw [tile_finish_done (fun x => x.sends) (fun _ _ _ => rfl)]
    exact congrArg Tile.sends (tileOf_updTile_self s t f)
  · rw [regF, reg_finish_done]
    exact regF_addSat_self _ o hi lo n hhi
  · rw [reg_finish_done, reg_addSat_ne _ _ _ _ (List.ne_of_not_mem_cons ho), reg_updTile]

/-! ### SEND (R120) -/

theorem execSend_runs (hi : CanIssue rowSend t slot w s) {h : Nat}
    (hp : pick s 32 (handleFree (tileOf s t)) = some (h, { s with fresh := s.fresh + 1 }))
    (hok : sendOk s t (sendEntry (grp s t slot) slot (wWA w) 0) = true) :
    exec (.send t slot w) s = .next (finish s t slot (.done (tileAndRow { s with fresh := s.fresh + 1 } t slot
      (fun x => { x with sends := x.sends ++ [sendEntry (grp s t slot) slot (wWA w) h] }) (wWD w) 1 (fun _ => BitVec.ofNat 32 h)))) := by
  have hok' : sendOk s t (sendEntry (grp s t slot) slot (wWA w) h) = true := hok
  rw [exec, execSend, issue_of_canIssue _ _ _ _ _ _ hi]
  simp only [hp, hok', if_true]
  rw [putActive_updTile { s with fresh := s.fresh + 1 } t slot (wWD w) h rfl]

theorem handleFree_iff {x : Tile} {h : Nat} : handleFree x h = true ↔ ∀ m ∈ x.sends, m.h ≠ h := by
  simp [handleFree]

/-! ### RECV (R124, Table 4.11) -/

/-- The four words of a delivery (Table 4.11), for a ring that begins at base. -/
def messageWords (base : Nat) (m : RingSpace) (i : Nat) : Word :=
  if i = 0 then m.info else if i = 1 then BitVec.ofNat 32 m.len
  else if i = 2 then BitVec.ofNat 32 (m.tag.toNat * 2 ^ 16) else BitVec.ofNat 32 (base + (m.start + 1) * 64)

/-- A ring with a space's message delivered. -/
def delivered (r : Ring) (m : RingSpace) : Ring := { r with spaces := r.spaces.map (fun y => if y = m then { y with st := .delivered } else y) }

theorem deliver_eq (s : State) (t slot q wd : Nat) (m : RingSpace) :
    deliver s t slot q wd m = tileAndRow s t slot (fun x => setRing x q (delivered (ringOf (tileOf s t) q) m)) wd 4
      (messageWords (ringOf (tileOf s t) q).base m) := by
  have hg := grp_updTile_self s t (f := fun x => setRing x q (delivered (ringOf (tileOf s t) q) m)) slot rfl
  rw [tileAndRow, ← hg]
  rfl

theorem execRecv_delivers (hi : CanIssue rowRecv t slot w s) {m : RingSpace} (hm : oldestWritten (ringOf (tileOf s t) (wQ w)) = some m) :
    exec (.recv t slot w) s = .next (finish s t slot (.done (tileAndRow s t slot
      (fun x => setRing x (wQ w) (delivered (ringOf (tileOf s t) (wQ w)) m)) (wWD w) 4 (messageWords (ringOf (tileOf s t) (wQ w)).base m)))) := by
  rw [exec, execRecv, issue_of_canIssue _ _ _ _ _ _ hi]
  simp only [hm, deliver_eq]

/-- The words of a RECV that delivers nothing: its status, and zeros. -/
def noneWords (status : Nat) (i : Nat) : Word := if i = 0 then BitVec.ofNat 32 (status * 2 ^ 28) else 0

theorem recvNone_eq (s : State) (t slot wd status : Nat) :
    recvNone s t slot wd status = setGroup s t slot (activeRow (grp s t slot) wd 4 (noneWords status)) := by
  simp only [recvNone, putActive, updGroup, setGroup_setGroup, grp_setGroup_self]
  rfl

theorem recvLimit_eq (g : Group) (r : Nat) : bits (r0 g r) 19 0 = (rget g 0 r).toNat % 2 ^ 20 := rfl

theorem execRecv_none (hi : CanIssue rowRecv t slot w s) (hm : oldestWritten (ringOf (tileOf s t) (wQ w)) = none)
    (hz : (rget (grp s t slot) 0 (wWA w)).toNat % 2 ^ 20 = 0) :
    exec (.recv t slot w) s = .next (finish s t slot (.done (setGroup s t slot (activeRow (grp s t slot) (wWD w) 4 (noneWords 2))))) := by
  rw [exec, execRecv, issue_of_canIssue _ _ _ _ _ _ hi]
  simp only [hm, recvLimit_eq, hz, if_true, recvNone_eq]

theorem execRecv_waits (hi : CanIssue rowRecv t slot w s) (hm : oldestWritten (ringOf (tileOf s t) (wQ w)) = none)
    (hz : (rget (grp s t slot) 0 (wWA w)).toNat % 2 ^ 20 ≠ 0) :
    ∃ s1, s1 = setGroup s t slot
        { grp s t slot with st := .waitMsg, wait := .recv (wQ w) (wWD w) ((rget (grp s t slot) 0 (wWA w)).toNat % 2 ^ 20) } ∧
      exec (.recv t slot w) s = .next (finish s t slot (.done (updTile s1 t (fun x => setRing x (wQ w)
        { ringOf (tileOf s1 t) (wQ w) with waiters := (ringOf (tileOf s1 t) (wQ w)).waiters ++ [slot] })))) := by
  refine ⟨_, rfl, ?_⟩
  rw [exec, execRecv, issue_of_canIssue _ _ _ _ _ _ hi]
  simp only [hm, recvLimit_eq, hz, if_false]
  rfl

/-! ### MSTAT and MCANCEL (R123) -/

theorem execMstat_final (hi : CanIssue rowMstat t slot w s) {m : Send} {st : Nat}
    (hm : codeSend s t ((rget (grp s t slot) 0 (wWA w)).toNat % 32) = some m) (hst : m.phase = .final st) :
    exec (.mstat t slot w) s = .next (finish s t slot (.done (tileAndRow s t slot
      (fun x => { x with sends := x.sends.filter (fun y => y.h != (rget (grp s t slot) 0 (wWA w)).toNat % 32) }) (wWD w) 1
      (fun _ => BitVec.ofNat 32 st)))) := by
  rw [exec, execMstat, issue_of_canIssue _ _ _ _ _ _ hi]
  simp only [r0, hm, hst]
  rw [putActive_updTile s t slot _ _ rfl]

theorem execMstat_waits (hi : CanIssue rowMstat t slot w s) {m : Send}
    (hm : codeSend s t ((rget (grp s t slot) 0 (wWA w)).toNat % 32) = some m) (hst : ∀ st, m.phase ≠ .final st) :
    exec (.mstat t slot w) s = .next (afterGroup s t slot { grp s t slot with
      st := .waitMsg, wait := .mstat ((rget (grp s t slot) 0 (wWA w)).toNat % 32) (wWD w), pc := (grp s t slot).pc + 8 }) := by
  rw [exec, execMstat, issue_of_canIssue _ _ _ _ _ _ hi]
  simp only [r0, hm]
  exact congrArg Host.Outcome.next (finish_done_setGroup s s t slot _)

theorem execMstat_unknown (hi : CanIssue rowMstat t slot w s)
    (hm : codeSend s t ((rget (grp s t slot) 0 (wWA w)).toNat % 32) = none) :
    exec (.mstat t slot w) s = .next (finish s t slot (.done
      (setGroup s t slot (activeRow (grp s t slot) (wWD w) 1 (fun _ => BitVec.ofNat 32 15))))) := by
  rw [exec, execMstat, issue_of_canIssue _ _ _ _ _ _ hi]
  simp only [r0, hm, putActive_eq]

theorem execMcancel_late (hi : CanIssue rowMcancel t slot w s) {m : Send}
    (hm : codeSend s t ((rget (grp s t slot) 0 (wWA w)).toNat % 32) = some m) (hst : m.phase = .injected) :
    exec (.mcancel t slot w) s = .next (finish s t slot (.done
      (updSend s t ((rget (grp s t slot) 0 (wWA w)).toNat % 32) (fun m => { m with late := true })))) := by
  rw [exec, execMcancel, issue_of_canIssue _ _ _ _ _ _ hi]
  simp only [r0, hm, hst]

theorem execMcancel_ends (hi : CanIssue rowMcancel t slot w s) {m : Send}
    (hm : codeSend s t ((rget (grp s t slot) 0 (wWA w)).toNat % 32) = some m) (hinj : m.phase ≠ .injected) (hst : ∀ st, m.phase ≠ .final st) :
    exec (.mcancel t slot w) s = .next (finish s t slot (.done (addSat (failSend s t m 1) (oMSGSTAT t) 47 32 1))) := by
  rw [exec, execMcancel, issue_of_canIssue _ _ _ _ _ _ hi]
  simp only [r0, hm]

/-! ### MFREE (R125) -/

theorem held_dropSpace (r : Ring) (m : RingSpace) : (dropSpace r m).held = r.held := rfl

theorem execMfree_runs (hi : CanIssue rowMfree t slot w s) {m : RingSpace} (hm : oldestDelivered (ringOf (tileOf s t) (wQ w)) = some m)
    (hh : (ringOf (tileOf s t) (wQ w)).held = []) :
    exec (.mfree t slot w) s = .next (finish s t slot (.done
      (updTile s t (fun x => setRing x (wQ w) (dropSpace (ringOf (tileOf s t) (wQ w)) m).settle)))) := by
  rw [exec, execMfree, issue_of_canIssue _ _ _ _ _ _ hi]
  simp only [hm]
  rw [makeGrants_of_held_nil (by rw [tileOf_updTile_self, ringOf_setRing_self, held_dropSpace, hh])]
  rw [updTile_updTile]
  simp only [ringOf_setRing_self, setRing_setRing]

/-! ### The statement -/

/-- Settles O13: each instruction changes the rings or the send list of its tile and gives its active threads their registers; only
an early MCANCEL goes on to end its message. -/
theorem messageInstructions : Obligations.MessageInstructions := by
  unfold Obligations.MessageInstructions
  intro t slot w s g x
  refine ⟨?send, ?recv, ?recvNone, ?recvWaits, ?mstat, ?mstatWaits, ?mstatUnknown, ?late, ?cancel, ?mfree⟩
  case send =>
    intro hi hfree hok
    obtain ⟨h, hp, hlt, hh⟩ := pick_eq_some s (n := 32) (p := handleFree (tileOf s t)) (by simpa only [handleFree_iff] using hfree)
    obtain ⟨hframe, hpc, hgive, hothers, htiles, hφ⟩ := finish_tileAndRow_gives s { s with fresh := s.fresh + 1 } t slot
      (f := fun x => { x with sends := x.sends ++ [sendEntry (grp s t slot) slot (wWA w) h] }) (fun _ => BitVec.ofNat 32 h) (wWD_le w) rfl
    exact ⟨_, h, execSend_runs hi hp hok, congrArg (fun y : State => { y with fresh := s.fresh }) hframe,
      hφ (fun x => x.sends) (fun _ _ _ => rfl), hφ (fun x => x.mem) (fun _ _ _ => rfl), handleFree_iff.1 hh, hlt, hpc, hgive, hothers, htiles⟩
  case recv =>
    intro m hi hm
    obtain ⟨hframe, hpc, hgive, hothers, htiles, hφ⟩ := finish_tileAndRow_gives s s t slot
      (f := fun x => setRing x (wQ w) (delivered (ringOf (tileOf s t) (wQ w)) m)) (messageWords (ringOf (tileOf s t) (wQ w)).base m)
      (hi.dsts_le (List.mem_singleton.2 rfl)) rfl
    refine ⟨_, execRecv_delivers hi hm, hframe, hpc, hgive, ?_, hothers, hφ (fun x => x.mem) (fun _ _ _ => rfl), htiles⟩
    rw [hφ (fun x => (ringOf x (wQ w)).spaces) (fun _ _ _ => rfl), ringOf_setRing_self]
    rfl
  case recvNone =>
    intro hi hm hz
    obtain ⟨-, hreg⟩ := hi.undamaged
    obtain ⟨g', hg', hnext, hgive⟩ := finish_setGroup_gives (regsOnly_activeRow hreg (wWD w) 4 (noneWords 2))
      (activeGive_activeRow g (wWD w) 4 (noneWords 2) (hi.dsts_le (List.mem_singleton.2 rfl)))
    exact ⟨g', (execRecv_none hi hm hz).trans (congrArg _ hg'), hnext, hgive⟩
  case recvWaits =>
    intro hi hm hz
    obtain ⟨s1, hs1, hexec⟩ := execRecv_waits hi hm hz
    obtain ⟨hframe, hself, hothers, hφ⟩ := finish_updTile_gives s s1 t slot (f := fun x => setRing x (wQ w)
        { ringOf (tileOf s1 t) (wQ w) with waiters := (ringOf (tileOf s1 t) (wQ w)).waiters ++ [slot] }) rfl
    refine ⟨_, hexec, ?_, ?_, ?_, fun k hk => ?_⟩
    · exact TilesOnly.trans (hs1 ▸ tilesOnly_updTile s t _) hframe
    · rw [hself, hs1, grp_setGroup_self]
    · rw [hφ (fun x => ringOf x (wQ w)) (fun _ _ _ => rfl), ringOf_setRing_self, hs1,
        tile_setGroup (fun x => ringOf x (wQ w)) (fun _ _ => rfl)]
    · rw [hothers k hk, hs1, grp_setGroup_slot _ _ _ hk]
  case mstat =>
    intro m st hi hm hst
    obtain ⟨hframe, hpc, hgive, hothers, -, hφ⟩ := finish_tileAndRow_gives s s t slot
      (f := fun x => { x with sends := x.sends.filter (fun y => y.h != (rget (grp s t slot) 0 (wWA w)).toNat % 32) })
      (fun _ => BitVec.ofNat 32 st) (wWD_le w) rfl
    exact ⟨_, execMstat_final hi hm hst, hframe, hpc, hgive, hφ (fun x => x.sends) (fun _ _ _ => rfl), hothers⟩
  case mstatWaits => exact fun m hi hm hst => execMstat_waits hi hm hst
  case mstatUnknown =>
    intro hi hm
    obtain ⟨-, hreg⟩ := hi.undamaged
    obtain ⟨g', hg', hnext, hgive⟩ := finish_setGroup_gives (regsOnly_activeRow hreg (wWD w) 1 (fun _ => BitVec.ofNat 32 15))
      (activeGive_activeRow g (wWD w) 1 (fun _ => BitVec.ofNat 32 15) (wWD_le w))
    exact ⟨g', (execMstat_unknown hi hm).trans (congrArg _ hg'), hnext, hgive⟩
  case late =>
    intro m hi hm hst
    obtain ⟨hframe, hself, hothers, hφ⟩ := finish_updTile_gives s s t slot (f := fun x => { x with
      sends := updWhere (fun m => m.h == (rget (grp s t slot) 0 (wWA w)).toNat % 32) (fun m => { m with late := true }) x.sends }) rfl
    refine ⟨_, execMcancel_late hi hm hst, hframe, hself, ?_, hothers⟩
    refine (hφ (fun x => x.sends) (fun _ _ _ => rfl)).trans ?_
    simp only [updWhere, beq_iff_eq]
    rfl
  case cancel =>
    intro m hi hm hinj hst hw
    rw [execMcancel_ends hi hm hinj hst, failSend_of_none hw]
    obtain ⟨hself, hothers, hsends, hcount, hregs, hframe⟩ := finish_counted_gives s t slot (f := givenUp m (.final 1)) (oMSGSTAT t) 47 32 1 rfl (by decide)
    exact ⟨_, rfl, hself, fun y hy hh => phase_of_mem_givenUp (hsends ▸ hy) hh, hcount, hregs, hothers, hframe⟩
  case mfree =>
    intro m hi hm hh
    obtain ⟨hframe, hself, hothers, hφ⟩ := finish_updTile_gives s s t slot
      (f := fun x => setRing x (wQ w) (dropSpace (ringOf (tileOf s t) (wQ w)) m).settle) rfl
    refine ⟨_, execMfree_runs hi hm hh, hframe, ?_, ?_, hself, hφ (fun x => x.mem) (fun _ _ _ => rfl), hothers⟩
    · rw [hφ (fun x => (ringOf x (wQ w)).spaces) (fun _ _ _ => rfl), ringOf_setRing_self, Ring.settle]
      split <;> rfl
    · rw [hφ (fun x => (ringOf x (wQ w)).wpos) (fun _ _ _ => rfl), ringOf_setRing_self, Ring.settle]
      split <;> rfl

end

end Sys2Proof.Machine
end

section

/-! ## SREAD, ATTN and ATTNW (R105, R132) -/

namespace Sys2Proof.Machine

section

variable {t slot : Nat} {w : DWord} {s : State}

/-! ### SREAD -/

/-- One register of every active thread, each thread its own value. -/
def activeEach (g : Group) (r : Nat) (v : Nat → Word) : Group := (setBits 32 g.active.toNat).foldl (fun y th => rset y th r (v th)) g

theorem regsOnly_activeEach {g : Group} (hn : g.regErr = []) (r : Nat) (v : Nat → Word) : RegsOnly g (activeEach g r v) :=
  (RegsOnly.refl g).foldl (fun _ th hy => hy.rset hn th r (v th)) _

theorem activeGive_activeEach (g : Group) {r : Nat} (v : Nat → Word) (hr : r < 128) : ActiveGive g (activeEach g r v) r 1 (fun th _ => v th) := by
  intro th hth k hk
  have hstep (y : Group) (i : Nat) : rget (rset y i r (v i)) th k = if th = i ∧ k = r then v i else rget y th k := rget_rset y th i k r (v i) hk hr
  rw [activeEach, foldl_writes (fun y => rget y th k) _ th (k = r) v hstep]
  refine if_congr ?_ rfl rfl
  rw [mem_setBits, and_iff_right hth]
  exact and_congr_right (fun _ => by omega)

theorem putPair_eq (s : State) (t slot r v : Nat) :
    putPair s t slot r v = setGroup s t slot (activeRow (grp s t slot) r 2 (fun i => BitVec.ofNat 32 (v / 2 ^ (32 * i)))) := by
  rw [putPair, putActive_eq, putActive_eq, grp_setGroup_self, setGroup_setGroup]
  simp [activeRow, List.range_succ]

/-- The group after SREAD of a 32-bit system value (R105): reading the flags clears them. -/
def sreadGroup (s : State) (t slot : Nat) (w : DWord) : Group :=
  let y := activeEach (grp s t slot) (wWD w) (fun th => BitVec.ofNat 32 (sysValue s t slot (wSEL w) th))
  { y with fp := if wSEL w = 0x0E then 0 else y.fp, pc := y.pc + 8 }

theorem execSread_word (hi : CanIssue rowSread t slot w s) (hb : wSEL w ≠ 0x0B) (hc : wSEL w ≠ 0x0C) :
    exec (.sread t slot w) s = .next (afterGroup s t slot (sreadGroup s t slot w)) := by
  rw [exec, execSread, issue_of_canIssue _ _ _ _ _ _ hi]
  simp only [hb, hc, if_false, updGroup]
  split <;> rename_i h
  · rw [grp_setGroup_self, setGroup_setGroup, finish_done_setGroup, sreadGroup, if_pos h]
    rfl
  · rw [finish_done_setGroup, sreadGroup, if_neg h]
    rfl

/-- A pair of registers of every active thread (SEL 0x0B and 0x0C). -/
theorem finish_putPair {s0 s1 : State} (hg : grp s1 t slot = grp s t slot) (hn : (grp s t slot).regErr = []) {r : Nat} (hr : r + 2 ≤ 128) (v : DWord) :
    ∃ g', finish s0 t slot (.done (putPair s1 t slot r v.toNat)) = afterGroup s1 t slot g' ∧ NextInstr (grp s t slot) g' ∧
      ActiveGive (grp s t slot) g' r 2 (fun _ i => v.extractLsb' (32 * i) 32) := by
  simp only [extractLsb'_word]
  rw [putPair_eq, hg, finish_done_setGroup]
  exact ⟨_, rfl, (regsOnly_activeRow hn r 2 _).nextInstr, (activeGive_activeRow _ r 2 _ hr).of_regs rfl rfl rfl⟩

theorem wWD_pair_le (hi : CanIssue rowSread t slot w s) (hsel : wSEL w = 0x0B ∨ wSEL w = 0x0C) : wWD w + 2 ≤ 128 := by
  have hdsts : rowSread.dsts w = [if wSEL w = 0x0B ∨ wSEL w = 0x0C then sp (wWD w) 2 else sp (wWD w) 1] := rfl
  rw [if_pos hsel] at hdsts
  exact hi.dst_le (hdsts ▸ List.mem_singleton.2 rfl)

theorem execSread_time (hi : CanIssue rowSread t slot w s) (hsel : wSEL w = 0x0C) :
    exec (.sread t slot w) s = .next (finish s t slot (.done (putPair s t slot (wWD w) (reg s oTGNOW).toNat))) := by
  rw [exec, execSread, issue_of_canIssue _ _ _ _ _ _ hi]
  simp only [hsel, if_true]
  rfl

theorem execSread_cycles (hi : CanIssue rowSread t slot w s) (hsel : wSEL w = 0x0B) :
    exec (.sread t slot w) s = .next (finish s t slot (.done (putPair { s with fresh := s.fresh + 1 } t slot (wWD w) (Config.freeWord s.fresh).toNat))) := by
  rw [exec, execSread, issue_of_canIssue _ _ _ _ _ _ hi]
  simp only [hsel, if_true]
  rfl

/-! ### ATTN and ATTNW (R132) -/

/-- The command that ATTN puts at the end of the queue. -/
def attnCmd (s : State) (t slot : Nat) (w : DWord) (h : Nat) : AttCmd :=
  ⟨h, slot, false, (rget (grp s t slot) 0 (wWA w)).toNat % 2 ^ 20, .queued, [], [], [], none, 0⟩

theorem attHandleFree_iff {x : Tile} {h : Nat} : (x.att.all fun c => c.h != h) = true ↔ ∀ c ∈ x.att, c.h ≠ h := by
  simp

theorem execAttn_runs (hi : CanIssue rowAttn t slot w s) {h : Nat}
    (hp : pick s 4 (fun h => (tileOf s t).att.all (fun c => c.h != h)) = some (h, { s with fresh := s.fresh + 1 }))
    (ha : (rget (grp s t slot) 0 (wWA w)).toNat % 2 ^ 20 % 64 = 0) :
    exec (.attn t slot w) s = .next (finish s t slot (.done (tileAndRow { s with fresh := s.fresh + 1 } t slot
      (fun x => { x with att := x.att ++ [attnCmd s t slot w h] }) (wWD w) 1 (fun _ => BitVec.ofNat 32 h)))) := by
  have ha' : bits (r0 (grp s t slot) (wWA w)) 19 0 % 64 = 0 := ha
  rw [exec, execAttn, issue_of_canIssue _ _ _ _ _ _ hi]
  simp only [hp, ha', bne_self_eq_false, Bool.false_eq_true, if_false]
  rw [putActive_updTile { s with fresh := s.fresh + 1 } t slot (wWD w) h rfl]
  rfl

theorem execAttnw_final (hi : CanIssue rowAttnw t slot w s) {c : AttCmd} {st : Word}
    (hc : attOf s t (rget (grp s t slot) 0 (wWA w)).toNat = some c) (hst : c.phase = .final st) :
    exec (.attnw t slot w) s = .next (finish s t slot (.done (tileAndRow s t slot
      (fun x => { x with att := x.att.filter (fun y => y.h != (rget (grp s t slot) 0 (wWA w)).toNat) }) (wWD w) 1 (fun _ => st)))) := by
  rw [exec, execAttnw, issue_of_canIssue _ _ _ _ _ _ hi]
  simp only [r0, hc, hst]
  rw [putActive_updTile s t slot (wWD w) st.toNat rfl, BitVec.ofNat_toNat, BitVec.setWidth_eq]

theorem execAttnw_waits (hi : CanIssue rowAttnw t slot w s) {c : AttCmd}
    (hc : attOf s t (rget (grp s t slot) 0 (wWA w)).toNat = some c) (hst : ∀ st, c.phase ≠ .final st) :
    exec (.attnw t slot w) s = .next (afterGroup s t slot { grp s t slot with
      st := .waitMsg, wait := .attnw (rget (grp s t slot) 0 (wWA w)).toNat (wWD w), pc := (grp s t slot).pc + 8 }) := by
  rw [exec, execAttnw, issue_of_canIssue _ _ _ _ _ _ hi]
  simp only [r0, hc]
  exact congrArg Host.Outcome.next (finish_done_setGroup s s t slot _)

/-! ### The statement -/

/-- Settles O14: SREAD writes the active threads; ATTN and ATTNW change the queue of the pipe and write one register. -/
theorem systemInstructions : Obligations.SystemInstructions := by
  unfold Obligations.SystemInstructions
  intro t slot w s g x
  refine ⟨?word, ?time, ?cycles, ?attn, ?attnw, ?attnwWaits⟩
  case word =>
    intro hi hb hc
    obtain ⟨-, hreg⟩ := hi.undamaged
    have hy := regsOnly_activeEach hreg (wWD w) (fun th => BitVec.ofNat 32 (sysValue s t slot (wSEL w) th))
    refine ⟨_, execSread_word hi hb hc, congrArg (· + 8) hy.pc, ?_, ?_, ?_⟩
    · exact hy.congr (fun y : Group => { y with pc := g.pc, fp := g.fp })
    · exact congrArg (fun f => if wSEL w = 0x0E then 0 else f) (hy.congr Group.fp)
    · exact (activeGive_activeEach g _ (wWD_le w)).of_regs rfl rfl rfl
  case time =>
    intro hi hsel
    obtain ⟨-, hreg⟩ := hi.undamaged
    obtain ⟨g', hg', hnext, hgive⟩ := finish_putPair (s0 := s) (s1 := s) rfl hreg (wWD_pair_le hi (.inr hsel)) (reg s oTGNOW)
    exact ⟨g', (execSread_time hi hsel).trans (congrArg _ hg'), hnext, hgive⟩
  case cycles =>
    intro hi hsel
    obtain ⟨-, hreg⟩ := hi.undamaged
    obtain ⟨g', hg', hnext, hgive⟩ := finish_putPair (s0 := s) (s1 := { s with fresh := s.fresh + 1 }) (t := t) (slot := slot) (s := s) rfl hreg
      (wWD_pair_le hi (.inl hsel)) (Config.freeWord s.fresh)
    exact ⟨g', (execSread_cycles hi hsel).trans (congrArg _ hg'), hnext, hgive⟩
  case attn =>
    intro hi hfree ha
    obtain ⟨h, hp, hlt, hh⟩ := pick_eq_some s (n := 4) (p := fun h => (tileOf s t).att.all (fun c => c.h != h))
      (by simpa only [attHandleFree_iff] using hfree)
    obtain ⟨hframe, hpc, hgive, hothers, -, hφ⟩ := finish_tileAndRow_gives s { s with fresh := s.fresh + 1 } t slot
      (f := fun x => { x with att := x.att ++ [attnCmd s t slot w h] }) (fun _ => BitVec.ofNat 32 h) (wWD_le w) rfl
    exact ⟨_, h, execAttn_runs hi hp ha, congrArg (fun y : State => { y with fresh := s.fresh }) hframe, hpc, hlt, attHandleFree_iff.1 hh,
      hφ (fun x => x.att) (fun _ _ _ => rfl), hgive, hφ (fun x => x.mem) (fun _ _ _ => rfl), hothers⟩
  case attnw =>
    intro c st hi hc hst
    obtain ⟨hframe, hpc, hgive, hothers, -, hφ⟩ := finish_tileAndRow_gives s s t slot
      (f := fun x => { x with att := x.att.filter (fun y => y.h != (rget (grp s t slot) 0 (wWA w)).toNat) }) (fun _ => st) (wWD_le w) rfl
    exact ⟨_, execAttnw_final hi hc hst, hframe, hpc, hgive, hφ (fun x => x.att) (fun _ _ _ => rfl), hothers⟩
  case attnwWaits => exact fun c hi hc hst => execAttnw_waits hi hc hst

end

end Sys2Proof.Machine
end

section

/-! ## Reservations and grants (R119, R121) -/

namespace Sys2Proof.Machine

/-! ### What the message engines change -/

theorem MsgOnly.refl (s : State) : MsgOnly s s := ⟨rfl, fun _ => rfl⟩

theorem MsgOnly.trans {s s1 s2 : State} (h : MsgOnly s s1) (h' : MsgOnly s1 s2) : MsgOnly s s2 := by
  obtain ⟨hs, ht⟩ := h
  obtain ⟨hs', ht'⟩ := h'
  refine ⟨TilesOnly.trans hs hs', fun u => ?_⟩
  exact (congrArg (fun x : Tile => { x with
    rings := (tileOf s u).rings, sends := (tileOf s u).sends, rels := (tileOf s u).rels, serial := (tileOf s u).serial }) (ht' u)).trans (ht u)

/-- A change of a tile's rings, send list, releases and injection numbers. -/
def MsgTile (f : Tile → Tile) : Prop :=
  ∀ x, { f x with rings := x.rings, sends := x.sends, rels := x.rels, serial := x.serial } = x

theorem msgOnly_updTile (s : State) (t : Nat) {f : Tile → Tile} (hf : MsgTile f) : MsgOnly s (updTile s t f) := by
  refine ⟨rfl, fun u => ?_⟩
  by_cases hu : u = t
  · rw [hu, tileOf_updTile_self]
    exact hf _
  · rw [tileOf_updTile_ne s f hu]

theorem MsgOnly.updTile {s s1 : State} (h : MsgOnly s s1) (t : Nat) {f : Tile → Tile} (hf : MsgTile f) : MsgOnly s (updTile s1 t f) :=
  h.trans (msgOnly_updTile s1 t hf)

/-! ### Space of a ring (R119) -/

theorem msgUnits_le {len size : Nat} (h : len + 64 ≤ size * 64) : msgUnits len ≤ size := by
  rw [msgUnits, cdiv]
  omega

theorem settle_eq (r : Ring) : r.settle = { r with wpos := if r.spaces = [] then 0 else r.wpos } := by
  rw [Ring.settle]
  split <;> rfl

/-- The held reservations are no part of where a message fits. -/
theorem settle_held (r : Ring) (l : List Resv) : { r with held := l }.settle = { r.settle with held := l } := by
  rw [settle_eq, settle_eq]

theorem held_settle (r : Ring) : r.settle.held = r.held := by rw [settle_eq]

theorem msgTile_setRing (q : Nat) (R : Tile → Ring) : MsgTile (fun x => setRing x q (R x)) := fun _ => rfl

theorem msgOnly_updSend (s : State) (t h : Nat) (f : Send → Send) : MsgOnly s (updSend s t h f) := msgOnly_updTile s t (fun _ => rfl)

theorem msgTile_givenUp (m : Send) (ph : MsgPhase) : MsgTile (givenUp m ph) := fun _ => rfl

theorem ringOf_updSend (s : State) (t h : Nat) (f : Send → Send) (u q : Nat) : ringOf (tileOf (updSend s t h f) u) q = ringOf (tileOf s u) q :=
  tile_updTile (fun x => ringOf x q) rfl u

theorem sendOf_updSend {s : State} {t h : Nat} {m : Send} {f : Send → Send} (hm : sendOf s t h = some m) (hf : ∀ m, m.h = h → (f m).h = h) :
    sendOf (updSend s t h f) t h = some (f m) :=
  sendOf_updTile hm rfl hf

theorem sendOf_updRing (s : State) (t q : Nat) (R : Tile → Ring) (u h : Nat) :
    sendOf (updTile s t (fun x => setRing x q (R x))) u h = sendOf s u h :=
  sendOf_updTile_keeps rfl u h

theorem ringOf_updRing_self (s : State) (t q : Nat) (R : Tile → Ring) :
    ringOf (tileOf (updTile s t (fun x => setRing x q (R x))) t) q = R (tileOf s t) := by
  rw [tileOf_updTile_self, ringOf_setRing_self]

/-- A ring of another queue, or of another tile, is as before. -/
theorem ringOf_updRing_ne (s : State) {t q : Nat} (R : Tile → Ring) {u n : Nat} (h : u ≠ t ∨ n ≠ q) :
    ringOf (tileOf (updTile s t (fun x => setRing x q (R x))) u) n = ringOf (tileOf s u) n := by
  by_cases hu : u = t
  · rw [hu, tileOf_updTile_self, ringOf_setRing_ne _ _ (h.resolve_left (not_not_intro hu))]
  · rw [tileOf_updTile_ne s _ hu]

/-! ### Grants (R119) -/

/-- A grant of a ring: its space is assigned, and it sets out for its sender. -/
def granted1 (s : State) (t q : Nat) (r : Ring) (v : Resv) (p : Nat × Nat) : State :=
  updSend (updTile s t (fun x => setRing x q (r.grant v p))) v.src v.h (fun m => { m with grants := m.grants ++ [t] })

theorem grantGo_stops {s : State} {t q n : Nat}
    (h : ∀ v, (ringOf (tileOf s t) q).held.head? = some v → (ringOf (tileOf s t) q).settle.place (msgUnits v.len) = none) :
    grantGo (n + 1) s t q = updTile s t (fun x => setRing x q (ringOf x q).settle) := by
  rw [grantGo]
  simp only [held_settle]
  cases hl : (ringOf (tileOf s t) q).held with
  | nil => rfl
  | cons v rest => simp only [h v (by rw [hl]; rfl), updTile]

theorem grantGo_grants {s : State} {t q n : Nat} {v : Resv} {rest : List Resv} {p : Nat × Nat} (hl : (ringOf (tileOf s t) q).held = v :: rest)
    (hp : (ringOf (tileOf s t) q).settle.place (msgUnits v.len) = some p) :
    grantGo (n + 1) s t q = grantGo n (granted1 s t q { (ringOf (tileOf s t) q).settle with held := rest } v p) t q := by
  rw [grantGo]
  simp only [held_settle, hl, hp]
  rfl

theorem makeGrants_stops {s : State} {t q : Nat}
    (h : ∀ v, (ringOf (tileOf s t) q).held.head? = some v → (ringOf (tileOf s t) q).settle.place (msgUnits v.len) = none) :
    makeGrants s t q = updTile s t (fun x => setRing x q (ringOf x q).settle) :=
  grantGo_stops h

/-! ### RESERVATION -/

/-- A message whose reservation for dst arrived. -/
def arrived (dst : Nat) (m : Send) : Send := { m with asked := m.asked.filter (fun d => d != dst) }

/-- A reservation taken from its way and held at its destination. -/
def reserved (s : State) (src h dst q len : Nat) : State :=
  updTile (updSend s src h (arrived dst)) dst
    (fun x => setRing x q { ringOf (tileOf s dst) q with held := (ringOf (tileOf s dst) q).held ++ [⟨src, h, len⟩] })

/-- The reservation of message m for dst arrives now. -/
def Arrives (s : State) (src h dst : Nat) (m : Send) : Prop :=
  m.phase = .reserving ∧ dst ∈ m.asked ∧ (h, dst) ∉ (tileOf s src).rels ∧ reserveBlocked s src h dst = false ∧ ResetDomain.tile dst ∉ s.resetting

section

variable {src h dst : Nat} {m : Send} {s : State}

theorem execReservation_admitted (hm : sendOf s src h = some m) (ha : Arrives s src h dst m)
    (hfit : m.len + 64 ≤ (ringOf (tileOf s dst) m.q).size * 64) :
    exec (.reservation src h dst) s = .next (makeGrants (reserved s src h dst m.q m.len) dst m.q) := by
  obtain ⟨hph, hasked, hrel, hblk, hres⟩ := ha
  rw [exec, execReservation]
  simp only [hm, hph, List.contains_iff_mem, hasked, hrel, hblk, hres, not_false_eq_true, Bool.false_eq_true, true_and, if_true, Ring.admits,
    ringOf_updSend, hfit, decide_true]
  rfl

theorem execReservation_refused (hm : sendOf s src h = some m) (ha : Arrives s src h dst m)
    (hfit : (ringOf (tileOf s dst) m.q).size * 64 < m.len + 64) :
    exec (.reservation src h dst) s = .next (failSend (updSend s src h (arrived dst)) src
      { m with asked := dst :: m.asked } 5) := by
  obtain ⟨hph, hasked, hrel, hblk, hres⟩ := ha
  rw [exec, execReservation]
  simp only [hm, hph, List.contains_iff_mem, hasked, hrel, hblk, hres, not_false_eq_true, Bool.false_eq_true, true_and, if_true, Ring.admits,
    ringOf_updSend, Nat.not_le.2 hfit, decide_false, if_false]
  rfl

theorem msgOnly_reserved (s : State) (src h dst q len : Nat) : MsgOnly s (reserved s src h dst q len) :=
  (msgOnly_updSend s src h _).updTile dst (msgTile_setRing q _)

theorem ringOf_reserved (s : State) (src h dst q len : Nat) : ringOf (tileOf (reserved s src h dst q len) dst) q =
    { ringOf (tileOf s dst) q with held := (ringOf (tileOf s dst) q).held ++ [⟨src, h, len⟩] } := by
  rw [reserved, ringOf_updRing_self]

theorem sendOf_reserved (hm : sendOf s src h = some m) (dst q len : Nat) :
    sendOf (reserved s src h dst q len) src h = some (arrived dst m) := by
  rw [reserved, sendOf_updRing]
  exact sendOf_updSend hm (fun _ hh => hh)

/-- A reservation that does not fit now is held behind the earlier ones. -/
theorem reserved_held (hm : sendOf s src h = some m) (dst : Nat)
    (hwait : ∀ v, ((ringOf (tileOf s dst) m.q).held ++ [(⟨src, h, m.len⟩ : Resv)]).head? = some v →
      (ringOf (tileOf s dst) m.q).settle.place (msgUnits v.len) = none) :
    let s' := makeGrants (reserved s src h dst m.q m.len) dst m.q
    MsgOnly s s' ∧ sendOf s' src h = some (arrived dst m) ∧
    ringOf (tileOf s' dst) m.q = { (ringOf (tileOf s dst) m.q).settle with held := (ringOf (tileOf s dst) m.q).held ++ [⟨src, h, m.len⟩] } := by
  intro s'
  have hs' : s' = updTile (reserved s src h dst m.q m.len) dst (fun x => setRing x m.q (ringOf x m.q).settle) := by
    refine makeGrants_stops (fun v hv => ?_)
    rw [ringOf_reserved] at hv ⊢
    rw [settle_held]
    exact hwait v hv
  rw [hs']
  refine ⟨(msgOnly_reserved s src h dst m.q m.len).updTile dst (msgTile_setRing m.q _), ?_, ?_⟩
  · rw [sendOf_updRing, sendOf_reserved hm]
  · rw [ringOf_updRing_self, ringOf_reserved, settle_held]

/-- A reservation at an empty ring is granted at BASE. -/
theorem reserved_granted (hm : sendOf s src h = some m) (dst : Nat) (hfit : m.len + 64 ≤ (ringOf (tileOf s dst) m.q).size * 64)
    (hsp : (ringOf (tileOf s dst) m.q).spaces = []) (hheld : (ringOf (tileOf s dst) m.q).held = []) :
    let s' := makeGrants (reserved s src h dst m.q m.len) dst m.q
    MsgOnly s s' ∧ sendOf s' src h = some { m with asked := m.asked.filter (fun d => d != dst), grants := m.grants ++ [dst] } ∧
    ringOf (tileOf s' dst) m.q = { ringOf (tileOf s dst) m.q with
      wpos := msgUnits m.len, spaces := [⟨0, 0, msgUnits m.len, .granted, src, h, 0, m.len, 0⟩] } := by
  intro s'
  have hring : ringOf (tileOf (reserved s src h dst m.q m.len) dst) m.q =
      { ringOf (tileOf s dst) m.q with held := [⟨src, h, m.len⟩] } := by
    rw [ringOf_reserved, hheld]
    rfl
  have hplace : (ringOf (tileOf (reserved s src h dst m.q m.len) dst) m.q).settle.place (msgUnits m.len) = some (0, 0) := by
    rw [hring, settle_eq, Ring.place]
    simp only [hsp, msgUnits_le hfit, if_true]
  have hs1 := ringOf_updRing_self (reserved s src h dst m.q m.len) dst m.q
    (fun _ => { (ringOf (tileOf (reserved s src h dst m.q m.len) dst) m.q).settle with held := [] }.grant ⟨src, h, m.len⟩ (0, 0))
  have hs' : s' = updTile (granted1 (reserved s src h dst m.q m.len) dst m.q
      { (ringOf (tileOf (reserved s src h dst m.q m.len) dst) m.q).settle with held := [] } ⟨src, h, m.len⟩ (0, 0)) dst
      (fun x => setRing x m.q (ringOf x m.q).settle) := by
    have hgo : s' = grantGo 2 (reserved s src h dst m.q m.len) dst m.q := by
      have hlen : (ringOf (tileOf (reserved s src h dst m.q m.len) dst) m.q).held.length + 1 = 2 := by rw [hring]; rfl
      exact congrArg (fun n => grantGo n (reserved s src h dst m.q m.len) dst m.q) hlen
    rw [hgo, grantGo_grants (by rw [hring]) hplace, grantGo_stops]
    intro v hv
    rw [granted1, ringOf_updSend, hs1] at hv
    cases hv
  rw [hs', granted1]
  refine ⟨?_, ?_, ?_⟩
  · exact (((msgOnly_reserved s src h dst m.q m.len).updTile dst (msgTile_setRing m.q _)).trans (msgOnly_updSend _ src h _)).updTile dst
      (msgTile_setRing m.q _)
  · rw [sendOf_updRing]
    exact sendOf_updSend ((sendOf_updRing _ dst m.q _ src h).trans (sendOf_reserved hm dst m.q m.len)) (fun _ hh => hh)
  · rw [ringOf_updRing_self, ringOf_updSend, hs1, hring, settle_eq, settle_eq, Ring.grant]
    simp [hsp, hheld]

theorem releasesOf_asked (m : Send) (dst : Nat) : releasesOf { m with asked := dst :: m.asked } =
    (m.dests.filter (fun d => d != dst && !m.asked.contains d && !m.written.contains d && !m.lost.contains d)).map (fun d => (m.h, d)) := by
  rw [releasesOf]
  simp only [List.contains_cons, Bool.not_or]
  rfl

/-- A message that a ring could never hold ends with status 5. -/
theorem reservation_refused (hm : sendOf s src h = some m) (hw : mstatWaiters (tileOf s src) h = []) (dst : Nat) :
    let s' := failSend (updSend s src h (arrived dst)) src { m with asked := dst :: m.asked } 5
    MsgOnly s s' ∧ sendOf s' src h = some { m with phase := .final 5, asked := [], grants := [], granted := [] } ∧
    (tileOf s' src).rels = (tileOf s src).rels ++
      (m.dests.filter (fun d => d != dst && !m.asked.contains d && !m.written.contains d && !m.lost.contains d)).map (fun d => (h, d)) := by
  intro s'
  obtain rfl := h_of_sendOf hm
  have hs' : s' = updTile (updSend s src m.h (arrived dst)) src (givenUp { m with asked := dst :: m.asked } (.final 5)) := by
    refine failSend_of_none ?_ 5
    rw [updSend_eq, tileOf_updTile_self]
    exact (mstatWaiters_congr rfl _).trans hw
  rw [hs']
  refine ⟨(msgOnly_updSend s src m.h _).updTile src (msgTile_givenUp _ _), ?_, ?_⟩
  · have hasked := sendOf_updSend hm (f := arrived dst) (fun _ hh => hh)
    exact sendOf_givenUp (m := { m with asked := dst :: m.asked }) hasked (.final 5)
  · rw [tileOf_updTile_self, updSend_eq, tileOf_updTile_self, givenUp, releasesOf_asked]

/-! ### GRANT, GRANT_TIMEOUT and RESERVATION_RETRY -/

theorem all_granted_iff (m : Send) (dst : Nat) : (m.dests.all fun d => (m.granted ++ [dst]).contains d || m.lost.contains d) = true ↔
    ∀ d ∈ m.dests, d ∈ m.granted ∨ d = dst ∨ d ∈ m.lost := by
  simp [or_assoc]

theorem execGrant_arrives (hm : sendOf s src h = some m) (hph : m.phase = .reserving) (hg : dst ∈ m.grants) :
    exec (.grant src h dst) s = .next (updSend s src h (fun _ => { m with
      grants := m.grants.filter (fun d => d != dst)
      granted := m.granted ++ [dst]
      phase := if ∀ d ∈ m.dests, d ∈ m.granted ∨ d = dst ∨ d ∈ m.lost then .eligible else .reserving })) := by
  rw [exec, execGrant]
  simp only [hm, hph, List.contains_iff_mem, hg, true_and, if_true, all_granted_iff]

/-- A counter stands beside the tiles. -/
theorem updTile_addSat (s : State) (o hi lo n t : Nat) (f : Tile → Tile) : updTile (addSat s o hi lo n) t f = addSat (updTile s t f) o hi lo n := by
  have hreg : reg (updTile s t f) o = reg s o := reg_updTile s t f o
  rw [addSat, addSat, setF, setF, setReg, setReg, regF, regF, hreg]
  rfl

theorem execGrantTimeout_runs (hm : sendOf s src h = some m) (hph : m.phase = .reserving) :
    exec (.grantTimeout src h) s = .next (addSat (updTile s src (givenUp m .backoff)) (oMSGSTAT src) 63 48 1) := by
  obtain rfl := h_of_sendOf hm
  rw [exec, execGrantTimeout, ← releaseAll_ungranted, updSend_eq, ← updTile_addSat]
  simp only [hm, hph, if_true]
  rfl

theorem tileOf_addSat (s : State) (o hi lo n t : Nat) : tileOf (addSat s o hi lo n) t = tileOf s t := by
  rw [tileOf, addSat_tiles, tileOf]

theorem sendOf_addSat (s : State) (o hi lo n t h : Nat) : sendOf (addSat s o hi lo n) t h = sendOf s t h := by
  rw [sendOf, tileOf_addSat, sendOf]

/-- What the tiles hold is no register. -/
theorem TilesOnly.reg {s s1 : State} (h : TilesOnly s s1) (o : Nat) : reg s1 o = reg s o := by
  rw [Machine.reg, Machine.reg, ← congrArg State.bar0 h, ← congrArg State.asm h]

theorem MsgOnly.reg {s s1 : State} (h : MsgOnly s s1) (o : Nat) : reg s1 o = reg s o := TilesOnly.reg h.1 o

/-- A counter beside a change of what the message engines hold. -/
theorem MsgOnly.addSat {s s1 : State} (h : MsgOnly s s1) (o hi lo n : Nat) : MsgAnd s (addSat s1 o hi lo n) [o] := by
  refine ⟨⟨?_, h.2⟩, fun o' ho => ?_⟩
  · exact congrArg (fun y : State => { y with bar0 := [] }) h.1
  · rw [reg_addSat_ne _ _ _ _ (List.ne_of_not_mem_cons ho), h.reg]

theorem MsgOnly.regF_addSat {s s1 : State} (h : MsgOnly s s1) (o lo n : Nat) {hi : Nat} (hhi : hi < 64) :
    regF (Machine.addSat s1 o hi lo n) o hi lo = min (2 ^ (hi + 1 - lo) - 1) (regF s o hi lo + n) := by
  rw [regF_addSat_self _ _ _ _ _ hhi, regF, h.reg, regF]

theorem execReservationRetry_runs (hm : sendOf s src h = some m) (hph : m.phase = .backoff) :
    exec (.reservationRetry src h) s = .next (updTile s src (fun x => { x with sends := x.sends.filter (fun n => n.h != h) ++
      [{ m with phase := .reserving, asked := m.dests.filter (fun d => !m.lost.contains d) }] })) := by
  rw [exec, execReservationRetry]
  simp only [hm, hph, if_true]

theorem find_append_last (l : List Send) {h : Nat} {m : Send} (hm : m.h = h) :
    (l.filter (fun n => n.h != h) ++ [m]).find? (fun n => n.h == h) = some m := by
  rw [List.find?_append, List.find?_eq_none.2]
  · simp [hm]
  · simp

end

/-! ### GRANT_RELEASE -/

/-- What grants of held reservations do to a ring: every space stays, a new one is for a message that held a reservation. -/
def Ring.Grows (r r' : Ring) : Prop :=
  (∀ y ∈ r.spaces, y ∈ r'.spaces) ∧ (∀ y ∈ r'.spaces, y ∈ r.spaces ∨ ∃ v ∈ r.held, y.src = v.src ∧ y.h = v.h) ∧ ∀ v ∈ r'.held, v ∈ r.held

theorem Ring.Grows.trans {r r1 r2 : Ring} (h : r.Grows r1) (h' : r1.Grows r2) : r.Grows r2 := by
  obtain ⟨hsp, hnew, hheld⟩ := h
  obtain ⟨hsp', hnew', hheld'⟩ := h'
  refine ⟨fun y hy => hsp' y (hsp y hy), fun y hy => ?_, fun v hv => hheld v (hheld' v hv)⟩
  rcases hnew' y hy with hy | ⟨v, hv, hsame⟩
  · exact hnew y hy
  · exact .inr ⟨v, hheld v hv, hsame⟩

theorem Ring.grows_settle (r : Ring) : r.Grows r.settle := by
  rw [settle_eq]
  exact ⟨fun _ => id, fun _ => .inl, fun _ => id⟩

theorem Ring.grows_grant {r : Ring} {v : Resv} {rest : List Resv} (hl : r.held = v :: rest) (p : Nat × Nat) :
    r.Grows ({ r with held := rest }.grant v p) := by
  refine ⟨fun y hy => ?_, fun y hy => ?_, fun u hu => hl ▸ List.mem_cons_of_mem v hu⟩
  · exact List.mem_append_left _ (List.mem_append_left _ hy)
  · have hv : v ∈ r.held := hl ▸ List.mem_cons_self
    rcases List.mem_append.1 hy with hy | hy
    · rcases List.mem_append.1 hy with hy | hy
      · exact .inl hy
      · right
        split at hy
        · cases hy
        · exact ⟨v, hv, by rw [List.mem_singleton.1 hy]; exact ⟨rfl, rfl⟩⟩
    · exact .inr ⟨v, hv, by rw [List.mem_singleton.1 hy]; exact ⟨rfl, rfl⟩⟩

/-- What the grants of a queue leave alone: every other ring, and the releases. -/
def RingOnly (t q : Nat) (s s' : State) : Prop :=
  MsgOnly s s' ∧ (∀ u, (tileOf s' u).rels = (tileOf s u).rels) ∧ ∀ n ≠ q, ringOf (tileOf s' t) n = ringOf (tileOf s t) n

theorem RingOnly.trans {t q : Nat} {s s1 s2 : State} (h : RingOnly t q s s1) (h' : RingOnly t q s1 s2) : RingOnly t q s s2 := by
  obtain ⟨hm, hrel, hring⟩ := h
  obtain ⟨hm', hrel', hring'⟩ := h'
  exact ⟨hm.trans hm', fun u => (hrel' u).trans (hrel u), fun n hn => (hring' n hn).trans (hring n hn)⟩

theorem ringOnly_updRing (s : State) (t q : Nat) (R : Tile → Ring) : RingOnly t q s (updTile s t (fun x => setRing x q (R x))) :=
  ⟨msgOnly_updTile s t (msgTile_setRing q R), fun u => tile_updTile (fun x => x.rels) rfl u, fun _ hn => ringOf_updRing_ne s R (.inr hn)⟩

theorem ringOnly_granted1 (s : State) (t q : Nat) (r : Ring) (v : Resv) (p : Nat × Nat) : RingOnly t q s (granted1 s t q r v p) :=
  (ringOnly_updRing s t q _).trans ⟨msgOnly_updSend _ v.src v.h _, fun u => tile_updTile (fun x => x.rels) rfl u,
    fun n _ => ringOf_updSend _ v.src v.h _ t n⟩

theorem grantGo_grows (n : Nat) (s : State) (t q : Nat) :
    RingOnly t q s (grantGo n s t q) ∧ (ringOf (tileOf s t) q).Grows (ringOf (tileOf (grantGo n s t q) t) q) := by
  induction n generalizing s with
  | zero => exact ⟨⟨MsgOnly.refl s, fun _ => rfl, fun _ _ => rfl⟩, fun _ => id, fun _ => .inl, fun _ => id⟩
  | succ n ih =>
    by_cases hstop : ∀ v, (ringOf (tileOf s t) q).held.head? = some v → (ringOf (tileOf s t) q).settle.place (msgUnits v.len) = none
    · rw [grantGo_stops hstop, ringOf_updRing_self]
      exact ⟨ringOnly_updRing s t q _, Ring.grows_settle _⟩
    · push Not at hstop
      obtain ⟨v, hv, hplace⟩ := hstop
      obtain ⟨rest, hl⟩ := List.head?_eq_some_iff.1 hv
      obtain ⟨p, hp⟩ := Option.ne_none_iff_exists'.1 hplace
      rw [grantGo_grants hl hp]
      obtain ⟨honly, hgrows⟩ := ih (granted1 s t q { (ringOf (tileOf s t) q).settle with held := rest } v p)
      refine ⟨(ringOnly_granted1 s t q _ v p).trans honly, Ring.Grows.trans ?_ hgrows⟩
      rw [granted1, ringOf_updSend, ringOf_updRing_self]
      exact (Ring.grows_settle _).trans (Ring.grows_grant ((held_settle _).trans hl) p)

/-- The ring with the grant and the reservation of message (src, h) taken away. -/
def releasedRing (r : Ring) (src h : Nat) : Ring :=
  let sp := r.spaces.filter (fun x => !(x.st == .granted && x.src == src && x.h == h))
  { r with
    spaces := if sp.any (fun x => x.st != .skip) then dropSkips sp else []
    held := r.held.filter (fun v => !(v.src == src && v.h == h)) }

theorem freeGrant_eq (s : State) (t q src h : Nat) :
    freeGrant s t q src h = makeGrants (updTile s t (fun x => setRing x q (releasedRing (ringOf (tileOf s t) q) src h))) t q := rfl

theorem mem_of_mem_dropSkips {l : List RingSpace} {y : RingSpace} (h : y ∈ dropSkips l) : y ∈ l := by
  induction l with
  | nil => exact h
  | cons z l ih =>
    rw [dropSkips] at h
    split at h
    · exact List.mem_cons_of_mem z (ih h)
    · exact h

theorem mem_dropSkips {l : List RingSpace} {y : RingSpace} (h : y ∈ l) (hy : y.st ≠ .skip) : y ∈ dropSkips l := by
  induction l with
  | nil => exact h
  | cons z l ih =>
    rw [dropSkips]
    split
    · next hz => exact ih (List.mem_of_ne_of_mem (fun e => hy (e ▸ hz)) h)
    · exact h

/-- No grant of message (src, h) is left in the ring and no reservation; what was written or delivered stays. -/
def Ring.Released (src h : Nat) (r r' : Ring) : Prop :=
  (∀ y ∈ r'.spaces, ¬ (y.st = .granted ∧ y.src = src ∧ y.h = h)) ∧ (∀ v ∈ r'.held, ¬ (v.src = src ∧ v.h = h)) ∧
  ∀ y ∈ r.spaces, y.st = .written ∨ y.st = .delivered → y ∈ r'.spaces

theorem released_releasedRing (r : Ring) (src h : Nat) : Ring.Released src h r (releasedRing r src h) := by
  have hkept (y : RingSpace) : y ∈ (releasedRing r src h).spaces → y ∈ r.spaces.filter (fun x => !(x.st == .granted && x.src == src && x.h == h)) := by
    intro hy
    rw [releasedRing] at hy
    dsimp only at hy
    split at hy
    · exact mem_of_mem_dropSkips hy
    · cases hy
  refine ⟨fun y hy => ?_, fun v hv => ?_, fun y hy hst => ?_⟩
  · simpa [or_iff_not_imp_left] using (List.mem_filter.1 (hkept y hy)).2
  · simpa [or_iff_not_imp_left] using (List.mem_filter.1 hv).2
  · have hne : y.st ≠ .skip := by rcases hst with hst | hst <;> simp [hst]
    have hmem : y ∈ r.spaces.filter (fun x => !(x.st == .granted && x.src == src && x.h == h)) :=
      List.mem_filter.2 ⟨hy, by rcases hst with hst | hst <;> simp [hst]⟩
    rw [releasedRing]
    dsimp only
    rw [if_pos (List.any_eq_true.2 ⟨y, hmem, by simpa using hne⟩)]
    exact mem_dropSkips hmem hne

/-- Grants to the reservations still held bring none of the message back. -/
theorem Ring.Released.grows {src h : Nat} {r r1 r2 : Ring} (hrel : Ring.Released src h r r1) (hg : r1.Grows r2) : Ring.Released src h r r2 := by
  obtain ⟨hsp, hheld, hkept⟩ := hrel
  obtain ⟨hstay, hnew, hsub⟩ := hg
  refine ⟨fun y hy hh => ?_, fun v hv => hheld v (hsub v hv), fun y hy hst => hstay y (hkept y hy hst)⟩
  rcases hnew y hy with hy | ⟨v, hv, hsrc, hvh⟩
  · exact hsp y hy hh
  · exact hheld v hv ⟨hsrc ▸ hh.2.1, hvh ▸ hh.2.2⟩

theorem freeGrant_releases (s : State) (t q src h : Nat) :
    RingOnly t q s (freeGrant s t q src h) ∧ Ring.Released src h (ringOf (tileOf s t) q) (ringOf (tileOf (freeGrant s t q src h) t) q) := by
  rw [freeGrant_eq]
  obtain ⟨honly, hgrows⟩ := grantGo_grows _ (updTile s t (fun x => setRing x q (releasedRing (ringOf (tileOf s t) q) src h))) t q
  rw [ringOf_updRing_self] at hgrows
  exact ⟨(ringOnly_updRing s t q _).trans honly, (released_releasedRing _ src h).grows hgrows⟩

/-- The release of a message at the first n queues of a tile. -/
def freeGrants (s : State) (t src h n : Nat) : State := (List.range n).foldl (fun s q => freeGrant s t q src h) s

theorem freeGrants_release (s : State) (t src h n : Nat) :
    let s' := freeGrants s t src h n
    MsgOnly s s' ∧ (∀ u, (tileOf s' u).rels = (tileOf s u).rels) ∧
    (∀ q < n, Ring.Released src h (ringOf (tileOf s t) q) (ringOf (tileOf s' t) q)) ∧
    ∀ q, n ≤ q → ringOf (tileOf s' t) q = ringOf (tileOf s t) q := by
  induction n with
  | zero => exact ⟨MsgOnly.refl s, fun _ => rfl, fun q hq => absurd hq (Nat.not_lt_zero q), fun _ _ => rfl⟩
  | succ n ih =>
    obtain ⟨hmsg, hrels, hdone, hrest⟩ := ih
    have hsucc : freeGrants s t src h (n + 1) = freeGrant (freeGrants s t src h n) t n src h := by
      rw [freeGrants, List.range_succ, List.foldl_append]
      rfl
    obtain ⟨⟨hmsg', hrels', hother⟩, hnow⟩ := freeGrant_releases (freeGrants s t src h n) t n src h
    rw [hsucc]
    refine ⟨hmsg.trans hmsg', fun u => (hrels' u).trans (hrels u), fun q hq => ?_, fun q hq => ?_⟩
    · rcases Nat.lt_succ_iff_lt_or_eq.1 hq with hlt | rfl
      · rw [hother q hlt.ne]
        exact hdone q hlt
      · rw [← hrest q le_rfl]
        exact hnow
    · rw [hother q (by omega), hrest q (by omega)]

theorem execGrantRelease_runs {src h dst : Nat} {s : State} (hr : (h, dst) ∈ (tileOf s src).rels) :
    exec (.grantRelease src h dst) s =
      .next (freeGrants (updTile s src (fun x => { x with rels := dropOne (h, dst) x.rels })) dst src h 8) := by
  rw [exec, execGrantRelease, if_pos (List.contains_iff_mem.2 hr)]
  rfl

/-! ### The statement -/

/-- Settles O16: an arriving reservation is granted, held or refused by what its ring can hold; the other events change the entry of
the message, and a release frees the message at every queue of the destination. -/
theorem messageReservation : Obligations.MessageReservation := by
  unfold Obligations.MessageReservation
  intro src h dst m s hm x r
  refine ⟨fun hph hasked hrel hblk hres => ⟨?granted, ?held, ?refused⟩, ?grant, ?timeout, ?retry, ?release⟩
  case granted => exact fun hfit hsp hheld =>
    ⟨_, execReservation_admitted hm ⟨hph, hasked, hrel, hblk, hres⟩ hfit, reserved_granted hm dst hfit hsp hheld⟩
  case held => exact fun hfit hwait =>
    ⟨_, execReservation_admitted hm ⟨hph, hasked, hrel, hblk, hres⟩ hfit, reserved_held hm dst hwait⟩
  case refused => exact fun hfit hw =>
    ⟨_, execReservation_refused hm ⟨hph, hasked, hrel, hblk, hres⟩ hfit, reservation_refused hm hw dst⟩
  case grant =>
    intro hph hg
    have hh := h_of_sendOf hm
    exact ⟨_, execGrant_arrives hm hph hg, msgOnly_updSend s src h _, sendOf_updSend hm (fun _ _ => hh)⟩
  case timeout =>
    intro hph
    obtain rfl := h_of_sendOf hm
    have hmsg := msgOnly_updTile s src (msgTile_givenUp m .backoff)
    refine ⟨_, execGrantTimeout_runs hm hph, hmsg.addSat _ 63 48 1, ?_, hmsg.regF_addSat _ 48 1 (by decide), ?_⟩
    · rw [sendOf_addSat]
      exact sendOf_givenUp hm .backoff
    · rw [tileOf_addSat, tileOf_updTile_self]
      rfl
  case retry =>
    intro hph
    have hh := h_of_sendOf hm
    refine ⟨_, execReservationRetry_runs hm hph, msgOnly_updTile s src (fun _ => rfl), ?_, ?_⟩
    · rw [sendOf, tileOf_updTile_self]
      exact find_append_last _ hh
    · rw [tileOf_updTile_self]
  case release =>
    intro hr
    have hdrop := msgOnly_updTile s src (f := fun x => { x with rels := dropOne (h, dst) x.rels }) (fun _ => rfl)
    obtain ⟨hmsg, hrels, hfreed, -⟩ := freeGrants_release (updTile s src (fun x => { x with rels := dropOne (h, dst) x.rels })) dst src h 8
    refine ⟨_, execGrantRelease_runs hr, hdrop.trans hmsg, ?_, fun q hq => ?_⟩
    · rw [hrels, tileOf_updTile_self]
    · have hring : ringOf (tileOf (updTile s src (fun x => { x with rels := dropOne (h, dst) x.rels })) dst) q = ringOf (tileOf s dst) q :=
        tile_updTile (fun x => ringOf x q) rfl dst
      have hq' := hfreed q hq
      rw [hring] at hq'
      exact hq'

end Sys2Proof.Machine
end

section

/-! ## Injection, writing and completion of messages, and the time-out of RECV (R119, R121 to R124, R394) -/

namespace Sys2Proof.Machine

/-! ### MESSAGE_INJECT (R121) -/

theorem Mem.read_append (m : List Host.Cell) (a i j : Nat) : Mem.read m a (i + j) = Mem.read m a i ++ Mem.read m (a + i) j := by
  rw [Mem.read, List.range_add, List.map_append, List.map_map, Mem.read, Mem.read]
  simp only [Function.comp_def, Nat.add_assoc]

theorem tmRead_of_memErr_nil (s : State) (t src a n : Nat) (h : (tileOf s t).memErr = []) :
    tmRead s t src a n = (s, Mem.read (tileOf s t).mem a n, false) := by
  rw [tmRead, tmWords_of_memErr_nil s t src _ h]
  rfl

/-- Without errors the payload is what tile memory holds (R121), flit after flit. -/
theorem readPayload_of_memErr_nil (s : State) (t off len : Nat) (h : (tileOf s t).memErr = []) :
    readPayload s t off len = (s, Mem.read (tileOf s t).mem off len, false) := by
  have hflits (n : Nat) : (List.range n).foldl (fun (r : State × List Byte × Bool) i =>
      let k := min 64 (len - 64 * i)
      let x := tmRead r.1 t 3 (off + 64 * i) k
      (x.1, r.2.1 ++ (if x.2.2 then List.replicate k 0 else x.2.1), r.2.2 || x.2.2)) (s, [], false) =
        (s, Mem.read (tileOf s t).mem off (min (64 * n) len), false) := by
    induction n with
    | zero => simp [Mem.read]
    | succ n ih =>
      rw [List.range_succ, List.foldl_append, ih]
      simp only [List.foldl_cons, List.foldl_nil, tmRead_of_memErr_nil s t 3 _ _ h, Bool.false_eq_true, if_false, Bool.or_false]
      congr 2
      by_cases hn : 64 * n ≤ len
      · rw [Nat.min_eq_left hn, ← Mem.read_append]
        congr 1
        omega
      · rw [show min 64 (len - 64 * n) = 0 by omega, show min (64 * (n + 1)) len = min (64 * n) len by omega]
        simp [Mem.read]
  rw [readPayload, hflits, cdiv, Nat.min_eq_right (by omega)]

/-- Message (src, h) injected with the serial number of its tile. -/
def injected (s : State) (src h : Nat) (payload : List Byte) : State :=
  updSend (updTile s src (fun x => { x with serial := (tileOf s src).serial + 1 })) src h
    (fun m => { m with phase := .injected, payload := payload, damaged := false, inj := (tileOf s src).serial })

section

variable {src h dst : Nat} {m : Send} {s : State}

theorem execMessageInject_runs (hm : sendOf s src h = some m) (hph : m.phase = .eligible) (herr : (tileOf s src).memErr = []) :
    exec (.messageInject src h) s = .next (injected s src h (Mem.read (tileOf s src).mem m.off m.len)) := by
  rw [exec, execMessageInject]
  simp only [hm, hph, if_true, readPayload_of_memErr_nil s src m.off m.len herr]
  rfl

theorem injected_gives (hm : sendOf s src h = some m) (payload : List Byte) :
    let s' := injected s src h payload
    MsgOnly s s' ∧ (tileOf s' src).serial = (tileOf s src).serial + 1 ∧
    sendOf s' src h = some { m with phase := .injected, payload := payload, damaged := false, inj := (tileOf s src).serial } := by
  intro s'
  have hserial := msgOnly_updTile s src (f := fun x => { x with serial := (tileOf s src).serial + 1 }) (fun _ => rfl)
  refine ⟨hserial.trans (msgOnly_updSend _ src h _), ?_, ?_⟩
  · exact (tile_updTile (fun x => x.serial) rfl src).trans (congrArg Tile.serial (tileOf_updTile_self s src _))
  · have hkept : sendOf (updTile s src (fun x => { x with serial := (tileOf s src).serial + 1 })) src h = some m :=
      (sendOf_updTile_keeps rfl src h).trans hm
    exact sendOf_updSend hkept (fun _ hh => hh)

/-! ### Delivery to a waiting RECV (R124) -/

/-- Groups and rings of tiles, at most, differ. -/
def GroupsAndRings (s s' : State) : Prop := TilesOnly s s' ∧ ∀ u, ∃ gs rs, tileOf s' u = { tileOf s u with groups := gs, rings := rs }

theorem GroupsAndRings.refl (s : State) : GroupsAndRings s s := ⟨rfl, fun _ => ⟨_, _, rfl⟩⟩

theorem GroupsAndRings.trans {s s1 s2 : State} (h : GroupsAndRings s s1) (h' : GroupsAndRings s1 s2) : GroupsAndRings s s2 := by
  obtain ⟨hs, ht⟩ := h
  obtain ⟨hs', ht'⟩ := h'
  refine ⟨hs.trans hs', fun u => ?_⟩
  obtain ⟨gs, rs, hu⟩ := ht u
  obtain ⟨gs', rs', hu'⟩ := ht' u
  exact ⟨gs', rs', by rw [hu', hu]⟩

theorem groupsAndRings_updTile (s : State) (t : Nat) {f : Tile → Tile} (hf : ∀ x, ∃ gs rs, f x = { x with groups := gs, rings := rs }) :
    GroupsAndRings s (updTile s t f) := by
  refine ⟨rfl, fun u => ?_⟩
  by_cases hu : u = t
  · rw [hu, tileOf_updTile_self]
    exact hf _
  · rw [tileOf_updTile_ne s f hu]
    exact ⟨_, _, rfl⟩

/-- A message delivered to the waiting RECV of a group, which is ready again. -/
def recvServed (s : State) (t slot q wd : Nat) (m : RingSpace) : State :=
  updTile (updGroup (deliver s t slot q wd m) t slot wake) t (fun x => dropWaiter x slot)

theorem groupsAndRings_recvServed (s : State) (t slot q wd : Nat) (m : RingSpace) : GroupsAndRings s (recvServed s t slot q wd m) := by
  rw [recvServed, deliver_eq]
  have hring := groupsAndRings_updTile s t (f := fun x => setRing x q (delivered (ringOf (tileOf s t) q) m)) (fun _ => ⟨_, _, rfl⟩)
  have hgroup (s : State) (y : Group) : GroupsAndRings s (setGroup s t slot y) := groupsAndRings_updTile s t (fun _ => ⟨_, _, rfl⟩)
  exact ((hring.trans (hgroup _ _)).trans (hgroup _ _)).trans (groupsAndRings_updTile _ t (fun _ => ⟨_, _, rfl⟩))

theorem groupsAndRings_serveWaiters (s : State) (t q : Nat) : GroupsAndRings s (serveWaiters s t q) := by
  refine List.foldlRecOn (motive := GroupsAndRings s) _ _ (GroupsAndRings.refl s) (fun y hy slot _ => ?_)
  split
  · split
    · exact hy.trans (groupsAndRings_recvServed y t slot q _ _)
    · exact hy
  · exact hy

theorem serveWaiters_none {s : State} {t q : Nat} (hw : (ringOf (tileOf s t) q).waiters = []) : serveWaiters s t q = s := by
  rw [serveWaiters, hw]
  rfl

theorem serveWaiters_one {s : State} {t q slot wd lim : Nat} {m : RingSpace} (hw : (ringOf (tileOf s t) q).waiters = [slot])
    (hwait : (grp s t slot).wait = .recv q wd lim) (hm : oldestWritten (ringOf (tileOf s t) q) = some m) :
    serveWaiters s t q = recvServed s t slot q wd m := by
  rw [serveWaiters, hw, List.foldl_cons, List.foldl_nil]
  simp only [hm, hwait, if_true]
  rfl

theorem grp_dropWaiter (s : State) (t slot u k : Nat) : grp (updTile s t (fun x => dropWaiter x slot)) u k = grp s u k := grp_updTile rfl u k

theorem grp_recvServed_self (s : State) (t slot q wd : Nat) (m : RingSpace) :
    grp (recvServed s t slot q wd m) t slot = wake (activeRow (grp s t slot) wd 4 (messageWords (ringOf (tileOf s t) q).base m)) := by
  rw [recvServed, grp_dropWaiter, updGroup, grp_setGroup_self, deliver_eq, tileAndRow, grp_setGroup_self]

theorem grp_recvServed_ne (s : State) (t q wd : Nat) {slot k : Nat} (m : RingSpace) (hk : k ≠ slot) :
    grp (recvServed s t slot q wd m) t k = grp s t k := by
  rw [recvServed, grp_dropWaiter, updGroup, grp_setGroup_slot _ _ _ hk, deliver_eq, tileAndRow, grp_setGroup_slot _ _ _ hk]
  exact grp_updTile_self s t k rfl

/-! ### MESSAGE_WRITE (R122, R394) -/

/-- What a message writes into its space: its record, its payload and zeros to the end. -/
def messageBytes (r : Ring) (src : Nat) (m : Send) (sp : RingSpace) : List Byte :=
  msgRecord (msgInfo src m.slot m.damaged) m.len m.tag (r.base + 64 * sp.start + 64) ++ m.payload ++ List.replicate (64 * sp.units - 64 - m.len) 0

/-- The granted space of a message, written. -/
def writtenSpace (r : Ring) (src : Nat) (m : Send) (sp : RingSpace) : RingSpace :=
  { sp with st := .written, info := msgInfo src m.slot m.damaged, tag := m.tag, age := (r.spaces.map (fun z => z.age)).foldl max 0 + 1 }

def writtenRing (r : Ring) (src : Nat) (m : Send) (sp : RingSpace) : Ring :=
  { r with spaces := r.spaces.map (fun z => if z = sp then writtenSpace r src m sp else z) }

/-- A message written at one destination, before a RECV sees it. -/
def writtenAt (s : State) (src h dst : Nat) (m : Send) (sp : RingSpace) : State :=
  let r := ringOf (tileOf s dst) m.q
  updSend (updTile (updTile s dst (fun x => { x with mem := Mem.cells x.mem (Mem.lay (r.base + 64 * sp.start) (messageBytes r src m sp)) })) dst
    (fun x => setRing x m.q (writtenRing r src m sp))) src h (fun m => { m with written := m.written ++ [dst] })

theorem execMessageWrite_runs {sp : RingSpace} (hm : sendOf s src h = some m) (hph : m.phase = .injected) (hg : dst ∈ m.granted)
    (hw : dst ∉ m.written) (hl : dst ∉ m.lost) (hblk : writeBlocked s src dst m = false) (hbist : bankInBist s dst = false)
    (hsp : (ringOf (tileOf s dst) m.q).spaces.find? (fun z => z.st == .granted && z.src == src && z.h == h) = some sp)
    (hskip : ∀ z ∈ (ringOf (tileOf s dst) m.q).spaces, z.st = .skip → ¬ (z.src = src ∧ z.h = h)) (herr : (tileOf s dst).memErr = []) :
    exec (.messageWrite src h dst) s = .next (serveWaiters (writtenAt s src h dst m sp) dst m.q) := by
  have hskips : (ringOf (tileOf s dst) m.q).spaces.filter (fun z => z.st == .skip && z.src == src && z.h == h) = [] :=
    List.filter_eq_nil_iff.2 (fun z hz => by simpa [and_imp] using hskip z hz)
  rw [exec, execMessageWrite]
  simp only [hm, hph, List.contains_iff_mem, hg, hw, hl, hblk, hbist, not_false_eq_true, and_self, if_true, hsp, hskips, List.foldl_nil,
    tmWrite_of_memErr_nil s dst 3 _ herr]
  rfl

theorem length_msgRecord (info : BitVec 32) (len : Nat) (tag : BitVec 16) (payload : Nat) : (msgRecord info len tag payload).length = 64 := by
  simp only [msgRecord, List.length_append, leBytes_length]

theorem length_messageBytes (r : Ring) (src : Nat) {m : Send} {sp : RingSpace} (hp : m.payload.length = m.len) (hu : sp.units = msgUnits m.len) :
    (messageBytes r src m sp).length = 64 * sp.units := by
  simp only [messageBytes, List.length_append, length_msgRecord, hp, List.length_replicate, hu, msgUnits, cdiv]
  omega

/-- Zeros at the end of a list of bytes are what it reads beyond its end. -/
theorem getD_append_zeros (l : List Byte) (n i : Nat) : (l ++ List.replicate n 0).getD i 0 = l.getD i 0 := by
  by_cases hi : i < l.length
  · exact List.getD_append l _ 0 i hi
  · rw [List.getD_append_right _ _ _ _ (Nat.le_of_not_lt hi), List.getD_eq_default _ _ (Nat.le_of_not_lt hi)]
    simp [List.getD_eq_getElem?_getD, List.getElem?_replicate]
    split <;> rfl

theorem writtenAt_gives (hm : sendOf s src h = some m) (dst : Nat) (sp : RingSpace) :
    let s' := writtenAt s src h dst m sp
    let r := ringOf (tileOf s dst) m.q
    TilesOnly s s' ∧ (tileOf s' dst).mem = Mem.cells (tileOf s dst).mem (Mem.lay (r.base + 64 * sp.start) (messageBytes r src m sp)) ∧
    (∀ u ≠ dst, (tileOf s' u).mem = (tileOf s u).mem) ∧ sendOf s' src h = some { m with written := m.written ++ [dst] } ∧
    ringOf (tileOf s' dst) m.q = writtenRing r src m sp ∧ ∀ u k, grp s' u k = grp s u k := by
  intro s' r
  have hmem : ∀ u, (tileOf s' u).mem = (tileOf (updTile s dst (fun x => { x with
      mem := Mem.cells x.mem (Mem.lay (r.base + 64 * sp.start) (messageBytes r src m sp)) })) u).mem := fun u =>
    (tile_updTile (fun x => x.mem) rfl u).trans (tile_updTile (fun x => x.mem) rfl u)
  refine ⟨rfl, ?_, fun u hu => ?_, ?_, ?_, fun u k => ?_⟩
  · rw [hmem, tileOf_updTile_self]
  · rw [hmem, tileOf_updTile_ne s _ hu]
  · refine sendOf_updSend ?_ (fun _ hh => hh)
    rw [sendOf_updRing]
    exact (sendOf_updTile_keeps rfl src h).trans hm
  · exact (ringOf_updSend _ src h _ dst m.q).trans (ringOf_updRing_self _ dst m.q _)
  · exact (grp_updTile rfl u k).trans ((grp_updTile rfl u k).trans (grp_updTile rfl u k))

theorem le_foldl_max {l : List Nat} {a b : Nat} (h : a ∈ l ∨ a ≤ b) : a ≤ l.foldl max b := by
  induction l generalizing b with
  | nil => exact h.resolve_left List.not_mem_nil
  | cons c l ih =>
    refine ih ?_
    rcases h with h | h
    · rcases List.mem_cons.1 h with rfl | h
      · exact .inr (le_max_right b a)
      · exact .inl h
    · exact .inr (le_max_of_le_left h)

theorem age_lt_writtenSpace (r : Ring) (src : Nat) (m : Send) (sp : RingSpace) : ∀ z ∈ r.spaces, z.age < (writtenSpace r src m sp).age :=
  fun _ hz => Nat.lt_succ_of_le (le_foldl_max (.inl (List.mem_map_of_mem hz)))

/-- The oldest of equal messages is one of them. -/
theorem oldestWritten_of_all_eq {r : Ring} {m : RingSpace} (hm : m ∈ r.spaces) (hst : m.st = .written) (hall : ∀ z ∈ r.spaces, z.st = .written → z = m) :
    oldestWritten r = some m := by
  have hmem : m ∈ r.spaces.filter (fun z => z.st == .written) := List.mem_filter.2 ⟨hm, by simp [hst]⟩
  have hone : ∀ z ∈ r.spaces.filter (fun z => z.st == .written), z = m := fun _ hz =>
    hall _ (List.mem_of_mem_filter hz) (by simpa using List.of_mem_filter hz)
  rw [oldestWritten, List.eq_replicate_of_mem hone]
  cases hl : (r.spaces.filter (fun z => z.st == .written)).length with
  | zero =>
    rw [List.eq_nil_of_length_eq_zero hl] at hmem
    cases hmem
  | succ n =>
    rw [List.replicate_succ, List.foldl_cons]
    clear hl
    induction n with
    | zero => rfl
    | succ n ih =>
      rw [List.replicate_succ, List.foldl_cons]
      simpa using ih

theorem oldestWritten_writtenRing {r : Ring} {src : Nat} {m : Send} {sp : RingSpace} (hsp : sp ∈ r.spaces) (hnone : ∀ z ∈ r.spaces, z.st ≠ .written) :
    oldestWritten (writtenRing r src m sp) = some (writtenSpace r src m sp) := by
  refine oldestWritten_of_all_eq (List.mem_map.2 ⟨sp, hsp, if_pos rfl⟩) rfl (fun _ hz hst => ?_)
  obtain ⟨y, hy, rfl⟩ := List.mem_map.1 hz
  split
  · rfl
  · next hne =>
    rw [if_neg hne] at hst
    exact absurd hst (hnone y hy)

/-- Serving the waiting RECVs writes no tile memory and no send list. -/
theorem serveWaiters_keeps (s : State) (t q : Nat) :
    TilesOnly s (serveWaiters s t q) ∧ (∀ u, (tileOf (serveWaiters s t q) u).mem = (tileOf s u).mem) ∧
    ∀ u h, sendOf (serveWaiters s t q) u h = sendOf s u h := by
  obtain ⟨honly, htiles⟩ := groupsAndRings_serveWaiters s t q
  refine ⟨honly, fun u => ?_, fun u h => ?_⟩
  · obtain ⟨gs, rs, hu⟩ := htiles u
    rw [hu]
  · obtain ⟨gs, rs, hu⟩ := htiles u
    rw [sendOf, hu, sendOf]

/-- The words a RECV gets of a message that was just written (Table 4.11). -/
theorem messageWords_writtenSpace (r : Ring) (src : Nat) {m : Send} {sp : RingSpace} (hlen : sp.len = m.len) :
    messageWords (writtenRing r src m sp).base (writtenSpace r src m sp) = fun i =>
      if i = 0 then msgInfo src m.slot m.damaged else if i = 1 then BitVec.ofNat 32 m.len else if i = 2 then BitVec.ofNat 32 (m.tag.toNat * 2 ^ 16)
      else BitVec.ofNat 32 (r.base + 64 * sp.start + 64) := by
  funext i
  have haddr : (writtenRing r src m sp).base + ((writtenSpace r src m sp).start + 1) * 64 = r.base + 64 * sp.start + 64 := by
    show r.base + (sp.start + 1) * 64 = _
    omega
  rw [messageWords, haddr, ← hlen]
  rfl

/-! ### MESSAGE_COMPLETE (R121, R123) -/

/-- The final status of a message that every destination has, or that was lost there. -/
def finalStatus (m : Send) : Nat := if m.lost ≠ [] then 7 else if m.damaged then 6 else if m.late then 2 else 0

/-- A late cancellation counts. -/
def lateCounted (s : State) (src : Nat) (m : Send) : State := if finalStatus m = 2 then addSat s (oMSGSTAT src) 47 32 1 else s

theorem execMessageComplete_runs (hm : sendOf s src h = some m) (hph : m.phase = .injected) (hall : ∀ d ∈ m.dests, d ∈ m.written ∨ d ∈ m.lost) :
    exec (.messageComplete src h) s = .next (finalizeSend (lateCounted s src m) src h (finalStatus m)) := by
  have hdone : (m.dests.all fun d => m.written.contains d || m.lost.contains d) = true := by simpa using hall
  rw [exec, execMessageComplete]
  simp only [hm, hph, hdone, and_self, if_true]
  rfl

theorem tileOf_lateCounted (s : State) (src : Nat) (m : Send) (u : Nat) : tileOf (lateCounted s src m) u = tileOf s u := by
  rw [lateCounted]
  split
  · exact tileOf_addSat s _ _ _ _ u
  · rfl

def finished (status : Nat) (m : Send) : Send := { m with phase := .final status }

theorem MsgOnly.msgAnd {s s1 : State} (h : MsgOnly s s1) (l : List Nat) : MsgAnd s s1 l :=
  ⟨⟨congrArg (fun y : State => { y with bar0 := [] }) h.1, h.2⟩, fun o _ => h.reg o⟩

/-- A message that is final with no MSTAT waiting. -/
theorem finalized_gives (hm : sendOf s src h = some m) (hw : mstatWaiters (tileOf s src) h = []) :
    let s' := finalizeSend (lateCounted s src m) src h (finalStatus m)
    MsgAnd s s' [oMSGSTAT src] ∧ sendOf s' src h = some { m with phase := .final (finalStatus m) } ∧
    regF s' (oMSGSTAT src) 47 32 = min 0xFFFF (regF s (oMSGSTAT src) 47 32 + (if finalStatus m = 2 then 1 else 0)) := by
  intro s'
  have hmsg := msgOnly_updSend s src h (finished (finalStatus m))
  have hsend := sendOf_updSend hm (f := finished (finalStatus m)) (fun _ hh => hh)
  have hs' : s' = updSend (lateCounted s src m) src h (finished (finalStatus m)) := by
    refine finalizeSend_of_none ?_ _
    rw [tileOf_lateCounted, hw]
  rw [hs', lateCounted]
  by_cases hlate : finalStatus m = 2
  · rw [if_pos hlate, if_pos hlate, updSend_eq, updTile_addSat, ← updSend_eq, sendOf_addSat]
    exact ⟨hmsg.addSat _ 47 32 1, hsend, hmsg.regF_addSat _ 32 1 (by decide)⟩
  · rw [if_neg hlate, if_neg hlate]
    have hlt := regF_lt s (oMSGSTAT src) 47 32
    refine ⟨hmsg.msgAnd _, hsend, ?_⟩
    rw [regF, hmsg.reg, ← regF]
    omega

/-- The one MSTAT that waits for a message that is final gets the status, and the handle is free. -/
theorem finalizeSend_of_one {s : State} {t h g wd : Nat} (hw : mstatWaiters (tileOf s t) h = [(g, wd)]) (status : Nat) :
    finalizeSend s t h status = updTile (updGroup (updSend s t h (fun m => { m with phase := .final status })) t g
      (fun g => wake (rsetActive g wd (BitVec.ofNat 32 status)))) t (fun x => { x with sends := x.sends.filter (fun m => m.h != h) }) := by
  rw [finalizeSend]
  simp only [hw]
  rfl

theorem finalizeSend_of_one_gives {s1 : State} {t g wd : Nat} (hw : mstatWaiters (tileOf s1 t) h = [(g, wd)]) (hwd : wd < 128) (status : Nat) :
    let s' := finalizeSend s1 t h status
    TilesOnly s1 s' ∧ sendOf s' t h = none ∧ (grp s' t g).st = .ready ∧ (grp s' t g).wait = .none ∧
    ActiveGive (grp s1 t g) (grp s' t g) wd 1 (fun _ _ => BitVec.ofNat 32 status) ∧ ∀ k ≠ g, grp s' t k = grp s1 t k := by
  intro s'
  have hs' := finalizeSend_of_one hw status
  have hgrp (k : Nat) : grp (updSend s1 t h (fun m => { m with phase := .final status })) t k = grp s1 t k := grp_updTile rfl t k
  have hkept (k : Nat) : grp s' t k = grp (updGroup (updSend s1 t h (fun m => { m with phase := .final status })) t g
      (fun y => wake (rsetActive y wd (BitVec.ofNat 32 status)))) t k :=
    (congrArg (fun z => grp z t k) hs').trans (grp_updTile rfl t k)
  have hself : grp s' t g = wake (rsetActive (grp s1 t g) wd (BitVec.ofNat 32 status)) := by
    rw [hkept, grp_updGroup_self, hgrp]
  refine ⟨?_, ?_, ?_, ?_, ?_, fun k hk => ?_⟩
  · rw [show s' = _ from hs']
    exact (TilesOnly.trans (tilesOnly_updTile s1 t _) (tilesOnly_updTile _ t _)).trans (tilesOnly_updTile _ t _)
  · rw [show s' = _ from hs', sendOf, tileOf_updTile_self]
    exact List.find?_eq_none.2 (fun m hm => by simpa using List.of_mem_filter hm)
  · rw [hself]
    rfl
  · rw [hself]
    rfl
  · rw [hself]
    exact (activeGive_rsetActive (grp s1 t g) wd _ hwd).of_regs rfl rfl rfl
  · rw [hkept, grp_updGroup_slot _ _ _ hk, hgrp]

theorem addSat_frame (s : State) (o hi lo n : Nat) : { addSat s o hi lo n with tiles := s.tiles, bar0 := s.bar0 } = s := rfl

theorem lateCounted_frame (s : State) (src : Nat) (m : Send) :
    RegsBut s (lateCounted s src m) [oMSGSTAT src] ∧ { lateCounted s src m with tiles := s.tiles, bar0 := s.bar0 } = s := by
  rw [lateCounted]
  split
  · exact ⟨fun o ho => reg_addSat_ne _ _ _ _ (List.ne_of_not_mem_cons ho), addSat_frame s _ _ _ _⟩
  · exact ⟨fun _ _ => rfl, rfl⟩

/-! ### RECV_TIMEOUT (R124) -/

end

/-- A value read from a map whose values were all changed by a function that keeps the default. -/
theorem SMap.get_map_value {α : Type} (d : α) {f : α → α} (hf : f d = d) (m : SMap α) (i : Nat) :
    SMap.get d (m.map (fun e => (e.1, f e.2))) i = f (SMap.get d m i) := by
  induction m with
  | nil => exact hf.symm
  | cons e m ih =>
    rw [List.map_cons, SMap.get_cons, SMap.get_cons, ih, apply_ite f]

theorem ringOf_dropWaiter (x : Tile) (slot n : Nat) :
    ringOf (dropWaiter x slot) n = { ringOf x n with waiters := (ringOf x n).waiters.filter (fun k => k != slot) } :=
  SMap.get_map_value Ring.reset (f := fun r => { r with waiters := r.waiters.filter (fun k => k != slot) }) rfl x.rings n

theorem execRecvTimeout_runs {s : State} {t slot q wd lim : Nat} (hw : (grp s t slot).wait = .recv q wd lim) (hlim : lim ≠ 0xF_FFFF) :
    exec (.recvTimeout t slot) s = .next (setGroup (updTile s t (fun x => dropWaiter x slot)) t slot
      (wake (activeRow (grp s t slot) wd 4 (noneWords 1)))) := by
  rw [exec, execRecvTimeout]
  simp only [hw, hlim, if_false, updGroup, grp_dropWaiter]
  rfl

/-! ### The statement -/

/-- Settles O17: each event changes the entry of its message; a write also fills its space and serves a waiting RECV, and the final
status wakes a waiting MSTAT. -/
theorem messageTransfer : Obligations.MessageTransfer := by
  unfold Obligations.MessageTransfer
  intro src h dst m s hm x y r
  refine ⟨?inject, ?write, ?complete, ?timeout⟩
  case inject => exact fun hph herr => ⟨_, execMessageInject_runs hm hph herr, injected_gives hm _⟩
  case write =>
    intro sp hph hg hw hl hblk hbist hsp hskip herr hpay hunits hlen a info rec_
    obtain ⟨honly, hmem, hmems, hsend, hring, hgrp⟩ := writtenAt_gives hm dst sp
    obtain ⟨hkonly, hkmem, hksend⟩ := serveWaiters_keeps (writtenAt s src h dst m sp) dst m.q
    refine ⟨_, execMessageWrite_runs hm hph hg hw hl hblk hbist hsp hskip herr, TilesOnly.trans honly hkonly, fun b => ?_, fun u hu => ?_, ?_,
      fun hwait => ?_, fun slot wd lim hone hwait hwd hnone => ?_⟩
    · rw [hkmem, hmem, Mem.cells_lay, Mem.byte_write, length_messageBytes r src hpay hunits]
      refine if_congr Iff.rfl ?_ rfl
      exact getD_append_zeros _ _ _
    · rw [hkmem, hmems u hu]
    · rw [hksend, hsend]
    · rw [serveWaiters_none (by rw [hring]; exact hwait)]
      exact ⟨⟨_, congrArg Ring.spaces hring, age_lt_writtenSpace r src m sp⟩, hgrp⟩
    · have hold : oldestWritten (ringOf (tileOf (writtenAt s src h dst m sp) dst) m.q) = some (writtenSpace r src m sp) := by
        rw [hring]
        exact oldestWritten_writtenRing (List.mem_of_find?_eq_some hsp) hnone
      rw [serveWaiters_one (by rw [hring]; exact hone) (by rw [hgrp]; exact hwait) hold, grp_recvServed_self, hgrp, hring,
        messageWords_writtenSpace r src hlen]
      refine ⟨rfl, rfl, pc_activeRow _ _ _ _, fun k hk => ?_, (activeGive_activeRow _ wd 4 _ hwd).of_regs rfl rfl rfl⟩
      rw [grp_recvServed_ne _ _ _ _ _ hk, hgrp]
  case complete =>
    intro hph hall st
    refine ⟨fun hw => ⟨_, execMessageComplete_runs hm hph hall, finalized_gives hm hw⟩, fun g wd hw hwd => ?_⟩
    have hgrp (k : Nat) : grp (lateCounted s src m) src k = grp s src k := congrArg (fun x => groupOf x k) (tileOf_lateCounted s src m src)
    obtain ⟨honly, hsend, hst, hwait, hgive, hothers⟩ := finalizeSend_of_one_gives (h := h) (s1 := lateCounted s src m)
      (by rw [tileOf_lateCounted, hw]) hwd (finalStatus m)
    obtain ⟨hregs, hframe⟩ := lateCounted_frame s src m
    rw [hgrp] at hgive
    refine ⟨_, execMessageComplete_runs hm hph hall, hsend, hst, hwait, hgive, fun k hk => (hothers k hk).trans (hgrp k), fun o ho => ?_, ?_⟩
    · rw [honly.reg, hregs o ho]
    · exact (congrArg (fun z : State => { z with tiles := s.tiles, bar0 := s.bar0 }) honly).trans hframe
  case timeout =>
    intro t slot q wd lim hw hlim hwd
    refine ⟨_, execRecvTimeout_runs hw hlim, rfl, fun u hu => ?_, fun k hk => ?_, fun n hn => ?_, ?_, ?_⟩
    · rw [tileOf_setGroup_ne _ _ _ hu, tileOf_updTile_ne _ _ hu]
    · rw [grp_setGroup_slot _ _ _ hk, grp_dropWaiter]
    · rw [tile_setGroup (fun x => ringOf x n) (fun _ _ => rfl), tileOf_updTile_self, ringOf_dropWaiter] at hn
      simp at hn
    · rw [mem_setGroup, tileOf_updTile_self]
      rfl
    · rw [grp_setGroup_self]
      have hfield := activeRow_field (fun y : Group => { y with
        st := (grp s t slot).st, wait := (grp s t slot).wait, regs := (grp s t slot).regs, regErr := (grp s t slot).regErr }) (fun _ _ _ _ => rfl)
        (grp s t slot) wd 4 (noneWords 1)
      exact ⟨hfield, rfl, rfl, (activeGive_activeRow _ wd 4 _ hwd).of_regs rfl rfl rfl⟩

end Sys2Proof.Machine
end

section

/-! ## Completions and the queues of a dispatcher (R281, R284, R288 to R291)

What a completion writes when its queue lies in host memory and has room, and what it leaves alone. -/

namespace Sys2Proof.Machine

/-! ### Registers of the queues -/

/-- The registers of the list change, at most. -/
def BarOnly (l : List Nat) (s s' : State) : Prop := { s' with bar0 := s.bar0 } = s ∧ RegsBut s s' l

theorem BarOnly.refl (l : List Nat) (s : State) : BarOnly l s s := ⟨rfl, fun _ _ => rfl⟩

theorem BarOnly.trans {l : List Nat} {s s1 s2 : State} (h : BarOnly l s s1) (h' : BarOnly l s1 s2) : BarOnly l s s2 :=
  ⟨(congrArg (fun y : State => { y with bar0 := s.bar0 }) h'.1).trans h.1, fun o ho => (h'.2 o ho).trans (h.2 o ho)⟩

/-- What of a state no register shows. -/
theorem BarOnly.field {β : Type} (φ : State → β) {l : List Nat} {s s' : State} (h : BarOnly l s s') : φ { s' with bar0 := s.bar0 } = φ s :=
  congrArg φ h.1

theorem barOnly_setF (s : State) {l : List Nat} {o : Nat} (ho : o ∈ l) (hi lo x : Nat) : BarOnly l s (setF s o hi lo x) :=
  ⟨rfl, fun _ hn => reg_setF_ne s hi lo x (fun e => hn (e ▸ ho))⟩

theorem barOnly_foldl {α : Type} {l : List Nat} {step : State → α → State} (hstep : ∀ s a, BarOnly l s (step s a)) (as : List α) (s : State) :
    BarOnly l s (as.foldl step s) :=
  List.foldlRecOn (motive := BarOnly l s) as step (BarOnly.refl l s) (fun y hy a _ => hy.trans (hstep y a))

/-- Injection and reply move the Breakwater count of the request, and nothing else (R222). -/
theorem barOnly_inject (s : State) (p c : Nat) : BarOnly [oBWRCNT p c] s (inject s p c).1 := by
  have hm : oBWRCNT p c ∈ [oBWRCNT p c] := List.mem_singleton.2 rfl
  refine BarOnly.trans (BarOnly.trans ?_ (barOnly_setF _ hm 19 0 _)) (barOnly_setF _ hm 39 20 _)
  split
  · exact barOnly_setF s hm 63 48 _
  · exact BarOnly.refl _ s

theorem barOnly_retire (s : State) (p c : Nat) : BarOnly [oBWRCNT p c] s (retire s p c) := barOnly_setF s (List.mem_singleton.2 rfl) 19 0 _

theorem barOnly_pass (s : State) (p c : Nat) : BarOnly [oBWRCNT p c] s (pass s p c) := (barOnly_inject s p c).trans (barOnly_retire _ p c)

theorem barOnly_injectN (s : State) (p c n : Nat) : BarOnly [oBWRCNT p c] s (injectN s p c n) :=
  barOnly_foldl (fun s _ => barOnly_inject s p c) _ s

theorem barOnly_retireN (s : State) (p c n : Nat) : BarOnly [oBWRCNT p c] s (retireN s p c n) :=
  barOnly_foldl (fun s _ => barOnly_retire s p c) _ s

/-- The registers of a dispatcher's queues are apart from each other and from the Breakwater counts (Table 1.7). -/
theorem queueRegs_apart {p q sq p' c : Nat} (hp : p ≤ 8) (hq : q < 16) (hsq : sq < 16) (hp' : p' ≤ 8) (hc : c < 8) :
    oCQB p q ≠ oBWRCNT p' c ∧ oCQB p q ≠ oSQB p sq ∧ oCQA p q ≠ oBWRCNT p' c ∧ oCQA p q ≠ oSQB p sq ∧ oCQA p q ≠ oCQB p q ∧
    oSQB p sq ≠ oBWRCNT p' c ∧ oTGNOW ≠ oBWRCNT p' c ∧ oTGNOW ≠ oSQB p sq ∧ oTGNOW ≠ oCQB p q ∧
    (p ≠ 8 → oPSTAT p ≠ oBWRCNT p' c ∧ oPSTAT p ≠ oSQB p sq ∧ oPSTAT p ≠ oCQB p q ∧ oPSTAT p ≠ oCQA p q ∧ oPSTAT p ≠ oTGNOW ∧
      oPCFG p ≠ oBWRCNT p' c ∧ oPCFG p ≠ oSQB p sq ∧ oPCFG p ≠ oCQB p q ∧ oPCFG p ≠ oPSTAT p) := by
  have hpage : 0x10_0000 ≤ queuePage p ∧ queuePage p ≤ 0x19_0000 ∧ (p ≠ 8 → queuePage p = 0x10_0000 + p * 0x1_0000) := by
    rw [queuePage, hstPage]
    split <;> omega
  simp only [oCQB, oCQA, oSQB, oBWRCNT, oTGNOW, oPSTAT, oPCFG, hstPage]
  omega

theorem cqOf_lt (s : State) (p sq : Nat) : cqOf s p sq < 16 := by
  rw [cqOf]
  split
  · decide
  · exact regF_lt s _ 59 56

/-! ### Host memory as a master reaches it (R27, R281) -/

theorem hbmRoute_ne_host (s : State) (p : Option Nat) (a key : Nat) : hbmRoute s p a ≠ .host key := by
  rw [hbmRoute]
  split
  · split
    · split <;> exact Route.noConfusion
    · exact Route.noConfusion
  · split <;> exact Route.noConfusion

/-- The addresses that route to host memory (R27). The route is opened as a function, before it is applied: the kernel would else
compute the address map of an unknown assembly. -/
theorem routeOf_host_iff (s : State) (p : Option Nat) (a key : Nat) :
    routeOf s p a = .host key ↔ ∃ off, decodeAddr s.asm a = .host off ∧ hostKey s p off = key := by
  obtain ⟨R, hR⟩ : ∃ R, R = @routeOf := ⟨_, rfl⟩
  rw [← hR]
  delta routeOf at hR
  subst hR
  dsimp only
  generalize decodeAddr s.asm a = d
  constructor
  · intro h
    cases d with
    | hbm a => exact absurd h (hbmRoute_ne_host s p a key)
    | host off => exact ⟨off, rfl, Route.host.inj h⟩
    | window t off =>
      dsimp only at h
      split at h
      · exact Route.noConfusion h
      · split at h <;> exact Route.noConfusion h
    | peer d off =>
      dsimp only at h
      split at h
      · generalize decodeAddr s.asm off = d' at h
        cases d' with
        | hbm a => exact absurd h (hbmRoute_ne_host s p a key)
        | _ => exact Route.noConfusion h
      · split at h <;> exact Route.noConfusion h
    | unmapped => exact Route.noConfusion h
  · rintro ⟨off, rfl, rfl⟩
    rfl

/-- The route to host memory depends on the assembly and on HWSEL of the partition alone. -/
theorem routeOf_host_congr {s s' : State} {p : Option Nat} {a key : Nat} (h : routeOf s p a = .host key) (hasm : s'.asm = s.asm)
    (hcfg : ∀ q, p = some q → reg s' (oPCFG q) = reg s (oPCFG q)) : routeOf s' p a = .host key := by
  obtain ⟨off, hd, hk⟩ := (routeOf_host_iff s p a key).1 h
  refine (routeOf_host_iff s' p a key).2 ⟨off, hasm ▸ hd, ?_⟩
  rw [← hk]
  cases p with
  | none => rfl
  | some q => simp only [hostKey, regB, hcfg q rfl]

/-- A master's request to host memory, written. -/
def hostWritten (s : State) (w : Who) (key : Nat) (bs : List Byte) : State :=
  { noteHost (pass s w.cnt w.cls) w.p key true with hostMem := Mem.write s.hostMem key bs }

/-- The partition for which a master acts is not in quarantine. -/
def Performs (s : State) (w : Who) : Prop := ∀ q, w.p = some q → (partOf s q).quarantine = false

theorem writeAt_host {s : State} {w : Who} {a key : Nat} (bs : List Byte) (hr : routeOf s w.p a = .host key) (hq : Performs s w) :
    writeAt s w a bs = ({ noteHost s w.p key true with hostMem := Mem.write s.hostMem key bs }, .ok) := by
  have hshadow (r : Route) : shadowed s w.p r = false := by
    cases hp : w.p with
    | none => simp only [shadowed, Bool.false_and]
    | some q => simp only [shadowed, hq q hp, Bool.false_and]
  delta writeAt
  generalize routeOf s w.p a = r at hr
  subst hr
  simp only [hshadow, Bool.false_eq_true, if_false]

theorem writePiece_host {s : State} {w : Who} {a key : Nat} (bs : List Byte) (hr : routeOf s w.p a = .host key) (hq : Performs s w)
    (hcfg : ∀ q, w.p = some q → oPCFG q ≠ oBWRCNT w.cnt w.cls) : writePiece s w a bs = (hostWritten s w key bs, .ok) := by
  have hpass := barOnly_pass s w.cnt w.cls
  have hparts : (pass s w.cnt w.cls).parts = s.parts := hpass.field State.parts
  have hmem : (pass s w.cnt w.cls).hostMem = s.hostMem := hpass.field State.hostMem
  rw [writePiece, writeAt_host (key := key) bs, hostWritten, hmem]
  · exact routeOf_host_congr hr (hpass.field State.asm) (fun q hq => hpass.2 _ (by simpa using hcfg q hq))
  · intro q hq'
    rw [partOf, hparts]
    exact hq q hq'

/-- The 32 bytes of a completion lie in one sector. -/
theorem piecesOf_completion {a : Nat} (ha : a % 32 = 0) : piecesOf a 32 = [(a, 32)] := by
  have hm : min 32 (256 - a % 256) = 32 := by omega
  simp [piecesOf, pieces, hm]

theorem devWrite_completion {s : State} {w : Who} {a key : Nat} {bs : List Byte} (ha : a % 32 = 0) (hb : bs.length = 32)
    (hr : routeOf s w.p a = .host key) (hq : Performs s w) (hcfg : ∀ q, w.p = some q → oPCFG q ≠ oBWRCNT w.cnt w.cls) :
    (devWrite s w a bs).1 = hostWritten s w key bs := by
  rw [devWrite, hb, piecesOf_completion ha]
  simp only [List.foldl_cons, List.foldl_nil, Nat.sub_self, List.drop_zero, List.take_of_length_le hb.le, writePiece_host bs hr hq hcfg]

/-- Host memory written by a master: nothing else changes but the request and its Breakwater count. -/
def HostWrites (s s' : State) (o key : Nat) (bs : List Byte) : Prop :=
  s'.hostMem = Mem.write s.hostMem key bs ∧ RegsBut s s' [o] ∧ { s' with bar0 := s.bar0, hostMem := s.hostMem, hostReqs := s.hostReqs } = s

theorem hostWrites_noteHost {s y : State} {o : Nat} (h : BarOnly [o] s y) (p : Option Nat) (key : Nat) (bs : List Byte) :
    HostWrites s { noteHost y p key true with hostMem := Mem.write s.hostMem key bs } o key bs :=
  ⟨rfl, h.2, congrArg (fun y : State => { y with hostMem := s.hostMem, hostReqs := s.hostReqs }) h.1⟩

theorem hostWrites_hostWritten (s : State) (w : Who) (key : Nat) (bs : List Byte) :
    HostWrites s (hostWritten s w key bs) (oBWRCNT w.cnt w.cls) key bs :=
  hostWrites_noteHost (barOnly_pass s w.cnt w.cls) w.p key bs

/-- Whether an access had to wait is no part of what it writes. -/
theorem HostWrites.restalled {s y : State} {o key : Nat} {bs : List Byte} (h : HostWrites s y o key bs) :
    HostWrites s { y with stalled := s.stalled } o key bs :=
  ⟨h.1, h.2.1, (congrArg (fun x : State => { x with stalled := s.stalled }) h.2.2 :)⟩

/-! ### A completion is written (R284, R291, Table 11.7) -/

/-- A completion signals its vector where its entry asked for that (R284, R296). -/
def signalled (s : State) (p k : Nat) (irq : Bool) : State := if (!irq) = true then s else if p = 8 then pfIrq s 9 else partIrq s p k

theorem signalled_eq (s : State) (p k : Nat) (irq : Bool) (hq : (partOf s p).quarantine = false) :
    signalled s p k irq = { s with irqs := s.irqs ++ (if irq = true then [vectorOf s p k] else []) } := by
  cases irq with
  | false => simp only [signalled, Bool.not_false, if_true, Bool.false_eq_true, if_false, List.append_nil]
  | true =>
    simp only [signalled, Bool.not_true, Bool.false_eq_true, if_false, if_true, vectorOf, pfIrq, partIrq, hq]
    split
    · rfl
    · split <;> rfl

/-- The tail of a completion queue goes on, and the pass with it at the end of the queue (Table 11.7). -/
def tailOn (s : State) (p q tail d : Nat) : State :=
  let y := setF s (oCQB p q) 27 16 ((tail + 1) % d)
  if tail + 1 = d then updPart y p (fun x => { x with pass := SMap.set 0 x.pass q (SMap.get 0 x.pass q + 1) }) else y

theorem depthOf_le (l : Nat) : 0 < depthOf l ∧ depthOf l ≤ 2 ^ 12 :=
  ⟨Nat.two_pow_pos _, Nat.pow_le_pow_right (by decide) (by omega)⟩

theorem partOf_updPart_ne (s : State) {p u : Nat} (f : Part → Part) (h : u ≠ p) : partOf (updPart s p f) u = partOf s u :=
  partOf_setPart_ne s _ h

theorem tailOn_gives (s : State) (p q tail l : Nat) :
    let s' := tailOn s p q tail (depthOf l)
    regF s' (oCQB p q) 27 16 = (tail + 1) % depthOf l ∧ (∀ hi lo, hi < 64 → 27 < lo → regF s' (oCQB p q) hi lo = regF s (oCQB p q) hi lo) ∧
    RegsBut s s' [oCQB p q] ∧ (∀ u ≠ p, partOf s' u = partOf s u) ∧ { s' with parts := s.parts, bar0 := s.bar0 } = s ∧
    (∃ m, partOf s' p = { partOf s p with pass := m }) ∧
    SMap.get 0 (partOf s' p).pass q = SMap.get 0 (partOf s p).pass q + if tail + 1 = depthOf l then 1 else 0 := by
  intro s'
  have hmod : (tail + 1) % depthOf l % 2 ^ (27 + 1 - 16) = (tail + 1) % depthOf l :=
    Nat.mod_eq_of_lt (Nat.lt_of_lt_of_le (Nat.mod_lt _ (depthOf_le l).1) (depthOf_le l).2)
  have hset := regF_setF_self s (oCQB p q) 27 16 ((tail + 1) % depthOf l) (by decide)
  have hothers (hi lo : Nat) (hhi : hi < 64) (hlo : 27 < lo) := regF_setF_ne s (oCQB p q) 27 16 ((tail + 1) % depthOf l) hi lo hhi (.inr hlo)
  have hregs : RegsBut s (setF s (oCQB p q) 27 16 ((tail + 1) % depthOf l)) [oCQB p q] := (barOnly_setF s (List.mem_singleton.2 rfl) 27 16 _).2
  rw [hmod] at hset
  have hs' : s' = tailOn s p q tail (depthOf l) := rfl
  rw [tailOn] at hs'
  by_cases hend : tail + 1 = depthOf l
  · rw [if_pos hend] at hs'
    rw [hs', if_pos hend]
    refine ⟨hset, hothers, hregs, fun u hu => partOf_updPart_ne _ _ hu, rfl, ⟨_, partOf_updPart_self _ p _⟩, ?_⟩
    rw [partOf_updPart_self]
    exact SMap.get_set_self 0 (partOf s p).pass q (SMap.get 0 (partOf s p).pass q + 1)
  · rw [if_neg hend] at hs'
    rw [hs', if_neg hend]
    exact ⟨hset, hothers, hregs, fun _ _ => rfl, rfl, ⟨_, rfl⟩, rfl⟩

/-- The completion as its queue holds it: with the phase bit of the pass. -/
def withPhase (s : State) (p q : Nat) (b : List Byte) : List Byte :=
  b.set 5 (b.getD 5 0 ||| BitVec.ofNat 8 ((SMap.get 0 (partOf s p).pass q + 1) % 2))

/-- What a completion changes that is written with the bytes bs. -/
def Written (s s' : State) (p q key : Nat) (bs : List Byte) (irq : Bool) : Prop :=
  let o := oCQB p q
  let tail := regF s o 27 16
  let d := depthOf (regF s o 43 40)
  { s' with parts := s.parts, bar0 := s.bar0, hostMem := s.hostMem, hostReqs := s.hostReqs, irqs := s.irqs } = s ∧
  s'.hostMem = Mem.write s.hostMem key bs ∧ regF s' o 27 16 = (tail + 1) % d ∧ RegsBut s s' [oBWRCNT p 3, o] ∧
  (∀ u ≠ p, partOf s' u = partOf s u) ∧ (∃ m, partOf s' p = { partOf s p with pass := m }) ∧
  SMap.get 0 (partOf s' p).pass q = SMap.get 0 (partOf s p).pass q + (if tail + 1 = d then 1 else 0) ∧
  s'.irqs = s.irqs ++ (if irq = true then [vectorOf s p (min 47 (regF s o 53 48))] else [])

/-- The tail goes on and the vector is signalled once the bytes are in host memory. -/
theorem written_of_hostWrites {s y : State} {p q key : Nat} {bs : List Byte} (hy : HostWrites s y (oBWRCNT p 3) key bs) (irq : Bool)
    (hqu : (partOf s p).quarantine = false) (hne : oCQB p q ≠ oBWRCNT p 3) (hcfg : p ≠ 8 → oPCFG p ≠ oBWRCNT p 3 ∧ oPCFG p ≠ oCQB p q) :
    let z := tailOn y p q (regF s (oCQB p q) 27 16) (depthOf (regF s (oCQB p q) 43 40))
    Written s (signalled z p (min 47 (regF z (oCQB p q) 53 48)) irq) p q key bs irq := by
  obtain ⟨hmem, hregs, hframe⟩ := hy
  intro z
  obtain ⟨htail, hfields, htregs, htparts, htframe, ⟨m, htpart⟩, htpass⟩ := tailOn_gives y p q (regF s (oCQB p q) 27 16) (regF s (oCQB p q) 43 40)
  have hparts : y.parts = s.parts := (congrArg State.parts hframe :)
  have hpart (u : Nat) : partOf y u = partOf s u := congrArg (fun l => SMap.get Part.reset l u) hparts
  have hirqs : z.irqs = s.irqs := (congrArg State.irqs htframe :).trans (congrArg State.irqs hframe :)
  have hzq : (partOf z p).quarantine = false := by rw [htpart, hpart, hqu]
  have hreg : reg y (oCQB p q) = reg s (oCQB p q) := hregs _ (by simpa using hne)
  have hvec : regF z (oCQB p q) 53 48 = regF s (oCQB p q) 53 48 := by rw [hfields 53 48 (by decide) (by decide), regF, hreg, regF]
  have hvia (k : Nat) : vectorOf z p k = vectorOf s p k := by
    rw [vectorOf, vectorOf]
    by_cases h8 : p = 8
    · rw [if_pos h8, if_pos h8]
    · obtain ⟨h1, h2⟩ := hcfg h8
      rw [if_neg h8, if_neg h8, regB, regB, htregs _ (by simpa using h2), hregs _ (by simpa using h1)]
  have hzmem : z.hostMem = y.hostMem := (congrArg State.hostMem htframe :)
  have hzframe : { z with parts := s.parts, bar0 := s.bar0, hostMem := s.hostMem, hostReqs := s.hostReqs, irqs := s.irqs } = s :=
    (congrArg (fun x : State => { x with parts := s.parts, bar0 := s.bar0, hostMem := s.hostMem, hostReqs := s.hostReqs, irqs := s.irqs }) htframe :).trans
      (congrArg (fun x : State => { x with parts := s.parts, irqs := s.irqs }) hframe :)
  rw [signalled_eq z p _ irq hzq, hvec, hvia, hirqs]
  refine ⟨hzframe, hzmem.trans hmem, htail, fun o ho => ?_, fun u hu => ?_, ⟨m, ?_⟩, ?_, rfl⟩
  · have ho' := not_or.1 (fun h => ho (List.mem_cons.2 (h.imp id List.mem_singleton.2)))
    exact (htregs o (by simpa using ho'.2)).trans (hregs o (by simpa using ho'.1))
  · exact (htparts u hu).trans (hpart u)
  · exact htpart.trans (by rw [hpart])
  · exact htpass.trans (by rw [hpart])

theorem written_cqWrite {s : State} {p sq key : Nat} (hopen : CqOpen s p sq key) {b : List Byte} (hb : b.length = 32) (irq : Bool) :
    Written s (cqWrite s p (cqOf s p sq) b irq) p (cqOf s p sq) key (withPhase s p (cqOf s p sq) b) irq := by
  obtain ⟨hp, hsq, -, -, hqu, ha, hr⟩ := hopen
  obtain ⟨hne, -, -, -, -, -, -, -, -, hpf⟩ := queueRegs_apart (c := 3) hp (cqOf_lt s p sq) hsq hp (by decide)
  have hcfg (h8 : p ≠ 8) : oPCFG p ≠ oBWRCNT p 3 ∧ oPCFG p ≠ oCQB p (cqOf s p sq) := by
    obtain ⟨-, -, -, -, -, h1, -, h2, -⟩ := hpf h8
    exact ⟨h1, h2⟩
  have hmaster (u : Nat) (hu : (dispWho p).p = some u) : p ≠ 8 ∧ u = p := by
    by_cases h8 : p = 8
    · exact absurd ((if_pos h8).symm.trans hu) (Option.some_ne_none u).symm
    · exact ⟨h8, (Option.some.inj ((if_neg h8).symm.trans hu)).symm⟩
  have hperf : Performs s (dispWho p) := fun u hu => (hmaster u hu).2 ▸ hqu
  have hcnt (u : Nat) (hu : (dispWho p).p = some u) : oPCFG u ≠ oBWRCNT (dispWho p).cnt (dispWho p).cls := by
    obtain ⟨h8, rfl⟩ := hmaster u hu
    exact (hcfg h8).1
  have hdev := devWrite_completion (s := s) (w := dispWho p) (bs := withPhase s p (cqOf s p sq) b) ha ((List.length_set).trans hb) hr hperf hcnt
  have hy := hostWrites_hostWritten s (dispWho p) key (withPhase s p (cqOf s p sq) b)
  rw [← hdev] at hy
  exact written_of_hostWrites hy.restalled irq hqu hne hcfg

/-- The completion of dispatcher p goes to its queue: what else may change is the queue's own. -/
def Posts (s s' : State) (p sq : Nat) : Prop :=
  { s' with parts := s.parts, bar0 := s.bar0, hostMem := s.hostMem, hostReqs := s.hostReqs, irqs := s.irqs } = s ∧
  (∀ u ≠ p, partOf s' u = partOf s u) ∧ (∃ m, partOf s' p = { partOf s p with pass := m }) ∧ RegsBut s s' (queueRegs s p sq) ∧
  (p ≠ 8 → pState s' p = pState s p)

/-- A completion counts in PROGRESS, at a partition's dispatcher (Table 11.3). -/
def progressed (s : State) (p : Nat) : State := if p = 8 then s else setF s (oPSTAT p) 63 32 (regF s (oPSTAT p) 63 32 + 1)

theorem postCompletion_eq {s : State} {p sq key : Nat} (hopen : CqOpen s p sq key) (b : List Byte) (irq : Bool) :
    postCompletion s p sq b irq = progressed (cqWrite s p (cqOf s p sq) b irq) p := by
  obtain ⟨-, -, hroom, hwait, -⟩ := hopen
  have hall : (partOf s p).waiting.all (fun w => w.1 != cqOf s p sq) = true := by simpa using hwait
  rw [postCompletion]
  exact if_pos (by rw [Bool.and_eq_true]; exact ⟨hroom, hall⟩)

theorem progressed_gives {s : State} {p : Nat} :
    BarOnly (if p = 8 then [] else [oPSTAT p]) s (progressed s p) ∧
    (p ≠ 8 → regF (progressed s p) (oPSTAT p) 63 32 = (regF s (oPSTAT p) 63 32 + 1) % 2 ^ 32 ∧ pState (progressed s p) p = pState s p) := by
  rw [progressed]
  by_cases h8 : p = 8
  · rw [if_pos h8, if_pos h8]
    exact ⟨BarOnly.refl _ s, fun h => absurd h8 h⟩
  · rw [if_neg h8, if_neg h8]
    exact ⟨barOnly_setF s (List.mem_singleton.2 rfl) 63 32 _, fun _ =>
      ⟨regF_setF_self s (oPSTAT p) 63 32 _ (by decide), regF_setF_ne s (oPSTAT p) 63 32 _ 2 0 (by decide) (by decide)⟩⟩

/-- A byte of a completion as its queue holds it. -/
theorem getD_withPhase (s : State) (p q : Nat) {b : List Byte} (hb : b.length = 32) (i : Nat) : (withPhase s p q b).getD i 0 =
    if i = 5 then b.getD 5 0 ||| BitVec.ofNat 8 ((SMap.get 0 (partOf s p).pass q + 1) % 2) else b.getD i 0 := by
  rw [withPhase, List.getD_eq_getElem?_getD, List.getElem?_set]
  by_cases hi : i = 5
  · subst hi
    rw [if_pos rfl, if_pos rfl, if_pos (by omega)]
    rfl
  · rw [if_neg (Ne.symm hi), if_neg hi, ← List.getD_eq_getElem?_getD]

theorem completed_postCompletion {s : State} {p sq key : Nat} (hopen : CqOpen s p sq key) {b : List Byte} (hb : b.length = 32) (irq : Bool) :
    Completed s (postCompletion s p sq b irq) p sq key b irq [] ∧ Posts s (postCompletion s p sq b irq) p sq := by
  obtain ⟨hframe, hmem, htail, hregs, hothers, ⟨m, hpart⟩, hpass, hirqs⟩ := written_cqWrite hopen hb irq
  rw [postCompletion_eq hopen]
  obtain ⟨hp, hsq, -⟩ := hopen
  generalize cqWrite s p (cqOf s p sq) b irq = y at *
  obtain ⟨⟨hpframe, hpregs⟩, hprog⟩ := progressed_gives (s := y) (p := p)
  obtain ⟨hne, -, -, -, -, -, -, -, -, hpf⟩ := queueRegs_apart (c := 3) hp (cqOf_lt s p sq) hsq hp (by decide)
  have hstat (h8 : p ≠ 8) : reg y (oPSTAT p) = reg s (oPSTAT p) := by
    obtain ⟨h1, -, h2, -⟩ := hpf h8
    exact hregs _ (by simp [h1, h2])
  have hcq : oCQB p (cqOf s p sq) ∉ (if p = 8 then [] else [oPSTAT p]) := by
    split
    · exact List.not_mem_nil
    · next h8 =>
      obtain ⟨-, -, h2, -⟩ := hpf h8
      exact fun h => h2 (List.mem_singleton.1 h).symm
  have hparts (u : Nat) : partOf (progressed y p) u = partOf y u :=
    congrArg (fun l => SMap.get Part.reset l u) (congrArg State.parts hpframe :)
  refine ⟨⟨fun a => ?_, ?_, fun h8 => ?_, ?_, ?_⟩, ?_, fun u hu => (hparts u).trans (hothers u hu), ⟨m, (hparts p).trans hpart⟩, fun o ho => ?_, fun h8 => ?_⟩
  · have hbytes : (progressed y p).hostMem = Mem.write s.hostMem key (withPhase s p (cqOf s p sq) b) := (congrArg State.hostMem hpframe :).trans hmem
    rw [hbytes, Mem.byte_write, getD_withPhase s p _ hb, withPhase, List.length_set, hb]
    by_cases hin : key ≤ a ∧ a < key + 32
    · rw [if_pos hin, if_pos hin]
      exact if_congr (by omega) rfl rfl
    · rw [if_neg hin, if_neg hin]
  · rw [regF, hpregs _ hcq, ← regF, htail]
  · rw [(hprog h8).1, regF, hstat h8, ← regF]
  · rw [hparts, hpass]
  · rw [List.append_nil]
    exact (congrArg State.irqs hpframe :).trans hirqs
  · exact (congrArg (fun x : State => { x with parts := s.parts, bar0 := s.bar0, hostMem := s.hostMem, hostReqs := s.hostReqs, irqs := s.irqs }) hpframe :).trans hframe
  · simp only [queueRegs, List.mem_append, List.mem_cons, List.not_mem_nil, or_false, not_or] at ho
    obtain ⟨⟨hsqb, hcqb, hbwr⟩, hps⟩ := ho
    rw [hpregs o hps]
    exact hregs o (by simp [hcqb, hbwr])
  · rw [(hprog h8).2, pState, regF, hstat h8, ← regF, ← pState]

end Sys2Proof.Machine
end

section

/-! ## Commands end (R291, R293)

A command of a dispatcher that has no FENCE in flight and no entry waiting. -/

namespace Sys2Proof.Machine

/-! ### What the dispatcher notes of a command -/

/-- What a completion of dispatcher p does not show: parts of the dispatcher, the head of the SQ, the state and INFLIGHT of
HST_PSTAT. -/
def Noted (p sq : Nat) (s s' : State) : Prop :=
  { s' with parts := s.parts, bar0 := s.bar0 } = s ∧ RegsBut s s' (oSQB p sq :: (if p = 8 then [] else [oPSTAT p])) ∧
  regF s' (oSQB p sq) 59 56 = regF s (oSQB p sq) 59 56 ∧
  (p ≠ 8 → regF s' (oPSTAT p) 63 32 = regF s (oPSTAT p) 63 32 ∧ pState s' p = pState s p) ∧ (∀ u ≠ p, partOf s' u = partOf s u) ∧
  (partOf s' p).pass = (partOf s p).pass ∧ (partOf s' p).heads = (partOf s p).heads ∧ (partOf s' p).waiting = (partOf s p).waiting ∧
  (partOf s' p).quarantine = (partOf s p).quarantine

theorem Noted.trans {p sq : Nat} {s s1 s2 : State} (h : Noted p sq s s1) (h' : Noted p sq s1 s2) : Noted p sq s s2 := by
  obtain ⟨hframe, hregs, hq, hstat, hothers, hpass, hheads, hwait, hqu⟩ := h
  obtain ⟨hframe', hregs', hq', hstat', hothers', hpass', hheads', hwait', hqu'⟩ := h'
  refine ⟨(congrArg (fun y : State => { y with parts := s.parts, bar0 := s.bar0 }) hframe' :).trans hframe, fun o ho => (hregs' o ho).trans (hregs o ho),
    hq'.trans hq, fun h8 => ?_, fun u hu => (hothers' u hu).trans (hothers u hu), hpass'.trans hpass, hheads'.trans hheads, hwait'.trans hwait,
    hqu'.trans hqu⟩
  obtain ⟨h1, h2⟩ := hstat h8
  obtain ⟨h1', h2'⟩ := hstat' h8
  exact ⟨h1'.trans h1, h2'.trans h2⟩

theorem noted_updPart (s : State) (p sq : Nat) {f : Part → Part} (hf : ∀ x, (f x).pass = x.pass ∧ (f x).heads = x.heads ∧ (f x).waiting = x.waiting ∧
    (f x).quarantine = x.quarantine) : Noted p sq s (updPart s p f) := by
  obtain ⟨h1, h2, h3, h4⟩ := hf (partOf s p)
  refine ⟨rfl, fun _ _ => rfl, rfl, fun _ => ⟨rfl, rfl⟩, fun u hu => partOf_updPart_ne s f hu, ?_⟩
  rw [partOf_updPart_self]
  exact ⟨h1, h2, h3, h4⟩

theorem noted_setHead {s : State} {p sq : Nat} (hne : p ≠ 8 → oPSTAT p ≠ oSQB p sq) : Noted p sq s (setHead s p sq) := by
  rw [setHead]
  refine ⟨rfl, (barOnly_setF s List.mem_cons_self 27 16 _).2, regF_setF_ne s _ 27 16 _ 59 56 (by decide) (by decide), fun h8 => ?_, fun _ _ => rfl,
    rfl, rfl, rfl, rfl⟩
  exact ⟨regF_setF_other s 27 16 _ 63 32 (hne h8), regF_setF_other s 27 16 _ 2 0 (hne h8)⟩

theorem noted_setInflight {s : State} {p sq : Nat} (hne : p ≠ 8 → oPSTAT p ≠ oSQB p sq) : Noted p sq s (setInflight s p) := by
  rw [setInflight]
  by_cases h8 : p = 8
  · rw [if_pos h8]
    exact ⟨rfl, fun _ _ => rfl, rfl, fun _ => ⟨rfl, rfl⟩, fun _ _ => rfl, rfl, rfl, rfl, rfl⟩
  · rw [if_neg h8]
    refine ⟨rfl, ?_, regF_setF_other s 22 16 _ 59 56 (hne h8).symm, fun _ => ?_, fun _ _ => rfl, rfl, rfl, rfl, rfl⟩
    · rw [if_neg h8]
      exact (barOnly_setF s (List.mem_cons_of_mem _ (List.mem_singleton.2 rfl)) 22 16 _).2
    · exact ⟨regF_setF_ne s _ 22 16 _ 63 32 (by decide) (by decide), regF_setF_ne s _ 22 16 _ 2 0 (by decide) (by decide)⟩

theorem Noted.cqOf {p sq : Nat} {s s' : State} (h : Noted p sq s s') : cqOf s' p sq = cqOf s p sq := by
  obtain ⟨-, -, hq, -⟩ := h
  rw [Machine.cqOf, Machine.cqOf, hq]

/-- Registers that the dispatcher does not note in. -/
theorem Noted.reg {p sq : Nat} {s s' : State} (h : Noted p sq s s') {o : Nat} (h1 : o ≠ oSQB p sq) (h2 : p ≠ 8 → o ≠ oPSTAT p) : reg s' o = reg s o := by
  obtain ⟨-, hregs, -⟩ := h
  refine hregs o (fun hm => ?_)
  rcases List.mem_cons.1 hm with hm | hm
  · exact h1 hm
  · split at hm
    · cases hm
    · next h8 => exact h2 h8 (List.mem_singleton.1 hm)

theorem Noted.queue {p sq : Nat} {s s' : State} (h : Noted p sq s s') (hp : p ≤ 8) (hsq : sq < 16) :
    Machine.reg s' (oCQA p (Machine.cqOf s p sq)) = Machine.reg s (oCQA p (Machine.cqOf s p sq)) ∧
    Machine.reg s' (oCQB p (Machine.cqOf s p sq)) = Machine.reg s (oCQB p (Machine.cqOf s p sq)) ∧ Machine.reg s' oTGNOW = Machine.reg s oTGNOW ∧
    (p ≠ 8 → Machine.reg s' (oPCFG p) = Machine.reg s (oPCFG p)) := by
  obtain ⟨-, h1, -, h2, -, -, -, h3, -, hpf⟩ := queueRegs_apart (c := 3) hp (cqOf_lt s p sq) hsq hp (by decide)
  refine ⟨h.reg h2 (fun h8 => ?_), h.reg h1 (fun h8 => ?_), h.reg h3 (fun h8 => ?_), fun h8 => ?_⟩
  · exact (hpf h8).2.2.2.1.symm
  · exact (hpf h8).2.2.1.symm
  · exact (hpf h8).2.2.2.2.1.symm
  · obtain ⟨-, -, -, -, -, -, h4, -, h5⟩ := hpf h8
    exact h.reg h4 (fun _ => h5)

theorem CqOpen.noted {p sq key : Nat} {s s' : State} (hopen : CqOpen s p sq key) (h : Noted p sq s s') : CqOpen s' p sq key := by
  obtain ⟨hp, hsq, hroom, hwait, hqu, ha, hr⟩ := hopen
  obtain ⟨hcqa, hcqb, -, hcfg⟩ := h.queue hp hsq
  have hcq := h.cqOf
  obtain ⟨hframe, -, -, -, -, -, hheads, hwait', hqu'⟩ := h
  refine ⟨hp, hsq, ?_, ?_, hqu'.trans hqu, ?_, ?_⟩
  · rw [hcq, ← hroom, cqRoom, cqRoom, regF, regF, regB, regB, hcqb, hheads]
    rfl
  · rw [hcq, hwait']
    exact hwait
  · rw [hcq, hcqa, regF, hcqb, ← regF]
    exact ha
  · rw [hcq, hcqa, regF, hcqb, ← regF]
    refine routeOf_host_congr hr (congrArg State.asm hframe :) (fun u hu => ?_)
    split at hu
    · cases hu
    · next h8 =>
      cases hu
      exact hcfg h8

/-- What a completion writes is seen from before the dispatcher's notes. -/
theorem Completed.of_noted {p sq key : Nat} {s s1 s' : State} {b : List Byte} {irq : Bool} {more : List (Nat × Nat)} (h : Noted p sq s s1) (hp : p ≤ 8)
    (hsq : sq < 16) (hdone : Completed s1 s' p sq key b irq more) : Completed s s' p sq key b irq more := by
  obtain ⟨-, hcqb, -, hcfg⟩ := h.queue hp hsq
  have hcq := h.cqOf
  obtain ⟨hframe, -, -, hstat, -, hpass, -⟩ := h
  obtain ⟨hmem, htail, hprog, hpass', hirqs⟩ := hdone
  have hfield (hi lo : Nat) : regF s1 (oCQB p (Machine.cqOf s p sq)) hi lo = regF s (oCQB p (Machine.cqOf s p sq)) hi lo := by rw [regF, hcqb, regF]
  have hvec (k : Nat) : vectorOf s1 p k = vectorOf s p k := by
    rw [vectorOf, vectorOf]
    by_cases h8 : p = 8
    · rw [if_pos h8, if_pos h8]
    · rw [if_neg h8, if_neg h8, regB, hcfg h8, regB]
  have hm : s1.hostMem = s.hostMem := (congrArg State.hostMem hframe :)
  have hi : s1.irqs = s.irqs := (congrArg State.irqs hframe :)
  rw [hcq] at hmem htail hpass' hirqs
  rw [hpass, hm] at hmem
  rw [hfield, hfield] at htail
  rw [hpass, hfield, hfield] at hpass'
  rw [hi, hvec, hfield] at hirqs
  exact ⟨hmem, htail, fun h8 => by rw [hprog h8, (hstat h8).1], hpass', hirqs⟩

/-! ### The completion of a command -/

theorem find_updWhere (l : List Cmd) (id : Nat) {f : Cmd → Cmd} (hf : ∀ c, c.id = id → (f c).id = id) :
    (updWhere (fun c => c.id == id) f l).find? (fun c => c.id == id) = (l.find? (fun c => c.id == id)).map f := by
  induction l with
  | nil => rfl
  | cons y l ih =>
    have hcons : updWhere (fun c : Cmd => c.id == id) f (y :: l) = (if (y.id == id) = true then f y else y) :: updWhere (fun c => c.id == id) f l := rfl
    by_cases hy : y.id = id
    · simp [hcons, hy, hf y hy]
    · simp [hcons, hy, ih]

/-- Of a change of a command in flight, the command found is the changed one. -/
theorem cmdOf_updCmd {s : State} {p id : Nat} {c : Cmd} (hc : cmdOf s p id = some c) {f : Cmd → Cmd} (hf : ∀ c, c.id = id → (f c).id = id) :
    cmdOf (updCmd s p id f) p id = some (f c) := by
  rw [cmdOf, updCmd, partOf_updPart_self]
  exact (find_updWhere _ id hf).trans (congrArg (Option.map f) hc)

theorem length_cqEntry (s : State) (sq idx : Nat) {e : List Byte} (he : e.length = 128) (status detail : Nat) (late noto : Bool) :
    (cqEntry s sq idx e status detail late noto).length = 32 := by
  simp only [cqEntry, List.length_append, leBytes_length, eUser, List.length_take, List.length_drop, he]
  rfl

theorem cqEntry_congr {s s' : State} (h : reg s' oTGNOW = reg s oTGNOW) (sq idx : Nat) (e : List Byte) (status detail : Nat) (late noto : Bool) :
    cqEntry s' sq idx e status detail late noto = cqEntry s sq idx e status detail late noto := by
  rw [cqEntry, h, cqEntry]

/-- A command taken off the list of those in flight. -/
def takenOff (s : State) (p id : Nat) : State :=
  setInflight (updPart s p (fun x => { x with cmds := x.cmds.filter (fun d => d.id != id) })) p

theorem setInflight_parts (s : State) (p : Nat) : (setInflight s p).parts = s.parts := by
  rw [setInflight]
  split <;> rfl

theorem partOf_takenOff (s : State) (p id : Nat) :
    partOf (takenOff s p id) p = { partOf s p with cmds := (partOf s p).cmds.filter (fun d => d.id != id) } := by
  rw [takenOff, partOf, setInflight_parts]
  exact partOf_updPart_self s p _

theorem noted_takenOff {s : State} {p sq : Nat} (id : Nat) (hne : p ≠ 8 → oPSTAT p ≠ oSQB p sq) : Noted p sq s (takenOff s p id) :=
  (noted_updPart s p sq (f := fun x => { x with cmds := x.cmds.filter (fun d => d.id != id) }) (fun _ => ⟨rfl, rfl, rfl, rfl⟩)).trans
    (noted_setInflight hne)

theorem oPSTAT_ne_oSQB {p sq : Nat} (hp : p ≤ 8) (hsq : sq < 16) (h8 : p ≠ 8) : oPSTAT p ≠ oSQB p sq := by
  obtain ⟨-, -, -, -, -, -, -, -, -, hpf⟩ := queueRegs_apart (q := 0) (c := 3) hp (by decide) hsq hp (by decide)
  obtain ⟨-, h, -⟩ := hpf h8
  exact h

theorem retireCmd_gives {s : State} {p key : Nat} {c : Cmd} (hopen : CqOpen s p c.sq key) (hlen : c.entry.length = 128) (status detail : Nat) :
    let s1 := takenOff s p c.id
    let s' := retireCmd s p c status detail
    Completed s s' p c.sq key (cqEntry s c.sq c.idx c.entry status detail c.late c.timeout.isNone) (bit (eFlags c.entry) 0) [] ∧
    Noted p c.sq s s1 ∧ Posts s1 s' p c.sq := by
  have hopen' := hopen
  obtain ⟨hp, hsq, -, -, hqu, -⟩ := hopen'
  intro s1 s'
  have hnoted : Noted p c.sq s s1 := noted_takenOff c.id (oPSTAT_ne_oSQB hp hsq)
  have hq1 : (partOf s1 p).quarantine = false := (congrArg Part.quarantine (partOf_takenOff s p c.id)).trans hqu
  obtain ⟨-, -, hnow, -⟩ := hnoted.queue hp hsq
  obtain ⟨hdone, hposts⟩ := completed_postCompletion (hopen.noted hnoted) (length_cqEntry s1 c.sq c.idx hlen status detail c.late c.timeout.isNone)
    (bit (eFlags c.entry) 0)
  have hs' : s' = postCompletion s1 p c.sq (cqEntry s1 c.sq c.idx c.entry status detail c.late c.timeout.isNone) (bit (eFlags c.entry) 0) := by
    exact if_neg (fun h => Bool.false_ne_true (hq1.symm.trans h))
  rw [hs']
  rw [cqEntry_congr hnow] at hdone hposts ⊢
  exact ⟨Completed.of_noted hnoted hp hsq hdone, hnoted, hposts⟩

/-- No FENCE but the command itself, if it is one, and no command that awaits another. -/
def NoFence (s : State) (p id : Nat) : Prop := ∀ d ∈ (partOf s p).cmds, d.id ≠ id → eOp d.entry ≠ 6 ∧ d.awaits = []

theorem map_awaits_of_nil {l : List Cmd} (h : ∀ d ∈ l, d.awaits = []) (id : Nat) :
    l.map (fun d => { d with awaits := d.awaits.filter (· != id) }) = l := by
  refine (List.map_congr_left fun d hd => ?_).trans (List.map_id l)
  have ha := h d hd
  cases d
  cases ha
  rfl

/-- With no FENCE in flight a command that completes lets no other go on. -/
theorem completeGo_gives {s : State} {p id n : Nat} {c : Cmd} (hc : cmdOf s p id = some c) (hfence : NoFence s p id) (status detail : Nat)
    (hcmds : (partOf (retireCmd s p c status detail) p).cmds = (partOf s p).cmds.filter (fun d => d.id != id)) :
    completeGo (n + 1) s p id status detail = updPart (retireCmd s p c status detail) p (fun x =>
      { x with cmds := x.cmds.map (fun d => { d with awaits := d.awaits.filter (· != id) }) }) := by
  have hrest : ∀ d ∈ (partOf s p).cmds.filter (fun d => d.id != id), eOp d.entry ≠ 6 ∧ d.awaits = [] := fun d hd =>
    hfence d (List.mem_of_mem_filter hd) (by simpa using List.of_mem_filter hd)
  have hnone : (partOf (updPart (retireCmd s p c status detail) p (fun x =>
      { x with cmds := x.cmds.map (fun d => { d with awaits := d.awaits.filter (· != id) }) })) p).cmds.filter
        (fun d => eOp d.entry == 6 && d.awaits == []) = [] := by
    rw [partOf_updPart_self]
    dsimp only
    rw [hcmds, map_awaits_of_nil (fun d hd => (hrest d hd).2)]
    exact List.filter_eq_nil_iff.2 (fun d hd => by simp [(hrest d hd).1])
  rw [completeGo]
  simp only [hc, hnone, List.foldl_nil]

/-- Parts that read as before. -/
theorem completed_updPart {s s' : State} {p sq key : Nat} {b : List Byte} {irq : Bool} {more : List (Nat × Nat)} (u : Nat) {f : Part → Part}
    (hf : (f (partOf s' u)).pass = (partOf s' u).pass) (hdone : Completed s s' p sq key b irq more) :
    Completed s (updPart s' u f) p sq key b irq more := by
  obtain ⟨hmem, htail, hprog, hpass, hirqs⟩ := hdone
  refine ⟨hmem, htail, hprog, ?_, hirqs⟩
  rw [← hpass]
  by_cases hu : p = u
  · rw [hu, partOf_updPart_self, hf]
  · rw [partOf_updPart_ne _ _ hu]

/-- Registers of the queues, seen from before the dispatcher's notes. -/
theorem Noted.queueRegs {p sq : Nat} {s s' : State} (h : Noted p sq s s') : queueRegs s' p sq = queueRegs s p sq := by
  rw [Machine.queueRegs, Machine.queueRegs, h.cqOf]

theorem Noted.regsBut {p sq : Nat} {s s' : State} (h : Noted p sq s s') : RegsBut s s' (Machine.queueRegs s p sq) := by
  intro o ho
  simp only [Machine.queueRegs, List.mem_append, List.mem_cons, List.not_mem_nil, or_false, not_or] at ho
  obtain ⟨⟨h1, -, -⟩, h2⟩ := ho
  refine h.reg h1 (fun h8 e => h2 ?_)
  rw [if_neg h8]
  exact List.mem_singleton.2 e

/-- What a dispatcher notes and posts, together, is its queue's own. -/
theorem onlyQueue_of_posts {p sq : Nat} {s s1 s' : State} (h : Noted p sq s s1) (hposts : Posts s1 s' p sq) : OnlyQueue s s' p sq := by
  have hregs := h.regsBut
  have hqr := h.queueRegs
  obtain ⟨hframe, -, -, -, hothers, -⟩ := h
  obtain ⟨hframe', hothers', -, hregs', -⟩ := hposts
  rw [hqr] at hregs'
  refine ⟨?_, fun u hu => (hothers' u hu).trans (hothers u hu), fun o ho => (hregs' o ho).trans (hregs o ho)⟩
  exact (congrArg (fun y : State => { y with parts := s.parts, bar0 := s.bar0, hostMem := s.hostMem, hostReqs := s.hostReqs, irqs := s.irqs }) hframe' :).trans
    (congrArg (fun y : State => { y with hostMem := s.hostMem, hostReqs := s.hostReqs, irqs := s.irqs }) hframe :)

/-- What stays of a dispatcher when one of its commands ends. -/
def EndsOnly (s s' : State) (p id sq : Nat) : Prop :=
  OnlyQueue s s' p sq ∧ (∀ q, entriesOf s' p q = entriesOf s p q) ∧ (partOf s' p).cmds = (partOf s p).cmds.filter (fun d => d.id != id) ∧
  (p ≠ 8 → pState s' p = pState s p)

/-- A command completes (R291) and no FENCE and no entry waited for that. -/
theorem complete_gives {s : State} {p id key : Nat} {c : Cmd} (hc : cmdOf s p id = some c) (hopen : CqOpen s p c.sq key) (hlen : c.entry.length = 128)
    (hfence : NoFence s p id) (hent : ∀ q, entriesOf s p q = []) (hrun : p ≠ 8 → pState s p = 2) (status detail : Nat) :
    let s' := complete s p id status detail
    Completed s s' p c.sq key (cqEntry s c.sq c.idx c.entry status detail c.late c.timeout.isNone) (bit (eFlags c.entry) 0) [] ∧
    EndsOnly s s' p id c.sq := by
  intro s'
  have hid : c.id = id := beq_iff_eq.1 (List.find?_some (p := fun c : Cmd => c.id == id) hc)
  subst hid
  obtain ⟨hdone, hnoted, hposts⟩ := retireCmd_gives hopen hlen status detail
  have honly := onlyQueue_of_posts hnoted hposts
  obtain ⟨-, -, ⟨m, hpart⟩, -, hstate⟩ := hposts
  rw [partOf_takenOff] at hpart
  have hcmds : (partOf (retireCmd s p c status detail) p).cmds = (partOf s p).cmds.filter (fun d => d.id != c.id) := congrArg Part.cmds hpart
  have hgo := completeGo_gives (n := (partOf s p).cmds.length) hc hfence status detail hcmds
  have hrest : ∀ d ∈ (partOf (retireCmd s p c status detail) p).cmds, d.awaits = [] := by
    rw [hcmds]
    exact fun d hd => (hfence d (List.mem_of_mem_filter hd) (by simpa using List.of_mem_filter hd)).2
  obtain ⟨hframe, hothers, hregs⟩ := honly
  obtain ⟨-, -, -, hnstate, -⟩ := hnoted
  have hst (h8 : p ≠ 8) : pState (retireCmd s p c status detail) p = pState s p := (hstate h8).trans (hnstate h8).2
  generalize retireCmd s p c status detail = y at *
  generalize hz : updPart y p (fun x => { x with cmds := x.cmds.map (fun d => { d with awaits := d.awaits.filter (· != c.id) }) }) = z at hgo
  have hzpart : partOf z p = partOf y p := by
    rw [← hz, partOf_updPart_self, map_awaits_of_nil hrest]
  have hzent (q : Nat) : entriesOf z p q = entriesOf s p q := by rw [entriesOf, hzpart, hpart, entriesOf]
  have hzy : pState z p = pState y p := by
    rw [← hz]
    rfl
  have hzstate (h8 : p ≠ 8) : pState z p = pState s p := hzy.trans (hst h8)
  have hs' : s' = z := by
    refine (congrArg (fun x => advance x p) hgo).trans (advance_idle z p (fun q => (hzent q).trans (hent q)) ?_)
    by_cases h8 : p = 8
    · exact .inl h8
    · exact .inr (by rw [hzstate h8, hrun h8]; decide)
  rw [hs']
  refine ⟨?_, ⟨?_, fun u hu => ?_, fun o ho => ?_⟩, hzent, (congrArg Part.cmds hzpart).trans hcmds, hzstate⟩
  · rw [← hz]
    exact completed_updPart p rfl hdone
  · rw [← hz]
    exact hframe
  · rw [← hz, partOf_updPart_ne _ _ hu, hothers u hu]
  · rw [← hz]
    exact hregs o ho

theorem OnlyQueue.of_noted {p sq : Nat} {s s1 s' : State} (h : Noted p sq s s1) (honly : OnlyQueue s1 s' p sq) : OnlyQueue s s' p sq := by
  have hregs := h.regsBut
  have hqr := h.queueRegs
  obtain ⟨hframe, -, -, -, hothers, -⟩ := h
  obtain ⟨hframe', hothers', hregs'⟩ := honly
  rw [hqr] at hregs'
  refine ⟨?_, fun u hu => (hothers' u hu).trans (hothers u hu), fun o ho => (hregs' o ho).trans (hregs o ho)⟩
  exact (congrArg (fun y : State => { y with parts := s.parts, bar0 := s.bar0, hostMem := s.hostMem, hostReqs := s.hostReqs, irqs := s.irqs }) hframe' :).trans
    (congrArg (fun y : State => { y with hostMem := s.hostMem, hostReqs := s.hostReqs, irqs := s.irqs }) hframe :)

theorem filter_updWhere (l : List Cmd) (id : Nat) {f : Cmd → Cmd} (hf : ∀ c, (f c).id = c.id) :
    (updWhere (fun c => c.id == id) f l).filter (fun d => d.id != id) = l.filter (fun d => d.id != id) := by
  induction l with
  | nil => rfl
  | cons y l ih =>
    have hcons : updWhere (fun c : Cmd => c.id == id) f (y :: l) = (if (y.id == id) = true then f y else y) :: updWhere (fun c => c.id == id) f l := rfl
    rw [hcons, List.filter_cons, List.filter_cons, ih]
    by_cases hy : y.id = id
    · simp [hy, hf y]
    · simp [hy]

/-- A command in flight that is changed and then completes. -/
theorem complete_updCmd_ends {s : State} {p key : Nat} {c : Cmd} (hfl : InFlight s p c) (hopen : CqOpen s p c.sq key) {f : Cmd → Cmd}
    (hf : ∀ d, (f d).id = d.id ∧ (f d).entry = d.entry ∧ (f d).awaits = d.awaits)
    (hfc : (f c).sq = c.sq ∧ (f c).idx = c.idx ∧ (f c).late = c.late ∧ (f c).timeout = c.timeout) (status detail : Nat) :
    Ends s (complete (updCmd s p c.id f) p c.id status detail) p key c status detail [] ∧
    OnlyQueue s (complete (updCmd s p c.id f) p c.id status detail) p c.sq := by
  obtain ⟨-, hc, hrun, hent, hlen, hfence⟩ := hfl
  obtain ⟨hsq, hidx, hlate, htime⟩ := hfc
  have hopen' := hopen
  obtain ⟨hp, hsq16, -⟩ := hopen'
  have hnoted : Noted p c.sq s (updCmd s p c.id f) := noted_updPart s p c.sq (f := fun x => { x with cmds := updWhere (fun c' => c'.id == c.id) f x.cmds })
    (fun _ => ⟨rfl, rfl, rfl, rfl⟩)
  have hpart : partOf (updCmd s p c.id f) p = { partOf s p with cmds := updWhere (fun c' => c'.id == c.id) f (partOf s p).cmds } := partOf_updPart_self s p _
  have hc' : cmdOf (updCmd s p c.id f) p c.id = some (f c) := cmdOf_updCmd hc (fun d hd => (hf d).1.trans hd)
  have hnofence : NoFence (updCmd s p c.id f) p c.id := by
    intro d hd _
    rw [hpart] at hd
    obtain ⟨y, hy, rfl⟩ := List.mem_map.1 hd
    obtain ⟨-, he, ha⟩ := hf y
    split
    · rw [he, ha]
      exact hfence y hy
    · exact hfence y hy
  obtain ⟨hdone, honly, -, hcmds, -⟩ := complete_gives (key := key) hc' (hsq ▸ hopen.noted hnoted) ((hf c).2.1 ▸ hlen) hnofence
    (fun q => (congrArg (fun x : Part => SMap.get [] x.entries q) hpart).trans (hent q)) hrun status detail
  obtain ⟨-, -, hnow, -⟩ := hnoted.queue hp hsq16
  rw [hsq, hidx, hlate, htime, (hf c).2.1, cqEntry_congr hnow] at hdone
  rw [hsq] at honly
  refine ⟨⟨hdone.of_noted hnoted hp hsq16, ?_⟩, honly.of_noted hnoted⟩
  rw [hcmds, hpart]
  exact filter_updWhere _ c.id (fun d => (hf d).1)

end Sys2Proof.Machine
end

section

/-! ## The image of a LAUNCH at a tile (R97, R126, R127) -/

namespace Sys2Proof.Machine

/-! ### The tile as it is loaded -/

/-- Changes of one tile, one after the other, are one change of it. -/
theorem foldl_updTile {α : Type} (s : State) (t : Nat) (f : Tile → Tile) (g : α → Tile → Tile) (l : List α) :
    l.foldl (fun s a => updTile s t (g a)) (updTile s t f) = updTile s t (fun x => l.foldl (fun x a => g a x) (f x)) := by
  induction l generalizing f with
  | nil => rfl
  | cons a l ih => rw [List.foldl_cons, updTile_updTile, ih]; rfl

/-- Code, data and arguments in their places (Table 4.9). -/
def imageMem (c : Cmd) (m : List Host.Cell) : List Host.Cell :=
  let b := c.image
  Mem.write (Mem.write (Mem.write m (iLoadAt b) ((b.drop (iCodeOff b)).take (iCodeLen b))) (iDataAt b) ((b.drop (iDataOff b)).take (iDataLen b)))
    (iArgAt b) c.args

/-- A ring that the image applies; its waiting RECVs go on waiting. -/
def appliedRing (b : List Byte) (q : Nat) (r : Ring) : Ring :=
  { Ring.reset with base := ringBase (iRing b q), size := ringSize (iRing b q), waiters := r.waiters }

def withRings (b : List Byte) (l : List Nat) (x : Tile) : Tile := l.foldl (fun x q => setRing x q (appliedRing b q (ringOf x q))) x

def withGroups (b : List Byte) (r : LaunchRef) (l : List Nat) (x : Tile) : Tile := l.foldl (fun x n => setGrp x n (newGroup b n r)) x

/-- What of the code region's old contents the instruction buffer held is gone. -/
def withoutCode (b : List Byte) (x : Tile) : Tile :=
  { x with ibuf := x.ibuf.filter (fun e => e.word < iLoadAt b / 64 || iLoadAt b + iCodeLen b ≤ 64 * e.word) }

/-- A tile with the image of a LAUNCH loaded. -/
def loadedTile (c : Cmd) (r : LaunchRef) (x : Tile) : Tile :=
  withGroups c.image r (iSlots c.image) (withoutCode c.image (withRings c.image (iApplied c.image) { x with mem := imageMem c x.mem }))

theorem tmWrite_lay {s : State} {t : Nat} (src a : Nat) (bs : List Byte) (herr : (tileOf s t).memErr = []) :
    tmWrite s t src (Mem.lay a bs) = updTile s t (fun x => { x with mem := Mem.write x.mem a bs }) := by
  rw [tmWrite_of_memErr_nil s t src _ herr]
  simp only [Mem.cells_lay]

theorem memErr_updMem {s : State} {t : Nat} (f : List Host.Cell → List Host.Cell) (herr : (tileOf s t).memErr = []) :
    (tileOf (updTile s t (fun x => { x with mem := f x.mem })) t).memErr = [] :=
  (tile_updTile (fun x => x.memErr) rfl t).trans herr

theorem loadTile_of_memErr_nil {s : State} {t : Nat} (c : Cmd) (r : LaunchRef) (herr : (tileOf s t).memErr = []) :
    loadTile s t c r = updTile s t (loadedTile c r) := by
  have hcode := memErr_updMem (fun m => Mem.write m (iLoadAt c.image) ((c.image.drop (iCodeOff c.image)).take (iCodeLen c.image))) herr
  have hdata := memErr_updMem (fun m => Mem.write m (iDataAt c.image) ((c.image.drop (iDataOff c.image)).take (iDataLen c.image))) hcode
  rw [loadTile]
  dsimp only
  rw [tmWrite_lay 4 _ _ herr, tmWrite_lay 4 _ _ hcode, tmWrite_lay 4 _ _ hdata, updTile_updTile, updTile_updTile]
  have hrings := foldl_updTile s t (fun x => { x with mem := imageMem c x.mem })
    (fun q x => setRing x q (appliedRing c.image q (ringOf x q))) (iApplied c.image)
  have hgroups := foldl_updTile s t (fun x => withoutCode c.image (withRings c.image (iApplied c.image) { x with mem := imageMem c x.mem }))
    (fun n x => setGrp x n (newGroup c.image n r)) (iSlots c.image)
  refine Eq.trans ?_ hgroups
  refine congrArg (fun y => (iSlots c.image).foldl (fun s n => updTile s t (fun x => setGrp x n (newGroup c.image n r))) y) ?_
  refine Eq.trans (congrArg (fun y => updTile y t (withoutCode c.image)) hrings) ?_
  rw [updTile_updTile]
  rfl

/-! ### What the loaded tile holds -/

theorem groupOf_setGrp (x : Tile) (k n : Nat) (y : Group) : groupOf (setGrp x k y) n = if n = k then y else groupOf x n := by
  rw [groupOf, setGrp, SMap.get_set, groupOf]

theorem ringOf_setRing (x : Tile) (q n : Nat) (r : Ring) : ringOf (setRing x q r) n = if n = q then r else ringOf x n := by
  rw [ringOf, setRing, SMap.get_set, ringOf]

theorem groupOf_withGroups (b : List Byte) (r : LaunchRef) (l : List Nat) (x : Tile) (n : Nat) :
    groupOf (withGroups b r l x) n = if n ∈ l then newGroup b n r else groupOf x n := by
  have h := foldl_writes (fun x => groupOf x n) (fun x k => setGrp x k (newGroup b k r)) n True (fun k => newGroup b k r)
    (fun y k => by rw [groupOf_setGrp]; exact if_congr (by rw [and_true]) (by rfl) rfl) l x
  exact h.trans (if_congr (and_iff_left trivial) rfl rfl)

theorem ringOf_withRings (b : List Byte) (l : List Nat) (x : Tile) (n : Nat) :
    ringOf (withRings b l x) n = if n ∈ l then appliedRing b n (ringOf x n) else ringOf x n := by
  induction l generalizing x with
  | nil => simp [withRings]
  | cons q l ih =>
    have hcons : withRings b (q :: l) x = withRings b l (setRing x q (appliedRing b q (ringOf x q))) := rfl
    rw [hcons, ih, ringOf_setRing]
    by_cases hq : n = q
    · subst hq
      simp [appliedRing]
    · simp [hq]

theorem groupOf_loadedTile (c : Cmd) (r : LaunchRef) (x : Tile) (n : Nat) :
    groupOf (loadedTile c r x) n = if n ∈ iSlots c.image then newGroup c.image n r else groupOf x n := by
  have hkept : (withoutCode c.image (withRings c.image (iApplied c.image) { x with mem := imageMem c x.mem })).groups = x.groups :=
    foldl_keeps (fun y : Tile => y.groups) _ _ _ (fun _ _ => rfl)
  rw [loadedTile, groupOf_withGroups, groupOf, hkept, groupOf]

theorem ringOf_loadedTile (c : Cmd) (r : LaunchRef) (x : Tile) (q : Nat) :
    ringOf (loadedTile c r x) q = if q ∈ iApplied c.image then appliedRing c.image q (ringOf x q) else ringOf x q := by
  have hkept (y : Tile) : (withGroups c.image r (iSlots c.image) y).rings = y.rings :=
    foldl_keeps (fun y : Tile => y.rings) _ _ _ (fun _ _ => rfl)
  rw [loadedTile, ringOf, hkept]
  exact ringOf_withRings c.image (iApplied c.image) { x with mem := imageMem c x.mem } q

theorem mem_loadedTile (c : Cmd) (r : LaunchRef) (x : Tile) : (loadedTile c r x).mem = imageMem c x.mem := by
  have hgroups (y : Tile) : (withGroups c.image r (iSlots c.image) y).mem = y.mem :=
    foldl_keeps (fun y : Tile => y.mem) _ _ _ (fun _ _ => rfl)
  rw [loadedTile, hgroups]
  exact foldl_keeps (fun y : Tile => y.mem) _ _ _ (fun _ _ => rfl)

/-! ### Where its bytes come from (Table 4.9) -/

theorem getD_take_drop (l : List Byte) {i n j : Nat} (hj : j < n) : ((l.drop i).take n).getD j 0 = l.getD (i + j) 0 := by
  simp only [List.getD_eq_getElem?_getD, List.getElem?_take, List.getElem?_drop, if_pos hj]

/-- A range of an image that is whole. -/
theorem length_take_drop {l : List Byte} {i n : Nat} (h : i + n ≤ l.length) : ((l.drop i).take n).length = n := by
  rw [List.length_take, List.length_drop]
  omega

/-- A byte of two ranges of a list that passes the placement rule: the ranges are one. -/
theorem not_both_of_rangesOk {x y : Nat × Nat} {l : List (Nat × Nat)} (h : rangesOk (x :: l) = true) (hy : y ∈ l) (a : Nat)
    (hx : x.1 ≤ a ∧ a < x.1 + x.2) : ¬ (y.1 ≤ a ∧ a < y.1 + y.2) := by
  intro hay
  rw [rangesOk, Bool.and_eq_true, Bool.and_eq_true, List.all_eq_true] at h
  have hmeet := h.1.2 y hy
  simp only [rangesMeet, Bool.not_eq_true', Bool.and_eq_false_iff, decide_eq_false_iff_not, bne_eq_false_iff_eq] at hmeet
  omega

theorem rangesOk_tail {x : Nat × Nat} {l : List (Nat × Nat)} (h : rangesOk (x :: l) = true) : rangesOk l = true := by
  rw [rangesOk, Bool.and_eq_true] at h
  exact h.2

theorem imageOk_ranges {b : List Byte} {n : Nat} (h : imageOk b n = true) : rangesOk (iRanges b n) = true := by
  rw [imageOk, Bool.and_eq_true] at h
  exact h.2

/-- The bytes of a loaded tile: those of code, data and arguments, and elsewhere what stood there. -/
theorem byte_imageMem (c : Cmd) (m : List Host.Cell) (hok : imageOk c.image c.args.length = true) (hlen : c.image.length = imageLen c.image) (a : Nat) :
    let b := c.image
    let inCode := iLoadAt b ≤ a ∧ a < iLoadAt b + iCodeLen b
    let inData := iDataAt b ≤ a ∧ a < iDataAt b + iDataLen b
    let inArgs := iArgAt b ≤ a ∧ a < iArgAt b + c.args.length
    (inCode → Mem.byte (imageMem c m) a = b.getD (iCodeOff b + (a - iLoadAt b)) 0) ∧
    (inData → Mem.byte (imageMem c m) a = b.getD (iDataOff b + (a - iDataAt b)) 0) ∧
    (inArgs → Mem.byte (imageMem c m) a = c.args.getD (a - iArgAt b) 0) ∧
    (¬ inCode → ¬ inData → ¬ inArgs → Mem.byte (imageMem c m) a = Mem.byte m a) := by
  intro b inCode inData inArgs
  have hcode : iCodeOff b + iCodeLen b ≤ b.length := hlen ▸ (le_max_left _ _).trans (le_max_right _ _)
  have hdata : iDataOff b + iDataLen b ≤ b.length := hlen ▸ (le_max_right _ _).trans (le_max_right _ _)
  have hranges : rangesOk ((iLoadAt b, iCodeLen b) :: (iDataAt b, iDataLen b) :: (iArgAt b, c.args.length) ::
      (iApplied b).map (fun q => (ringBase (iRing b q), 64 * ringSize (iRing b q)))) = true := imageOk_ranges hok
  have hcd : inCode → ¬ inData := not_both_of_rangesOk hranges List.mem_cons_self a
  have hca : inCode → ¬ inArgs := not_both_of_rangesOk hranges (List.mem_cons_of_mem _ List.mem_cons_self) a
  have hda : inData → ¬ inArgs := not_both_of_rangesOk (rangesOk_tail hranges) List.mem_cons_self a
  have hbyte : Mem.byte (imageMem c m) a = if inArgs then c.args.getD (a - iArgAt b) 0
      else if inData then ((b.drop (iDataOff b)).take (iDataLen b)).getD (a - iDataAt b) 0
      else if inCode then ((b.drop (iCodeOff b)).take (iCodeLen b)).getD (a - iLoadAt b) 0 else Mem.byte m a := by
    rw [imageMem, Mem.byte_write, Mem.byte_write, Mem.byte_write, length_take_drop hdata, length_take_drop hcode]
  rw [hbyte]
  refine ⟨fun h => ?_, fun h => ?_, fun h => if_pos h, fun hc hd ha => ?_⟩
  · rw [if_neg (hca h), if_neg (hcd h), if_pos h, getD_take_drop b (by omega)]
  · rw [if_neg (hda h), if_pos h, getD_take_drop b (by omega)]
  · rw [if_neg ha, if_neg hd, if_neg hc]

/-! ### TILE_PROGRAM_LOAD -/

theorem execTileProgramLoad_runs {t part : Nat} {c : Cmd} {s : State} (hc : cmdOf s part c.id = some c) (hload : t ∈ c.loads)
    (hheld : tileHeld s t = false) (hfw : (tileOf s t).fwBusy = false) (hbist : bankInBist s t = false) (herr : (tileOf s t).memErr = []) :
    exec (.tileProgramLoad t part c.id) s = .next (updCmd (updTile s t (loadedTile c
      ⟨part, c.id, BitVec.ofNat 32 (eNat c.entry 28 4), BitVec.ofNat 32 (eNat c.entry 24 4)⟩)) part c.id
      (fun c => { c with loads := c.loads.filter (fun u => u != t) })) := by
  rw [exec, execTileProgramLoad]
  simp only [hc, List.contains_iff_mem.2 hload, hheld, hfw, hbist, Bool.not_false, Bool.and_self, if_true, loadTile_of_memErr_nil _ _ herr]

/-! ### TILE_REPORT -/

/-- A command with the report of tile t taken. -/
def reported (t : Nat) (c d : Cmd) : Cmd := { d with reports := c.reports.filter (fun u => u != t) }

theorem execTileReport_runs {t part : Nat} {c : Cmd} {s : State} (hc : cmdOf s part c.id = some c) (hfault : c.fault = none) (hrep : t ∈ c.reports)
    (hload : t ∉ c.loads) (hlive : launchLive s t part c.id = false) (hopen : storesOpen s t part c.id = false) :
    exec (.tileReport t part c.id) s = .next (if c.reports.filter (fun u => u != t) = [] then
      complete (updCmd s part c.id (reported t c)) part c.id 0 0 else updCmd s part c.id (reported t c)) := by
  have hload' : c.loads.contains t = false := by simpa using hload
  rw [exec, execTileReport]
  simp only [hc, List.contains_iff_mem.2 hrep, hload', hfault, hlive, hopen, Option.isSome_none, Bool.not_false, Bool.and_self, Bool.or_true, if_true,
    Option.getD_none]
  rfl

/-! ### The statement -/

/-- Settles O19: the loaded tile is one change of the tile, read field by field; a report shortens the command's list, and the last
one completes it. -/
theorem launchAtTiles : Obligations.LaunchAtTiles := by
  unfold Obligations.LaunchAtTiles
  intro t part c s hc x b l inCode inData inArgs
  refine ⟨fun hload hheld hfw hbist herr hok hlen => ?load, fun hfault hrep hnl hlive hopen => ⟨fun u hu hut => ?more, fun key hlast hfl hcq => ?last⟩⟩
  case load =>
    refine ⟨_, execTileProgramLoad_runs hc hload hheld hfw hbist herr, ?_⟩
    have htile (u : Nat) : tileOf (updCmd (updTile s t (loadedTile c l)) part c.id (fun c => { c with loads := c.loads.filter (fun u => u != t) })) u =
        tileOf (updTile s t (loadedTile c l)) u := rfl
    have hcmd := cmdOf_updCmd (s := updTile s t (loadedTile c l)) (p := part) hc (f := fun c => { c with loads := c.loads.filter (fun u => u != t) })
      (fun _ h => h)
    refine ⟨rfl, fun n hn => ?_, fun n hn => ?_, fun u hu => ?_, fun q hq => ?_, fun q hq => ?_, ?_, ?_, ?_⟩
    · rw [grp, htile, tileOf_updTile_self, groupOf_loadedTile, if_pos hn]
      rfl
    · rw [grp, htile, tileOf_updTile_self, groupOf_loadedTile, if_neg hn]
      rfl
    · rw [htile, tileOf_updTile_ne _ _ hu]
    · rw [htile, tileOf_updTile_self, ringOf_loadedTile, if_pos hq]
      rfl
    · rw [htile, tileOf_updTile_self, ringOf_loadedTile, if_neg hq]
    · rw [htile, tileOf_updTile_self, mem_loadedTile]
      exact byte_imageMem c x.mem hok hlen
    · rw [hcmd]
      rfl
    · rw [hcmd]
      rfl
  case more =>
    have hmem : u ∈ c.reports.filter (fun u => u != t) := List.mem_filter.2 ⟨hu, by simpa using hut⟩
    have hexec := execTileReport_runs hc hfault hrep hnl hlive hopen
    rw [if_neg (List.ne_nil_of_mem hmem)] at hexec
    exact ⟨_, hexec, rfl, cmdOf_updCmd hc (fun _ h => h), fun p hp => partOf_updPart_ne s _ hp⟩
  case last =>
    have hnil : c.reports.filter (fun u => u != t) = [] := List.filter_eq_nil_iff.2 (fun u hu => by simp [hlast u hu])
    have hexec := execTileReport_runs hc hfault hrep hnl hlive hopen
    rw [if_pos hnil] at hexec
    exact ⟨_, hexec, complete_updCmd_ends hfl hcq (f := reported t c) (fun _ => ⟨rfl, rfl, rfl⟩) ⟨rfl, rfl, rfl, rfl⟩ 0 0⟩

end Sys2Proof.Machine
end

section

/-! ## Every command answers (R98) -/

namespace Sys2Proof.Machine

/-- The block goes on with a next state. -/
def Answers (o : Host.Outcome State Fault Refusal) : Prop := ∃ s', o = .next s'

theorem answers_next (s : State) : Answers (.next s) := ⟨s, rfl⟩

theorem answers_ite {c : Prop} [Decidable c] {a b : Host.Outcome State Fault Refusal} (ha : Answers a) (hb : Answers b) :
    Answers (if c then a else b) := by
  split
  · exact ha
  · exact hb

/-! ### Tile instructions -/

/-- An instruction answers when its word is of no other row. -/
theorem issue_answers {row : Row} {w : DWord} (h : otherRow row w = none) (t slot : Nat) (s : State) (body : State → Res) :
    Answers (issue row t slot w s body) := by
  unfold issue
  rw [h]
  dsimp only
  refine answers_ite ?_ (answers_next s)
  split <;> exact answers_next _

theorem issue_answers_or_other (row : Row) (t slot : Nat) (w : DWord) (s : State) (body : State → Res) :
    Answers (issue row t slot w s body) ∨ ∃ m, issue row t slot w s body = .refused (.otherWord m) := by
  cases h : otherRow row w with
  | none => exact .inl (issue_answers h t slot s body)
  | some m => exact .inr ⟨m, by unfold issue; rw [h]⟩

theorem otherRow_self {row : Row} {w : DWord} (h : tileKey w = some row.key) : otherRow row w = none := by
  simp [otherRow, h]

/-- A command that decodes from its own word answers. -/
theorem exec_answers_of_tileDecode {t slot : Nat} {w : DWord} {c : Instr} (h : tileDecode t slot w = some c) (s : State) :
    Answers (exec c s) := by
  obtain ⟨row, body, hkey, hexec⟩ := exec_of_tileDecode h
  rw [hexec]
  exact issue_answers (otherRow_self hkey) t slot s body

/-! ### Every command -/

/-- A command either issues the word of a tile instruction, and is then well formed by that word, or is one of the other
commands, whose every branch goes on with a next state. -/
theorem exec_issues_or_answers (c : Instr) (s : State) :
    (∃ row t slot w body, (∀ a, Instr.wf a c = issueOk a c t slot w) ∧ exec c s = issue row t slot w s body) ∨
    Answers (exec c s) := by
  cases c
  case iadd | isub | imul | imulh | imad | andB | orB | xorB | shl | shr | sar | imin | imax | sel | isetp | bitop |
      iadd64 | fadd | fmul | ffma | fmin | fmax | fsetp | fsfu | cvt | dadd | dmul | dfma | dsetp | cvtraw | shfl |
      bra | ifC | elseC | endif | loopC | brk | endloop | call | ret | bar | endC | nop | ldt | stt | ldd | std | madd
      | fence | send | recv | mstat | mcancel | mfree | sread | attn | attnw | azero | aload | amul | adrain | astat =>
    exact .inl ⟨_, _, _, _, _, fun _ => rfl, rfl⟩
  all_goals
    refine .inr ?_
    dsimp only [exec]
    delta execRegisterWrite execCuppingShadowDone execDeviceReply execTileProgramLoad execTileReport execReservation
      execGrant execMessageInject execMessageWrite execMessageComplete execGrantTimeout execReservationRetry
      execGrantRelease execRecvTimeout execScan execMerge execScore execCompact execAttnCommandFinal execScoreUpdate
      execRingStepEnd execBlockAbandon execShelfWrite execFillArrival execShelfMadd execMergeEntryTimeout
      execSliceRetireDone execHbmRead execHbmWrite execHbmMaskedWrite execHbmAdd execAddEntryTimeout
      execRequestPromote execRefresh execMemRetrain execReadTimingMargin execReadVoltageMargin execWriteTimingMargin
      execWriteVoltageMargin execRetrainSlice execHbmControllerReset execHbmTempSample execLowPromote execTgCfgWrite
      execRefQualified execRefLost execStepInEdge execStepMissed execTimeHold execSlotokClear execTgLoad
      execTgNowRead execSlotOpen execSlotClose execLoadNotice execLoadNoticeEnd execBistSlice execScrubSlice
      execCommitApply execCupOpen execCupClose execPhase execIdleF execDataF execOpenF execCloseF execCloseAck
      execAbandon execNak execCredit execHello execRetrainReq execBadFrame execRtoExpiry execHelloTimer
      execFrameSend execTrainingEnd execBlockLockLoss execFecErrorRatio execLnkRetrain execLnkReset execCvuScan
      execCvuScanDone execCvuTransferCheck execClrstrm execSqDoorbell execCqDoorbell execSqEntryFetch execLaunch
      execCopy execAttnBatch execScrub execFenceCommand execCommit execPin execUnpin execNote execCommandTimeout
      execWatchdogTest execStart execStop execResume execHang execCancel execBar2Read execBar2Write execVfFlr
      execPfFlr execPerstN execVddAonRise execPowerGood execFloodTimeout execRailFail execEbbStep
      execHeaderSwitchGroup execPowerLoop execBrownout execBrownoutEnd execPhaseScan execThermalSample
      execSensorResample execThmClear execBucketLeak execScrubSliceEnd execBistSliceEnd execBistWaitTimeout
      execStageComplete execStageTimeout execContinue execHaltInNRise execHlmrst execDevrst execKeepok
      execHeadlandWatchdog execKeeperExpiry execUnitPoll execReadFlash execWriteInactiveFirmwareBank
      execMakePreferred execWriteInactiveRecordSlot execRetireTile execBroadcastTileFirmware execReadEventLog
      execEngineFaultReplay execReplayContextEnd execTileReset execStackReset execPartitionReset execIoDieReset
      execDeviceReset execDomainResetDone execVddAonFall execPerstNRise execSlowClockFallback execStepBoundary
      execStepOutEnd execNone execRefreshManagement execJournalWrite execShelfRead
    repeat' first | with_reducible apply answers_next | with_reducible apply answers_ite | split | dsimp only

/-- Settles O57: a command other than a tile instruction always answers; a tile instruction issues its word, which only
the check against the other rows of the opcode tables refuses, and a word that decodes to it is of its own row. -/
theorem everyCommandAnswers : Obligations.EveryCommandAnswers := by
  unfold Obligations.EveryCommandAnswers
  intro c s
  obtain ⟨row, t, slot, w, body, hwf, hexec⟩ | hans := exec_issues_or_answers c s
  · refine ⟨fun a ha => ?_, ?_⟩
    · have hdec : tileDecode t slot w = some c := by
        rw [hwf] at ha
        exact beq_iff_eq.1 (Bool.and_eq_true _ _ ▸ ha).2
      exact exec_answers_of_tileDecode hdec s
    · rw [hexec]
      exact issue_answers_or_other row t slot w s body
  · exact ⟨fun _ _ => hans, .inl hans⟩

end Sys2Proof.Machine

end

section

/-! ## Commands start (R290, R297)

The only entry that waits at a dispatcher starts; its command is in flight, and what a completion goes by stands as before. -/

namespace Sys2Proof.Machine

/-! ### The command and the dispatcher -/

/-- The command that an entry becomes (R297). -/
def startedCmd (s : State) (p sq : Nat) (e : SqEntry) : Cmd :=
  let t := timeoutOf s p e.bytes
  ⟨(partOf s p).serial, sq, e.idx, e.bytes, t, t.getD 0, t.getD 0, false, [], [], [], [], [], [], 0, 0, none, none, none, none⟩

/-- The dispatcher with the entry's SQ empty and the round robin at `turn`. -/
def taken (s : State) (p sq : Nat) (turn : Nat × Nat) : State := setEntries (updPart s p (fun x => { x with rr := turn })) p sq []

/-- The dispatcher once the entry has started. -/
def startedState (s : State) (p sq : Nat) (e : SqEntry) (turn : Nat × Nat) : State :=
  setInflight (updPart (taken s p sq turn) p (fun x => { x with serial := x.serial + 1, cmds := x.cmds ++ [startedCmd s p sq e] })) p

theorem startCmd_eq {s : State} {p sq : Nat} {e : SqEntry} (h : entriesOf s p sq = [e]) (turn : Nat × Nat) :
    startCmd (updPart s p (fun x => { x with rr := turn })) p sq e = (startedState s p sq e turn, startedCmd s p sq e) := by
  have hpart : partOf (updPart s p (fun x => { x with rr := turn })) p = { partOf s p with rr := turn } := partOf_updPart_self s p _
  have hent : (entriesOf (updPart s p (fun x => { x with rr := turn })) p sq).drop 1 = [] := by
    rw [entriesOf, hpart, ← entriesOf, h]
    rfl
  have hcmd : startCmd (updPart s p (fun x => { x with rr := turn })) p sq e =
      (let c : Cmd := { startedCmd s p sq e with id := (partOf (updPart s p (fun x => { x with rr := turn })) p).serial }
       (setInflight (updPart (setEntries (updPart s p (fun x => { x with rr := turn })) p sq
        ((entriesOf (updPart s p (fun x => { x with rr := turn })) p sq).drop 1)) p (fun x => { x with serial := x.serial + 1, cmds := x.cmds ++ [c] })) p, c)) := rfl
  rw [hcmd, hent, hpart]
  rfl

theorem partOf_taken (s : State) (p sq : Nat) (turn : Nat × Nat) :
    partOf (taken s p sq turn) p = { partOf s p with rr := turn, entries := SMap.set [] (partOf s p).entries sq [] } :=
  (partOf_updPart_self (updPart s p (fun x => { x with rr := turn })) p (fun x => { x with entries := SMap.set [] x.entries sq [] })).trans
    (congrArg (fun x : Part => { x with entries := SMap.set [] x.entries sq [] }) (partOf_updPart_self s p (fun x => { x with rr := turn })))

theorem partOf_startedState (s : State) (p sq : Nat) (e : SqEntry) (turn : Nat × Nat) :
    partOf (startedState s p sq e turn) p = { partOf s p with
      rr := turn, entries := SMap.set [] (partOf s p).entries sq [], serial := (partOf s p).serial + 1,
      cmds := (partOf s p).cmds ++ [startedCmd s p sq e] } := by
  rw [startedState, partOf, setInflight_parts, ← partOf, partOf_updPart_self, partOf_taken]

theorem noted_startedState {s : State} {p sq : Nat} (e : SqEntry) (turn : Nat × Nat) (hne : p ≠ 8 → oPSTAT p ≠ oSQB p sq) :
    Noted p sq s (startedState s p sq e turn) := by
  have hrr := noted_updPart s p sq (f := fun x => { x with rr := turn }) (fun _ => ⟨rfl, rfl, rfl, rfl⟩)
  have hent := noted_updPart (updPart s p (fun x => { x with rr := turn })) p sq (f := fun x => { x with entries := SMap.set [] x.entries sq [] })
    (fun _ => ⟨rfl, rfl, rfl, rfl⟩)
  have htaken : Noted p sq s (taken s p sq turn) := (hrr.trans hent).trans (noted_setHead hne)
  have hcmds := noted_updPart (taken s p sq turn) p sq
    (f := fun x => { x with serial := x.serial + 1, cmds := x.cmds ++ [startedCmd s p sq e] }) (fun _ => ⟨rfl, rfl, rfl, rfl⟩)
  exact (htaken.trans hcmds).trans (noted_setInflight hne)

/-! ### The choice -/

theorem startable_other {s : State} {p sq : Nat} {e : SqEntry} (h : CanStart s p sq e) {q : Nat} (hq : q ≠ sq) : canStart s p q = false := by
  obtain ⟨-, -, -, -, -, hothers, -⟩ := h
  have hnone : startable s p q = none := by
    rw [startable, hothers q hq]
    split <;> rfl
  rw [canStart, hnone]
  rfl

/-- Only the SQ of the entry can have its turn. -/
theorem pickSq_of_canStart {s : State} {p sq : Nat} {e : SqEntry} (h : CanStart s p sq e) (hcan : canStart s p sq = true) :
    ∃ turn, pickSq s p = some (sq, turn) := by
  have honly (q : Nat) (hq : canStart s p q = true) : q = sq := by
    by_contra hne
    rw [startable_other h hne] at hq
    exact Bool.false_ne_true hq
  obtain ⟨-, -, hsq, -⟩ := h
  rw [pickSq]
  split
  · next hr =>
    rw [Bool.and_eq_true] at hr
    exact ⟨_, by rw [honly _ hr.2]⟩
  · generalize (if (partOf s p).rr.2 > 0 then (partOf s p).rr.1 + 1 else (partOf s p).rr.1) = n
    have hmem : sq ∈ (List.range 16).map (fun i => (n + i) % 16) :=
      List.mem_map.2 ⟨(sq + 16 - n % 16) % 16, List.mem_range.2 (Nat.mod_lt _ (by decide)), by omega⟩
    obtain ⟨q, hq⟩ := Option.isSome_iff_exists.1 (List.find?_isSome.2 ⟨sq, hmem, hcan⟩)
    obtain rfl := honly q (List.find?_some hq)
    dsimp only
    rw [hq]
    exact ⟨_, rfl⟩

/-! ### What a completion goes by -/

/-- What the completion of a command of queue sq of partition p goes by. -/
def SameQueue (p sq : Nat) (s y : State) : Prop :=
  y.asm = s.asm ∧ y.irqs = s.irqs ∧
  (reg y (oCQA p (cqOf s p sq)) = reg s (oCQA p (cqOf s p sq)) ∧ reg y (oCQB p (cqOf s p sq)) = reg s (oCQB p (cqOf s p sq)) ∧ reg y oTGNOW = reg s oTGNOW ∧ reg y (oPCFG p) = reg s (oPCFG p)) ∧ regF y (oSQB p sq) 59 56 = regF s (oSQB p sq) 59 56 ∧
  (regF y (oPSTAT p) 63 32 = regF s (oPSTAT p) 63 32 ∧ pState y p = pState s p) ∧
  (partOf y p).pass = (partOf s p).pass ∧ (partOf y p).heads = (partOf s p).heads ∧ (partOf y p).waiting = (partOf s p).waiting ∧
  (partOf y p).quarantine = (partOf s p).quarantine

theorem Noted.sameQueue {p sq : Nat} {s y : State} (h : Noted p sq s y) (hp : p ≤ 8) (h8 : p ≠ 8) (hsq : sq < 16) : SameQueue p sq s y := by
  obtain ⟨ha, hb, hnow, hcfg⟩ := h.queue hp hsq
  obtain ⟨hframe, -, hq, hstat, -, hparts⟩ := h
  exact ⟨(congrArg State.asm hframe :), (congrArg State.irqs hframe :), ⟨ha, hb, hnow, hcfg h8⟩, hq, hstat h8, hparts⟩

/-- The registers that the completion of a command goes by. -/
def goesBy (s : State) (p sq : Nat) : List Nat :=
  [oCQA p (cqOf s p sq), oCQB p (cqOf s p sq), oTGNOW, oPCFG p, oSQB p sq, oPSTAT p]

/-- Other registers and other parts of the state may change. -/
theorem SameQueue.regs {p sq : Nat} {s y z : State} (h : SameQueue p sq s y) {l : List Nat} (hregs : RegsBut y z l) (hl : ∀ o ∈ goesBy s p sq, o ∉ l)
    (hasm : z.asm = y.asm) (hirqs : z.irqs = y.irqs) (hpart : ∃ cmds, partOf z p = { partOf y p with cmds := cmds }) : SameQueue p sq s z := by
  obtain ⟨hasm', hirqs', ⟨ha, hb, hnow, hcfg⟩, hq, ⟨hprog, hstate⟩, hpass, hheads, hwait, hqu⟩ := h
  obtain ⟨cmds, hpart⟩ := hpart
  simp only [goesBy, List.forall_mem_cons] at hl
  obtain ⟨h1, h2, h3, h4, h5, h6, -⟩ := hl
  have hstat (hi lo : Nat) : regF z (oPSTAT p) hi lo = regF y (oPSTAT p) hi lo := by rw [regF, hregs _ h6, regF]
  refine ⟨hasm.trans hasm', hirqs.trans hirqs', ⟨(hregs _ h1).trans ha, (hregs _ h2).trans hb, (hregs _ h3).trans hnow, (hregs _ h4).trans hcfg⟩,
    ?_, ⟨(hstat 63 32).trans hprog, (hstat 2 0).trans hstate⟩, ?_⟩
  · rw [regF, hregs _ h5, ← regF, hq]
  · rw [hpart]
    exact ⟨hpass, hheads, hwait, hqu⟩

theorem SameQueue.cqOf {p sq : Nat} {s y : State} (h : SameQueue p sq s y) : cqOf y p sq = cqOf s p sq := by
  obtain ⟨-, -, -, hq, -⟩ := h
  rw [Machine.cqOf, Machine.cqOf, hq]

theorem CqOpen.sameQueue {p sq key : Nat} {s y : State} (hopen : CqOpen s p sq key) (h : SameQueue p sq s y) : CqOpen y p sq key := by
  obtain ⟨hp, hsq, hroom, hwait, hqu, ha, hr⟩ := hopen
  have hcq := h.cqOf
  obtain ⟨hasm, -, ⟨hcqa, hcqb, -, hcfg⟩, -, -, -, hheads, hwait', hqu'⟩ := h
  refine ⟨hp, hsq, ?_, ?_, hqu'.trans hqu, ?_, ?_⟩
  · rw [hcq, ← hroom, cqRoom, cqRoom, regF, regF, regB, regB, hcqb, hheads]
    rfl
  · rw [hcq, hwait']
    exact hwait
  · rw [hcq, hcqa, regF, hcqb, ← regF]
    exact ha
  · rw [hcq, hcqa, regF, hcqb, ← regF]
    refine routeOf_host_congr hr hasm (fun u hu => ?_)
    split at hu
    · cases hu
    · cases hu
      exact hcfg

/-- A completion is seen from before: from any state whose host memory stands as it does when the completion is written. -/
theorem Completed.of_sameQueue {p sq key : Nat} {s y s' : State} {b : List Byte} {irq : Bool} {more : List (Nat × Nat)} (h : SameQueue p sq s y) (h8 : p ≠ 8)
    (hmem : ∀ a, Mem.byte y.hostMem a = Mem.byte s.hostMem a) (hdone : Completed y s' p sq key b irq more) : Completed s s' p sq key b irq more := by
  have hcq := h.cqOf
  obtain ⟨-, hirqs, ⟨-, hcqb, -, hcfg⟩, -, ⟨hprog, -⟩, hpass, -⟩ := h
  obtain ⟨hmem', htail, hprog', hpass', hirqs'⟩ := hdone
  have hfield (hi lo : Nat) : regF y (oCQB p (Machine.cqOf s p sq)) hi lo = regF s (oCQB p (Machine.cqOf s p sq)) hi lo := by rw [regF, hcqb, regF]
  have hvec (k : Nat) : vectorOf y p k = vectorOf s p k := by
    rw [vectorOf, vectorOf, if_neg h8, if_neg h8, regB, hcfg, regB]
  rw [hcq] at hmem' htail hpass' hirqs'
  rw [hpass] at hmem'
  rw [hfield, hfield] at htail
  rw [hpass, hfield, hfield] at hpass'
  rw [hirqs, hvec, hfield] at hirqs'
  exact ⟨fun a => by rw [hmem' a, hmem a], htail, fun h8 => by rw [hprog' h8, hprog], hpass', hirqs'⟩

/-! ### A command under way -/

/-- Command c of the entry is under way in y: the last of those in flight, with no entry waiting, and its completion goes by what it
went by in s. -/
def UnderWay (s y : State) (p sq : Nat) (e : SqEntry) (c : Cmd) : Prop :=
  SameQueue p sq s y ∧ (partOf y p).cmds = (partOf s p).cmds ++ [c] ∧ (∀ q, entriesOf y p q = []) ∧ y.stalled = false ∧
  (c.id = (partOf s p).serial ∧ c.sq = sq ∧ c.idx = e.idx ∧ c.entry = e.bytes ∧ c.timeout = timeoutOf s p e.bytes ∧ c.late = false)

theorem CanStart.pState {s : State} {p sq : Nat} {e : SqEntry} (h : CanStart s p sq e) (h8 : p ≠ 8) : pState s p = 2 := by
  obtain ⟨-, -, -, hstart, -⟩ := h
  rw [startable] at hstart
  split at hstart
  · next hmay =>
    simp only [mayStart, Bool.and_eq_true, if_neg h8, decide_eq_true_eq] at hmay
    exact hmay.1.1.2
  · cases hstart

theorem CanStart.underWay {s : State} {p sq : Nat} {e : SqEntry} (h : CanStart s p sq e) (h8 : p ≠ 8) (turn : Nat × Nat) :
    UnderWay s (startedState s p sq e turn) p sq e (startedCmd s p sq e) := by
  obtain ⟨hstall, hp, hsq, -, -, hothers, -⟩ := h
  have hnoted := noted_startedState (s := s) e turn (oPSTAT_ne_oSQB hp hsq)
  have hpart := partOf_startedState s p sq e turn
  refine ⟨hnoted.sameQueue hp h8 hsq, congrArg Part.cmds hpart, fun q => ?_, ?_, rfl, rfl, rfl, rfl, rfl, rfl⟩
  · rw [entriesOf, hpart]
    by_cases hq : q = sq
    · rw [hq]
      exact SMap.get_set_self [] (partOf s p).entries sq []
    · exact (SMap.get_set_ne [] (partOf s p).entries [] hq).trans (hothers q hq)
  · exact (congrArg State.stalled hnoted.1 :).trans hstall

/-- A command at the head of the only SQ with an entry starts (R290). -/
theorem starting_gives {s : State} {p sq op : Nat} {e : SqEntry} (h : CanStart s p sq e) (h8 : p ≠ 8) (hop : eOp e.bytes = op) (hacc : 1 ≤ op ∧ op ≤ 10)
    (hheld : entryHeld s p e = false) :
    ∃ turn, ∀ body, starting op s p sq body = whole s (advance (body (startedState s p sq e turn) (startedCmd s p sq e)) p) := by
  have hstart := h
  obtain ⟨-, -, -, hstart, hent, -⟩ := hstart
  have hopen : opAccepted p op = true := by simp [opAccepted, h8, hacc]
  have hcan : canStart s p sq = true := by simp [canStart, hstart, hop, hopen, hheld]
  obtain ⟨turn, hturn⟩ := pickSq_of_canStart h hcan
  refine ⟨turn, fun body => ?_⟩
  rw [starting, hstart, hturn]
  dsimp only
  rw [if_pos ⟨rfl, hop, hopen, hheld⟩, startCmd_eq hent]

theorem whole_of_not_stalled {s y : State} (h : y.stalled = false) : whole s y = y := if_neg (by simp [h])

/-- The state in which a command that is under way completes. -/
theorem UnderWay.cmdOf {s y : State} {p sq : Nat} {e : SqEntry} {c : Cmd} (hs : CanStart s p sq e) (h : UnderWay s y p sq e c) : cmdOf y p c.id = some c := by
  obtain ⟨-, -, -, -, -, -, -, hcmds⟩ := hs
  obtain ⟨-, hy, -, -, hid, -⟩ := h
  rw [Machine.cmdOf, hy, List.find?_append]
  have hnone : (partOf s p).cmds.find? (fun d => d.id == c.id) = none := by
    refine List.find?_eq_none.2 fun d hd => ?_
    have hne := (hcmds d hd).1
    simpa [hid] using hne
  rw [hnone]
  simp

/-- A command that starts completes in the same step (R291): what its completion writes, and all that it changes. -/
theorem UnderWay.completes {s y : State} {p sq key : Nat} {e : SqEntry} {c : Cmd} (hs : CanStart s p sq e) (h8 : p ≠ 8) (hopen : CqOpen s p sq key)
    (h : UnderWay s y p sq e c) {mem : List Host.Cell} (hmem : ∀ a, Mem.byte y.hostMem a = Mem.byte mem a) (status detail : Nat) :
    let s' := whole s (advance (complete y p c.id status detail) p)
    StartsAndCompletes { s with hostMem := mem } s' p sq key e status detail [] ∧ OnlyQueue y s' p sq := by
  have hcmd := h.cmdOf hs
  have hrun := hs.pState h8
  obtain ⟨-, hp, hsq16, -, -, -, hlen, hcmds⟩ := hs
  obtain ⟨hsame, hy, hent, hstall, hid, hsq, hidx, hentry, htime, hlate⟩ := h
  have hstate : Machine.pState y p = 2 := by
    obtain ⟨-, -, -, -, ⟨-, hst⟩, -⟩ := hsame
    exact hst.trans hrun
  have hfence : NoFence y p c.id := by
    intro d hd hne
    rw [hy] at hd
    rcases List.mem_append.1 hd with hd | hd
    · exact (hcmds d hd).2
    · exact absurd (congrArg Cmd.id (List.mem_singleton.1 hd)) hne
  obtain ⟨hdone, honly, hent', hcmds', hstate'⟩ :=
    complete_gives hcmd (hsq ▸ hopen.sameQueue hsame) (hentry ▸ hlen) hfence hent (fun _ => hstate) status detail
  intro s'
  generalize hz : complete y p c.id status detail = z at *
  have hs' : s' = z := by
    have hadv : advance z p = z := advance_idle z p (fun q => (hent' q).trans (hent q)) (.inr (by rw [hstate' h8, hstate]; decide))
    have hzs : z.stalled = false := (congrArg State.stalled honly.1 :).trans hstall
    exact (congrArg (whole s) ((congrArg (advance · p) hz).trans hadv)).trans (whole_of_not_stalled hzs)
  rw [hs']
  rw [hsq, hidx, hentry, hlate, htime] at hdone
  rw [hsq] at honly
  have hnow : reg y oTGNOW = reg s oTGNOW := by
    obtain ⟨-, -, ⟨-, -, hnow, -⟩, -⟩ := hsame
    exact hnow
  rw [cqEntry_congr hnow] at hdone
  have hseen := Completed.of_sameQueue (s := { s with hostMem := mem }) hsame h8 hmem hdone
  refine ⟨⟨hseen, (hent' sq).trans (hent sq), ?_, fun _ => (hstate' h8).trans hstate⟩, honly⟩
  rw [hcmds', hy, List.filter_append]
  have hkeep : (partOf s p).cmds.filter (fun d => d.id != c.id) = (partOf s p).cmds := by
    refine List.filter_eq_self.2 fun d hd => ?_
    simpa [hid] using (hcmds d hd).1
  have hgone : [c].filter (fun d => d.id != c.id) = [] := by simp
  rw [hkeep, hgone, List.append_nil]
  rfl

end Sys2Proof.Machine
end

section

/-! ## Queue commands at their start (R292, R293) -/

namespace Sys2Proof.Machine

/-! ### What stands while a command starts -/

/-- All of the block but its dispatchers stands: the registers beyond the pages of the partitions too (Table 1.7). -/
def SameDevice (s y : State) : Prop := { y with parts := s.parts, bar0 := s.bar0 } = s ∧ ∀ o, 0x18_0000 ≤ o → reg y o = reg s o

theorem Noted.sameDevice {p sq : Nat} {s y : State} (h : Noted p sq s y) (hp : p ≤ 8) (h8 : p ≠ 8) (hsq : sq < 16) : SameDevice s y := by
  refine ⟨h.1, fun o ho => h.reg ?_ (fun _ => ?_)⟩
  · rw [oSQB, queuePage, if_neg h8, hstPage]
    omega
  · rw [oPSTAT, hstPage]
    omega

theorem SameDevice.asm {s y : State} (h : SameDevice s y) : y.asm = s.asm := (congrArg State.asm h.1 :)

theorem SameDevice.regF {s y : State} (h : SameDevice s y) {o : Nat} (ho : 0x18_0000 ≤ o) (hi lo : Nat) : regF y o hi lo = regF s o hi lo := by
  rw [Machine.regF, h.2 o ho, Machine.regF]

theorem SameDevice.regB {s y : State} (h : SameDevice s y) {o : Nat} (ho : 0x18_0000 ≤ o) (i : Nat) : regB y o i = regB s o i := by
  rw [Machine.regB, h.2 o ho, Machine.regB]

theorem SameDevice.partValid {s y : State} (h : SameDevice s y) (p : Nat) : partValid y p = partValid s p := by
  rw [Machine.partValid, h.asm, h.regB (by rw [oPTABA]; omega), Machine.partValid]

theorem SameDevice.ownsStack {s y : State} (h : SameDevice s y) (p st : Nat) : ownsStack y p st = ownsStack s p st := by
  rw [Machine.ownsStack, h.partValid, h.regB (by rw [oPTABA]; omega), Machine.ownsStack]

theorem SameDevice.tileInPart {s y : State} (h : SameDevice s y) (p t : Nat) : tileInPart y p t = tileInPart s p t := by
  rw [Machine.tileInPart, h.ownsStack, h.asm, Machine.tileInPart]

theorem SameDevice.ownsHbm {s y : State} (h : SameDevice s y) (p a : Nat) : ownsHbm y p a = ownsHbm s p a := by
  have ho : 0x18_0000 ≤ oPTABB p := by rw [oPTABB]; omega
  rw [Machine.ownsHbm, h.partValid, h.regF ho, h.regF ho, Machine.ownsHbm]

theorem SameDevice.ownsRange {s y : State} (h : SameDevice s y) (p a n : Nat) : ownsRange y p a n = ownsRange s p a n := by
  rw [Machine.ownsRange, h.ownsHbm, h.ownsHbm, Machine.ownsRange]

theorem SameDevice.entryRectOk {s y : State} (h : SameDevice s y) (p : Nat) (b : List Byte) (o : Nat) : entryRectOk y p b o = entryRectOk s p b o := by
  have hout (d : ResetDomain) : isOut y d = isOut s d := by rw [isOut, (congrArg State.head h.1 :), isOut]
  simp only [Machine.entryRectOk, rectOk, h.tileInPart, hout]

theorem SameDevice.launchEntryOk {s y : State} (h : SameDevice s y) (p : Nat) (b : List Byte) : launchEntryOk y p b = launchEntryOk s p b := by
  rw [Machine.launchEntryOk, h.entryRectOk, Machine.launchEntryOk]

theorem SameDevice.batchEntryOk {s y : State} (h : SameDevice s y) (p : Nat) (b : List Byte) : batchEntryOk y p b = batchEntryOk s p b := by
  rw [Machine.batchEntryOk, h.entryRectOk, Machine.batchEntryOk]

theorem SameDevice.scrubEntryOk {s y : State} (h : SameDevice s y) (p : Nat) (b : List Byte) : scrubEntryOk y p b = scrubEntryOk s p b := by
  rw [Machine.scrubEntryOk, h.ownsRange, Machine.scrubEntryOk]

theorem SameDevice.scanEntryOk {s y : State} (h : SameDevice s y) (b : List Byte) : scanEntryOk y b = scanEntryOk s b := by
  rw [Machine.scanEntryOk, h.asm, Machine.scanEntryOk]

theorem SameDevice.pinEntryOk {s y : State} (h : SameDevice s y) (p : Nat) (b : List Byte) : pinEntryOk y p b = pinEntryOk s p b := by
  rw [Machine.pinEntryOk, h.ownsRange, Machine.pinEntryOk]

theorem CanStart.sameDevice {s : State} {p sq : Nat} {e : SqEntry} (h : CanStart s p sq e) (h8 : p ≠ 8) (turn : Nat × Nat) :
    SameDevice s (startedState s p sq e turn) := by
  obtain ⟨-, hp, hsq, -⟩ := h
  exact (noted_startedState e turn (oPSTAT_ne_oSQB hp hsq)).sameDevice hp h8 hsq

/-! ### Commands that complete at their start -/

theorem entryHeld_other {s : State} {p : Nat} {e : SqEntry} (h : eOp e.bytes ≠ 1 ∧ eOp e.bytes ≠ 3 ∧ eOp e.bytes ≠ 5) : entryHeld s p e = false := by
  obtain ⟨h1, h3, h5⟩ := h
  rw [entryHeld]
  split
  · exact absurd ‹_› h1
  · exact absurd ‹_› h3
  · exact absurd ‹_› h5
  · rfl

/-- A command at the head of the only SQ with an entry starts (R290), in a state y in which it is under way. -/
theorem CanStart.starts {s : State} {p sq op : Nat} {e : SqEntry} (h : CanStart s p sq e) (h8 : p ≠ 8) (hop : eOp e.bytes = op) (hacc : 1 ≤ op ∧ op ≤ 10)
    (hheld : entryHeld s p e = false) :
    ∃ y, (∀ body, starting op s p sq body = whole s (advance (body y (startedCmd s p sq e)) p)) ∧ UnderWay s y p sq e (startedCmd s p sq e) ∧
      SameDevice s y ∧ Noted p sq s y := by
  obtain ⟨turn, hstarting⟩ := starting_gives h h8 hop hacc hheld
  obtain ⟨-, hp, hsq, -⟩ := id h
  exact ⟨_, hstarting, h.underWay h8 turn, h.sameDevice h8 turn, noted_startedState e turn (oPSTAT_ne_oSQB hp hsq)⟩

/-- A command that does nothing but complete. -/
theorem starting_completes {s : State} {p sq key op st det : Nat} {e : SqEntry} {body : State → Cmd → State} (hs : CanStart s p sq e) (h8 : p ≠ 8)
    (hopen : CqOpen s p sq key) (hop : eOp e.bytes = op) (hacc : 1 ≤ op ∧ op ≤ 10) (hheld : entryHeld s p e = false)
    (hbody : ∀ y c, SameDevice s y → UnderWay s y p sq e c → body y c = complete y p c.id st det) :
    StartsAndCompletes s (starting op s p sq body) p sq key e st det [] ∧ OnlyQueue s (starting op s p sq body) p sq := by
  obtain ⟨y, hstarting, hunder, hdev, hnoted⟩ := hs.starts h8 hop hacc hheld
  obtain ⟨hdone, honly⟩ := hunder.completes (mem := s.hostMem) hs h8 hopen (fun a => by rw [(congrArg State.hostMem hdev.1 :)]) st det
  rw [hstarting, hbody _ _ hdev hunder]
  exact ⟨hdone, honly.of_noted hnoted⟩

/-- An entry that is not valid completes with status 4 (R292). -/
theorem invalid_completes {s : State} {p sq key : Nat} {e : SqEntry} (hs : CanStart s p sq e) (h8 : p ≠ 8) (hopen : CqOpen s p sq key) :
    ∀ x ∈ ([(.launch p sq, 1, launchEntryOk s p e.bytes = false), (.copy p sq, 2, copyEntryOk e.bytes = false),
        (.attnBatch p sq, 3, batchEntryOk s p e.bytes = false ∧ batchWaits s e = false), (.scrub p sq, 4, scrubEntryOk s p e.bytes = false),
        (.cvuScan p sq, 5, scanEntryOk s e.bytes = false), (.fenceCommand p sq, 6, flagsOk e.bytes = false),
        (.pin p sq, 8, pinEntryOk s p e.bytes = false), (.unpin p sq, 9, pinEntryOk s p e.bytes = false),
        (.note p sq, 10, flagsOk e.bytes = false)] : List (Instr × Nat × Prop)), eOp e.bytes = x.2.1 → x.2.2 →
      ∃ s', exec x.1 s = .next s' ∧ StartsAndCompletes s s' p sq key e 4 0 [] ∧ OnlyQueue s s' p sq := by
  have entry {y : State} {c : Cmd} (h : UnderWay s y p sq e c) : c.entry = e.bytes := by
    obtain ⟨-, -, -, -, -, -, -, hentry, -⟩ := h
    exact hentry
  simp only [List.forall_mem_cons, List.not_mem_nil, false_imp_iff, implies_true, and_true]
  refine ⟨?launch, ?copy, ?batch, ?scrub, ?scan, ?fence, ?pin, ?unpin, ?note⟩
  case launch =>
    intro hop hbad
    refine ⟨_, rfl, starting_completes hs h8 hopen hop (by decide) ?_ fun y c hdev hy => ?_⟩
    · simp [entryHeld, hop, launchHeld, hbad]
    · simp only [launchGo, entry hy, hdev.launchEntryOk, hbad, Bool.not_false, if_true]
  case copy =>
    intro hop hbad
    refine ⟨_, rfl, starting_completes hs h8 hopen hop (by decide) (entryHeld_other (by omega)) fun y c hdev hy => ?_⟩
    simp only [copyGo, entry hy, hbad, Bool.not_false, if_true]
  case batch =>
    intro hop ⟨hbad, hwait⟩
    refine ⟨_, rfl, starting_completes hs h8 hopen hop (by decide) ?_ fun y c hdev hy => ?_⟩
    · simp [entryHeld, hop, hwait]
    · simp only [batchGo, entry hy, hdev.batchEntryOk, hbad, Bool.not_false, if_true]
  case scrub =>
    intro hop hbad
    refine ⟨_, rfl, starting_completes hs h8 hopen hop (by decide) (entryHeld_other (by omega)) fun y c hdev hy => ?_⟩
    simp only [entry hy, hdev.scrubEntryOk, hbad, Bool.not_false, if_true]
  case scan =>
    intro hop hbad
    refine ⟨_, rfl, starting_completes hs h8 hopen hop (by decide) ?_ fun y c hdev hy => ?_⟩
    · simp [entryHeld, hop, scanHeld, hbad]
    · simp only [entry hy, hdev.scanEntryOk, hbad, Bool.false_eq_true, if_false]
  case fence =>
    intro hop hbad
    refine ⟨_, rfl, starting_completes hs h8 hopen hop (by decide) (entryHeld_other (by omega)) fun y c hdev hy => ?_⟩
    simp only [entry hy, hbad, Bool.false_and, Bool.false_eq_true, if_false]
  case pin =>
    intro hop hbad
    refine ⟨_, rfl, starting_completes hs h8 hopen hop (by decide) (entryHeld_other (by omega)) fun y c hdev hy => ?_⟩
    simp only [entry hy, hdev.pinEntryOk, hbad, Bool.not_false, if_true]
  case unpin =>
    intro hop hbad
    refine ⟨_, rfl, starting_completes hs h8 hopen hop (by decide) (entryHeld_other (by omega)) fun y c hdev hy => ?_⟩
    simp only [entry hy, hdev.pinEntryOk, hbad, Bool.not_false, if_true]
  case note =>
    intro hop hbad
    refine ⟨_, rfl, starting_completes hs h8 hopen hop (by decide) (entryHeld_other (by omega)) fun y c hdev hy => ?_⟩
    simp only [entry hy, hbad, Bool.false_and, Bool.false_eq_true, if_false]

theorem note_completes {s : State} {p sq key : Nat} {e : SqEntry} (hs : CanStart s p sq e) (h8 : p ≠ 8) (hopen : CqOpen s p sq key)
    (hop : eOp e.bytes = 10) (hflags : flagsOk e.bytes = true) (hzero : restZero e.bytes [(0, 16)] = true) :
    ∃ s', exec (.note p sq) s = .next s' ∧ StartsAndCompletes s s' p sq key e 0 0 [] ∧ OnlyQueue s s' p sq := by
  refine ⟨_, rfl, starting_completes hs h8 hopen hop (by decide) (entryHeld_other (by omega)) fun y c _ hy => ?_⟩
  obtain ⟨-, -, -, -, -, -, -, hentry, -⟩ := hy
  simp only [hentry, hflags, hzero, Bool.and_self, if_true]

/-! ### Commands that stay in flight -/

theorem UnderWay.updCmd {s y : State} {p sq : Nat} {e : SqEntry} {c : Cmd} (hs : CanStart s p sq e) (h : UnderWay s y p sq e c) {f : Cmd → Cmd}
    (hf : (f c).id = c.id ∧ (f c).sq = c.sq ∧ (f c).idx = c.idx ∧ (f c).entry = c.entry ∧ (f c).timeout = c.timeout ∧ (f c).late = c.late) :
    UnderWay s (updCmd y p c.id f) p sq e (f c) := by
  obtain ⟨-, -, -, -, -, -, -, hcmds⟩ := hs
  obtain ⟨hsame, hy, hent, hstall, hid, hsq, hidx, hentry, htime, hlate⟩ := h
  obtain ⟨fid, fsq, fidx, fentry, ftime, flate⟩ := hf
  have hpart : partOf (Machine.updCmd y p c.id f) p = { partOf y p with cmds := updWhere (fun d => d.id == c.id) f (partOf y p).cmds } :=
    partOf_updPart_self y p _
  have hlist : updWhere (fun d => d.id == c.id) f ((partOf s p).cmds ++ [c]) = (partOf s p).cmds ++ [f c] := by
    rw [updWhere, List.map_append]
    congr 1
    · refine (List.map_congr_left fun d hd => ?_).trans (List.map_id _)
      have hne := (hcmds d hd).1
      rw [← hid] at hne
      simp [hne]
    · simp
  refine ⟨hsame.regs (l := []) (fun _ _ => rfl) (fun _ _ => List.not_mem_nil) rfl rfl ⟨_, hpart⟩, ?_, fun q => ?_, hstall,
    fid.trans hid, fsq.trans hsq, fidx.trans hidx, fentry.trans hentry, ftime.trans htime, flate.trans hlate⟩
  · rw [hpart]
    dsimp only
    rw [hy, hlist]
  · rw [entriesOf, hpart]
    exact hent q

/-- Nothing more happens in the step while the command stays in flight. -/
theorem UnderWay.stays {s y : State} {p sq : Nat} {e : SqEntry} {c : Cmd} (hs : CanStart s p sq e) (h8 : p ≠ 8) (h : UnderWay s y p sq e c)
    (hcnt : c.cntA = c.timeout.getD 0 ∧ c.cntB = c.cntA) : whole s (advance y p) = y ∧ StartsAs s y p sq e c := by
  have hrun := hs.pState h8
  obtain ⟨⟨-, -, -, -, ⟨-, hst⟩, -⟩, hy, hent, hstall, hid, hsq, hidx, hentry, htime, -⟩ := h
  have hstate : Machine.pState y p = 2 := hst.trans hrun
  have hadv : advance y p = y := advance_idle y p hent (.inr (by rw [hstate]; decide))
  exact ⟨hadv.symm ▸ whole_of_not_stalled hstall, hent sq, hy, hid, hsq, hidx, hentry, htime, hcnt.1, hcnt.2, fun _ => hstate⟩

/-! ### FENCE (R293) -/

/-- The commands that a FENCE of entry bytes b in SQ sq waits for. -/
def awaited (s : State) (p sq : Nat) (b : List Byte) : List Nat :=
  ((partOf s p).cmds.filter (fun d => decide (eNat b 16 1 = 1) || d.sq == sq)).map (·.id)

theorem awaited_underWay {s y : State} {p sq : Nat} {e : SqEntry} {c : Cmd} (hs : CanStart s p sq e) (h : UnderWay s y p sq e c) :
    ((partOf y p).cmds.filter (fun d => d.id != c.id && (decide (eNat e.bytes 16 1 = 1) || d.sq == c.sq))).map (·.id) = awaited s p sq e.bytes := by
  obtain ⟨-, -, -, -, -, -, -, hcmds⟩ := hs
  obtain ⟨-, hy, -, -, hid, hsq, -⟩ := h
  have hself : [c].filter (fun d => d.id != c.id && (decide (eNat e.bytes 16 1 = 1) || d.sq == c.sq)) = [] := by simp
  rw [hy, List.filter_append, hself, List.append_nil, awaited]
  refine congrArg (List.map Cmd.id) (List.filter_congr fun d hd => ?_)
  have hne : (d.id != c.id) = true := by simpa [hid] using (hcmds d hd).1
  rw [hne, Bool.true_and, hsq]

/-- What a FENCE does from its start on. -/
def fenceGo (part : Nat) (s : State) (c : Cmd) : State :=
  if flagsOk c.entry && restZero c.entry [(0, 17)] && eNat c.entry 16 1 < 2 then
    let l := ((partOf s part).cmds.filter (fun d => d.id != c.id && (decide (eNat c.entry 16 1 = 1) || d.sq == c.sq))).map (·.id)
    if l = [] then complete s part c.id 0 0 else updCmd s part c.id (fun c => { c with awaits := l })
  else complete s part c.id 4 0

theorem execFenceCommand_eq (p sq : Nat) (s : State) : exec (.fenceCommand p sq) s = .next (starting 6 s p sq (fenceGo p)) := rfl

theorem fence_gives {s : State} {p sq key : Nat} {e : SqEntry} (hs : CanStart s p sq e) (h8 : p ≠ 8) (hop : eOp e.bytes = 6)
    (hflags : flagsOk e.bytes = true) (hzero : restZero e.bytes [(0, 17)] = true) (hscope : eNat e.bytes 16 1 < 2) :
    (awaited s p sq e.bytes = [] → CqOpen s p sq key →
      ∃ s', exec (.fenceCommand p sq) s = .next s' ∧ StartsAndCompletes s s' p sq key e 0 0 [] ∧ OnlyQueue s s' p sq) ∧
    (awaited s p sq e.bytes ≠ [] → ∃ s' c, exec (.fenceCommand p sq) s = .next s' ∧ StartsAs s s' p sq e c ∧ c.awaits = awaited s p sq e.bytes ∧
      RegsBut s s' (queueRegs s p sq) ∧ { s' with parts := s.parts, bar0 := s.bar0 } = s) := by
  have hbody {y : State} {c : Cmd} (hy : UnderWay s y p sq e c) : fenceGo p y c =
      if awaited s p sq e.bytes = [] then complete y p c.id 0 0 else updCmd y p c.id (fun c => { c with awaits := awaited s p sq e.bytes }) := by
    have haw := awaited_underWay hs hy
    obtain ⟨-, -, -, -, -, -, -, hentry, -⟩ := hy
    rw [fenceGo, hentry, hflags, hzero, decide_eq_true hscope]
    dsimp only
    rw [if_pos (show (true && true && true) = true from rfl), haw]
  refine ⟨fun hnone hopen => ⟨_, execFenceCommand_eq p sq s, ?_⟩, fun hsome => ?_⟩
  · exact starting_completes hs h8 hopen hop (by decide) (entryHeld_other (by omega)) fun y c _ hy => (hbody hy).trans (if_pos hnone)
  · obtain ⟨y, hstarting, hunder, -, hnoted⟩ := hs.starts h8 hop (by decide) (entryHeld_other (by omega))
    have hawaits := hunder.updCmd hs (f := fun c => { c with awaits := awaited s p sq e.bytes }) ⟨rfl, rfl, rfl, rfl, rfl, rfl⟩
    obtain ⟨hwhole, hstarts⟩ := hawaits.stays hs h8 ⟨rfl, rfl⟩
    rw [execFenceCommand_eq, hstarting]
    refine ⟨_, _, congrArg Host.Outcome.next ?_, hstarts, rfl, fun o ho => hnoted.regsBut o ho, (hnoted.1 :)⟩
    exact (congrArg (fun y => whole s (advance y p)) ((hbody hunder).trans (if_neg hsome))).trans hwhole

end Sys2Proof.Machine
end

section

/-! ## Ranges of host memory as the engines reach them (R27, R281)

An engine reads and writes a range in pieces of a sector at most; in host memory the pieces make up the range. -/

namespace Sys2Proof.Machine

/-! ### The pieces of a range -/

/-- The pieces follow one another from `a` and are n bytes together. -/
def Covers : Nat → Nat → List (Nat × Nat) → Prop
  | _, n, [] => n = 0
  | a, n, pc :: l => pc.1 = a ∧ 0 < pc.2 ∧ pc.2 ≤ n ∧ Covers (a + pc.2) (n - pc.2) l

theorem covers_pieces (k : Nat) : ∀ a n, n = 0 ∨ n + a % 256 ≤ 256 * k → Covers a n (pieces k a n) := by
  induction k with
  | zero =>
    intro a n h
    rw [pieces, Covers]
    omega
  | succ k ih =>
    intro a n h
    rw [pieces]
    split
    · next h0 => exact h0
    · next h0 =>
      refine ⟨rfl, ?_, ?_, ih _ _ ?_⟩ <;> dsimp only <;> omega

theorem covers_piecesOf (a n : Nat) : Covers a n (piecesOf a n) := covers_pieces _ a n (.inr (by omega))

theorem Covers.append {l l' : List (Nat × Nat)} : ∀ {a n : Nat}, Covers a n (l ++ l') →
    ∃ m ≤ n, Covers a m l ∧ Covers (a + m) (n - m) l' := by
  induction l with
  | nil => exact fun h => ⟨0, Nat.zero_le _, rfl, h⟩
  | cons pc l ih =>
    rintro a n ⟨h1, hpos, hle, hrest⟩
    obtain ⟨m, hm, hl, hl'⟩ := ih hrest
    refine ⟨pc.2 + m, by omega, ⟨h1, hpos, by omega, ?_⟩, ?_⟩
    · rw [Nat.add_sub_cancel_left]
      exact hl
    · rw [← Nat.add_assoc, Nat.sub_add_eq]
      exact hl'

theorem flatten_chunksOf {m : Nat} (hm : 0 < m) (k : Nat) : ∀ l : List (Nat × Nat), l.length ≤ k → (chunksOf m k l).flatten = l := by
  induction k with
  | zero => exact fun l h => (List.length_eq_zero_iff.1 (Nat.le_zero.1 h)).symm
  | succ k ih =>
    intro l h
    rw [chunksOf]
    split
    · next h0 => exact h0.symm
    · next h0 =>
      have hpos := List.length_pos_iff.2 h0
      rw [List.flatten_cons, ih _ (by rw [List.length_drop]; omega), List.take_append_drop]

theorem burstOf_pos (w : Who) : 0 < burstOf w := by
  rw [burstOf]
  split <;> decide

/-! ### Reads -/

/-- The access is opened as a function, before it is applied: the kernel would else compute the address map of an unknown assembly. -/
theorem readAt_host {s : State} {w : Who} {a key : Nat} (n : Nat) (hr : routeOf s w.p a = .host key) :
    readAt s w a n = (noteHost s w.p key false, Mem.read s.hostMem key n, AccSt.ok) := by
  obtain ⟨F, hF⟩ : ∃ F, F = @readAt := ⟨_, rfl⟩
  rw [← hF]
  delta readAt at hF
  subst hF
  beta_reduce
  generalize routeOf s w.p a = r at hr
  subst hr
  rfl

/-- Only requests to host memory and one Breakwater count change. -/
def ReadsOnly (o : Nat) (s y : State) : Prop := { y with bar0 := s.bar0, hostReqs := s.hostReqs } = s ∧ RegsBut s y [o]

theorem ReadsOnly.refl (o : Nat) (s : State) : ReadsOnly o s s := ⟨rfl, fun _ _ => rfl⟩

theorem ReadsOnly.trans {o : Nat} {s y z : State} (h : ReadsOnly o s y) (h' : ReadsOnly o y z) : ReadsOnly o s z :=
  ⟨(congrArg (fun x : State => { x with bar0 := s.bar0, hostReqs := s.hostReqs }) h'.1 :).trans h.1, fun o ho => (h'.2 o ho).trans (h.2 o ho)⟩

theorem ReadsOnly.of_bar {o : Nat} {s y : State} (h : BarOnly [o] s y) : ReadsOnly o s y :=
  ⟨(congrArg (fun x : State => { x with hostReqs := s.hostReqs }) h.1 :), h.2⟩

theorem readsOnly_noteHost (o : Nat) (s : State) (p : Option Nat) (key : Nat) (wr : Bool) : ReadsOnly o s (noteHost s p key wr) := ⟨rfl, fun _ _ => rfl⟩

theorem ReadsOnly.hostMem {o : Nat} {s y : State} (h : ReadsOnly o s y) : y.hostMem = s.hostMem := (congrArg State.hostMem h.1 :)

theorem HostRange.congr {s y : State} {p : Option Nat} {a n key : Nat} (h : HostRange s p a n key) (hasm : y.asm = s.asm)
    (hcfg : ∀ q, p = some q → reg y (oPCFG q) = reg s (oPCFG q)) : HostRange y p a n key :=
  fun i hi => routeOf_host_congr (h i hi) hasm hcfg

/-- HST_PCFG of the partition that a master acts for is no Breakwater count of its. -/
def CountApart (w : Who) : Prop := ∀ q, w.p = some q → oPCFG q ≠ oBWRCNT w.cnt w.cls

theorem HostRange.reads {s y : State} {w : Who} {a n key : Nat} (h : HostRange s w.p a n key) (hw : CountApart w)
    (hy : ReadsOnly (oBWRCNT w.cnt w.cls) s y) : HostRange y w.p a n key :=
  h.congr (congrArg State.asm hy.1 :) (fun q hq => hy.2 _ (by simpa using hw q hq))

theorem HostRange.part {s : State} {p : Option Nat} {a n key i m : Nat} (h : HostRange s p a n key) (hm : i + m ≤ n) :
    HostRange s p (a + i) m (key + i) := fun j hj => by
  have := h (i + j) (by omega)
  rwa [← Nat.add_assoc, ← Nat.add_assoc] at this

theorem HostRange.head {s : State} {p : Option Nat} {a n key : Nat} (h : HostRange s p a n key) (hn : 0 < n) : routeOf s p a = .host key := h 0 hn

/-- One piece of a read. -/
def readStep (w : Who) (a : Nat) (r : State × List Byte × AccSt) (pc : Nat × Nat) : State × List Byte × AccSt :=
  let x := readAt r.1 w pc.1 pc.2
  (x.1, r.2.1 ++ x.2.1, r.2.2.join ⟨x.2.2.st, pc.1 - a + x.2.2.off⟩)

/-- A read has brought the bytes of a range of host memory, with no failure. -/
def HasRead (w : Who) (s : State) (key n : Nat) (r : State × List Byte × AccSt) : Prop :=
  ReadsOnly (oBWRCNT w.cnt w.cls) s r.1 ∧ r.2.1 = Mem.read s.hostMem key n ∧ r.2.2.st = .ok

theorem HasRead.step {w : Who} {s : State} {a key n j m : Nat} {r : State × List Byte × AccSt} (h : HasRead w s key j r) (hw : CountApart w)
    (hrange : HostRange s w.p a n key) (hm : 0 < m) (hn : j + m ≤ n) : HasRead w s key (j + m) (readStep w a r (a + j, m)) := by
  obtain ⟨hreads, hbytes, hst⟩ := h
  have hroute : routeOf r.1 w.p (a + j) = .host (key + j) := ((hrange.reads hw hreads).part hn).head hm
  rw [readStep, readAt_host m hroute, hreads.hostMem]
  refine ⟨hreads.trans (readsOnly_noteHost _ _ _ _ _), ?_, ?_⟩
  · rw [Mem.read_append, hbytes]
  · rw [AccSt.join, if_pos hst]
    rfl

theorem HasRead.pieces {w : Who} {s : State} {a key n : Nat} (hw : CountApart w) (hrange : HostRange s w.p a n key) (l : List (Nat × Nat)) :
    ∀ {j m : Nat} {r : State × List Byte × AccSt}, HasRead w s key j r → j + m ≤ n → Covers (a + j) m l →
      HasRead w s key (j + m) (l.foldl (readStep w a) r) := by
  induction l with
  | nil =>
    intro j m r h _ hc
    obtain rfl : m = 0 := hc
    exact h
  | cons pc l ih =>
    rintro j m r h hn ⟨hpc, hpos, hle, hrest⟩
    have hstep := h.step hw hrange hpos (by omega : j + pc.2 ≤ n)
    rw [← hpc] at hstep
    have hj : j + m = j + pc.2 + (m - pc.2) := by omega
    rw [List.foldl_cons, hj]
    exact ih hstep (by omega) (by rwa [← Nat.add_assoc])

/-- The pieces of a burst are counted together. -/
def readBurst (w : Who) (a : Nat) (r : State × List Byte × AccSt) (l : List (Nat × Nat)) : State × List Byte × AccSt :=
  let x := l.foldl (readStep w a) (injectN r.1 w.cnt w.cls l.length, r.2)
  (retireN x.1 w.cnt w.cls l.length, x.2)

theorem HasRead.burst {w : Who} {s : State} {a key n j m : Nat} {r : State × List Byte × AccSt} {l : List (Nat × Nat)} (h : HasRead w s key j r)
    (hw : CountApart w) (hrange : HostRange s w.p a n key) (hn : j + m ≤ n) (hc : Covers (a + j) m l) : HasRead w s key (j + m) (readBurst w a r l) := by
  obtain ⟨hreads, hbytes, hst⟩ := h
  have hinject : HasRead w s key j (injectN r.1 w.cnt w.cls l.length, r.2) :=
    ⟨hreads.trans (ReadsOnly.of_bar (barOnly_injectN r.1 w.cnt w.cls l.length)), hbytes, hst⟩
  obtain ⟨hreads', hbytes', hst'⟩ := HasRead.pieces hw hrange l hinject hn hc
  exact ⟨hreads'.trans (ReadsOnly.of_bar (barOnly_retireN _ w.cnt w.cls l.length)), hbytes', hst'⟩

theorem HasRead.bursts {w : Who} {s : State} {a key n : Nat} (hw : CountApart w) (hrange : HostRange s w.p a n key) (ls : List (List (Nat × Nat))) :
    ∀ {j m : Nat} {r : State × List Byte × AccSt}, HasRead w s key j r → j + m ≤ n → Covers (a + j) m ls.flatten →
      HasRead w s key (j + m) (ls.foldl (readBurst w a) r) := by
  induction ls with
  | nil =>
    intro j m r h _ hc
    obtain rfl : m = 0 := hc
    exact h
  | cons l ls ih =>
    intro j m r h hn hc
    obtain ⟨m', hm', hl, hls⟩ := Covers.append (List.flatten_cons ▸ hc)
    have hj : j + m = j + m' + (m - m') := by omega
    rw [List.foldl_cons, hj]
    exact ih (h.burst hw hrange (by omega) hl) (by omega) (by rwa [← Nat.add_assoc])

theorem devRead_host {s : State} {w : Who} {a n key : Nat} (hw : CountApart w) (hrange : HostRange s w.p a n key) : HasRead w s key n (devRead s w a n) := by
  have hstart : HasRead w s key 0 (s, [], AccSt.ok) := ⟨ReadsOnly.refl _ s, rfl, rfl⟩
  have h := HasRead.bursts hw hrange (chunksOf (burstOf w) (piecesOf a n).length (piecesOf a n)) (m := n) hstart (by omega)
    (by rw [flatten_chunksOf (burstOf_pos w) _ _ (Nat.le_refl _)]; exact covers_piecesOf a n)
  rw [Nat.zero_add] at h
  exact h

/-! ### Writes -/

/-- Only host memory, requests to it and one Breakwater count change. -/
def WritesOnly (o : Nat) (s y : State) : Prop :=
  { y with bar0 := s.bar0, hostMem := s.hostMem, hostReqs := s.hostReqs } = s ∧ RegsBut s y [o]

theorem WritesOnly.refl (o : Nat) (s : State) : WritesOnly o s s := ⟨rfl, fun _ _ => rfl⟩

theorem WritesOnly.trans {o : Nat} {s y z : State} (h : WritesOnly o s y) (h' : WritesOnly o y z) : WritesOnly o s z :=
  ⟨(congrArg (fun x : State => { x with bar0 := s.bar0, hostMem := s.hostMem, hostReqs := s.hostReqs }) h'.1 :).trans h.1,
    fun o ho => (h'.2 o ho).trans (h.2 o ho)⟩

theorem ReadsOnly.writesOnly {o : Nat} {s y : State} (h : ReadsOnly o s y) : WritesOnly o s y :=
  ⟨(congrArg (fun x : State => { x with hostMem := s.hostMem }) h.1 :), h.2⟩

theorem HostRange.writes {s y : State} {w : Who} {a n key : Nat} (h : HostRange s w.p a n key) (hw : CountApart w)
    (hy : WritesOnly (oBWRCNT w.cnt w.cls) s y) : HostRange y w.p a n key :=
  h.congr (congrArg State.asm hy.1 :) (fun q hq => hy.2 _ (by simpa using hw q hq))

theorem Performs.writes {s y : State} {w : Who} {o : Nat} (h : Performs s w) (hy : WritesOnly o s y) : Performs y w := fun q hq => by
  rw [partOf, (congrArg State.parts hy.1 :)]
  exact h q hq

theorem Mem.write_append (x : List Byte) : ∀ (m : List Host.Cell) (a : Nat) (y : List Byte),
    Mem.write m a (x ++ y) = Mem.write (Mem.write m a x) (a + x.length) y := by
  induction x with
  | nil => exact fun _ _ _ => rfl
  | cons b x ih =>
    intro m a y
    rw [List.cons_append, Mem.write, ih, Mem.write, List.length_cons, Nat.add_assoc, Nat.add_comm 1]

/-- One piece of a write. -/
def writeStep (w : Who) (a : Nat) (bs : List Byte) (r : State × AccSt) (pc : Nat × Nat) : State × AccSt :=
  let x := writePiece r.1 w pc.1 ((bs.drop (pc.1 - a)).take pc.2)
  (x.1, r.2.join ⟨x.2, pc.1 - a⟩)

/-- A write has stored the bytes in host memory, with no failure. -/
def HasWritten (w : Who) (s : State) (key : Nat) (bs : List Byte) (r : State × AccSt) : Prop :=
  WritesOnly (oBWRCNT w.cnt w.cls) s r.1 ∧ r.1.hostMem = Mem.write s.hostMem key bs ∧ r.2.st = .ok

theorem HasWritten.step {w : Who} {s : State} {a key j m : Nat} {bs : List Byte} {r : State × AccSt} (h : HasWritten w s key (bs.take j) r)
    (hw : CountApart w) (hperf : Performs s w) (hrange : HostRange s w.p a bs.length key) (hm : 0 < m) (hn : j + m ≤ bs.length) :
    HasWritten w s key (bs.take (j + m)) (writeStep w a bs r (a + j, m)) := by
  obtain ⟨hwrites, hmem, hst⟩ := h
  have hroute : routeOf r.1 w.p (a + j) = .host (key + j) := ((hrange.writes hw hwrites).part hn).head hm
  rw [writeStep]
  dsimp only
  rw [Nat.add_sub_cancel_left, writePiece_host _ hroute (hperf.writes hwrites) hw]
  obtain ⟨hmem', hregs, hframe⟩ := hostWrites_hostWritten r.1 w (key + j) ((bs.drop j).take m)
  refine ⟨hwrites.trans ⟨hframe, hregs⟩, hmem'.trans ?_, ?_⟩
  · rw [hmem, List.take_add, Mem.write_append, List.length_take, Nat.min_eq_left (by omega)]
  · rw [AccSt.join, if_pos hst]

theorem HasWritten.pieces {w : Who} {s : State} {a key : Nat} {bs : List Byte} (hw : CountApart w) (hperf : Performs s w)
    (hrange : HostRange s w.p a bs.length key) (l : List (Nat × Nat)) :
    ∀ {j m : Nat} {r : State × AccSt}, HasWritten w s key (bs.take j) r → j + m ≤ bs.length →
      Covers (a + j) m l → HasWritten w s key (bs.take (j + m)) (l.foldl (writeStep w a bs) r) := by
  induction l with
  | nil =>
    intro j m r h _ hc
    obtain rfl : m = 0 := hc
    exact h
  | cons pc l ih =>
    rintro j m r h hn ⟨hpc, hpos, hle, hrest⟩
    have hstep := h.step hw hperf hrange hpos (by omega : j + pc.2 ≤ bs.length)
    rw [← hpc] at hstep
    have hj : j + m = j + pc.2 + (m - pc.2) := by omega
    rw [List.foldl_cons, hj]
    exact ih hstep (by omega) (by rwa [← Nat.add_assoc])

theorem devWrite_host {s : State} {w : Who} {a key : Nat} {bs : List Byte} (hw : CountApart w) (hperf : Performs s w)
    (hrange : HostRange s w.p a bs.length key) : HasWritten w s key bs (devWrite s w a bs) := by
  have hstart : HasWritten w s key (bs.take 0) (s, AccSt.ok) := ⟨WritesOnly.refl _ s, by rw [List.take_zero, Mem.write], rfl⟩
  have h := HasWritten.pieces hw hperf hrange (piecesOf a bs.length) (m := bs.length) hstart (by omega) (covers_piecesOf a bs.length)
  rw [Nat.zero_add, List.take_length] at h
  exact h

end Sys2Proof.Machine
end

section

/-! ## LAUNCH and COPY at their start (R126, R127, R292) -/

namespace Sys2Proof.Machine

/-! ### Accesses of a command under way -/

theorem goesBy_apart {p sq : Nat} (s : State) (hp : p ≤ 8) (h8 : p ≠ 8) (hsq : sq < 16) {c : Nat} (hc : c < 8) :
    ∀ o ∈ goesBy s p sq, o ∉ [oBWRCNT p c] := by
  obtain ⟨h1, -, h2, -, -, h3, h4, -, -, hpf⟩ := queueRegs_apart (q := cqOf s p sq) hp (cqOf_lt s p sq) hsq hp hc
  obtain ⟨h5, -, -, -, -, h6, -⟩ := hpf h8
  simp [goesBy, h1, h2, h3, h4, h5, h6]

theorem UnderWay.writes {s y z : State} {p sq : Nat} {e : SqEntry} {c : Cmd} (hs : CanStart s p sq e) (h8 : p ≠ 8) (h : UnderWay s y p sq e c)
    {k : Nat} (hk : k < 8) (hz : WritesOnly (oBWRCNT p k) y z) : UnderWay s z p sq e c := by
  obtain ⟨-, hp, hsq, -⟩ := hs
  obtain ⟨hsame, hy, hent, hstall, hrest⟩ := h
  have hparts : partOf z p = partOf y p := by rw [partOf, (congrArg State.parts hz.1 :), partOf]
  refine ⟨hsame.regs hz.2 (goesBy_apart s hp h8 hsq hk) (congrArg State.asm hz.1 :) (congrArg State.irqs hz.1 :) ⟨_, hparts⟩, hparts ▸ hy, fun q => ?_,
    (congrArg State.stalled hz.1 :).trans hstall, hrest⟩
  rw [entriesOf, hparts]
  exact hent q

theorem UnderWay.hostRange {s y : State} {p sq : Nat} {e : SqEntry} {c : Cmd} (h : UnderWay s y p sq e c) {a n key : Nat} (hr : HostRange s (some p) a n key) :
    HostRange y (some p) a n key := by
  obtain ⟨⟨hasm, -, ⟨-, -, -, hcfg⟩, -⟩, -⟩ := h
  exact hr.congr hasm (fun q hq => by cases hq; exact hcfg)

theorem countApart_disp {p k level : Nat} (hp : p ≤ 8) (hk : k < 8) : CountApart (Who.disp p k level) := by
  intro q hq
  by_cases h8 : p = 8
  · rw [Who.disp, if_pos h8] at hq
    cases hq
  · rw [Who.disp, if_neg h8] at hq
    cases hq
    obtain ⟨-, -, -, -, -, -, -, -, -, hpf⟩ := queueRegs_apart (q := 0) (sq := 0) hp (by decide) (by decide) hp hk
    obtain ⟨-, -, -, -, -, h6, -⟩ := hpf h8
    exact h6

theorem disp_p {p k level : Nat} (h8 : p ≠ 8) : (Who.disp p k level).p = some p := if_neg h8

/-- A read of host memory for a command under way. -/
theorem UnderWay.devRead {s y : State} {p sq : Nat} {e : SqEntry} {c : Cmd} (hs : CanStart s p sq e) (h8 : p ≠ 8) (h : UnderWay s y p sq e c)
    {a n key k level : Nat} (hk : k < 8) (hr : HostRange s (some p) a n key) :
    HasRead (Who.disp p k level) y key n (devRead y (Who.disp p k level) a n) ∧ UnderWay s (devRead y (Who.disp p k level) a n).1 p sq e c := by
  have hread := devRead_host (countApart_disp (level := level) hs.2.1 hk) ((disp_p h8).symm ▸ h.hostRange hr : HostRange y (Who.disp p k level).p a n key)
  exact ⟨hread, h.writes hs h8 hk hread.1.writesOnly⟩

theorem UnderWay.dispRead {s y : State} {p sq : Nat} {e : SqEntry} {c : Cmd} (hs : CanStart s p sq e) (h8 : p ≠ 8) (h : UnderWay s y p sq e c)
    {a n key : Nat} (hr : HostRange s (some p) a n key) :
    HasRead (dispWho p) y key n (Machine.devRead y (dispWho p) a n) ∧ UnderWay s (Machine.devRead y (dispWho p) a n).1 p sq e c :=
  h.devRead hs h8 (by decide) hr

/-! ### LAUNCH -/

/-- A LAUNCH whose entry and image are valid, whose rings are free and whose image and arguments can be read goes to its tiles. -/
theorem launchGo_loads {y : State} {p : Nat} {c : Cmd} {h i a : State × List Byte × AccSt} (hok : launchEntryOk y p c.entry = true)
    (hh : Machine.devRead y (dispWho p) (eNat c.entry 16 6) 128 = h) (himage : imageOk h.2.1 (eNat c.entry 40 4) = true)
    (hrings : (entryRect c.entry 24).any (fun t => (iApplied h.2.1).any (ringBusy h.1 t)) = false)
    (hi : Machine.devRead h.1 (dispWho p) (eNat c.entry 16 6) (imageLen h.2.1) = i)
    (ha : Machine.devRead i.1 (dispWho p) (eNat c.entry 32 6) (eNat c.entry 40 4) = a) (hst : h.2.2.st = .ok ∧ i.2.2.st = .ok ∧ a.2.2.st = .ok) :
    launchGo p y c = updCmd a.1 p c.id (fun c' =>
      { c' with loads := entryRect c.entry 24, reports := entryRect c.entry 24, image := i.2.1, args := a.2.1 }) := by
  obtain ⟨h1, h2, h3⟩ := hst
  rw [launchGo]
  dsimp only
  rw [hh, hi, ha, hok, h1, h2, h3, himage, hrings]
  rfl


theorem imageLen_ge (h : List Byte) : 128 ≤ imageLen h := Nat.le_max_left _ _

/-- What the start of a LAUNCH leaves alone. -/
theorem launch_gives {s : State} {p sq : Nat} {e : SqEntry} {ki ka : Nat} (hs : CanStart s p sq e) (h8 : p ≠ 8) (hop : eOp e.bytes = 1)
    (hok : launchEntryOk s p e.bytes = true) (hheld : launchHeld p s e = false) (himage : imageOk (Mem.read s.hostMem ki 128) (eNat e.bytes 40 4) = true)
    (hrings : ∀ t ∈ entryRect e.bytes 24, ∀ q ∈ iApplied (Mem.read s.hostMem ki 128), ringBusy s t q = false)
    (hi : HostRange s (some p) (eNat e.bytes 16 6) (imageLen (Mem.read s.hostMem ki 128)) ki)
    (ha : HostRange s (some p) (eNat e.bytes 32 6) (eNat e.bytes 40 4) ka) :
    ∃ s' c, exec (.launch p sq) s = .next s' ∧ StartsAs s s' p sq e c ∧ c.loads = entryRect e.bytes 24 ∧ c.reports = entryRect e.bytes 24 ∧
      c.image = Mem.read s.hostMem ki (imageLen (Mem.read s.hostMem ki 128)) ∧ c.args = Mem.read s.hostMem ka (eNat e.bytes 40 4) ∧
      RegsBut s s' (queueRegs s p sq) ∧ { s' with parts := s.parts, bar0 := s.bar0, hostReqs := s.hostReqs } = s := by
  obtain ⟨y, hstarting, hunder, hdev, hnoted⟩ := hs.starts h8 hop (by decide) (by rw [entryHeld, hop]; exact hheld)
  have hexec : exec (.launch p sq) s = .next (starting 1 s p sq (launchGo p)) := rfl
  rw [hexec, hstarting]
  have hmem : y.hostMem = s.hostMem := (congrArg State.hostMem hdev.1 :)
  have hhead : HostRange s (some p) (eNat e.bytes 16 6) 128 ki := fun i hi' => hi i (Nat.lt_of_lt_of_le hi' (imageLen_ge _))
  obtain ⟨hread1, hun1⟩ := hunder.dispRead hs h8 hhead
  generalize hr1 : Machine.devRead y (dispWho p) (eNat e.bytes 16 6) 128 = r1 at *
  obtain ⟨hro1, hb1, hst1⟩ := hread1
  rw [hmem] at hb1
  rw [← hb1] at himage hrings hi ⊢
  obtain ⟨hread2, hun2⟩ := hun1.dispRead hs h8 hi
  generalize hr2 : Machine.devRead r1.1 (dispWho p) (eNat e.bytes 16 6) (imageLen r1.2.1) = r2 at *
  obtain ⟨hro2, hb2, hst2⟩ := hread2
  obtain ⟨hread3, hun3⟩ := hun2.dispRead hs h8 ha
  generalize hr3 : Machine.devRead r2.1 (dispWho p) (eNat e.bytes 32 6) (eNat e.bytes 40 4) = r3 at *
  obtain ⟨hro3, hb3, hst3⟩ := hread3
  rw [hro1.hostMem, hmem] at hb2
  rw [hro2.hostMem, hro1.hostMem, hmem] at hb3
  have hro := (hro1.trans hro2).trans hro3
  have hfree : (entryRect e.bytes 24).any (fun t => (iApplied r1.2.1).any (ringBusy r1.1 t)) = false := by
    have htiles : r1.1.tiles = s.tiles := (congrArg State.tiles hro1.1 :).trans (congrArg State.tiles hdev.1 :)
    simp only [List.any_eq_false, Bool.not_eq_true]
    intro t ht q hq
    rw [← hrings t ht q hq, ringBusy, tileOf, htiles, ringBusy, tileOf]
  have hgo := launchGo_loads (c := startedCmd s p sq e) ((hdev.launchEntryOk p e.bytes).trans hok) hr1 himage hfree hr2 hr3 ⟨hst1, hst2, hst3⟩
  have hloads := hun3.updCmd hs (f := fun c' => { c' with loads := entryRect e.bytes 24, reports := entryRect e.bytes 24, image := r2.2.1, args := r3.2.1 })
    ⟨rfl, rfl, rfl, rfl, rfl, rfl⟩
  obtain ⟨hwhole, hstarts⟩ := hloads.stays hs h8 ⟨rfl, rfl⟩
  refine ⟨_, _, congrArg Host.Outcome.next ((congrArg (fun x => whole s (advance x p)) hgo).trans hwhole), hstarts, rfl, rfl, hb2, hb3, fun o ho => ?_, ?_⟩
  · have hcount : o ∉ [oBWRCNT p 3] := fun hm => ho (by simp [queueRegs, List.mem_singleton.1 hm])
    exact (hro.2 o hcount).trans (hnoted.regsBut o ho)
  · exact (congrArg (fun x : State => { x with parts := s.parts, bar0 := s.bar0, hostReqs := s.hostReqs }) hro.1 :).trans
      (congrArg (fun x : State => { x with hostReqs := s.hostReqs }) hnoted.1 :)

end Sys2Proof.Machine
end

section

/-! ## COPY within host memory (R292, Table 11.6) -/

namespace Sys2Proof.Machine

/-! ### Addresses of host memory -/

/-- The addresses of host memory (Table 1.6). The map is opened as a function, before it is applied, for the kernel's sake. -/
theorem eq_add_of_decodeAddr_host {asm : Assembly} {a off : Nat} (h : decodeAddr asm a = .host off) : a = off + 0x8000_0000_0000 := by
  obtain ⟨F, hF⟩ : ∃ F, F = @decodeAddr := ⟨_, rfl⟩
  rw [← hF] at h
  delta decodeAddr at hF
  subst hF
  beta_reduce at h
  split at h
  · exact Target.noConfusion h
  · split at h
    · dsimp only at h
      split at h <;> exact Target.noConfusion h
    · split at h
      · next hr =>
        obtain rfl := Target.host.inj h
        simp only [Bool.and_eq_true, decide_eq_true_eq] at hr
        exact (Nat.sub_add_cancel hr.1).symm
      · split at h <;> exact Target.noConfusion h

/-- Addresses that a partition reaches one byte of host memory by are the same. -/
theorem routeOf_host_inj {s : State} {p : Option Nat} {a b key : Nat} (ha : routeOf s p a = .host key) (hb : routeOf s p b = .host key) : a = b := by
  obtain ⟨x, hx, hkx⟩ := (routeOf_host_iff s p a key).1 ha
  obtain ⟨y, hy, hky⟩ := (routeOf_host_iff s p b key).1 hb
  rw [eq_add_of_decodeAddr_host hx, eq_add_of_decodeAddr_host hy]
  unfold hostKey at hkx hky
  omega

/-- Ranges apart are apart in host memory. -/
theorem HostRange.apart {s : State} {p : Option Nat} {a b n ka kb : Nat} (ha : HostRange s p a n ka) (hb : HostRange s p b n kb)
    (hab : ¬ (a < b + n ∧ b < a + n)) {i j : Nat} (hi : i < n) (hj : j < n) : ka + i ≠ kb + j := by
  intro h
  have hroute := hb j hj
  rw [← h] at hroute
  have := routeOf_host_inj (ha i hi) hroute
  omega

theorem Mem.read_congr {m m' : List Host.Cell} {a n : Nat} (h : ∀ i < n, Mem.byte m (a + i) = Mem.byte m' (a + i)) : Mem.read m a n = Mem.read m' a n := by
  rw [Mem.read, Mem.read]
  exact List.map_congr_left fun i hi => h i (List.mem_range.1 hi)

theorem Mem.length_read (m : List Host.Cell) (a n : Nat) : (Mem.read m a n).length = n := by
  rw [Mem.read, List.length_map, List.length_range]

/-! ### The pieces of a COPY -/

/-- A range of host memory is copied so far, with no failure. -/
def HasCopied (p : Nat) (s : State) (ka kb n : Nat) (r : State × AccSt) : Prop :=
  WritesOnly (oBWRCNT p 3) s r.1 ∧ r.1.hostMem = Mem.write s.hostMem kb (Mem.read s.hostMem ka n) ∧ r.2.st = .ok

section

variable {p a b n ka kb : Nat} {s : State} (hp : p ≤ 8) (h8 : p ≠ 8) (hq : (partOf s p).quarantine = false)
  (ha : HostRange s (some p) a n ka) (hb : HostRange s (some p) b n kb) (hab : ¬ (a < b + n ∧ b < a + n))
include hp h8 hq ha hb hab

theorem HasCopied.step {j m : Nat} {r : State × AccSt} (h : HasCopied p s ka kb j r) (hm : 0 < m) (hn : j + m ≤ n) :
    HasCopied p s ka kb (j + m) (copyPiece p a b r (a + j, m)) := by
  have hw : CountApart (copyWho p) := countApart_disp hp (by decide)
  obtain ⟨hwrites, hmem, hst⟩ := h
  have hpass := ReadsOnly.of_bar (barOnly_pass r.1 p 3)
  have hread : ReadsOnly (oBWRCNT p 3) r.1 (noteHost (pass r.1 p 3) (copyWho p).p (ka + j) false) := hpass.trans (readsOnly_noteHost _ _ _ _ _)
  have hto := hwrites.trans hread.writesOnly
  have hha : HostRange s (copyWho p).p a n ka := (disp_p h8).symm ▸ ha
  have hhb : HostRange s (copyWho p).p b n kb := (disp_p h8).symm ▸ hb
  have hroute : routeOf (pass r.1 p 3) (copyWho p).p (a + j) = .host (ka + j) :=
    ((hha.writes hw (hwrites.trans hpass.writesOnly)).part hn).head hm
  have hbytes : Mem.read (pass r.1 p 3).hostMem (ka + j) m = Mem.read s.hostMem (ka + j) m := by
    rw [hpass.hostMem, hmem]
    refine Mem.read_congr fun i hi => ?_
    rw [Mem.byte_write, Mem.length_read, if_neg]
    intro hin
    refine ha.apart hb hab (i := j + i) (j := ka + (j + i) - kb) (by omega) (by omega) (by omega)
  have hpiece : readPiece r.1 (copyWho p) (a + j) m =
      (noteHost (pass r.1 p 3) (copyWho p).p (ka + j) false, Mem.read s.hostMem (ka + j) m, AccSt.ok) := by
    rw [← hbytes]
    exact readAt_host m hroute
  have hlen : (Mem.read s.hostMem (ka + j) m).length = m := Mem.length_read _ _ _
  have hperf : Performs s (copyWho p) := fun q hq' => by
    cases (disp_p (k := 3) (level := 3) h8).symm.trans hq'
    exact hq
  have hdst := devWrite_host (a := b + j) (key := kb + j) (bs := Mem.read s.hostMem (ka + j) m) hw (hperf.writes hto)
    (hlen.symm ▸ (hhb.writes hw hto).part hn)
  rw [copyPiece]
  dsimp only
  rw [hpiece, Nat.add_sub_cancel_left]
  dsimp only
  rw [if_pos (show AccSt.ok.st = ReplySt.ok from rfl)]
  obtain ⟨hwr, hwmem, hwst⟩ := hdst
  refine ⟨hto.trans hwr, hwmem.trans ?_, ?_⟩
  · rw [hread.hostMem, hmem, Mem.read_append, Mem.write_append, Mem.length_read]
  · rw [AccSt.join, if_pos hst]
    exact hwst

theorem HasCopied.pieces (l : List (Nat × Nat)) : ∀ {j m : Nat} {r : State × AccSt}, HasCopied p s ka kb j r → j + m ≤ n → Covers (a + j) m l →
    HasCopied p s ka kb (j + m) (l.foldl (copyPiece p a b) r) := by
  induction l with
  | nil =>
    intro j m r h _ hc
    obtain rfl : m = 0 := hc
    exact h
  | cons pc l ih =>
    rintro j m r h hn ⟨hpc, hpos, hle, hrest⟩
    have hstep := HasCopied.step hp h8 hq ha hb hab h hpos (by omega : j + pc.2 ≤ n)
    rw [← hpc] at hstep
    have hj : j + m = j + pc.2 + (m - pc.2) := by omega
    rw [List.foldl_cons, hj]
    exact ih hstep (by omega) (by rwa [← Nat.add_assoc])

theorem copyLocal_host : HasCopied p s ka kb n (copyLocal s p a b n) := by
  have hstart : HasCopied p s ka kb 0 (s, AccSt.ok) := ⟨WritesOnly.refl _ s, rfl, rfl⟩
  have h := HasCopied.pieces hp h8 hq ha hb hab (piecesOf a n) (m := n) hstart (by omega) (covers_piecesOf a n)
  rw [Nat.zero_add] at h
  exact h

end

/-! ### The command -/

theorem copyGo_local {y : State} {p k k' : Nat} {c : Cmd} (hok : copyEntryOk c.entry = true) (ha : routeOf y (some p) (copySrc c.entry) = .host k)
    (hb : routeOf y (some p) (copyDst c.entry) = .host k')
    (hst : (copyLocal y p (copySrc c.entry) (copyDst c.entry) (copyLen c.entry)).2.st = .ok) :
    copyGo p y c = complete (copyLocal y p (copySrc c.entry) (copyDst c.entry) (copyLen c.entry)).1 p c.id 0 0 := by
  rw [copyGo]
  simp only [hok, ha, hb, hst, Bool.not_true, Bool.false_eq_true, if_false, if_true]

/-- What a command writes to host memory before it completes, together with the completion. -/
theorem OnlyQueue.of_writes {p sq : Nat} {s y z s' : State} (hnoted : Noted p sq s y) (hz : WritesOnly (oBWRCNT p 3) y z) (hcq : cqOf z p sq = cqOf s p sq)
    (mem : List Host.Cell) (honly : OnlyQueue z s' p sq) : OnlyQueue { s with hostMem := mem } s' p sq := by
  have hregs := hnoted.regsBut
  obtain ⟨hframe, hothers, hzregs⟩ := honly
  obtain ⟨hyframe, -, -, -, hyothers, -⟩ := hnoted
  have hparts (u : Nat) : partOf z u = partOf y u := by rw [partOf, (congrArg State.parts hz.1 :), partOf]
  rw [queueRegs, hcq, ← queueRegs] at hzregs
  refine ⟨?_, fun u hu => ((hothers u hu).trans (hparts u)).trans (hyothers u hu), fun o ho => ?_⟩
  · exact (congrArg (fun x : State => { x with parts := s.parts, bar0 := s.bar0, hostMem := mem, hostReqs := s.hostReqs, irqs := s.irqs }) hframe :).trans
      ((congrArg (fun x : State => { x with parts := s.parts, bar0 := s.bar0, hostMem := mem, hostReqs := s.hostReqs, irqs := s.irqs }) hz.1 :).trans
        (congrArg (fun x : State => { x with hostMem := mem, hostReqs := s.hostReqs, irqs := s.irqs }) hyframe :))
  · have hcount : o ∉ [oBWRCNT p 3] := fun hm => ho (by simp [queueRegs, List.mem_singleton.1 hm])
    exact ((hzregs o ho).trans (hz.2 o hcount)).trans (hregs o ho)

theorem copy_within_host {s : State} {p sq key : Nat} {e : SqEntry} {ka kb : Nat} (hs : CanStart s p sq e) (h8 : p ≠ 8) (hop : eOp e.bytes = 2)
    (hok : copyEntryOk e.bytes = true) (hopen : CqOpen s p sq key) (ha : HostRange s (some p) (copySrc e.bytes) (copyLen e.bytes) ka)
    (hb : HostRange s (some p) (copyDst e.bytes) (copyLen e.bytes) kb) :
    let s1 := { s with hostMem := Mem.write s.hostMem kb (Mem.read s.hostMem ka (copyLen e.bytes)) }
    ∃ s', exec (.copy p sq) s = .next s' ∧ StartsAndCompletes s1 s' p sq key e 0 0 [] ∧ OnlyQueue s1 s' p sq := by
  have hvalid := hok
  simp only [copyEntryOk, Bool.and_eq_true, Bool.not_eq_true', Bool.and_eq_false_iff, decide_eq_true_eq, decide_eq_false_iff_not] at hvalid
  obtain ⟨⟨⟨⟨⟨⟨-, hlen⟩, -⟩, -⟩, hab⟩, -⟩, -⟩ := hvalid
  obtain ⟨y, hstarting, hunder, hdev, hnoted⟩ := hs.starts h8 hop (by decide) (entryHeld_other (by omega))
  have hexec : exec (.copy p sq) s = .next (starting 2 s p sq (copyGo p)) := rfl
  rw [hexec, hstarting]
  have hmem : y.hostMem = s.hostMem := (congrArg State.hostMem hdev.1 :)
  have hq : (partOf y p).quarantine = false := by
    obtain ⟨-, -, -, -, -, -, -, -, hqu⟩ := hnoted
    obtain ⟨-, -, -, -, hopenq, -⟩ := hopen
    exact hqu.trans hopenq
  have hya := hunder.hostRange ha
  have hyb := hunder.hostRange hb
  obtain ⟨hwrites, hcopied, hst⟩ := copyLocal_host hs.2.1 h8 hq hya hyb (by omega)
  have hgo := copyGo_local (c := startedCmd s p sq e) hok (hya.head hlen) (hyb.head hlen) hst
  have hunder' := hunder.writes hs h8 (by decide) hwrites
  obtain ⟨hdone, honly⟩ := hunder'.completes hs h8 hopen (fun a => by rw [hcopied, hmem]) 0 0
  exact ⟨_, congrArg Host.Outcome.next (congrArg (fun x => whole s (advance x p)) hgo), hdone, OnlyQueue.of_writes hnoted hwrites hunder'.1.cqOf _ honly⟩

end Sys2Proof.Machine
end

section

/-! ## SCRUB of clean granules (R336) -/

namespace Sys2Proof.Machine

/-! ### Codewords and granules -/

theorem parityOf_congr {a b : Nat} {l : List Nat} (h : ∀ n ∈ l, bit a n = bit b n) : parityOf a l = parityOf b l :=
  List.foldl_ext _ _ _ fun p n hn => by rw [h n hn]

theorem bit_codeword (gran : Nat) {k n : Nat} (hk : k < 4) (hn : 8 ≤ n) : bit (64 * (gran * 4 + k)) n = bit (gran * 256) n := by
  obtain ⟨j, rfl⟩ := Nat.exists_eq_add_of_le hn
  have h1 : (64 * (gran * 4 + k)) >>> 8 = gran := by rw [Nat.shiftRight_eq_div_pow]; omega
  have h2 : (gran * 256) >>> 8 = gran := by rw [Nat.shiftRight_eq_div_pow]; omega
  rw [bit, bit, Nat.shiftRight_add, Nat.shiftRight_add, h1, h2]

/-- The codewords of a granule lie in its pseudo-channel. -/
theorem pchOf_codeword (asm : Assembly) (gran : Nat) {k : Nat} (hk : k < 4) : pchOf asm (64 * (gran * 4 + k)) = pchOf asm (gran * 256) := by
  rw [pchOf, pchOf]
  refine congrArg ofBits (List.filter_congr fun i _ => parityOf_congr fun n hn => bit_codeword gran hk ?_)
  obtain ⟨j, -, rfl⟩ := List.mem_map.1 (List.mem_filter.1 hn).1
  omega

theorem ctrlAt_codeword (asm : Assembly) (gran : Nat) {k : Nat} (hk : k < 4) : ctrlAt asm (64 * (gran * 4 + k)) = ctrlAt asm (gran * 256) := by
  rw [ctrlAt, pchOf_codeword asm gran hk, ctrlAt]

theorem cwRead_clean {s : State} {gran k : Nat} (h : CleanGran s gran) (hk : k < 4) (force : Bool) :
    ∃ b, cwRead s (4 * gran + k) force = (s, b, .clean) := by
  obtain ⟨hlost, hcw⟩ := h
  have hat : ctrlAt s.asm (64 * (4 * gran + k)) = ctrlAt s.asm (gran * 256) := by rw [Nat.mul_comm 4, ctrlAt_codeword s.asm gran hk]
  have hgran : 64 * (4 * gran + k) / 256 = gran := by omega
  have herr : cwErr s (4 * gran + k) = [] := by rw [Nat.mul_comm 4]; exact (hcw k hk).1
  refine ⟨Mem.read s.dram (64 * (4 * gran + k)) 64, ?_⟩
  rw [cwRead]
  dsimp only
  rw [hat, hgran, hlost, herr]
  rfl

/-- A granule with no add in the add buffer has none to write back. -/
theorem addFlushGran_clean {s : State} {gran : Nat} (h : CleanGran s gran) : addFlushGran s gran = s := by
  obtain ⟨-, hcw⟩ := h
  rw [addFlushGran]
  refine List.foldlRecOn (motive := (· = s)) _ _ rfl fun y hy k hk => ?_
  subst hy
  have hnone : (ctrlOf y (ctrlAt y.asm (gran * 256)).1).adds.find? (fun e => e.cw == gran * 4 + k) = none :=
    List.find?_eq_none.2 fun e he => by simpa using (hcw k (List.mem_range.1 hk)).2 e he
  rw [addFlushCw, hnone]

/-- No request of a controller and no fill is under way. -/
def NoRequests (s : State) : Prop := s.fills = [] ∧ ∀ i, (ctrlOf s i).queue = []

theorem serveGran_idle {s : State} (h : NoRequests s) (gran : Nat) : serveGran s gran = s := by
  obtain ⟨hfills, hqueue⟩ := h
  rw [serveGran]
  rw [hqueue, List.filter_nil, List.foldl_nil, hfills, List.filter_nil, List.foldl_nil]

theorem settleGran_idle {s : State} (h : NoRequests s) {gran : Nat} (hheld : granHeld s gran = false) : settleGran s gran = s := by
  rw [settleGran, hheld]
  exact serveGran_idle h gran

/-! ### What a scrub finds -/

/-- A summary of n words without error. -/
def ScrubSum.clean (n : Nat) : ScrubSum := ⟨n, 0, 0, 0, []⟩

theorem scrubCw_clean {s : State} {gran k : Nat} (h : CleanGran s gran) (hk : k < 4) (n : Nat) :
    scrubCw (s, ScrubSum.clean n) (4 * gran + k) = (s, ScrubSum.clean (n + 1)) := by
  obtain ⟨b, hread⟩ := cwRead_clean h hk true
  rw [scrubCw]
  dsimp only
  rw [hread]
  rfl

theorem scrubGran_clean {s : State} {gran : Nat} (h : CleanGran s gran) (hheld : granHeld s gran = false) (hreq : NoRequests s) (n : Nat) :
    scrubGran (s, ScrubSum.clean n) gran = (s, ScrubSum.clean (n + 4)) := by
  rw [scrubGran]
  dsimp only
  rw [settleGran_idle hreq hheld, addFlushGran_clean h]
  simp only [List.range_succ, List.range_zero, List.nil_append, List.cons_append, List.foldl_cons, List.foldl_nil]
  rw [scrubCw_clean h (by decide), scrubCw_clean h (by decide), scrubCw_clean h (by decide), scrubCw_clean h (by decide)]

theorem leBytes_zero_add (m n : Nat) : leBytes (m + n) 0 = leBytes m 0 ++ leBytes n 0 := by
  induction m with
  | zero => rw [Nat.zero_add, leBytes, List.nil_append]
  | succ m ih => rw [Nat.succ_add, leBytes, leBytes, List.cons_append, Nat.zero_div, ih]

theorem flatMap_zero_bytes (m n : Nat) : (List.range m).flatMap (fun _ => leBytes n 0) = leBytes (m * n) 0 := by
  induction m with
  | zero => rw [Nat.zero_mul, leBytes, List.range_zero, List.flatMap_nil]
  | succ m ih => rw [List.range_succ, List.flatMap_append, ih, List.flatMap_singleton, Nat.succ_mul, leBytes_zero_add]

/-- The 320 bytes of a summary without error. -/
theorem bytes_clean (n : Nat) : (ScrubSum.clean n).bytes 0 = leBytes 8 n ++ leBytes 312 0 := by
  have hfields : (ScrubSum.clean n).bytes 0 = leBytes 8 n ++ leBytes 4 0 ++ leBytes 4 0 ++ leBytes 4 0 ++ leBytes 4 0 ++ leBytes 40 0 ++
      (List.range 8).flatMap (fun _ => leBytes 32 0) := rfl
  have hzero : leBytes 312 0 = leBytes 4 0 ++ (leBytes 4 0 ++ (leBytes 4 0 ++ (leBytes 4 0 ++ (leBytes 40 0 ++ leBytes 256 0)))) := by
    simp only [← leBytes_zero_add]
  rw [hfields, flatMap_zero_bytes, hzero]
  simp only [List.append_assoc]

/-! ### The command -/

/-- One granule of a SCRUB of HBM by partition p from granule g0 on. -/
def scrubOne (p g0 : Nat) (r : State × ScrubSum) (i : Nat) : State × ScrubSum := scrubGran (pass r.1 p 5, r.2) (g0 + i)

/-- Granules that have nothing left to do, whatever the dispatcher notes and counts. -/
theorem CleanGran.congr {s y : State} {gran : Nat} (h : CleanGran s gran) (hasm : y.asm = s.asm) (hctrls : y.ctrls = s.ctrls)
    (herr : y.dramErr = s.dramErr) : CleanGran y gran := by
  simpa only [CleanGran, isLost, cwErr, ctrlOf, hasm, hctrls, herr] using h

theorem granHeld_congr {s y : State} (hasm : y.asm = s.asm) (hctrls : y.ctrls = s.ctrls) (gran : Nat) : granHeld y gran = granHeld s gran := by
  simp only [granHeld, pchHeld, ctrlOf, hasm, hctrls]

theorem NoRequests.congr {s y : State} (h : NoRequests s) (hfills : y.fills = s.fills) (hctrls : y.ctrls = s.ctrls) : NoRequests y := by
  simpa only [NoRequests, ctrlOf, hfills, hctrls] using h

/-- A granule with nothing left to do. -/
def Settled (s : State) (gran : Nat) : Prop := CleanGran s gran ∧ granHeld s gran = false

theorem Settled.bar {l : List Nat} {s y : State} {gran : Nat} (h : Settled s gran) (hy : BarOnly l s y) : Settled y gran :=
  ⟨h.1.congr (hy.field State.asm) (hy.field State.ctrls) (hy.field State.dramErr),
    (granHeld_congr (hy.field State.asm) (hy.field State.ctrls) gran).trans h.2⟩

theorem NoRequests.bar {l : List Nat} {s y : State} (h : NoRequests s) (hy : BarOnly l s y) : NoRequests y :=
  h.congr (hy.field State.fills) (hy.field State.ctrls)

theorem scrubOne_clean {s y : State} {p g0 i : Nat} (hy : pass s p 5 = y) (hgran : Settled y (g0 + i)) (hreq : NoRequests y) (n : Nat) :
    scrubOne p g0 (s, ScrubSum.clean n) i = (y, ScrubSum.clean (n + 4)) := by
  subst hy
  unfold scrubOne
  exact scrubGran_clean hgran.1 hgran.2 hreq n

theorem scrub_clean {s : State} {p g0 n : Nat} (hclean : ∀ i < n, Settled s (g0 + i)) (hreq : NoRequests s) :
    ∃ y, (List.range n).foldl (scrubOne p g0) (s, ScrubSum.zero) = (y, ScrubSum.clean (4 * n)) ∧ BarOnly [oBWRCNT p 5] s y := by
  induction n with
  | zero => exact ⟨s, rfl, BarOnly.refl _ s⟩
  | succ n ih =>
    obtain ⟨y, hy, hbar⟩ := ih fun i hi => hclean i (by omega)
    have hpass := hbar.trans (barOnly_pass y p 5)
    have hone := scrubOne_clean rfl ((hclean n (by omega)).bar hpass) (hreq.bar hpass) (4 * n)
    refine ⟨pass y p 5, ?_, hpass⟩
    rw [List.range_succ, List.foldl_append, hy, List.foldl_cons, List.foldl_nil, Nat.mul_succ, hone]

/-- What a SCRUB does from its start on. -/
def scrubGo (part : Nat) (s : State) (c : Cmd) : State :=
  let e := c.entry
  if !scrubEntryOk s part e then complete s part c.id 4 0
  else
    let g0 := eNat e 16 6 / 256
    let one (r : State × ScrubSum) (i : Nat) : State × ScrubSum :=
      let r := (pass r.1 part 5, r.2)
      if eNat e 32 1 = 0 then scrubGran r (g0 + i) else scrubShelfSec r (g0 + i)
    let r := (List.range (eNat e 24 8 / 256)).foldl one (s, ScrubSum.zero)
    let w := devWrite r.1 (scanWho part) (eNat e 40 6) (r.2.bytes (r.1.ras.columns - s.ras.columns))
    complete w.1 part c.id (if w.2.st = .ok then 0 else readStatus w.2) 0

theorem execScrub_eq (p sq : Nat) (s : State) : exec (.scrub p sq) s = .next (starting 4 s p sq (scrubGo p)) := rfl

/-- A SCRUB of HBM that finds no error, whose summary can be written. -/
theorem scrubGo_clean {y z : State} {p : Nat} {c : Cmd} (hok : scrubEntryOk y p c.entry = true) (hhbm : eNat c.entry 32 1 = 0)
    (hz : (List.range (eNat c.entry 24 8 / 256)).foldl (scrubOne p (eNat c.entry 16 6 / 256)) (y, ScrubSum.zero) =
      (z, ScrubSum.clean (4 * (eNat c.entry 24 8 / 256)))) (hras : z.ras = y.ras)
    (hst : (devWrite z (scanWho p) (eNat c.entry 40 6) (leBytes 8 (4 * (eNat c.entry 24 8 / 256)) ++ leBytes 312 0)).2.st = .ok) :
    scrubGo p y c =
      complete (devWrite z (scanWho p) (eNat c.entry 40 6) (leBytes 8 (4 * (eNat c.entry 24 8 / 256)) ++ leBytes 312 0)).1 p c.id 0 0 := by
  have hone : (fun (r : State × ScrubSum) (i : Nat) => if eNat c.entry 32 1 = 0 then scrubGran (pass r.1 p 5, r.2) (eNat c.entry 16 6 / 256 + i)
      else scrubShelfSec (pass r.1 p 5, r.2) (eNat c.entry 16 6 / 256 + i)) = scrubOne p (eNat c.entry 16 6 / 256) :=
    funext fun r => funext fun i => if_pos hhbm
  rw [scrubGo, hok]
  dsimp only
  rw [if_neg (by decide), hone, hz]
  dsimp only
  rw [hras, Nat.sub_self, bytes_clean, if_pos hst]

theorem scrub_gives {s : State} {p sq key : Nat} {e : SqEntry} {kb : Nat} (hs : CanStart s p sq e) (h8 : p ≠ 8) (hop : eOp e.bytes = 4)
    (hok : scrubEntryOk s p e.bytes = true) (hhbm : eNat e.bytes 32 1 = 0) (hopen : CqOpen s p sq key) (hb : HostRange s (some p) (eNat e.bytes 40 6) 320 kb)
    (hreq : NoRequests s) (hclean : ∀ i < eNat e.bytes 24 8 / 256, Settled s (eNat e.bytes 16 6 / 256 + i)) :
    let s1 := { s with hostMem := Mem.write s.hostMem kb (leBytes 8 (4 * (eNat e.bytes 24 8 / 256)) ++ leBytes 312 0) }
    ∃ s', exec (.scrub p sq) s = .next s' ∧ StartsAndCompletes s1 s' p sq key e 0 0 [] ∧ RegsBut s s' (oBWRCNT p 5 :: queueRegs s p sq) ∧
      { s' with parts := s.parts, bar0 := s.bar0, hostMem := s.hostMem, hostReqs := s.hostReqs, irqs := s.irqs } = s := by
  obtain ⟨y, hstarting, hunder, hdev, hnoted⟩ := hs.starts h8 hop (by decide) (entryHeld_other (by omega))
  rw [execScrub_eq, hstarting]
  have hasm : y.asm = s.asm := hdev.asm
  have hctrls : y.ctrls = s.ctrls := (congrArg State.ctrls hdev.1 :)
  have hsettled : ∀ i < eNat e.bytes 24 8 / 256, Settled y (eNat e.bytes 16 6 / 256 + i) := fun i hi =>
    ⟨(hclean i hi).1.congr hasm hctrls (congrArg State.dramErr hdev.1 :), (granHeld_congr hasm hctrls _).trans (hclean i hi).2⟩
  have hidle : NoRequests y := hreq.congr (congrArg State.fills hdev.1 :) hctrls
  obtain ⟨z, hfold, hbar⟩ := scrub_clean (p := p) hsettled hidle
  have hunder' := hunder.writes hs h8 (by decide) (ReadsOnly.of_bar hbar).writesOnly
  have hperf : Performs z (scanWho p) := fun q hq => by
    cases (disp_p (k := 5) (level := 4) h8).symm.trans hq
    obtain ⟨⟨-, -, -, -, -, -, -, -, hqz⟩, -⟩ := hunder'
    obtain ⟨-, -, -, -, hqs, -⟩ := hopen
    exact hqz.trans hqs
  have hlen : (leBytes 8 (4 * (eNat e.bytes 24 8 / 256)) ++ leBytes 312 0).length = 320 := by
    rw [List.length_append, leBytes_length, leBytes_length]
  have hrange : HostRange z (scanWho p).p (eNat e.bytes 40 6) 320 kb := (disp_p (k := 5) (level := 4) h8).symm ▸ hunder'.hostRange hb
  have hwrite := devWrite_host (countApart_disp hs.2.1 (by decide)) hperf (hlen.symm ▸ hrange)
  obtain ⟨hwrites, hmem, hst⟩ := hwrite
  have hgo := scrubGo_clean (c := startedCmd s p sq e) ((hdev.scrubEntryOk p e.bytes).trans hok) hhbm hfold (hbar.field State.ras) hst
  have hunder'' := hunder'.writes (k := 5) hs h8 (by decide) hwrites
  have hto := (ReadsOnly.of_bar hbar).writesOnly.trans hwrites
  have hhost : z.hostMem = s.hostMem := (hbar.field State.hostMem).trans (congrArg State.hostMem hdev.1 :)
  obtain ⟨hdone, hframe, -, hregs⟩ := hunder''.completes hs h8 hopen (fun a => by rw [hmem, hhost]) 0 0
  refine ⟨_, congrArg Host.Outcome.next (congrArg (fun x => whole s (advance x p)) hgo), hdone, fun o ho => ?_, ?_⟩
  · obtain ⟨hcount, hqueue⟩ := not_or.1 (fun h => ho (List.mem_cons.2 h))
    rw [queueRegs, hunder''.1.cqOf, ← queueRegs] at hregs
    exact ((hregs o hqueue).trans (hto.2 o (fun h => hcount (List.mem_singleton.1 h)))).trans (hnoted.regsBut o hqueue)
  · exact (congrArg (fun x : State => { x with parts := s.parts, bar0 := s.bar0, hostMem := s.hostMem, hostReqs := s.hostReqs, irqs := s.irqs }) hframe :).trans
      ((congrArg (fun x : State => { x with parts := s.parts, bar0 := s.bar0, hostMem := s.hostMem, hostReqs := s.hostReqs, irqs := s.irqs }) hto.1 :).trans
        (congrArg (fun x : State => { x with hostMem := s.hostMem, hostReqs := s.hostReqs, irqs := s.irqs }) hnoted.1 :))

end Sys2Proof.Machine
end

section

/-! ## PIN and UNPIN of a line that is present (R177, R178) -/

namespace Sys2Proof.Machine

/-! ### Lines -/

theorem SMap.find_getD {α : Type} (d : α) (m : List (Nat × α)) (i : Nat) : (SMap.find m i).getD d = SMap.get d m i := by
  induction m with
  | nil => rfl
  | cons e m ih =>
    rw [SMap.find, SMap.get]
    split
    · rfl
    · exact ih

theorem lineAt_eq (x : Slice) (key : Nat) : lineAt x key = SMap.get ⟨0, false, [], 0⟩ x.lines key := SMap.find_getD _ _ _

theorem lineAt_put_self (x : Slice) (key : Nat) (l : Line) : lineAt { x with lines := SMap.put x.lines key l } key = l := by
  rw [lineAt_eq]
  exact SMap.get_ins_self _ _ _ _ (SMap.del_ne _ _)

theorem lineAt_put_ne (x : Slice) {key j : Nat} (l : Line) (h : j ≠ key) : lineAt { x with lines := SMap.put x.lines key l } j = lineAt x j := by
  rw [lineAt_eq, lineAt_eq]
  exact (SMap.get_ins_ne _ _ _ h).trans (SMap.get_del_ne _ _ h)

theorem sliceOf_updSlice_self (s : State) (st k : Nat) (f : Slice → Slice) : sliceOf (updSlice s st k f) st k = f (sliceOf s st k) :=
  sliceOf_setSlice_self s st k _

theorem findWay_of_keyOf {s : State} {st k lam key : Nat} (h : keyOf s st k lam = some key) :
    ∃ w, findWay (sliceOf s st k) lam = some w ∧ lineSet lam * 16 + w = key := by
  rw [keyOf] at h
  exact Option.map_eq_some_iff.1 h

/-! ### Nothing to wait for, nothing to fetch -/

/-- What an access to line lam finds: the line at its key, whole, and nothing under way in its slice or at a controller. -/
def LineThere (s : State) (lam st k key : Nat) : Prop :=
  keyOf s st k lam = some key ∧ (sliceOf s st k).wb = [] ∧ setInBist s st k (lineSet lam) = false ∧ (∀ j, (sliceOf s st j).retiring = false) ∧
  (∀ i, (ctrlOf s i).queue = []) ∧ ∀ c < 8, (getSec s st k key c).valid = BitVec.ofNat 256 (2 ^ 256 - 1)

theorem settleLine_there {s : State} {lam st k key : Nat} (h : LineThere s lam st k key) (secs : List Nat) : settleLine s st k lam secs = s := by
  obtain ⟨hkey, hwb, hbist, hret, hqueue, -⟩ := h
  obtain ⟨w, hway, -⟩ := findWay_of_keyOf hkey
  have hnone : retiringBefore s st k lam = [] := List.filter_eq_nil_iff.2 fun j _ => by simp [hret j]
  have hretire : settleRetiring s st k lam = s := by rw [settleRetiring, hnone, List.foldl_nil]
  have hfull : wbFull s st k lam = false := by simp only [wbFull, hway]
  have hroom : roomFor s st k lam = s := List.foldlRecOn (motive := (· = s)) _ _ rfl fun y hy i _ => by
    subst hy
    simp only [hfull, Bool.false_eq_true, if_false]
  have hbusy (c : Nat) : secBusy s st k c = false := by simp only [secBusy, hwb, hqueue, List.any_nil, Bool.or_false]
  rw [settleLine, hbist, if_neg Bool.false_ne_true, hretire, hroom]
  exact List.foldlRecOn (motive := (· = s)) _ _ rfl fun y hy c _ => by
    subst hy
    rw [if_neg (by rw [hbusy]; exact Bool.false_ne_true)]

/-- The slice with line lam, present at its key, marked as used. -/
def touched (s : State) (lam st k key : Nat) : State := updSlice s st k (fun x => touchWay x (lineSet lam) (key % 16))

theorem lineAt_touched (s : State) (lam st k key j : Nat) : lineAt (sliceOf (touched s lam st k key) st k) j = lineAt (sliceOf s st k) j := by
  rw [touched, sliceOf_updSlice_self]
  rfl

theorem keyOf_touched (s : State) (lam st k key : Nat) : keyOf (touched s lam st k key) st k lam = keyOf s st k lam := by
  rw [keyOf, touched, sliceOf_updSlice_self]
  rfl

theorem secHas_of_valid {x : Sector} (h : x.valid = BitVec.ofNat 256 (2 ^ 256 - 1)) (mask : BitVec 256) : secHas x mask = true := by
  have hzero : ~~~ x.valid = 0#256 := by rw [h]; decide
  rw [secHas, hzero, BitVec.and_zero]
  rfl

theorem shelfFetchNow_there {s : State} {lam st k key : Nat} (h : LineThere s lam st k key) (want : List Nat) (level : Nat) :
    shelfFetchNow s st k lam want level = (touched s lam st k key, true) := by
  have hsettle := settleLine_there h
  obtain ⟨hkey, -, -, -, -, hvalid⟩ := h
  have halloc : allocLine s st k lam = (touched s lam st k key, key) := by
    rw [allocLine, hkey]
    rfl
  have hmiss : lacking (touched s lam st k key) st k key want = [] := List.filter_eq_nil_iff.2 fun c _ => by
    have hsec : getSec (touched s lam st k key) st k key (c % 8) = getSec s st k key (c % 8) := by rw [getSec, lineAt_touched, getSec]
    rw [hsec, secHas_of_valid (hvalid _ (Nat.mod_lt _ (by decide)))]
    decide
  rw [shelfFetchNow, hsettle, halloc]
  dsimp only
  rw [hmiss]
  rfl

/-! ### The pinned bit -/

/-- The pinned bit of the line at a key, and nothing else but the replacement state of its set. -/
def PinSet (s z : State) (st k key : Nat) (v : Bool) : Prop :=
  { z with shelf := s.shelf } = s ∧ lineAt (sliceOf z st k) key = { lineAt (sliceOf s st k) key with pinned := v } ∧
  ∀ j ≠ key, lineAt (sliceOf z st k) j = lineAt (sliceOf s st k) j

theorem pinSet_markPinned {s : State} {lam st k key : Nat} (hkey : keyOf s st k lam = some key) (v : Bool) :
    PinSet s (markPinned s st k lam v) st k key v := by
  rw [markPinned, hkey]
  refine ⟨rfl, ?_, fun j hj => ?_⟩
  · rw [sliceOf_updSlice_self, lineAt_put_self]
  · rw [sliceOf_updSlice_self, lineAt_put_ne _ _ hj]

/-- PIN of a line that is there, unless its set is full (R178). -/
theorem pinLine_there {s : State} {p lam st k key : Nat} (hhome : homeOf s (2048 * lam) = some (st, k)) (h : LineThere s lam st k key)
    (hfree : (lineAt (sliceOf s st k) key).pinned = true ∨ pinnedIn (sliceOf s st k) (lineSet lam) < regF s (oSHFCFG st) 11 8) :
    ∃ z, pinLine s p lam = (z, false) ∧ PinSet s z st k key true := by
  have hfetch := shelfFetchNow_there h
  obtain ⟨hkey, -⟩ := h
  obtain ⟨w, hway, hw⟩ := findWay_of_keyOf hkey
  have hmay : (!(lineAt (sliceOf s st k) key).pinned && decide (pinnedIn (sliceOf s st k) (lineSet lam) ≥ regF s (oSHFCFG st) 11 8)) = false := by
    rcases hfree with hpin | hroom
    · simp [hpin]
    · simp [Nat.not_le.2 hroom]
  have hmark := pinSet_markPinned ((keyOf_touched s lam st k key).trans hkey) true
  refine ⟨markPinned (touched s lam st k key) st k lam true, ?_, ?_⟩
  · rw [pinLine, hhome]
    dsimp only
    rw [hway, Option.any_some, hw, hmay, if_neg Bool.false_ne_true, hfetch]
    rfl
  · obtain ⟨hframe, hself, hothers⟩ := hmark
    refine ⟨(congrArg (fun x : State => { x with shelf := s.shelf }) hframe :), ?_, fun j hj => ?_⟩
    · rw [hself, lineAt_touched]
    · rw [hothers j hj, lineAt_touched]

theorem pinLine_refused {s : State} {p lam st k key : Nat} (hhome : homeOf s (2048 * lam) = some (st, k)) (hkey : keyOf s st k lam = some key)
    (hpin : (lineAt (sliceOf s st k) key).pinned = false) (hfull : regF s (oSHFCFG st) 11 8 ≤ pinnedIn (sliceOf s st k) (lineSet lam)) :
    pinLine s p lam = (addSat s (oSHFEVT st) 31 16 1, true) := by
  obtain ⟨w, hway, hw⟩ := findWay_of_keyOf hkey
  rw [pinLine, hhome]
  dsimp only
  rw [hway, Option.any_some, hw, hpin]
  simp only [Bool.not_false, Bool.true_and, ge_iff_le, hfull, decide_true, if_true]

/-! ### The commands -/

theorem SameDevice.ownerOf {s y : State} (h : SameDevice s y) (a : Nat) : ownerOf y a = ownerOf s a := by
  simp only [Machine.ownerOf, h.ownsHbm]

theorem SameDevice.homeOf {s y : State} (h : SameDevice s y) (a : Nat) : homeOf y a = homeOf s a := by
  have hstacks (p : Nat) : stacksOf y p = stacksOf s p := by
    rw [stacksOf, h.asm, stacksOf]
    exact List.filter_congr fun st _ => h.ownsStack p st
  have ho (st : Nat) : 0x18_0000 ≤ oSHFSTAT st := by
    rw [oSHFSTAT, shfBase]
    omega
  simp only [Machine.homeOf, h.ownerOf, hstacks, h.regB (ho _), h.regF (ho _)]

theorem SameDevice.sliceOf {s y : State} (h : SameDevice s y) (st k : Nat) : sliceOf y st k = sliceOf s st k := by
  rw [Machine.sliceOf, (congrArg State.shelf h.1 :), Machine.sliceOf]

theorem WholeLine.there {s y : State} {lam st k key : Nat} (h : WholeLine s lam st k key) (hdev : SameDevice s y) :
    homeOf y (2048 * lam) = some (st, k) ∧ LineThere y lam st k key := by
  obtain ⟨hhome, hkey, -, -, hwb, hbist, hret, -, hqueue, hvalid⟩ := h
  refine ⟨(hdev.homeOf _).trans hhome, ?_, (hdev.sliceOf st k).symm ▸ hwb, ?_, fun j => (hdev.sliceOf st j).symm ▸ hret j, fun i => ?_, fun c hc => ?_⟩
  · rw [keyOf, hdev.sliceOf, ← keyOf, hkey]
  · rw [setInBist, (congrArg State.ras hdev.1 :), ← setInBist, hbist]
  · rw [ctrlOf, (congrArg State.ctrls hdev.1 :), ← ctrlOf, hqueue]
  · rw [getSec, hdev.sliceOf, ← getSec, (hvalid c hc).1]

theorem UnderWay.frame {s y z : State} {p sq : Nat} {e : SqEntry} {c : Cmd} (h : UnderWay s y p sq e c) {l : List Nat} (hregs : RegsBut y z l)
    (hl : ∀ o ∈ goesBy s p sq, o ∉ l) (hasm : z.asm = y.asm) (hirqs : z.irqs = y.irqs) (hparts : z.parts = y.parts) (hstall : z.stalled = y.stalled) :
    UnderWay s z p sq e c := by
  obtain ⟨hsame, hy, hent, hst, hrest⟩ := h
  have hpart : partOf z p = partOf y p := by rw [partOf, hparts, partOf]
  refine ⟨hsame.regs hregs hl hasm hirqs ⟨_, hpart⟩, hpart ▸ hy, fun q => ?_, hstall.trans hst, hrest⟩
  rw [entriesOf, hpart]
  exact hent q

theorem UnderWay.pinSet {s y z : State} {p sq st k key : Nat} {e : SqEntry} {c : Cmd} {v : Bool} (h : UnderWay s y p sq e c) (hz : PinSet y z st k key v) :
    UnderWay s z p sq e c :=
  h.frame (l := []) (fun o _ => (congrArg (fun x : State => reg x o) hz.1 :)) (fun _ _ => List.not_mem_nil) (congrArg State.asm hz.1 :) (congrArg State.irqs hz.1 :)
    (congrArg State.parts hz.1 :) (congrArg State.stalled hz.1 :)

theorem entryLines_one {b : List Byte} {lam : Nat} (h : eNat b 24 8 = 2048 * 1 ∧ eNat b 16 6 = 2048 * lam) : entryLines b = [lam] := by
  rw [entryLines, h.1, h.2, Nat.mul_div_cancel_left _ (by decide)]
  simp

/-- What a PIN or UNPIN of one line leaves alone. -/
def PinsOnly (s s' : State) (p sq st k key : Nat) : Prop :=
  (∀ j ≠ key, lineAt (sliceOf s' st k) j = lineAt (sliceOf s st k) j) ∧ RegsBut s s' ([oBWRCNT p 3, oSHFCNT st k 0] ++ queueRegs s p sq) ∧
  s'.dram = s.dram ∧ s'.tiles = s.tiles

/-- A command that sets or clears the pinned bit of one line and completes. -/
theorem pinSet_completes {s y z : State} {p sq key st k ky : Nat} {v : Bool} {e : SqEntry} {c : Cmd} (hs : CanStart s p sq e) (h8 : p ≠ 8)
    (hopen : CqOpen s p sq key) (hnoted : Noted p sq s y) (hunder : UnderWay s y p sq e c) (hdev : SameDevice s y) (hz : PinSet y z st k ky v) (det : Nat) :
    let s' := whole s (advance (complete z p c.id 0 det) p)
    StartsAndCompletes s s' p sq key e 0 det [] ∧ lineAt (sliceOf s' st k) ky = { lineAt (sliceOf s st k) ky with pinned := v } ∧
      PinsOnly s s' p sq st k ky := by
  have hunder' := hunder.pinSet hz
  have hmem : z.hostMem = s.hostMem := (congrArg State.hostMem hz.1 :).trans (congrArg State.hostMem hdev.1 :)
  obtain ⟨hdone, hframe, -, hregs⟩ := hunder'.completes (mem := s.hostMem) hs h8 hopen (fun a => by rw [hmem]) 0 det
  have hcq := hunder'.1.cqOf
  intro s'
  have hslice : sliceOf s' st k = sliceOf z st k := by rw [sliceOf, (congrArg State.shelf hframe :), sliceOf]
  obtain ⟨hzframe, hself, hothers⟩ := hz
  refine ⟨hdone, ?_, fun j hj => ?_, fun o ho => ?_, ?_, ?_⟩
  · rw [hslice, hself, hdev.sliceOf]
  · rw [hslice, hothers j hj, hdev.sliceOf]
  · have ho' : o ∉ queueRegs s p sq := fun hm => ho (List.mem_append_right _ hm)
    rw [queueRegs, hcq, ← queueRegs] at hregs
    exact ((hregs o ho').trans (congrArg (fun x : State => reg x o) hzframe :)).trans (hnoted.regsBut o ho')
  · exact ((congrArg State.dram hframe :).trans (congrArg State.dram hzframe :)).trans (congrArg State.dram hdev.1 :)
  · exact ((congrArg State.tiles hframe :).trans (congrArg State.tiles hzframe :)).trans (congrArg State.tiles hdev.1 :)

/-- What a PIN does from its start on. -/
def pinGo (part : Nat) (s : State) (c : Cmd) : State :=
  if !pinEntryOk s part c.entry then complete s part c.id 4 0
  else
    let r := (entryLines c.entry).foldl (fun (r : State × Nat) lam =>
      let x := pinLine r.1 part lam
      (x.1, r.2 + b2n x.2)) (s, 0)
    complete r.1 part c.id 0 (min r.2 (2 ^ 32 - 1))

theorem execPin_eq (p sq : Nat) (s : State) : exec (.pin p sq) s = .next (starting 8 s p sq (pinGo p)) := rfl

theorem pinGo_one {y z : State} {p lam : Nat} {c : Cmd} {full : Bool} (hok : pinEntryOk y p c.entry = true) (hlines : entryLines c.entry = [lam])
    (hpin : pinLine y p lam = (z, full)) : pinGo p y c = complete z p c.id 0 (b2n full) := by
  rw [pinGo, hok, hlines, List.foldl_cons, List.foldl_nil, hpin]
  cases full <;> rfl

/-- What an UNPIN does from its start on. -/
def unpinGo (part : Nat) (s : State) (c : Cmd) : State :=
  if !pinEntryOk s part c.entry then complete s part c.id 4 0
  else
    let s := (entryLines c.entry).foldl (fun s lam => match homeOf s (2048 * lam) with
      | some (st, k) => markPinned s st k lam false
      | none => s) s
    complete s part c.id 0 0

theorem execUnpin_eq (p sq : Nat) (s : State) : exec (.unpin p sq) s = .next (starting 9 s p sq (unpinGo p)) := rfl

theorem unpinGo_one {y : State} {p lam st k : Nat} {c : Cmd} (hok : pinEntryOk y p c.entry = true) (hlines : entryLines c.entry = [lam])
    (hhome : homeOf y (2048 * lam) = some (st, k)) : unpinGo p y c = complete (markPinned y st k lam false) p c.id 0 0 := by
  rw [unpinGo, hok, hlines, List.foldl_cons, List.foldl_nil, hhome]
  rfl

/-- The events of the shelf are none of the registers that a completion goes by. -/
theorem goesBy_apart_shelf (s : State) {p sq : Nat} (q : Nat) (hp : p ≤ 8) (h8 : p ≠ 8) (hsq : sq < 16) :
    (∀ o ∈ goesBy s p sq, o ∉ [oSHFEVT q]) ∧ oSHFEVT q ∉ queueRegs s p sq := by
  have hcq := cqOf_lt s p sq
  have hsq' := hsq
  have hpage : queuePage p = hstPage p := if_neg h8
  simp only [goesBy, queueRegs, if_neg h8, oCQA, oCQB, oSQB, oPCFG, oPSTAT, oTGNOW, oBWRCNT, oSHFEVT, shfBase, hpage, hstPage, List.mem_cons, List.mem_append,
    List.not_mem_nil, or_false, forall_eq_or_imp, forall_eq]
  omega

section

variable {s : State} {p sq key lam st k ky : Nat} {e : SqEntry} (hs : CanStart s p sq e) (h8 : p ≠ 8) (hopen : CqOpen s p sq key)
  (hok : pinEntryOk s p e.bytes = true) (hlines : eNat e.bytes 24 8 = 2048 * 1 ∧ eNat e.bytes 16 6 = 2048 * lam) (hline : WholeLine s lam st k ky)
include hs h8 hopen hok hlines hline

theorem pin_gives (hop : eOp e.bytes = 8)
    (hfree : (lineAt (sliceOf s st k) ky).pinned = true ∨ pinnedIn (sliceOf s st k) (lineSet lam) < regF s (oSHFCFG st) 11 8) :
    ∃ s', exec (.pin p sq) s = .next s' ∧ StartsAndCompletes s s' p sq key e 0 0 [] ∧
      lineAt (sliceOf s' st k) ky = { lineAt (sliceOf s st k) ky with pinned := true } ∧ PinsOnly s s' p sq st k ky := by
  obtain ⟨y, hstarting, hunder, hdev, hnoted⟩ := hs.starts h8 hop (by decide) (entryHeld_other (by omega))
  rw [execPin_eq, hstarting]
  obtain ⟨hhome, hthere⟩ := hline.there hdev
  have ho : 0x18_0000 ≤ oSHFCFG st := by rw [oSHFCFG, shfBase]; omega
  rw [← hdev.sliceOf, ← hdev.regF ho] at hfree
  obtain ⟨z, hpin, hz⟩ := pinLine_there (p := p) hhome hthere hfree
  have hgo := pinGo_one (c := startedCmd s p sq e) ((hdev.pinEntryOk p e.bytes).trans hok) (entryLines_one hlines) hpin
  exact ⟨_, congrArg Host.Outcome.next (congrArg (fun x => whole s (advance x p)) hgo), pinSet_completes hs h8 hopen hnoted hunder hdev hz 0⟩

theorem unpin_gives (hop : eOp e.bytes = 9) :
    ∃ s', exec (.unpin p sq) s = .next s' ∧ StartsAndCompletes s s' p sq key e 0 0 [] ∧
      lineAt (sliceOf s' st k) ky = { lineAt (sliceOf s st k) ky with pinned := false } ∧ PinsOnly s s' p sq st k ky := by
  obtain ⟨y, hstarting, hunder, hdev, hnoted⟩ := hs.starts h8 hop (by decide) (entryHeld_other (by omega))
  rw [execUnpin_eq, hstarting]
  obtain ⟨hhome, hkey, -⟩ := hline.there hdev
  have hgo := unpinGo_one (c := startedCmd s p sq e) ((hdev.pinEntryOk p e.bytes).trans hok) (entryLines_one hlines) hhome
  exact ⟨_, congrArg Host.Outcome.next (congrArg (fun x => whole s (advance x p)) hgo),
    pinSet_completes hs h8 hopen hnoted hunder hdev (pinSet_markPinned hkey false) 0⟩

theorem pin_refused_gives (hop : eOp e.bytes = 8) (hpin : (lineAt (sliceOf s st k) ky).pinned = false)
    (hfull : regF s (oSHFCFG st) 11 8 ≤ pinnedIn (sliceOf s st k) (lineSet lam)) :
    ∃ s', exec (.pin p sq) s = .next s' ∧ StartsAndCompletes s s' p sq key e 0 1 [] ∧
      regF s' (oSHFEVT st) 31 16 = min 0xFFFF (regF s (oSHFEVT st) 31 16 + 1) ∧ s'.shelf = s.shelf := by
  obtain ⟨y, hstarting, hunder, hdev, -⟩ := hs.starts h8 hop (by decide) (entryHeld_other (by omega))
  rw [execPin_eq, hstarting]
  obtain ⟨hhome, hkey, -⟩ := hline.there hdev
  have ho : 0x18_0000 ≤ oSHFCFG st := by rw [oSHFCFG, shfBase]; omega
  have hev : 0x18_0000 ≤ oSHFEVT st := by rw [oSHFEVT, shfBase]; omega
  rw [← hdev.sliceOf] at hpin hfull
  rw [← hdev.regF ho] at hfull
  have hrefused := pinLine_refused (p := p) hhome hkey hpin hfull
  obtain ⟨hapart, hnot⟩ := goesBy_apart_shelf s st hs.2.1 h8 hs.2.2.1
  have hunder' := hunder.frame (z := addSat y (oSHFEVT st) 31 16 1) (l := [oSHFEVT st])
    (fun o ho => reg_addSat_ne y 31 16 1 (List.ne_of_not_mem_cons ho)) hapart (addSat_asm ..) (addSat_irqs ..)
    (addSat_parts ..) (addSat_stalled ..)
  have hgo := pinGo_one (c := startedCmd s p sq e) ((hdev.pinEntryOk p e.bytes).trans hok) (entryLines_one hlines) hrefused
  have hcount : regF (addSat y (oSHFEVT st) 31 16 1) (oSHFEVT st) 31 16 = min 0xFFFF (regF s (oSHFEVT st) 31 16 + 1) := by
    rw [regF_addSat_self _ _ _ _ _ (by decide), hdev.regF hev, show 2 ^ (31 + 1 - 16) - 1 = 0xFFFF from rfl]
  have hmem : (addSat y (oSHFEVT st) 31 16 1).hostMem = s.hostMem := (addSat_hostMem ..).trans (congrArg State.hostMem hdev.1 :)
  have hshelf : (addSat y (oSHFEVT st) 31 16 1).shelf = s.shelf := (addSat_shelf ..).trans (congrArg State.shelf hdev.1 :)
  generalize addSat y (oSHFEVT st) 31 16 1 = z at *
  obtain ⟨hdone, hframe, -, hregs⟩ := hunder'.completes (mem := s.hostMem) hs h8 hopen (fun a => by rw [hmem]) 0 1
  rw [queueRegs, hunder'.1.cqOf, ← queueRegs] at hregs
  refine ⟨_, congrArg Host.Outcome.next (congrArg (fun x => whole s (advance x p)) hgo), hdone, ?_, (congrArg State.shelf hframe :).trans hshelf⟩
  rw [← hcount]
  exact congrArg (fun v => fld v 31 16) (hregs _ hnot)

end

end Sys2Proof.Machine
end

section

/-! ## COPY to a peer window (R265, R270, R292) -/

namespace Sys2Proof.Machine

/-! ### The route -/

theorem hbmRoute_ne_remote (s : State) (p : Option Nat) (a d off : Nat) : hbmRoute s p a ≠ .remote d off := by
  rw [hbmRoute]
  split
  · split
    · split <;> exact Route.noConfusion
    · exact Route.noConfusion
  · split <;> exact Route.noConfusion

/-- The addresses that route to another device (R24, R270). -/
theorem routeOf_remote_iff (s : State) (p : Option Nat) (a d off : Nat) :
    routeOf s p a = .remote d off ↔ decodeAddr s.asm a = .peer d off ∧ d ≠ devId s ∧ peerKnown s d = true := by
  obtain ⟨R, hR⟩ : ∃ R, R = @routeOf := ⟨_, rfl⟩
  rw [← hR]
  delta routeOf at hR
  subst hR
  dsimp only
  generalize decodeAddr s.asm a = t
  constructor
  · intro h
    cases t with
    | hbm a => exact absurd h (hbmRoute_ne_remote s p a d off)
    | host off => exact Route.noConfusion h
    | window t off =>
      dsimp only at h
      split at h
      · exact Route.noConfusion h
      · split at h <;> exact Route.noConfusion h
    | peer d' off' =>
      dsimp only at h
      split at h
      · generalize decodeAddr s.asm off' = t' at h
        cases t' with
        | hbm a => exact absurd h (hbmRoute_ne_remote s p a d off)
        | _ => exact Route.noConfusion h
      · next hne =>
        split at h
        · next hknown =>
          cases h
          exact ⟨rfl, hne, hknown⟩
        · exact Route.noConfusion h
    | unmapped => exact Route.noConfusion h
  · rintro ⟨rfl, hne, hknown⟩
    dsimp only
    rw [if_neg hne, if_pos hknown]

theorem SameDevice.peerKnown {s y : State} (h : SameDevice s y) (d : Nat) : peerKnown y d = peerKnown s d :=
  h.regB (by rw [oROUTE]; omega) 63

theorem SameDevice.remote {s y : State} (h : SameDevice s y) {p : Option Nat} {a d off : Nat} (hr : routeOf s p a = .remote d off) :
    routeOf y p a = .remote d off := by
  obtain ⟨hat, hne, hknown⟩ := (routeOf_remote_iff s p a d off).1 hr
  refine (routeOf_remote_iff y p a d off).2 ⟨h.asm ▸ hat, ?_, (h.peerKnown d).trans hknown⟩
  rwa [devId, h.regF (by decide), ← devId]

/-- The lane sets that a port of is UP depend on registers, on the assembly and on the domains in reset. -/
theorem laneSets_congr {s y : State} (hasm : y.asm = s.asm) (hreset : y.resetting = s.resetting) (hregs : ∀ o, 0x18_0000 ≤ o → reg y o = reg s o) (d : Nat) :
    laneSets y d = laneSets s d := by
  have hup (p : Nat) : portUp y p = portUp s p := by
    have ho : 0x18_0000 ≤ oLNKSTAT p := by rw [oLNKSTAT, lnkBase]; omega
    simp only [portUp, portState, portHeld, regF, hasm, hreset, hregs _ ho]
  have hroute (p : Nat) : inRoute y d p = inRoute s d p := by
    have ho : 0x18_0000 ≤ oROUTE d := by rw [oROUTE]; omega
    simp only [inRoute, regB, hregs _ ho]
  simp only [laneSets, pairPorts, funext hup, funext hroute]

theorem SameDevice.laneSets {s y : State} (h : SameDevice s y) (d : Nat) : laneSets y d = laneSets s d :=
  laneSets_congr h.asm (congrArg State.resetting h.1 :) h.2 d

/-! ### The transfers of a COPY -/

/-- A transfer of partition p's command `cmd` to device dev, of one part of the range: source, destination, bytes. -/
def pushOf (p cmd dev : Nat) (prot : Bool) (c : Nat × Nat × Nat) (id : Nat) : XferOut :=
  ⟨id, 0, dev, p, 0, false, c.1, c.2.1 / 256 * 256, cdiv (c.2.1 % 256 + c.2.2) 256, c.2.1 % 256, (c.2.1 + c.2.2 - 1) % 256, p, false, prot, 0, false,
    some (p, cmd), none, []⟩

/-- The transfers of the parts, with identifiers from `id` on. -/
def pushesOf (p cmd dev : Nat) (prot : Bool) : Nat → List (Nat × Nat × Nat) → List XferOut
  | _, [] => []
  | id, c :: l => pushOf p cmd dev prot c id :: pushesOf p cmd dev prot (id + 1) l

/-- The list of transfers is longer by `xs`, and identifiers and free values have been drawn. -/
def Listed (s z : State) (xs : List XferOut) : Prop :=
  z.surf.outs = s.surf.outs ++ xs ∧ { z with surf := s.surf, nextId := s.nextId, fresh := s.fresh } = s

theorem addRange_fold (p cmd dev : Nat) (prot : Bool) (l : List (Nat × Nat × Nat)) : ∀ (r : State × List Nat),
    let r' := l.foldl (fun (r : State × List Nat) c => (((addOut r.1 (pushOf p cmd dev prot c 0)).1, r.2 ++ [(addOut r.1 (pushOf p cmd dev prot c 0)).2]))) r
    Listed r.1 r'.1 (pushesOf p cmd dev prot r.1.nextId l) ∧ r'.2 = r.2 ++ (pushesOf p cmd dev prot r.1.nextId l).map (·.id) := by
  induction l with
  | nil => exact fun r => ⟨⟨(List.append_nil _).symm, rfl⟩, (List.append_nil _).symm⟩
  | cons c l ih =>
    intro r
    obtain ⟨⟨houts, hframe⟩, hids⟩ := ih ((addOut r.1 (pushOf p cmd dev prot c 0)).1, r.2 ++ [(addOut r.1 (pushOf p cmd dev prot c 0)).2])
    refine ⟨⟨houts.trans ?_, ?_⟩, hids.trans ?_⟩
    · exact List.append_assoc ..
    · exact (congrArg (fun x : State => { x with surf := r.1.surf, nextId := r.1.nextId, fresh := r.1.fresh }) hframe :)
    · exact List.append_assoc ..

theorem addRange_listed (s : State) (p cmd dev src dst n : Nat) : ∃ prot,
    Listed s (addRange s p cmd dev src dst n false).1 (pushesOf p cmd dev prot s.nextId (copyParts (n / 65280 + 1) src dst n)) ∧
    (addRange s p cmd dev src dst n false).2 = (pushesOf p cmd dev prot s.nextId (copyParts (n / 65280 + 1) src dst n)).map (·.id) := by
  obtain ⟨⟨houts, hframe⟩, hids⟩ := addRange_fold p cmd dev (bit (draw s).1.toNat 0) (copyParts (n / 65280 + 1) src dst n) ((draw s).2, [])
  exact ⟨_, ⟨houts, (congrArg (fun x : State => { x with fresh := s.fresh }) hframe :)⟩, hids⟩

/-- Transfers that wait for their start: of one command, one queue and one device, with rising identifiers. -/
def Waiting (p cmd dev : Nat) (xs : List XferOut) : Prop :=
  (∀ x ∈ xs, x.dev = dev ∧ x.queue = p ∧ x.part = p ∧ x.started = false ∧ x.cmd = some (p, cmd) ∧ x.txn = none) ∧ xs.Pairwise (fun x y => x.id < y.id)

theorem waiting_pushesOf (p cmd dev : Nat) (prot : Bool) (l : List (Nat × Nat × Nat)) : ∀ id, Waiting p cmd dev (pushesOf p cmd dev prot id l) ∧
    ∀ x ∈ pushesOf p cmd dev prot id l, id ≤ x.id := by
  induction l with
  | nil => exact fun id => ⟨⟨fun x hx => absurd hx List.not_mem_nil, List.Pairwise.nil⟩, fun x hx => absurd hx List.not_mem_nil⟩
  | cons c l ih =>
    intro id
    obtain ⟨⟨hall, hpair⟩, hge⟩ := ih (id + 1)
    refine ⟨⟨List.forall_mem_cons.2 ⟨⟨rfl, rfl, rfl, rfl, rfl, rfl⟩, hall⟩, List.Pairwise.cons hge hpair⟩,
      List.forall_mem_cons.2 ⟨Nat.le_refl id, fun x hx => Nat.le_of_succ_le (hge x hx)⟩⟩

/-! ### No port of the route is UP -/

/-- Dispatchers, transfers and the queues of the ports change, with identifiers and free values. -/
def SurfOnly (s z : State) : Prop :=
  { z with parts := s.parts, surf := s.surf, ports := s.ports, nextId := s.nextId, fresh := s.fresh } = s

theorem SurfOnly.trans {s y z : State} (h : SurfOnly s y) (h' : SurfOnly y z) : SurfOnly s z :=
  (congrArg (fun x : State => { x with parts := s.parts, surf := s.surf, ports := s.ports, nextId := s.nextId, fresh := s.fresh }) h' :).trans h

theorem SurfOnly.laneSets {s z : State} (h : SurfOnly s z) (d : Nat) : laneSets z d = laneSets s d :=
  laneSets_congr (congrArg State.asm h :) (congrArg State.resetting h :) (fun o _ => (congrArg (fun x : State => reg x o) h :)) d

theorem UnderWay.surfOnly {s y z : State} {p sq : Nat} {e : SqEntry} {c : Cmd} (h : UnderWay s y p sq e c) (hz : SurfOnly y z) (hparts : z.parts = y.parts) :
    UnderWay s z p sq e c :=
  h.frame (l := []) (fun o _ => (congrArg (fun x : State => reg x o) hz :)) (fun _ _ => List.not_mem_nil) (congrArg State.asm hz :) (congrArg State.irqs hz :)
    hparts (congrArg State.stalled hz :)

/-- The first of the transfers that wait need not wait for another. -/
theorem outWaits_first {s : State} {p cmd dev : Nat} {x : XferOut} {xs : List XferOut} (houts : s.surf.outs = x :: xs) (hw : Waiting p cmd dev (x :: xs)) :
    outWaits s x = false := by
  obtain ⟨-, hpair⟩ := hw
  rw [outWaits, houts, List.any_eq_false]
  intro y hy
  have hid : ¬ y.id < x.id := by
    rcases List.mem_cons.1 hy with rfl | hy
    · exact Nat.lt_irrefl _
    · exact Nat.not_lt.2 (Nat.le_of_lt ((List.pairwise_cons.1 hpair).1 y hy))
  simp [hid]

theorem filter_first {p cmd dev : Nat} {x : XferOut} {xs : List XferOut} (hw : Waiting p cmd dev (x :: xs)) :
    (x :: xs).filter (fun y => y.id != x.id) = xs := by
  obtain ⟨-, hpair⟩ := hw
  rw [List.filter_cons_of_neg (by simp)]
  refine List.filter_eq_self.2 fun y hy => ?_
  have hlt := (List.pairwise_cons.1 hpair).1 y hy
  simpa using Nat.ne_of_gt hlt

theorem Waiting.tail {p cmd dev : Nat} {x : XferOut} {xs : List XferOut} (hw : Waiting p cmd dev (x :: xs)) : Waiting p cmd dev xs :=
  ⟨fun y hy => hw.1 y (List.mem_cons_of_mem _ hy), (List.pairwise_cons.1 hw.2).2⟩

/-- A command one of whose transfers has ended with status 3. -/
def refusedOne (id : Nat) (m : Cmd) : Cmd := { m with xfers := dropOne id m.xfers, worst := max m.worst 3, gaps := m.gaps + 0 }

/-- The state in which a transfer has left the list. -/
def unlisted (s : State) (x : XferOut) : State :=
  dropFrames { s with surf := { s.surf with outs := s.surf.outs.filter (fun y => y.id != x.id) } } x.id

theorem unlisted_surfOnly (s : State) (x : XferOut) : SurfOnly s (unlisted s x) := rfl

theorem endOut_refused {s : State} {x : XferOut} {p cmd : Nat} {m : Cmd} (hcmd : x.cmd = some (p, cmd)) (htxn : x.txn = none)
    (hm : cmdOf (updCmd (unlisted s x) p cmd (refusedOne x.id)) p cmd = some m) :
    endOut s x 3 0 = if m.xfers = [] && eOp m.entry = 2 then finishCopy (updCmd (unlisted s x) p cmd (refusedOne x.id)) p m
      else updCmd (unlisted s x) p cmd (refusedOne x.id) := by
  have hend : endOut s x 3 0 = (match x.cmd with
      | none => unlisted s x
      | some (p, c) =>
        let s := updCmd (unlisted s x) p c (refusedOne x.id)
        match cmdOf s p c with
        | none => s
        | some m => if m.xfers = [] && eOp m.entry = 2 then finishCopy s p m else s) := by
    rw [endOut, htxn]
    rfl
  rw [hend, hcmd]
  dsimp only
  rw [hm]

section

variable {s : State} {p sq dev : Nat} {e : SqEntry}

/-- A COPY whose transfers `xs` wait to start while no port of the route is UP, with the worst status `worst` so far. -/
def NoWay (s w : State) (p sq dev : Nat) (e : SqEntry) (c : Cmd) (xs : List XferOut) : Prop :=
  UnderWay s w p sq e c ∧ Waiting p c.id dev xs ∧ w.surf.outs = xs ∧ c.xfers = xs.map (·.id) ∧ c.fail = none ∧ c.gaps = 0 ∧ c.worst ≤ 3 ∧
  (partOf w p).quarantine = false ∧ laneSets w dev = []

theorem NoWay.startOut (hs : CanStart s p sq e) (hop : eOp e.bytes = 2) {w : State} {c : Cmd} {x : XferOut} {xs : List XferOut}
    (h : NoWay s w p sq dev e c (x :: xs)) : ∃ z c', SurfOnly w z ∧ NoWay s z p sq dev e c' xs ∧ c'.id = c.id ∧ c'.worst = 3 ∧
      startOut w x = if xs = [] then complete z p c'.id 8 (3 * 2 ^ 28) else z := by
  obtain ⟨hunder, hwait, houts, hxfers, hfail, hgaps, hworst, hq, hlanes⟩ := h
  have hfirst := outWaits_first houts hwait
  obtain ⟨hdev, hqueue, hpart, hnew, hcmd, htxn⟩ := hwait.1 x List.mem_cons_self
  have hsurf := unlisted_surfOnly w x
  have hgone : (unlisted w x).surf.outs = xs := by
    rw [← filter_first hwait, ← houts]
    rfl
  have hunder' := hunder.surfOnly hsurf rfl
  have hlater := hunder'.updCmd hs (f := refusedOne x.id) ⟨rfl, rfl, rfl, rfl, rfl, rfl⟩
  have hfound := hlater.cmdOf hs
  have hend := endOut_refused hcmd htxn hfound
  have hlast : (refusedOne x.id c).xfers = xs.map (·.id) := by
    rw [refusedOne]
    dsimp only
    rw [hxfers, List.map_cons, dropOne, if_pos rfl]
  have hthree : (refusedOne x.id c).worst = 3 := Nat.max_eq_right hworst
  have hentry : eOp (refusedOne x.id c).entry = 2 := by
    obtain ⟨-, -, -, -, -, -, -, hentry, -⟩ := hlater
    rw [hentry, hop]
  have hstart : Machine.startOut w x = endOut w x 3 0 := by
    rw [Machine.startOut, hnew, hfirst, hcmd, hpart, hq, hdev, hlanes]
    rfl
  refine ⟨updCmd (unlisted w x) p c.id (refusedOne x.id), refusedOne x.id c, ?_, ⟨hlater, ?_, ?_, hlast, hfail, ?_, hthree.le, ?_, ?_⟩, rfl, hthree, ?_⟩
  · exact hsurf.trans (s := w) rfl
  · exact hwait.tail
  · exact hgone
  · exact hgaps
  · rw [updCmd, partOf_updPart_self]
    exact hq
  · exact ((SurfOnly.trans (s := w) hsurf rfl).laneSets dev).trans hlanes
  · rw [hstart, hend, hlast, hentry]
    by_cases hxs : xs = []
    · have hfin : finishCopy (updCmd (unlisted w x) p c.id (refusedOne x.id)) p (refusedOne x.id c) =
          complete (updCmd (unlisted w x) p c.id (refusedOne x.id)) p c.id 8 (3 * 2 ^ 28) := by
        have hf : (refusedOne x.id c).fail = none := hfail
        have hg : (refusedOne x.id c).gaps = 0 := hgaps
        rw [finishCopy, hf, hthree, hg]
        rfl
      rw [if_pos hxs, if_pos (by rw [hxs]; rfl), hfin]
      rfl
    · rw [if_neg hxs, if_neg (by simp [hxs])]

/-- With no port of its route UP a COPY ends with status 8, its transfers with status 3 (R270). -/
theorem NoWay.startOuts (hs : CanStart s p sq e) (hop : eOp e.bytes = 2) (xs : List XferOut) : ∀ {w : State} {c : Cmd} (x : XferOut),
    NoWay s w p sq dev e c (x :: xs) → ∃ z c', SurfOnly w z ∧ UnderWay s z p sq e c' ∧ z.surf.outs = [] ∧
      (x :: xs).foldl Machine.startOut w = complete z p c'.id 8 (3 * 2 ^ 28) := by
  induction xs with
  | nil =>
    intro w c x h
    obtain ⟨z, c', hsurf, hno, -, -, hstart⟩ := h.startOut hs hop
    obtain ⟨hunder, -, houts, -⟩ := hno
    exact ⟨z, c', hsurf, hunder, houts, hstart⟩
  | cons x' xs ih =>
    intro w c x h
    obtain ⟨z, c', hsurf, hno, -, -, hstart⟩ := h.startOut hs hop
    obtain ⟨z', c'', hsurf', hrest⟩ := ih x' hno
    rw [List.foldl_cons, hstart, if_neg (List.cons_ne_nil _ _)]
    exact ⟨z', c'', hsurf.trans hsurf', hrest⟩

end

/-! ### The command -/

theorem copyGo_push {y : State} {p k d off : Nat} {c : Cmd} (hok : copyEntryOk c.entry = true) (ha : routeOf y (some p) (copySrc c.entry) = .host k)
    (hb : routeOf y (some p) (copyDst c.entry) = .remote d off) :
    copyGo p y c = copyPeer y p c d (copySrc c.entry) off (copyLen c.entry) false := by
  rw [copyGo]
  simp only [hok, ha, hb, Bool.not_true, Bool.false_eq_true, if_false]

theorem copyEntryOk_len {b : List Byte} (h : copyEntryOk b = true) : 1 ≤ copyLen b := by
  simp only [copyEntryOk, Bool.and_eq_true, decide_eq_true_eq] at h
  obtain ⟨⟨⟨⟨⟨⟨-, hlen⟩, -⟩, -⟩, -⟩, -⟩, -⟩ := h
  exact hlen

theorem copyParts_cons {k src dst n : Nat} (hn : 1 ≤ n) : copyParts (k + 1) src dst n = (src, dst, min n (65536 - dst % 256)) ::
    copyParts k (src + min n (65536 - dst % 256)) (dst + min n (65536 - dst % 256)) (n - min n (65536 - dst % 256)) := by
  rw [copyParts, if_neg (by omega)]

/-- The transfers of a COPY of entry bytes b to device d from offset `off` there on. -/
def copyPushes (p cmd d off : Nat) (b : List Byte) (prot : Bool) (id : Nat) : List XferOut :=
  pushesOf p cmd d prot id (copyParts (copyLen b / 65280 + 1) (copySrc b) off (copyLen b))

/-- A command whose transfers are `xs`. -/
def withXfers (xs : List XferOut) (c : Cmd) : Cmd := { c with xfers := xs.map (·.id) }

theorem copyPeer_eq {y : State} {p d off : Nat} {c : Cmd} {b : List Byte} {prot : Bool}
    (hids : (addRange y p c.id d (copySrc b) off (copyLen b) false).2 = (copyPushes p c.id d off b prot y.nextId).map (·.id)) :
    copyPeer y p c d (copySrc b) off (copyLen b) false =
      startOuts (updCmd (addRange y p c.id d (copySrc b) off (copyLen b) false).1 p c.id (withXfers (copyPushes p c.id d off b prot y.nextId))) := by
  rw [copyPeer, hids]
  rfl

section

variable {s : State} {p sq d off k1 : Nat} {e : SqEntry} (hs : CanStart s p sq e) (h8 : p ≠ 8) (hop : eOp e.bytes = 2) (hok : copyEntryOk e.bytes = true)
  (ha : routeOf s (some p) (copySrc e.bytes) = .host k1) (hb : routeOf s (some p) (copyDst e.bytes) = .remote d off) (houts : s.surf.outs = [])
  (hq : (partOf s p).quarantine = false)
include hs h8 hop hok ha hb houts hq

/-- A COPY to a peer window starts with its transfers listed, none of them started yet. -/
theorem copy_lists : ∃ y w prot id, Noted p sq s y ∧ SurfOnly y w ∧
    UnderWay s w p sq e (withXfers (copyPushes p (partOf s p).serial d off e.bytes prot id) (startedCmd s p sq e)) ∧
    w.surf.outs = copyPushes p (partOf s p).serial d off e.bytes prot id ∧ (partOf w p).quarantine = false ∧ laneSets w d = laneSets s d ∧
    exec (.copy p sq) s = .next (whole s (advance (w.surf.outs.foldl startOut w) p)) := by
  obtain ⟨y, hstarting, hunder, hdev, hnoted⟩ := hs.starts h8 hop (by decide) (entryHeld_other (by omega))
  have hexec : exec (.copy p sq) s = .next (starting 2 s p sq (copyGo p)) := rfl
  rw [hexec, hstarting]
  have hyouts : y.surf.outs = [] := (congrArg (fun x : State => x.surf.outs) hdev.1 :).trans houts
  have hya : routeOf y (some p) (copySrc e.bytes) = .host k1 := by
    obtain ⟨⟨hasm, -, ⟨-, -, -, hcfg⟩, -⟩, -⟩ := hunder
    exact routeOf_host_congr ha hasm (fun q hq => by cases hq; exact hcfg)
  have hgo := copyGo_push (c := startedCmd s p sq e) hok hya (hdev.remote hb)
  obtain ⟨prot, ⟨hlisted, hframe⟩, hids⟩ := addRange_listed y p (startedCmd s p sq e).id d (copySrc e.bytes) off (copyLen e.bytes)
  have hgo' := hgo.trans (copyPeer_eq (b := e.bytes) hids)
  generalize (addRange y p (startedCmd s p sq e).id d (copySrc e.bytes) off (copyLen e.bytes) false).1 = z at *
  rw [hyouts, List.nil_append] at hlisted
  have hsurf : SurfOnly y z := (congrArg (fun x : State => { x with parts := y.parts, ports := y.ports }) hframe :)
  have hunder' := (hunder.surfOnly hsurf (congrArg State.parts hframe :)).updCmd hs
    (f := withXfers (copyPushes p (partOf s p).serial d off e.bytes prot y.nextId)) ⟨rfl, rfl, rfl, rfl, rfl, rfl⟩
  have hwsurf := hsurf.trans (s := y)
    (z := updCmd z p (startedCmd s p sq e).id (withXfers (copyPushes p (partOf s p).serial d off e.bytes prot y.nextId))) rfl
  refine ⟨y, _, prot, y.nextId, hnoted, hwsurf, hunder', hlisted, ?_, (hwsurf.laneSets d).trans (hdev.laneSets d), ?_⟩
  · obtain ⟨⟨-, -, -, -, -, -, -, -, hqw⟩, -⟩ := hunder'
    exact hqw.trans hq
  · exact congrArg Host.Outcome.next (congrArg (fun x => whole s (advance x p)) hgo')

theorem copy_no_way {key : Nat} (hlanes : laneSets s d = []) (hopen : CqOpen s p sq key) :
    ∃ s', exec (.copy p sq) s = .next s' ∧ StartsAndCompletes s s' p sq key e 8 (3 * 2 ^ 28) [] ∧ RegsBut s s' (queueRegs s p sq) ∧ s'.surf.outs = [] ∧
      s'.tiles = s.tiles ∧ s'.shelf = s.shelf := by
  obtain ⟨y, w, prot, id, hnoted, hsurf, hunder, hwouts, hwq, hwlanes, hexec⟩ := copy_lists hs h8 hop hok ha hb houts hq
  have hwait : Waiting p (partOf s p).serial d (copyPushes p (partOf s p).serial d off e.bytes prot id) := (waiting_pushesOf p _ d prot _ id).1
  obtain ⟨x, xs, hxs⟩ : ∃ x xs, copyPushes p (partOf s p).serial d off e.bytes prot id = x :: xs := by
    rw [copyPushes, copyParts_cons (copyEntryOk_len hok)]
    exact ⟨_, _, rfl⟩
  rw [hxs] at hunder hwouts hwait
  have hno : NoWay s w p sq d e (withXfers (x :: xs) (startedCmd s p sq e)) (x :: xs) :=
    ⟨hunder, hwait, hwouts, rfl, rfl, rfl, Nat.zero_le 3, hwq, hwlanes.trans hlanes⟩
  obtain ⟨z, c', hzsurf, hzunder, hzouts, hfold⟩ := hno.startOuts hs hop
  rw [hexec, hwouts]
  have hto := hsurf.trans hzsurf
  have hmem : z.hostMem = s.hostMem := (congrArg State.hostMem hto :).trans (congrArg State.hostMem hnoted.1 :)
  obtain ⟨hdone, hframe, -, hregs⟩ := hzunder.completes (mem := s.hostMem) hs h8 hopen (fun a => by rw [hmem]) 8 (3 * 2 ^ 28)
  rw [queueRegs, hzunder.1.cqOf, ← queueRegs] at hregs
  refine ⟨_, congrArg Host.Outcome.next (congrArg (fun x => whole s (advance x p)) hfold), hdone, fun o ho => ?_,
    (congrArg (fun x : State => x.surf.outs) hframe :).trans hzouts, ?_, ?_⟩
  · exact ((hregs o ho).trans (congrArg (fun x : State => reg x o) hto :)).trans (hnoted.regsBut o ho)
  · exact ((congrArg State.tiles hframe :).trans (congrArg State.tiles hto :)).trans (congrArg State.tiles hnoted.1 :)
  · exact ((congrArg State.shelf hframe :).trans (congrArg State.shelf hto :)).trans (congrArg State.shelf hnoted.1 :)

end

/-! ### A transfer begins -/

/-- Only the queues of the ports change. -/
def PortsOnly (s z : State) : Prop := { z with ports := s.ports } = s

theorem PortsOnly.trans {s y z : State} (h : PortsOnly s y) (h' : PortsOnly y z) : PortsOnly s z :=
  (congrArg (fun x : State => { x with ports := s.ports }) h' :).trans h

theorem portsOnly_queueNew (s : State) (p q dev : Nat) (f : Frame) : PortsOnly s (queueNew s p q dev f) := rfl

theorem portsOnly_queueXfer (s : State) (x : XferOut) : PortsOnly s (queueXfer s x) := by
  rw [queueXfer]
  dsimp only
  split
  · exact portsOnly_queueNew ..
  · refine PortsOnly.trans ?_ (portsOnly_queueNew ..)
    exact List.foldlRecOn (motive := PortsOnly s) _ _ (portsOnly_queueNew ..) fun y hy n _ => hy.trans (portsOnly_queueNew ..)

theorem nextLane_some {s : State} {q d : Nat} (h : laneSets s d ≠ []) : ∃ l ∈ laneSets s d, ∃ rr,
    nextLane s q d = ({ s with surf := { s.surf with rr := rr } }, some l) := by
  rw [nextLane]
  dsimp only
  cases hfind : (laneSets s d).find? (fun l => SMap.get 0 s.surf.rr (q * 256 + d) ≤ l) with
  | some l => exact ⟨l, List.mem_of_find?_eq_some hfind, _, rfl⟩
  | none =>
    cases hl : laneSets s d with
    | nil => exact absurd hl h
    | cons l ls => exact ⟨l, List.mem_cons_self, _, rfl⟩

/-- A transfer that has begun on the lane set of lower port l. -/
def begun (x : XferOut) (xid l : Nat) (both : Bool) (ctr : Nat) : XferOut := { x with xid := xid, lower := l, both := both, started := true, ctr := ctr }

theorem beginOut_eq {s s1 s2 : State} {x : XferOut} {xid l : Nat} (hpick : pick s 4096 (xidFree s x.dev) = some (xid, s1))
    (hlane : nextLane s1 x.queue x.dev = (s2, some l)) : ∃ w both ctr, beginOut s x = queueXfer w (begun x xid l both ctr) ∧
      w.surf.outs = s2.surf.outs.map (fun z => if z.id = x.id then begun x xid l both ctr else z) ∧ { w with surf := s2.surf } = s2 := by
  delta beginOut
  rw [hpick]
  dsimp only
  rw [hlane]
  exact ⟨_, _, _, rfl, rfl, rfl⟩

/-- The only transfer begins on one of its device's lane sets. -/
theorem beginOut_only {s : State} {x : XferOut} (houts : s.surf.outs = [x]) (hnew : x.started = false) (hlanes : laneSets s x.dev ≠ []) :
    ∃ xid l both ctr, l ∈ laneSets s x.dev ∧ (beginOut s x).surf.outs = [begun x xid l both ctr] ∧ SurfOnly s (beginOut s x) ∧
      (beginOut s x).parts = s.parts := by
  have hfree : xidFree s x.dev 0 = true := by simp [xidFree, houts, hnew]
  obtain ⟨xid, hpick, -, -⟩ := pick_eq_some s (n := 4096) (p := xidFree s x.dev) ⟨0, by decide, hfree⟩
  have hsame : laneSets { s with fresh := s.fresh + 1 } x.dev = laneSets s x.dev := laneSets_congr rfl rfl (fun _ _ => rfl) x.dev
  obtain ⟨l, hl, rr, hlane⟩ := nextLane_some (q := x.queue) (hsame.symm ▸ hlanes : laneSets { s with fresh := s.fresh + 1 } x.dev ≠ [])
  rw [hsame] at hl
  obtain ⟨w, both, ctr, hbegin, hwouts, hwframe⟩ := beginOut_eq hpick hlane
  have hwsurf : SurfOnly s w := (congrArg (fun y : State => { y with parts := s.parts, surf := s.surf, ports := s.ports, nextId := s.nextId, fresh := s.fresh })
    hwframe :)
  have hports := portsOnly_queueXfer w (begun x xid l both ctr)
  rw [hbegin]
  refine ⟨xid, l, both, ctr, hl, ?_, ?_, (congrArg State.parts hports :).trans (congrArg State.parts hwframe :)⟩
  · rw [(congrArg State.surf hports :), hwouts, houts, List.map_cons, List.map_nil, if_pos rfl]
  · exact hwsurf.trans (congrArg (fun y : State => { y with parts := w.parts, surf := w.surf, nextId := w.nextId, fresh := w.fresh }) hports :)

section

variable {s : State} {p sq d off k1 : Nat} {e : SqEntry} (hs : CanStart s p sq e) (h8 : p ≠ 8) (hop : eOp e.bytes = 2) (hok : copyEntryOk e.bytes = true)
  (ha : routeOf s (some p) (copySrc e.bytes) = .host k1) (hb : routeOf s (some p) (copyDst e.bytes) = .remote d off) (houts : s.surf.outs = [])
  (hq : (partOf s p).quarantine = false)
include hs h8 hop hok ha hb houts hq

theorem copy_begins (hlanes : laneSets s d ≠ []) (hlen : copyLen e.bytes ≤ 256) :
    ∃ s' c x, exec (.copy p sq) s = .next s' ∧ StartsAs s s' p sq e c ∧ c.xfers = [x.id] ∧ s'.surf.outs = [x] ∧ x.dev = d ∧ x.queue = p ∧
      x.src = copySrc e.bytes ∧ x.dst = off / 256 * 256 ∧ x.head = off % 256 ∧ x.tail = (off + copyLen e.bytes - 1) % 256 ∧
      x.nsec = (off % 256 + copyLen e.bytes + 255) / 256 ∧ x.pull = false ∧ x.started = true ∧ x.lower ∈ laneSets s d ∧ x.cmd = some (p, c.id) ∧
      RegsBut s s' (queueRegs s p sq) ∧
      { s' with parts := s.parts, bar0 := s.bar0, ports := s.ports, surf := s.surf, nextId := s.nextId, fresh := s.fresh } = s := by
  obtain ⟨y, w, prot, id, hnoted, hsurf, hunder, hwouts, hwq, hwlanes, hexec⟩ := copy_lists hs h8 hop hok ha hb houts hq
  have hpos := copyEntryOk_len hok
  have hone : copyPushes p (partOf s p).serial d off e.bytes prot id = [pushOf p (partOf s p).serial d prot (copySrc e.bytes, off, copyLen e.bytes) id] := by
    have hshort : copyLen e.bytes / 65280 = 0 := by omega
    have hpart : min (copyLen e.bytes) (65536 - off % 256) = copyLen e.bytes := by omega
    rw [copyPushes, copyParts_cons hpos, hshort, hpart]
    rfl
  rw [hone] at hunder hwouts
  have hwait : Waiting p (partOf s p).serial d [pushOf p (partOf s p).serial d prot (copySrc e.bytes, off, copyLen e.bytes) id] :=
    hone ▸ (waiting_pushesOf p _ d prot _ id).1
  obtain ⟨hdev, -, hpart, hnew, hcmd, -⟩ := hwait.1 _ List.mem_cons_self
  have hfirst := outWaits_first hwouts hwait
  have hway : laneSets w d ≠ [] := fun h => hlanes (hwlanes.symm.trans h)
  have hstart : startOut w (pushOf p (partOf s p).serial d prot (copySrc e.bytes, off, copyLen e.bytes) id) =
      beginOut w (pushOf p (partOf s p).serial d prot (copySrc e.bytes, off, copyLen e.bytes) id) := by
    rw [startOut, hnew, hfirst, hcmd, hpart, hwq, hdev, Bool.or_false, Bool.and_false, if_neg Bool.false_ne_true, if_neg Bool.false_ne_true,
      if_neg (by simpa using hway)]
  obtain ⟨xid, l, both, ctr, hl, hbouts, hbsurf, hbparts⟩ := beginOut_only hwouts hnew (hdev.symm ▸ hway)
  rw [hexec, hwouts, List.foldl_cons, List.foldl_nil, hstart]
  generalize beginOut w (pushOf p (partOf s p).serial d prot (copySrc e.bytes, off, copyLen e.bytes) id) = z at *
  have hto := hsurf.trans hbsurf
  obtain ⟨hwhole, hstarts⟩ := (hunder.surfOnly hbsurf hbparts).stays hs h8 ⟨rfl, rfl⟩
  refine ⟨z, _, begun _ xid l both ctr, congrArg Host.Outcome.next hwhole, hstarts, rfl, hbouts, rfl, rfl, rfl, rfl, rfl, rfl, rfl, rfl, rfl, ?_, rfl, fun o ho => ?_, ?_⟩
  · rw [← hwlanes]
    exact hdev ▸ hl
  · exact (congrArg (fun x : State => reg x o) hto :).trans (hnoted.regsBut o ho)
  · exact (congrArg (fun x : State => { x with parts := s.parts, bar0 := s.bar0, ports := s.ports, surf := s.surf, nextId := s.nextId, fresh := s.fresh })
      hto :).trans (congrArg (fun x : State => { x with ports := s.ports, surf := s.surf, nextId := s.nextId, fresh := s.fresh }) hnoted.1 :)

end

end Sys2Proof.Machine
end

section

/-! ## Queue commands (R126, R127, R178, R290, R292, R293, R336) -/

namespace Sys2Proof.Machine

/-- Settles O47: the command that starts is the only entry of its dispatcher, so it stands alone behind those in flight, and what its
completion goes by is untouched by what the command does before it; each command's effect is computed up to that point. -/
theorem queueCommands : Obligations.QueueCommands := by
  unfold Obligations.QueueCommands
  intro p sq key e s hs h8
  refine ⟨?invalid, ?launch, ?copy, ?peer, ?scrub, ?fence, ?note, ?pin⟩
  case invalid => exact fun hopen => invalid_completes hs h8 hopen
  case launch =>
    intro ki ka hop hok hheld _ himage hrings hi ha
    exact launch_gives hs h8 hop hok hheld himage hrings hi ha
  case copy =>
    intro ka kb hop hok hopen ha hb
    exact copy_within_host hs h8 hop hok hopen ha hb
  case peer =>
    intro d off k1 hop hok ha hb houts hq
    exact ⟨copy_no_way hs h8 hop hok ha hb houts hq, copy_begins hs h8 hop hok ha hb houts hq⟩
  case scrub =>
    intro kb hop hok hhbm hopen hb hfills hqueue _ hclean
    exact scrub_gives hs h8 hop hok hhbm hopen hb ⟨hfills, hqueue⟩ hclean
  case fence =>
    intro hop hflags hzero hscope
    exact fence_gives hs h8 hop hflags hzero hscope
  case note =>
    intro hop hflags hzero hopen
    exact note_completes hs h8 hopen hop hflags hzero
  case pin =>
    intro lam st k ky hok hlines hopen hline _ _
    refine ⟨fun hop => ⟨fun hfree => ?_, fun hpin hfull => ?_⟩, fun hop => ?_⟩
    · exact pin_gives hs h8 hopen hok hlines hline hop hfree
    · exact pin_refused_gives hs h8 hopen hok hlines hline hop hpin hfull
    · exact unpin_gives hs h8 hopen hok hlines hline hop

end Sys2Proof.Machine
end

section

/-! ## The merge of two rows (R142) -/

namespace Sys2Proof.Machine

/-- A row whose values are numbers. -/
def AttRow.Numbers (r : AttRow) : Prop := r.nan = false ∧ isNan32 r.m = false ∧ isNan32 r.l = false ∧ ∀ v ∈ r.o, isNan32 v = false

/-- The merge of two rows of numbers. -/
def mergedNumbers (a b : AttRow) : AttRow :=
  let m := attMax a.m b.m
  if m = fNegInf then AttRow.init a.o.length
  else
    { m := m, l := attFma (attExp2 (attSub a.m m)) a.l (attMul (attExp2 (attSub b.m m)) b.l)
      o := (a.o.zip b.o).map (fun x => attFma (attExp2 (attSub a.m m)) x.1 (attMul (attExp2 (attSub b.m m)) x.2))
      nan := false }

/-- Two rows merge as numbers, or a NaN keeps the left row's outputs and marks it. -/
theorem mergeRow_cases (a b : AttRow) : mergeRow a b = { a with nan := true } ∨ mergeRow a b = mergedNumbers a b := by
  rw [mergeRow]
  split
  · exact .inl rfl
  · exact .inr rfl

theorem mergeRow_of_nan {a b : AttRow} (h : a.nan = true ∨ b.nan = true) : mergeRow a b = { a with nan := true } := by
  refine if_pos ?_
  rcases h with h | h <;> simp [h]

theorem AttRow.Numbers.not_bad {r : AttRow} (h : r.Numbers) : (r.nan || isNan32 r.m || isNan32 r.l || r.o.any isNan32) = false := by
  obtain ⟨hnan, hm, hl, ho⟩ := h
  have ho' : r.o.any isNan32 = false := by simpa using ho
  rw [hnan, hm, hl, ho']
  rfl

theorem mergeRow_of_numbers {a b : AttRow} (ha : a.Numbers) (hb : b.Numbers) : mergeRow a b = mergedNumbers a b := by
  refine if_neg ?_
  beta_reduce
  rw [ha.not_bad, hb.not_bad]
  decide

theorem nan_mergedNumbers (a b : AttRow) : (mergedNumbers a b).nan = false := by
  rw [mergedNumbers]
  split <;> rfl

theorem mergedNumbers_empty {a b : AttRow} (h : attMax a.m b.m = fNegInf) : mergedNumbers a b = AttRow.init a.o.length := if_pos h

theorem m_mergedNumbers {a b : AttRow} (h : attMax a.m b.m ≠ fNegInf) : (mergedNumbers a b).m = attMax a.m b.m := by
  rw [mergedNumbers, if_neg h]

theorem length_mergedNumbers {a b : AttRow} (h : a.o.length = b.o.length) : (mergedNumbers a b).o.length = a.o.length := by
  rw [mergedNumbers]
  split
  · exact List.length_replicate
  · rw [List.length_map, List.length_zip, ← h, Nat.min_self]

/-- A row with no token. -/
theorem numbers_init (d : Nat) : (AttRow.init d).Numbers :=
  ⟨rfl, (by decide : isNan32 fNegInf = false), (by decide : isNan32 0 = false), fun v hv => by
    rw [List.eq_of_mem_replicate hv]
    decide⟩

theorem attMax_init (d : Nat) : attMax (AttRow.init d).m (AttRow.init d).m = fNegInf := (by decide : attMax fNegInf fNegInf = fNegInf)

/-- A row with no token is final as it is (R143). -/
theorem closed_init (d : Nat) : (AttRow.init d).closed = AttRow.init d := by
  have hlen : (AttRow.init d).o.length = d := List.length_replicate
  rw [AttRow.closed, hlen, mergeRow_of_numbers (numbers_init d) (numbers_init d), mergedNumbers_empty (attMax_init d), hlen]

/-- Settles O21: two rows merge as numbers unless a NaN stands in one of them. -/
theorem attentionMergeRows : Obligations.AttentionMergeRows := by
  unfold Obligations.AttentionMergeRows
  intro a b
  refine ⟨fun h => ?nan, fun han hbn ham hbm hal hbl hao hbo => ?numbers, fun hlen => ?length⟩
  case nan => rw [mergeRow_of_nan h]
  case numbers =>
    rw [mergeRow_of_numbers ⟨han, ham, hal, hao⟩ ⟨hbn, hbm, hbl, hbo⟩]
    refine ⟨nan_mergedNumbers a b, fun hempty => ?_, m_mergedNumbers⟩
    rw [mergedNumbers_empty hempty]
    exact ⟨rfl, rfl, fun v hv => List.eq_of_mem_replicate hv⟩
  case length =>
    rcases mergeRow_cases a b with h | h
    · rw [h]
    · rw [h, length_mergedNumbers hlen]

end Sys2Proof.Machine
end

section

/-! ## SCAN, MERGE, SCORE and COMPACT (R133, R138 to R143, R146 to R149) -/

namespace Sys2Proof.Machine

/-! ### Passes over pages -/

theorem overPages_none {α : Type} {p : AttPar} (h : p.npages = 0) (s : State) (w : Who) (bmp : PageDesc → Bool) (vals : Bool) (x : α)
    (f : State → PageDesc → PageData → α → State × α) : overPages s w p bmp vals x f = (s, x, 0, 0) := by
  rw [overPages, h]
  rfl

/-- Without a page a SCAN leaves the rows with no token. -/
theorem scanCore_none {p : AttPar} (h : p.npages = 0) (s : State) (w : Who) (qs : List (List Elem)) (count : State → State) :
    scanCore s w p qs count = (s, List.replicate 32 (AttRow.init p.d), 0, 0) := by
  rw [scanCore, overPages_none h]

theorem scoreCore_none {p : AttPar} (hp : p.npages = 0) (s : State) (w : Who) (t h decay age : Nat) (stats : List Byte) (qs : List (List Elem))
    (count : State → State) : scoreCore s w t h decay age p stats qs count = (s, (), 0, 0) := by
  rw [scoreCore, overPages_none hp]

theorem compactCore_none {p : AttPar} (h : p.npages = 0) (s : State) (w : Who) (dst ndst lim : Nat) :
    compactCore s w p dst ndst lim = (s, ⟨[], 0, none, 0⟩, 0) := by
  simp only [compactCore, h, List.range_zero, List.foldl_nil]

/-! ### The start of a command (R133, R146) -/

/-- The pipe of tile t can execute its command h, whose block lies in undamaged tile memory. -/
def CanRun (s : State) (t h : Nat) (c : AttCmd) : Prop :=
  attOf s t h = some c ∧ c.phase = .queued ∧ attHead s t h = true ∧ ebbing s = false ∧ pipeInBist s t = false ∧ (tileOf s t).memErr = [] ∧
    c.off + 128 ≤ 2 ^ 20

/-- The block of command c. -/
def cmdBlock (s : State) (t : Nat) (c : AttCmd) : List Byte := Mem.read (tileOf s t).mem c.off 128

section

variable {s : State} {t h op : Nat} {c : AttCmd}

theorem CanRun.undamaged (hr : CanRun s t h c) : (tileOf s t).memErr = [] := by
  obtain ⟨-, -, -, -, -, herr, -⟩ := hr
  exact herr

theorem CanRun.readBlock (hr : CanRun s t h c) : readBlock s t c = (s, some (cmdBlock s t c)) := by
  obtain ⟨-, -, -, -, -, herr, hoff⟩ := hr
  have hin : inTile c.off 128 = true := decide_eq_true hoff
  simp only [Machine.readBlock, hin, tmRead_of_memErr_nil s t 2 _ _ herr, if_true, Bool.false_eq_true, if_false, cmdBlock]

/-- A command whose block names the operation. -/
theorem CanRun.start (hr : CanRun s t h c) (hop : bOP (cmdBlock s t c) = op) (k : State → AttCmd → List Byte → State) :
    attStart op t h s k = if blockOk s t (cmdBlock s t c) then whole s (k s c (cmdBlock s t c))
      else updAtt s t h (fun c => { c with phase := .done (attStatus 4 0 0) }) := by
  have hblock := hr.readBlock
  obtain ⟨hc, hq, hhead, hebb, hbist, -⟩ := hr
  have hready : (c.phase != .queued || !attHead s t h || ebbing s || pipeInBist s t) = false := by
    rw [hq, hhead, hebb, hbist]
    decide
  simp only [attStart, hc, hready, hblock, hop, bne_self_eq_false, Bool.false_eq_true, if_false]

theorem CanRun.start_valid (hr : CanRun s t h c) (hop : bOP (cmdBlock s t c) = op) (hok : blockOk s t (cmdBlock s t c) = true)
    (k : State → AttCmd → List Byte → State) : attStart op t h s k = whole s (k s c (cmdBlock s t c)) :=
  (hr.start hop k).trans (if_pos hok)

theorem CanRun.start_invalid (hr : CanRun s t h c) (hop : bOP (cmdBlock s t c) = op) (hbad : blockOk s t (cmdBlock s t c) = false)
    (k : State → AttCmd → List Byte → State) : attStart op t h s k = updAtt s t h (fun c => { c with phase := .done (attStatus 4 0 0) }) :=
  (hr.start hop k).trans (if_neg (by rw [hbad]; decide))

/-! ### What a command reads from tile memory -/

/-- The query rows from a place on. -/
def queriesAt (s : State) (t : Nat) (p : AttPar) (at_ pitch : Nat) : List (List Elem) :=
  (List.range p.m).map (fun i => queryRow p.qf p.d (Mem.read (tileOf s t).mem (at_ + i * pitch) (queryBytes p.qf p.d)))

theorem queryRows_of_memErr_nil (p : AttPar) (at_ pitch : Nat) (herr : (tileOf s t).memErr = []) :
    queryRows s t p at_ pitch = (s, queriesAt s t p at_ pitch, false) := by
  rw [queryRows, queriesAt]
  generalize List.range p.m = l
  induction l using List.reverseRecOn with
  | nil => rfl
  | append_singleton l i ih =>
    rw [List.foldl_append, List.foldl_cons, List.foldl_nil, ih, List.map_append]
    simp only [tmRead_of_memErr_nil s t 2 _ _ herr]
    rfl

/-- The query rows of a block. -/
def queriesOf (s : State) (t : Nat) (b : List Byte) : List (List Elem) := queriesAt s t (parOf b) (eNat b 16 4) (eNat b 20 2)

theorem readQueries_of_memErr_nil (b : List Byte) (herr : (tileOf s t).memErr = []) : readQueries s t b = (s, queriesOf s t b, false) :=
  queryRows_of_memErr_nil _ _ _ herr

/-! ### What the pipe does for each operation -/

/-- A SCAN of the block. -/
def scanned (s : State) (t : Nat) (b : List Byte) : State × List AttRow × Nat × Nat :=
  scanCore s (pipeWho s t) (parOf b) (queriesOf s t b) (fun s => countPage s t)

/-- The rows that a SCAN puts out: a final output takes them closed (R143). -/
def rowsOut (b : List Byte) (rows : List AttRow) : List AttRow := if bOUT b ≤ 1 then rows else rows.map AttRow.closed

/-- The two partials of a MERGE, row by row. -/
def mergedRows (s : State) (t : Nat) (b : List Byte) : List AttRow :=
  let rows (o : Nat) := partialRows (parOf b).d (parOf b).m (Mem.read (tileOf s t).mem (eNat b o 4) (partialLen (parOf b).d))
  ((rows 72).zip (rows 76)).map (fun r => mergeRow r.1 r.2)

/-- A SCORE of the block. -/
def scored (s : State) (t h : Nat) (b : List Byte) : State × Unit × Nat × Nat :=
  scoreCore s (pipeWho s t) t h (eNat b 72 1) (eNat b 68 4) (parOf b) (Mem.read (tileOf s t).mem (eNat b 64 4) 256) (queriesOf s t b)
    (fun s => countPage s t)

/-- A COMPACT of the block. -/
def compacted (s : State) (t : Nat) (b : List Byte) : State × CmpState × Nat :=
  compactCore s (pipeWho s t) (parOf b) (eNat b 64 6) (eNat b 72 4) (eNat b 76 4)

/-- The status of a COMPACT that ends with x, having stopped at page n (R146). -/
def compactStatus (x : CmpState) (n : Nat) : BitVec 32 :=
  if x.code = 0 ∨ x.code = 5 then attStatus x.code 0 x.done else attStatus x.code 0 (if x.code = 4 then 0 else n)

theorem CanRun.scan (hr : CanRun s t h c) (hop : bOP (cmdBlock s t c) = 0) (hok : blockOk s t (cmdBlock s t c) = true) :
    let b := cmdBlock s t c
    let r := scanned s t b
    exec (.scan t h) s = .next (whole s (if r.2.2.1 != 0 then updAtt r.1 t h (fun c => { c with phase := .done (attStatus r.2.2.1 0 r.2.2.2) })
      else attOutput r.1 t h b (rowsOut b r.2.1))) := by
  rw [exec, execScan, hr.start_valid hop hok, readQueries_of_memErr_nil _ hr.undamaged]
  simp only [Bool.false_eq_true, if_false]
  rfl

theorem CanRun.merge (hr : CanRun s t h c) (hop : bOP (cmdBlock s t c) = 1) (hok : blockOk s t (cmdBlock s t c) = true) :
    exec (.merge t h) s = .next (whole s (attOutput s t h (cmdBlock s t c) (mergedRows s t (cmdBlock s t c)))) := by
  rw [exec, execMerge, hr.start_valid hop hok]
  simp only [tmRead_of_memErr_nil s t 2 _ _ hr.undamaged, Bool.or_self, Bool.false_eq_true, if_false]
  rfl

theorem CanRun.score (hr : CanRun s t h c) (hop : bOP (cmdBlock s t c) = 2) (hok : blockOk s t (cmdBlock s t c) = true) :
    let b := cmdBlock s t c
    let r := scored s t h b
    exec (.score t h) s = .next (whole s (updAtt r.1 t h (fun c =>
      { c with phase := .updating (attStatus r.2.2.1 0 r.2.2.2), freeOut := eNat b 76 4 }))) := by
  rw [exec, execScore, hr.start_valid hop hok, readQueries_of_memErr_nil _ hr.undamaged]
  simp only [tmRead_of_memErr_nil s t 2 _ _ hr.undamaged, Bool.or_self, Bool.false_eq_true, if_false]
  rfl

theorem CanRun.compact (hr : CanRun s t h c) (hop : bOP (cmdBlock s t c) = 3) (hok : blockOk s t (cmdBlock s t c) = true) :
    let b := cmdBlock s t c
    let r := compacted s t b
    let x := r.2.1.close (eNat b 64 6)
    exec (.compact t h) s = .next (whole s (updAtt r.1 t h (fun c =>
      { c with phase := .done (compactStatus x r.2.2), devOuts := if x.code = 0 ∨ x.code = 5 then x.outs else [] }))) := by
  rw [exec, execCompact, hr.start_valid hop hok]
  rfl

/-! ### What the queue entry holds then -/

theorem att_updAtt (s : State) (t h : Nat) (f : AttCmd → AttCmd) :
    (tileOf (updAtt s t h f) t).att = updWhere (fun c => c.h == h) f (tileOf s t).att := by
  rw [updAtt, tileOf_updTile_self]

theorem reg_updAtt (s : State) (t h : Nat) (f : AttCmd → AttCmd) (o : Nat) : reg (updAtt s t h f) o = reg s o := rfl

theorem stalled_updAtt (s : State) (t h : Nat) (f : AttCmd → AttCmd) : (updAtt s t h f).stalled = s.stalled := rfl

theorem tileOf_countNan (s : State) (t m : Nat) (rows : List AttRow) (u : Nat) : tileOf (countNan s t m rows) u = tileOf s u :=
  tileOf_addSat s _ _ _ _ u

theorem stalled_countNan (s : State) (t m : Nat) (rows : List AttRow) : (countNan s t m rows).stalled = s.stalled := addSat_stalled s _ _ _ _

theorem countNan_frame (s : State) (t m : Nat) (rows : List AttRow) : { countNan s t m rows with tiles := s.tiles, bar0 := s.bar0 } = s := by
  rw [countNan, addSat_frame]

/-- A queue entry whose rows are put out. -/
def putOut (b : List Byte) (rows : List AttRow) (y : AttCmd) : AttCmd :=
  let p := parOf b
  { y with
    phase := .done (attStatus 0 (rowFlags p.m rows) 0)
    outs := if bOUT b ≤ 1 then [(bOUTADDR b, partialBytes p.d rows)] else (List.range p.m).map (fun i =>
      (bOUTADDR b + i * bOPITCH b, finalRow (bOUT b == 3) (rows.getD i (AttRow.init p.d))))
    msg := if bOUT b = 1 then some ⟨bDEST b, eNat b 65 1, BitVec.ofNat 16 (eNat b 50 2), bOUTADDR b, partialLen p.d⟩ else none }

theorem attOutput_eq (s : State) (t h : Nat) (b : List Byte) (rows : List AttRow) :
    attOutput s t h b rows = updAtt (countNan s t (parOf b).m rows) t h (putOut b rows) := rfl

theorem tilesOnly_updAtt (s : State) (t h : Nat) (f : AttCmd → AttCmd) : TilesOnly s (updAtt s t h f) := tilesOnly_updTile s t _

theorem TilesOnly.frame {s y z : State} (hz : TilesOnly y z) (hy : { y with tiles := s.tiles, bar0 := s.bar0 } = s) :
    { z with tiles := s.tiles, bar0 := s.bar0 } = s :=
  (congrArg (fun x : State => { x with tiles := s.tiles, bar0 := s.bar0 }) hz :).trans hy

/-- Only the queue entry of the command changes. -/
def EntryBecomes (s s' : State) (t h : Nat) (f : AttCmd → AttCmd) : Prop :=
  (tileOf s' t).att = updWhere (fun y => y.h == h) f (tileOf s t).att ∧ { s' with tiles := s.tiles } = s

theorem entryBecomes_updAtt (s : State) (t h : Nat) (f : AttCmd → AttCmd) : EntryBecomes s (updAtt s t h f) t h f :=
  ⟨att_updAtt s t h f, tilesOnly_updAtt s t h f⟩

/-- What a pass with rows leaves (R141, R143): the entry with its output, and the NaN rows counted. -/
def RowsPut (s s' : State) (t h : Nat) (b : List Byte) (rows : List AttRow) : Prop :=
  (tileOf s' t).att = updWhere (fun y => y.h == h) (putOut b rows) (tileOf s t).att ∧
  regF s' (oATTCNT t) 15 0 = min 0xFFFF (regF s (oATTCNT t) 15 0 + ((rows.take (parOf b).m).filter (·.nan)).length) ∧
  RegsBut s s' [oATTCNT t] ∧ (∀ u ≠ t, tileOf s' u = tileOf s u) ∧ { tileOf s' t with att := (tileOf s t).att } = tileOf s t ∧
  { s' with tiles := s.tiles, bar0 := s.bar0 } = s

theorem rowsPut_attOutput (s : State) (t h : Nat) (b : List Byte) (rows : List AttRow) : RowsPut s (attOutput s t h b rows) t h b rows := by
  rw [attOutput_eq]
  refine ⟨?_, ?_, fun o ho => ?_, fun u hu => ?_, ?_, ?_⟩
  · rw [att_updAtt, tileOf_countNan]
  · rw [regF, reg_updAtt, ← regF]
    exact regF_addSat_self s (oATTCNT t) 15 0 _ (by decide)
  · rw [reg_updAtt]
    exact reg_addSat_ne s 15 0 _ (by simpa using ho)
  · rw [updAtt, tileOf_updTile_ne _ _ hu, tileOf_countNan]
  · rw [updAtt, tileOf_updTile_self, tileOf_countNan]
  · exact (tilesOnly_updAtt _ t h _).frame (countNan_frame s t (parOf b).m rows)

theorem whole_updAtt {s1 : State} (hst : s1.stalled = false) (f : AttCmd → AttCmd) : whole s (updAtt s1 t h f) = updAtt s1 t h f :=
  whole_of_not_stalled ((stalled_updAtt s1 t h f).trans hst)

theorem whole_attOutput {s1 : State} (hst : s1.stalled = false) (b : List Byte) (rows : List AttRow) :
    whole s (attOutput s1 t h b rows) = attOutput s1 t h b rows := by
  rw [attOutput_eq]
  exact whole_updAtt ((stalled_countNan _ _ _ _).trans hst) _

/-! ### What each operation leaves -/

/-- A SCAN that brings r: it waits, stops at a page, or puts its rows out. -/
theorem CanRun.scan_gives (hr : CanRun s t h c) (hop : bOP (cmdBlock s t c) = 0) (hok : blockOk s t (cmdBlock s t c) = true)
    {r : State × List AttRow × Nat × Nat} (hscan : scanned s t (cmdBlock s t c) = r) :
    (r.1.stalled = false → r.2.2.1 = 0 →
      ∃ s', exec (.scan t h) s = .next s' ∧ RowsPut r.1 s' t h (cmdBlock s t c) (rowsOut (cmdBlock s t c) r.2.1)) ∧
    (r.1.stalled = false → r.2.2.1 ≠ 0 → ∃ s', exec (.scan t h) s = .next s' ∧
      EntryBecomes r.1 s' t h (fun y => { y with phase := .done (attStatus r.2.2.1 0 r.2.2.2) })) ∧
    (r.1.stalled = true → exec (.scan t h) s = .next s) := by
  have hexec := hr.scan hop hok
  dsimp only at hexec
  rw [hscan] at hexec
  refine ⟨fun hst hcode => ⟨_, hexec.trans (congrArg Host.Outcome.next ?_), rowsPut_attOutput _ t h _ _⟩,
    fun hst hcode => ⟨_, hexec.trans (congrArg Host.Outcome.next ?_), entryBecomes_updAtt _ t h _⟩,
    fun hst => hexec.trans (congrArg Host.Outcome.next (if_pos ?_))⟩
  · rw [hcode]
    exact whole_attOutput hst _ _
  · rw [if_pos (bne_iff_ne.2 hcode)]
    exact whole_updAtt hst _
  · split
    · rw [stalled_updAtt, hst]
    · rw [attOutput_eq, stalled_updAtt, stalled_countNan, hst]

theorem CanRun.scan_none (hr : CanRun s t h c) (hop : bOP (cmdBlock s t c) = 0) (hok : blockOk s t (cmdBlock s t c) = true)
    (hst : s.stalled = false) (hp : (parOf (cmdBlock s t c)).npages = 0) :
    ∃ s', exec (.scan t h) s = .next s' ∧ RowsPut s s' t h (cmdBlock s t c) (List.replicate 32 (AttRow.init (parOf (cmdBlock s t c)).d)) := by
  have hrows : rowsOut (cmdBlock s t c) (List.replicate 32 (AttRow.init (parOf (cmdBlock s t c)).d)) =
      List.replicate 32 (AttRow.init (parOf (cmdBlock s t c)).d) := by
    rw [rowsOut, List.map_replicate, closed_init, ite_self]
  obtain ⟨hputs, -⟩ := hr.scan_gives hop hok (scanCore_none hp _ _ _ _)
  rw [← hrows]
  exact hputs hst rfl

theorem CanRun.merge_gives (hr : CanRun s t h c) (hop : bOP (cmdBlock s t c) = 1) (hok : blockOk s t (cmdBlock s t c) = true)
    (hst : s.stalled = false) :
    ∃ s', exec (.merge t h) s = .next s' ∧ RowsPut s s' t h (cmdBlock s t c) (mergedRows s t (cmdBlock s t c)) :=
  ⟨_, (hr.merge hop hok).trans (congrArg Host.Outcome.next (whole_attOutput hst _ _)), rowsPut_attOutput s t h _ _⟩

/-- A SCORE that brings r then waits for its updates. -/
theorem CanRun.score_gives (hr : CanRun s t h c) (hop : bOP (cmdBlock s t c) = 2) (hok : blockOk s t (cmdBlock s t c) = true)
    {r : State × Unit × Nat × Nat} (hscore : scored s t h (cmdBlock s t c) = r) (hst : r.1.stalled = false) :
    ∃ s', exec (.score t h) s = .next s' ∧ { s' with tiles := r.1.tiles } = r.1 ∧
      (tileOf s' t).att = updWhere (fun y => y.h == h) (fun y => { y with
        phase := .updating (attStatus r.2.2.1 0 r.2.2.2), freeOut := eNat (cmdBlock s t c) 76 4 }) (tileOf r.1 t).att := by
  have hexec := hr.score hop hok
  dsimp only at hexec
  rw [hscore, whole_updAtt hst] at hexec
  exact ⟨_, hexec, (entryBecomes_updAtt _ t h _).symm⟩

/-- A COMPACT that brings r, its last page closed as x. -/
theorem CanRun.compact_gives (hr : CanRun s t h c) (hop : bOP (cmdBlock s t c) = 3) (hok : blockOk s t (cmdBlock s t c) = true)
    {r : State × CmpState × Nat} (hcmp : compacted s t (cmdBlock s t c) = r) {x : CmpState} (hx : r.2.1.close (eNat (cmdBlock s t c) 64 6) = x)
    (hst : r.1.stalled = false) :
    ∃ s', exec (.compact t h) s = .next s' ∧ { s' with tiles := r.1.tiles } = r.1 ∧
      (tileOf s' t).att = updWhere (fun y => y.h == h) (fun y => { y with
        phase := .done (compactStatus x r.2.2), devOuts := if x.code = 0 ∨ x.code = 5 then x.outs else [] }) (tileOf r.1 t).att := by
  have hexec := hr.compact hop hok
  dsimp only at hexec
  rw [hcmp, hx, whole_updAtt hst] at hexec
  exact ⟨_, hexec, (entryBecomes_updAtt _ t h _).symm⟩

end

/-- Settles O22: the block is read from undamaged tile memory, and each operation ends in one change of the queue entry on top of what
its pages did. -/
theorem attentionPasses : Obligations.AttentionPasses := by
  unfold Obligations.AttentionPasses
  intro t h c s hc hq hhead hebb hbist herr hst hoff mem b p w qs put ends
  have hr : CanRun s t h c := ⟨hc, hq, hhead, hebb, hbist, herr, hoff⟩
  refine ⟨fun hop hok => ?scan, fun hop hok => ?merge, fun hop hok => ?score, fun hop hok => ?compact, fun hbad => ?invalid⟩
  case scan =>
    refine ⟨hr.scan_none hop hok hst, ?_⟩
    intro r
    exact hr.scan_gives hop hok (r := r) rfl
  case merge => exact hr.merge_gives hop hok hst
  case score =>
    intro r
    refine ⟨hr.score_gives hop hok (r := r) rfl, fun hp => ?_⟩
    have hnone : r = (s, (), 0, 0) := scoreCore_none hp _ _ _ _ _ _ _ _ _
    rw [hnone]
    exact ⟨rfl, rfl⟩
  case compact =>
    intro r x
    refine ⟨hr.compact_gives hop hok (r := r) rfl (x := x) rfl, fun hp => ?_⟩
    have hnone : r = (s, ⟨[], 0, none, 0⟩, 0) := compactCore_none hp _ _ _ _ _
    have hx : x = ⟨[], 0, none, 0⟩ := congrArg (fun r => r.2.1.close (eNat b 64 6)) hnone
    rw [hnone, hx]
    exact ⟨rfl, rfl, rfl, rfl⟩
  case invalid =>
    have hend (op : Nat) (hop : bOP b = op) (k : State → AttCmd → List Byte → State) := hr.start_invalid hop hbad k
    simp only [List.forall_mem_cons, List.not_mem_nil, false_imp_iff, implies_true, and_true]
    refine ⟨fun hop => ?_, fun hop => ?_, fun hop => ?_, fun hop => ?_⟩
    all_goals exact ⟨_, congrArg Host.Outcome.next (hend _ hop _), entryBecomes_updAtt s t h _⟩

end Sys2Proof.Machine
end

section

/-! ## The updates of SCORE set out (R147, R148) -/

namespace Sys2Proof.Machine

/-- An injection raises the outstanding count by one (R222). -/
theorem regF_inject (s : State) (p c : Nat) : regF (inject s p c).1 (oBWRCNT p c) 19 0 = (regF s (oBWRCNT p c) 19 0 + 1) % 2 ^ 20 := by
  rw [inject]
  dsimp only
  rw [regF_setF_ne _ _ _ _ _ _ _ (by decide) (by decide), regF_setF_self _ _ _ _ _ (by decide)]

/-- A state with the updates l, whose next identifier is n. -/
def withUpds (s : State) (l : List ScoreUpd) (n : Nat) : State := { s with upds := l, nextId := n }

theorem reg_withUpds (s : State) (l : List ScoreUpd) (n o : Nat) : reg (withUpds s l n) o = reg s o := rfl

section

variable (t h decay age part : Nat) (p : AttPar) (st : List (Nat × Nat × Nat × List Elem)) (c : PageDesc) (g : PageData)

/-- The increment of a token of the page, where it has one. -/
def tokenInc (tok : Nat) : Option Nat := scoreInc p c g.valid (g.ks.getD tok []) tok st

/-- The update of a token, as it sets out from state s. -/
def updOf (s : State) (tok : Nat) : ScoreUpd :=
  ⟨s.nextId, t, h, c.n, tok, scoreBase p c + 2 * tok, c.vbmp, false, (tokenInc p st c g tok).getD ((Config.freeWord s.fresh).toNat % 65536), decay,
    c.escore, age != 0xFFFF_FFFF && (p.rowPos (p.m - 1) : Int) - c.pos tok > age, part⟩

/-- The state from which an update sets out: an increment that the spec does not state is drawn. -/
def drawn (s : State) (tok : Nat) : State := if (tokenInc p st c g tok).isNone then { s with fresh := s.fresh + 1 } else s

/-- One update sets out. -/
def sendUpd (s : State) (tok : Nat) : State :=
  withUpds (inject (drawn p st c g s tok) part 1).1 (s.upds ++ [updOf t h decay age part p st c g s tok]) (s.nextId + 1)

theorem drawn_frame (s : State) (tok : Nat) : { drawn p st c g s tok with fresh := s.fresh } = s := by
  rw [drawn]
  split <;> rfl

theorem reg_drawn (s : State) (tok o : Nat) : reg (drawn p st c g s tok) o = reg s o := by
  rw [drawn]
  split <;> rfl

theorem reg_sendUpd (s : State) (tok o : Nat) :
    reg (sendUpd t h decay age part p st c g s tok) o = reg (inject (drawn p st c g s tok) part 1).1 o := reg_withUpds _ _ _ _

theorem scorePage_eq (s : State) : scorePage t h decay age part p st s c g = (setBits 256 g.valid).foldl (sendUpd t h decay age part p st c g) s := by
  rw [scorePage]
  congr 1
  funext s tok
  have hframe : { (inject (drawn p st c g s tok) part 1).1 with bar0 := s.bar0, fresh := s.fresh } = s :=
    (congrArg (fun y : State => { y with bar0 := s.bar0, fresh := s.fresh }) (barOnly_inject _ part 1).1 :).trans
      (congrArg (fun y : State => { y with bar0 := s.bar0 }) (drawn_frame p st c g s tok))
  have hupds : (inject (drawn p st c g s tok) part 1).1.upds = s.upds := (congrArg State.upds hframe :)
  have hid : (inject (drawn p st c g s tok) part 1).1.nextId = s.nextId := (congrArg State.nextId hframe :)
  rw [sendUpd, updOf, ← hupds, ← hid]
  rfl

/-- What the update of a token carries. -/
def Carries (u : ScoreUpd) : Prop :=
  u.t = t ∧ u.h = h ∧ u.n = c.n ∧ u.score = scoreBase p c + 2 * u.tok ∧ u.bitmap = c.vbmp ∧ u.clear = false ∧ u.decay = decay ∧
  u.escore = c.escore ∧ u.part = part ∧ (∀ n, tokenInc p st c g u.tok = some n → u.inc = n) ∧
  (u.old = true ↔ age ≠ 0xFFFF_FFFF ∧ (age : Int) < (p.rowPos (p.m - 1) : Int) - c.pos u.tok)

theorem carries_updOf (s : State) (tok : Nat) : Carries t h decay age part p st c g (updOf t h decay age part p st c g s tok) := by
  refine ⟨rfl, rfl, rfl, rfl, rfl, rfl, rfl, rfl, rfl, fun n hn => ?_, ?_⟩
  · have hn' : tokenInc p st c g tok = some n := hn
    rw [updOf, hn']
    rfl
  · simp [updOf]

/-- The updates of the tokens listed have set out in order, and nothing else has changed. -/
def SetsOut (s s' : State) (toks : List Nat) (new : List ScoreUpd) : Prop :=
  s'.upds = s.upds ++ new ∧ new.map (·.tok) = toks ∧ { s' with upds := s.upds, nextId := s.nextId, fresh := s.fresh, bar0 := s.bar0 } = s ∧
  RegsBut s s' [oBWRCNT part 1] ∧ regF s' (oBWRCNT part 1) 19 0 = (regF s (oBWRCNT part 1) 19 0 + new.length) % 2 ^ 20 ∧
  new.map (·.id) = (List.range new.length).map (fun i => s.nextId + i) ∧ s'.nextId = s.nextId + new.length ∧
  ∀ u ∈ new, Carries t h decay age part p st c g u

theorem setsOut_sendUpd {s s' : State} {toks : List Nat} {new : List ScoreUpd} (hs : SetsOut t h decay age part p st c g s s' toks new) (tok : Nat) :
    SetsOut t h decay age part p st c g s (sendUpd t h decay age part p st c g s' tok) (toks ++ [tok])
      (new ++ [updOf t h decay age part p st c g s' tok]) := by
  obtain ⟨hupds, htoks, hframe, hregs, hcount, hids, hnext, hall⟩ := hs
  obtain ⟨hbframe, hbregs⟩ := barOnly_inject (drawn p st c g s' tok) part 1
  have hinject := regF_inject (drawn p st c g s' tok) part 1
  have hsame : regF (drawn p st c g s' tok) (oBWRCNT part 1) 19 0 = regF s' (oBWRCNT part 1) 19 0 := by rw [regF, reg_drawn, regF]
  rw [hsame, hcount, Nat.mod_add_mod, regF, ← reg_sendUpd t h decay age, ← regF] at hinject
  have hreg (o : Nat) (ho : o ∉ [oBWRCNT part 1]) : reg (sendUpd t h decay age part p st c g s' tok) o = reg s o := by
    rw [reg_sendUpd, hbregs o ho, reg_drawn, hregs o ho]
  refine ⟨?_, ?_, ?_, hreg, ?_, ?_, ?_, ?_⟩
  · rw [← List.append_assoc, ← hupds]
    rfl
  · rw [List.map_append, htoks]
    rfl
  · exact (congrArg (fun y : State => { y with upds := s.upds, nextId := s.nextId, fresh := s.fresh, bar0 := s.bar0 }) hbframe :).trans
      ((congrArg (fun y : State => { y with upds := s.upds, nextId := s.nextId, fresh := s.fresh, bar0 := s.bar0 })
        (drawn_frame p st c g s' tok) :).trans hframe)
  · rw [List.length_append, ← Nat.add_assoc]
    exact hinject
  · rw [List.map_append, List.length_append, List.length_singleton, List.range_succ, List.map_append, hids, List.map_singleton, List.map_singleton,
      ← hnext]
    rfl
  · rw [List.length_append, ← Nat.add_assoc, ← hnext]
    rfl
  · refine List.forall_mem_append.2 ⟨hall, ?_⟩
    rw [List.forall_mem_singleton]
    exact carries_updOf t h decay age part p st c g s' tok

theorem setsOut_foldl (s : State) (toks : List Nat) :
    ∃ new, SetsOut t h decay age part p st c g s (toks.foldl (sendUpd t h decay age part p st c g) s) toks new := by
  induction toks using List.reverseRecOn with
  | nil =>
    refine ⟨[], (List.append_nil _).symm, rfl, rfl, fun _ _ => rfl, ?_, rfl, rfl, fun _ hu => by cases hu⟩
    exact (Nat.mod_eq_of_lt (regF_lt s _ 19 0)).symm
  | append_singleton toks tok ih =>
    obtain ⟨new, hnew⟩ := ih
    rw [List.foldl_append]
    exact ⟨_, setsOut_sendUpd t h decay age part p st c g hnew tok⟩

end

/-- Settles O23: the updates set out token by token, each on top of what those before it left. -/
theorem scoreUpdatesSetOut : Obligations.ScoreUpdatesSetOut := by
  unfold Obligations.ScoreUpdatesSetOut
  intro t h decay age part p st s c g
  rw [scorePage_eq]
  obtain ⟨new, hupds, htoks, hframe, hregs, hcount, hids, -, hall⟩ := setsOut_foldl t h decay age part p st c g s (setBits 256 g.valid)
  exact ⟨new, hupds, htoks, hframe, hregs, hcount, hids, hall⟩

end Sys2Proof.Machine
end

section

/-! ## SCORE_UPDATE (R147, R148, R174, R222) -/

namespace Sys2Proof.Machine

/-! ### A bitmap block with one bit cleared (R137, R148) -/

/-- Taking away a power of two that is there clears its bit. -/
theorem testBit_sub_two_pow {n i : Nat} (h : n.testBit i = true) (j : Nat) : (n - 2 ^ i).testBit j = (n.testBit j && j != i) := by
  have hle : 2 ^ i ≤ n := Nat.ge_two_pow_of_testBit h
  obtain ⟨m, rfl⟩ := Nat.exists_eq_add_of_le hle
  rw [Nat.add_sub_cancel_left]
  rcases Nat.lt_trichotomy j i with hj | rfl | hj
  · rw [Nat.testBit_two_pow_add_gt hj]
    simp [Nat.ne_of_lt hj]
  · rw [Nat.testBit_two_pow_add_eq] at h
    simpa using h
  · obtain ⟨k, rfl⟩ := Nat.exists_eq_add_of_lt hj
    have hbelow : m.testBit i = false := by
      rw [Nat.testBit_two_pow_add_eq] at h
      simpa using h
    have hdiv : (2 ^ i + m) / 2 ^ (i + 1) = m / 2 ^ (i + 1) := by
      rw [Nat.pow_succ, ← Nat.div_div_eq_div_mul, ← Nat.div_div_eq_div_mul, Nat.add_div_left _ (Nat.two_pow_pos i)]
      rw [Nat.testBit_eq_decide_div_mod_eq, decide_eq_false_iff_not] at hbelow
      omega
    have hk : i + k + 1 = k + (i + 1) := by omega
    rw [hk, ← Nat.testBit_div_two_pow, ← Nat.testBit_div_two_pow, hdiv]
    have hne : k + (i + 1) ≠ i := by omega
    simp [hne]

/-- The parts of a bitmap block: the valid bits, LIVE, and what stands above them. -/
theorem bitmap_parts (b : Nat) : b = 2 ^ 256 * (2 ^ 16 * (b / 2 ^ 272) + bits b 271 256) + b % 2 ^ 256 := by
  have hlive : bits b 271 256 = b / 2 ^ 256 % 2 ^ 16 := by rw [bits, Nat.shiftRight_eq_div_pow]
  have hdiv : b / 2 ^ 272 = b / 2 ^ 256 / 2 ^ 16 := by rw [Nat.div_div_eq_div_mul, ← Nat.pow_add]
  rw [hlive, hdiv, Nat.div_add_mod, Nat.div_add_mod]

/-- A bit of a block made of its parts. -/
theorem testBit_parts (hi : Nat) {live lo : Nat} (hlive : live < 2 ^ 16) (hlo : lo < 2 ^ 256) (i : Nat) :
    (2 ^ 256 * (2 ^ 16 * hi + live) + lo).testBit i =
      if i < 256 then lo.testBit i else if i < 272 then live.testBit (i - 256) else hi.testBit (i - 272) := by
  rw [Nat.testBit_two_pow_mul_add _ hlo, Nat.testBit_two_pow_mul_add _ hlive]
  refine if_congr Iff.rfl rfl ?_
  have hsub : i - 256 - 16 = i - 272 := by omega
  rw [hsub]
  exact if_congr (by omega) rfl rfl

theorem bits_parts (hi : Nat) {live lo : Nat} (hlive : live < 2 ^ 16) (hlo : lo < 2 ^ 256) :
    bits (2 ^ 256 * (2 ^ 16 * hi + live) + lo) 271 256 = live := by
  rw [bits, Nat.shiftRight_eq_div_pow, Nat.mul_add_div (Nat.two_pow_pos 256), Nat.div_eq_of_lt hlo, Nat.add_zero]
  exact (Nat.mul_add_mod _ _ _).trans (Nat.mod_eq_of_lt hlive)

/-- Bit 272 as a number is to be added: where the page is released and the bit is 0. -/
def releaseMark (b : Nat) : Nat := if bits b 271 256 = 1 ∧ bit b 272 = false then 1 else 0

/-- The block after the clear of a token's bit. -/
def clearedBlock (b tok : Nat) : Nat :=
  b - 2 ^ tok - 2 ^ 256 + (if bits b 271 256 = 1 ∧ bit b 272 = false then 2 ^ 272 else 0)

theorem low_testBit {b tok : Nat} (htok : tok < 256) (hbit : bit b tok = true) : (b % 2 ^ 256).testBit tok = true := by
  rw [Nat.testBit_mod_two_pow, ← bit_eq, hbit, decide_eq_true htok]
  rfl

theorem bits_live_lt (b : Nat) : bits b 271 256 < 2 ^ 16 := Nat.mod_lt _ (Nat.two_pow_pos 16)

theorem low_lt (b : Nat) : b % 2 ^ 256 < 2 ^ 256 := Nat.mod_lt _ (Nat.two_pow_pos 256)

/-- The block with the bit and one of LIVE taken away. -/
theorem taken_parts {b tok : Nat} (htok : tok < 256) (hbit : bit b tok = true) (hlive : 0 < bits b 271 256) :
    b - 2 ^ tok - 2 ^ 256 = 2 ^ 256 * (2 ^ 16 * (b / 2 ^ 272) + (bits b 271 256 - 1)) + (b % 2 ^ 256 - 2 ^ tok) := by
  have hlo : 2 ^ tok ≤ b % 2 ^ 256 := Nat.ge_two_pow_of_testBit (low_testBit htok hbit)
  have hparts := bitmap_parts b
  generalize bits b 271 256 = live at *
  generalize b / 2 ^ 272 = hi at *
  generalize b % 2 ^ 256 = lo at *
  generalize 2 ^ tok = w at *
  omega

theorem clearedBlock_parts {b tok : Nat} (htok : tok < 256) (hbit : bit b tok = true) (hlive : 0 < bits b 271 256) :
    clearedBlock b tok = 2 ^ 256 * (2 ^ 16 * (b / 2 ^ 272 + releaseMark b) + (bits b 271 256 - 1)) + (b % 2 ^ 256 - 2 ^ tok) := by
  have hmark : (if bits b 271 256 = 1 ∧ bit b 272 = false then 2 ^ 272 else 0) = 2 ^ 256 * (2 ^ 16 * releaseMark b) := by
    rw [releaseMark]
    split
    · rw [Nat.mul_one, ← Nat.pow_add]
    · rw [Nat.mul_zero, Nat.mul_zero]
  rw [clearedBlock, taken_parts htok hbit hlive, hmark]
  ring

/-- What stands above LIVE: bit 272 is set where the page is released, the others are as before. -/
theorem testBit_above (b j : Nat) :
    (b / 2 ^ 272 + releaseMark b).testBit j = if j = 0 then bit b 272 || bits b 271 256 == 1 else (b / 2 ^ 272).testBit j := by
  have hbit : bit b 272 = (b / 2 ^ 272).testBit 0 := by rw [bit_eq, Nat.testBit_div_two_pow, Nat.zero_add]
  rw [releaseMark]
  by_cases hmark : bits b 271 256 = 1 ∧ bit b 272 = false
  · obtain ⟨hlive, heven⟩ := hmark
    rw [if_pos ⟨hlive, heven⟩, heven, hlive]
    rw [heven, Nat.testBit_zero, eq_comm, decide_eq_false_iff_not] at hbit
    cases j with
    | zero =>
      rw [Nat.testBit_zero, if_pos rfl]
      exact decide_eq_true (by omega)
    | succ j =>
      rw [if_neg (Nat.succ_ne_zero j), Nat.testBit_succ, Nat.testBit_succ]
      exact congrArg (fun x => Nat.testBit x j) (by omega)
  · rw [if_neg hmark, Nat.add_zero]
    cases j with
    | zero =>
      rw [if_pos rfl, ← hbit]
      by_cases hlive : bits b 271 256 = 1
      · have hodd : bit b 272 = true := by simpa [hlive] using hmark
        rw [hodd, Bool.true_or]
      · rw [beq_false_of_ne hlive, Bool.or_false]
    | succ j => rw [if_neg (Nat.succ_ne_zero j)]

theorem clearedBlock_gives {b tok : Nat} (htok : tok < 256) (hbit : bit b tok = true) (hlive : 0 < bits b 271 256) :
    (∀ i < 256, bit (clearedBlock b tok) i = (bit b i && i != tok)) ∧ bits (clearedBlock b tok) 271 256 = bits b 271 256 - 1 ∧
    bit (clearedBlock b tok) 272 = (bit b 272 || bits b 271 256 == 1) ∧ ∀ i < 512, 272 < i → bit (clearedBlock b tok) i = bit b i := by
  have hlive' : bits b 271 256 - 1 < 2 ^ 16 := Nat.lt_of_le_of_lt (Nat.sub_le _ _) (bits_live_lt b)
  have hlo' : b % 2 ^ 256 - 2 ^ tok < 2 ^ 256 := Nat.lt_of_le_of_lt (Nat.sub_le _ _) (low_lt b)
  rw [clearedBlock_parts htok hbit hlive]
  refine ⟨fun i hi => ?_, bits_parts _ hlive' hlo', ?_, fun i _ hi => ?_⟩
  · rw [bit_eq, testBit_parts _ hlive' hlo', if_pos hi, testBit_sub_two_pow (low_testBit htok hbit), Nat.testBit_mod_two_pow, decide_eq_true hi,
      Bool.true_and, bit_eq]
  · rw [bit_eq, testBit_parts _ hlive' hlo', if_neg (by decide), if_neg (by decide), testBit_above, if_pos rfl]
  · rw [bit_eq, testBit_parts _ hlive' hlo', if_neg (by omega), if_neg (by omega), testBit_above, if_neg (by omega), Nat.testBit_div_two_pow,
      Nat.sub_add_cancel (Nat.le_of_lt hi), bit_eq]

/-- The block as the update unit computes it, with LIVE taken out and put back less one. -/
theorem clearedBlock_eq {b tok v : Nat} (htok : tok < 256) (hbit : bit b tok = true) (hlive : 0 < bits b 271 256)
    (hv : b - 2 ^ tok - bits b 271 256 * 2 ^ 256 + (bits b 271 256 - 1) * 2 ^ 256 = v) :
    (if (bits b 271 256 - 1 == 0 && !bit v 272) = true then v + 2 ^ 272 else v) = clearedBlock b tok := by
  have hlo : 2 ^ tok ≤ b % 2 ^ 256 := Nat.ge_two_pow_of_testBit (low_testBit htok hbit)
  have hv' : v = b - 2 ^ tok - 2 ^ 256 := by
    have hparts := bitmap_parts b
    generalize bits b 271 256 = live at *
    generalize b / 2 ^ 272 = hi at *
    generalize b % 2 ^ 256 = lo at *
    generalize 2 ^ tok = w at *
    omega
  have hmark : bit v 272 = bit b 272 := by
    rw [hv', taken_parts htok hbit hlive, bit_eq, testBit_parts _ (Nat.lt_of_le_of_lt (Nat.sub_le _ _) (bits_live_lt b))
      (Nat.lt_of_le_of_lt (Nat.sub_le _ _) (low_lt b)), if_neg (by decide), if_neg (by decide), Nat.testBit_div_two_pow, bit_eq]
  have hcond : ((bits b 271 256 - 1 == 0 && !bit v 272) = true) ↔ bits b 271 256 = 1 ∧ bit b 272 = false := by
    rw [hmark, Bool.and_eq_true, beq_iff_eq, Bool.not_eq_true']
    exact and_congr_left fun _ => by omega
  rw [clearedBlock, ← hv']
  by_cases hc : bits b 271 256 = 1 ∧ bit b 272 = false
  · rw [if_pos (hcond.2 hc), if_pos hc]
  · rw [if_neg (fun h => hc (hcond.1 h)), if_neg hc, Nat.add_zero]

end Sys2Proof.Machine
end

section

/-! ## One update at its home slice (R147, R148, R174, R222) -/

namespace Sys2Proof.Machine

/-- The update is outstanding no longer. -/
def updTaken (s : State) (u : ScoreUpd) : State := retire { s with upds := s.upds.filter (fun y => y.id != u.id) } u.part 1

theorem execScoreUpdate_found {s : State} {u : ScoreUpd} (hu : s.upds.find? (fun y => y.id == u.id) = some u) :
    exec (.scoreUpdate u.id) s = .next (whole s (if u.clear then applyClear (updTaken s u) u else applyScore (updTaken s u) u)) := by
  rw [exec, execScoreUpdate]
  simp only [hu]
  rfl

section

variable {s : State} {u : ScoreUpd} {r : State × List Byte × AccSt}

theorem scoreRmw_ok (hr : readAt s (updWho u) u.score 2 = r) (hok : r.2.2.st = .ok) :
    scoreRmw s u = ((writeAt r.1 (updWho u) u.score (leBytes 2 (newScore u (leNat r.2.1)))).1, 0,
      u.escore != 0 && u.old && newScore u (leNat r.2.1) < u.escore) := by
  rw [scoreRmw, hr]
  simp only [hok, bne_self_eq_false, Bool.false_eq_true, if_false]

/-- The clear of an evicted token's bit sets out. -/
def evicted (s : State) (u : ScoreUpd) : State :=
  let y := (inject s u.part 1).1
  { y with upds := y.upds ++ [{ u with id := y.nextId, clear := true }], nextId := y.nextId + 1 }

theorem applyScore_ok (hr : readAt s (updWho u) u.score 2 = r) (hok : r.2.2.st = .ok) :
    let v := newScore u (leNat r.2.1)
    let y := (writeAt r.1 (updWho u) u.score (leBytes 2 v)).1
    applyScore s u = if u.escore ≠ 0 ∧ u.old = true ∧ v < u.escore then evicted y u else y := by
  intro v y
  rw [applyScore, scoreRmw_ok hr hok]
  simp only [bne_self_eq_false, Bool.false_eq_true, if_false]
  refine if_congr ?_ rfl rfl
  rw [Bool.and_eq_true, Bool.and_eq_true, bne_iff_ne, decide_eq_true_iff, and_assoc]

theorem stalled_evicted (s : State) (u : ScoreUpd) : (evicted s u).stalled = s.stalled :=
  (congrArg State.stalled (barOnly_inject s u.part 1).1 :)

theorem clearRmw_zero (hr : readAt s (updWho u) u.bitmap 64 = r) (hok : r.2.2.st = .ok) (hbit : bit (leNat r.2.1) u.tok = false) :
    clearRmw s u = (r.1, 0, false) := by
  rw [clearRmw, hr]
  simp only [hok, hbit, bne_self_eq_false, Bool.not_false, Bool.false_eq_true, if_false, if_true]

/-- A page released counts beside the token evicted (Table 5.11). -/
def clearCounted (s : State) (u : ScoreUpd) (rel : Bool) : State :=
  let y := addSat s (oATTCNT u.t) 63 32 1
  if rel then addSat y (oATTCNT u.t) 31 16 1 else y

theorem clearRmw_one (hr : readAt s (updWho u) u.bitmap 64 = r) (hok : r.2.2.st = .ok) (htok : u.tok < 256)
    (hbit : bit (leNat r.2.1) u.tok = true) (hlive : 0 < bits (leNat r.2.1) 271 256) :
    let rel := bits (leNat r.2.1) 271 256 - 1 == 0
    clearRmw s u = (clearCounted (writeAt r.1 (updWho u) u.bitmap (leBytes 64 (clearedBlock (leNat r.2.1) u.tok))).1 u rel, 0, rel) := by
  rw [clearRmw, hr]
  simp only [hok, hbit, bne_self_eq_false, Bool.not_true, Bool.false_eq_true, if_false]
  rw [clearedBlock_eq htok hbit hlive rfl]
  rfl

theorem applyClear_one (hr : readAt s (updWho u) u.bitmap 64 = r) (hok : r.2.2.st = .ok) (htok : u.tok < 256)
    (hbit : bit (leNat r.2.1) u.tok = true) (hlive : 0 < bits (leNat r.2.1) 271 256) :
    let y := clearCounted (writeAt r.1 (updWho u) u.bitmap (leBytes 64 (clearedBlock (leNat r.2.1) u.tok))).1 u (bits (leNat r.2.1) 271 256 - 1 == 0)
    applyClear s u = if bits (leNat r.2.1) 271 256 = 1 then updAtt y u.t u.h (fun c => { c with released := c.released ++ [u.n] }) else y := by
  intro y
  rw [applyClear, clearRmw_one hr hok htok hbit hlive]
  simp only [bne_self_eq_false, Bool.false_eq_true, if_false]
  exact if_congr (by rw [beq_iff_eq]; omega) rfl rfl

theorem stalled_clearCounted (s : State) (u : ScoreUpd) (rel : Bool) : (clearCounted s u rel).stalled = s.stalled := by
  rw [clearCounted]
  split
  · rw [addSat_stalled, addSat_stalled]
  · rw [addSat_stalled]

/-- The read-modify-write of a score whose read brings r. -/
theorem scoreUpdate_score (hu : s.upds.find? (fun y => y.id == u.id) = some u) (hscore : u.clear = false)
    (hr : readAt (updTaken s u) (updWho u) u.score 2 = r) (hok : r.2.2.st = .ok) {y : State}
    (hy : (writeAt r.1 (updWho u) u.score (leBytes 2 (newScore u (leNat r.2.1)))).1 = y) (hst : y.stalled = false) :
    (¬ (u.escore ≠ 0 ∧ u.old = true ∧ newScore u (leNat r.2.1) < u.escore) → exec (.scoreUpdate u.id) s = .next y) ∧
    (u.escore ≠ 0 → u.old = true → newScore u (leNat r.2.1) < u.escore → exec (.scoreUpdate u.id) s = .next (evicted y u)) := by
  have hexec := execScoreUpdate_found hu
  have happly := applyScore_ok hr hok
  dsimp only at happly
  rw [hscore, if_neg Bool.false_ne_true, happly, hy] at hexec
  refine ⟨fun hkeep => ?_, fun hesc hold hlow => ?_⟩
  · rw [hexec, if_neg hkeep, whole_of_not_stalled hst]
  · rw [hexec, if_pos ⟨hesc, hold, hlow⟩, whole_of_not_stalled ((stalled_evicted y u).trans hst)]

/-- A clear whose read of the bitmap block brings r, in which the token's bit is 0 already. -/
theorem scoreUpdate_clear_zero (hu : s.upds.find? (fun y => y.id == u.id) = some u) (hclear : u.clear = true)
    (hr : readAt (updTaken s u) (updWho u) u.bitmap 64 = r) (hok : r.2.2.st = .ok) (hst : r.1.stalled = false)
    (hbit : bit (leNat r.2.1) u.tok = false) : exec (.scoreUpdate u.id) s = .next r.1 := by
  rw [execScoreUpdate_found hu, hclear, if_pos rfl, applyClear, clearRmw_zero hr hok hbit]
  exact congrArg Host.Outcome.next (whole_of_not_stalled hst)

/-- A clear that takes the token's bit. -/
theorem scoreUpdate_clear_one (hu : s.upds.find? (fun y => y.id == u.id) = some u) (hclear : u.clear = true)
    (hr : readAt (updTaken s u) (updWho u) u.bitmap 64 = r) (hok : r.2.2.st = .ok) (htok : u.tok < 256)
    (hbit : bit (leNat r.2.1) u.tok = true) (hlive : 0 < bits (leNat r.2.1) 271 256) {y : State}
    (hy : (writeAt r.1 (updWho u) u.bitmap (leBytes 64 (clearedBlock (leNat r.2.1) u.tok))).1 = y) (hst : y.stalled = false) :
    ∃ s', exec (.scoreUpdate u.id) s = .next s' ∧
      (bits (leNat r.2.1) 271 256 ≠ 1 → s' = addSat y (oATTCNT u.t) 63 32 1) ∧
      (bits (leNat r.2.1) 271 256 = 1 → s' = updAtt (addSat (addSat y (oATTCNT u.t) 63 32 1) (oATTCNT u.t) 31 16 1) u.t u.h
        (fun c => { c with released := c.released ++ [u.n] })) := by
  have happly := applyClear_one hr hok htok hbit hlive
  dsimp only at happly
  rw [hy] at happly
  rw [execScoreUpdate_found hu, hclear, if_pos rfl, happly]
  by_cases hlast : bits (leNat r.2.1) 271 256 = 1
  · rw [if_pos hlast, hlast, whole_updAtt ((stalled_clearCounted y u _).trans hst)]
    exact ⟨_, rfl, fun hmore => absurd rfl hmore, fun _ => rfl⟩
  · have hrel : (bits (leNat r.2.1) 271 256 - 1 == 0) = false := beq_false_of_ne (by omega)
    rw [if_neg hlast, hrel, whole_of_not_stalled ((stalled_clearCounted y u _).trans hst)]
    exact ⟨_, rfl, fun _ => rfl, fun h => absurd h hlast⟩

end

/-- Settles O24: the access of the home slice is read, changed and written in one step, and the update leaves the list first. -/
theorem scoreUpdates : Obligations.ScoreUpdates := by
  unfold Obligations.ScoreUpdates
  intro u s hu s0
  refine ⟨fun hclear => ?score, fun hclear => ?clear⟩
  case score =>
    intro r old v s1 s2 hok hst
    exact scoreUpdate_score hu hclear (r := r) rfl hok (y := s1) rfl hst
  case clear =>
    intro r b live hok hst
    refine ⟨scoreUpdate_clear_zero hu hclear (r := r) rfl hok hst, fun v1 hv1 hst1 hbit htok hlive => ?_⟩
    subst hv1
    obtain ⟨s', hexec, hmore, hlast⟩ := scoreUpdate_clear_one hu hclear (r := r) rfl hok htok hbit hlive rfl hst1
    obtain ⟨hbits, hlive', hmark, habove⟩ := clearedBlock_gives htok hbit hlive
    exact ⟨s', clearedBlock b u.tok, hexec, hbits, hlive', hmark, habove, hmore, hlast⟩

end Sys2Proof.Machine
end

section

/-! ## ATTN_COMMAND_FINAL (R132 to R134, R141, R147) -/

namespace Sys2Proof.Machine

/-! ### The queue of a pipe -/

theorem find_updWhere_att (l : List AttCmd) (h : Nat) {f : AttCmd → AttCmd} (hf : ∀ c, c.h = h → (f c).h = h) :
    (updWhere (fun c => c.h == h) f l).find? (fun c => c.h == h) = (l.find? (fun c => c.h == h)).map f := by
  induction l with
  | nil => rfl
  | cons y l ih =>
    have hcons : updWhere (fun c : AttCmd => c.h == h) f (y :: l) = (if (y.h == h) = true then f y else y) :: updWhere (fun c => c.h == h) f l := rfl
    by_cases hy : y.h = h
    · simp [hcons, hy, hf y hy]
    · simp [hcons, hy, ih]

theorem attOf_updAtt {s : State} {t h : Nat} {c : AttCmd} (hc : attOf s t h = some c) {f : AttCmd → AttCmd} (hf : ∀ c, c.h = h → (f c).h = h) :
    attOf (updAtt s t h f) t h = some (f c) := by
  rw [attOf, att_updAtt, find_updWhere_att _ _ hf]
  exact congrArg (Option.map f) hc

/-! ### The code of the last failed command (Table 5.10) -/

/-- Only the code of the last failed command changes: to the code of status st, where that is not 0. -/
def LastCode (s s' : State) (t : Nat) (st : BitVec 32) : Prop :=
  regF s' (oATTSTAT t) 15 12 = (if st.toNat / 2 ^ 28 = 0 then regF s (oATTSTAT t) 15 12 else st.toNat / 2 ^ 28) ∧
  RegsBut s s' [oATTSTAT t] ∧ { s' with tiles := s.tiles, bar0 := s.bar0 } = s

theorem tileOf_setLastSt (s : State) (t code u : Nat) : tileOf (setLastSt s t code) u = tileOf s u := by
  rw [setLastSt]
  split
  · rfl
  · rw [tileOf, setF_tiles, ← tileOf]

theorem grp_setLastSt (s : State) (t code u k : Nat) : grp (setLastSt s t code) u k = grp s u k := by
  rw [grp, tileOf_setLastSt, grp]

theorem attOf_setLastSt (s : State) (t code u h : Nat) : attOf (setLastSt s t code) u h = attOf s u h := by
  rw [attOf, tileOf_setLastSt, attOf]

theorem setLastSt_zero (s : State) (t : Nat) : setLastSt s t 0 = s := if_pos rfl

theorem setF_tilesFrame (s : State) (o hi lo x : Nat) : { setF s o hi lo x with tiles := s.tiles, bar0 := s.bar0 } = s := rfl

theorem lastCode_setLastSt (s : State) (t : Nat) (st : BitVec 32) : LastCode s (setLastSt s t (st.toNat / 2 ^ 28)) t st := by
  have hlt : st.toNat / 2 ^ 28 < 2 ^ (15 + 1 - 12) := Nat.div_lt_of_lt_mul st.isLt
  rw [setLastSt]
  split
  · next h0 => exact ⟨(if_pos h0).symm, fun _ _ => rfl, rfl⟩
  · next h0 =>
    refine ⟨?_, fun o ho => reg_setF_ne s _ _ _ (by simpa using ho), setF_tilesFrame s _ _ _ _⟩
    rw [regF_setF_self _ _ _ _ _ (by decide), Nat.mod_eq_of_lt hlt, if_neg h0]

theorem LastCode.congr {s s1 y z : State} {t : Nat} {st : BitVec 32} (h : LastCode s1 y t st) (hs : TilesOnly s s1) (hz : TilesOnly y z) :
    LastCode s z t st := by
  obtain ⟨hcode, hregs, hframe⟩ := h
  have hreg (o : Nat) : reg z o = reg y o := hz.reg o
  refine ⟨?_, fun o ho => ?_, ?_⟩
  · rw [regF, hreg, ← regF, hcode, regF, hs.reg, ← regF]
  · rw [hreg, hregs o ho, hs.reg]
  · exact (congrArg (fun x : State => { x with tiles := s.tiles, bar0 := s.bar0 }) hz :).trans
      ((congrArg (fun x : State => { x with tiles := s.tiles, bar0 := s.bar0 }) hframe :).trans
        ((congrArg (fun x : State => { x with bar0 := s.bar0 }) hs :)))

/-! ### Groups that wait -/

/-- The groups of tile t that wait for command h, with the registers for its status. -/
def attWaiters (s : State) (t h : Nat) : List (Nat × Nat) :=
  slots8.filterMap (fun g => match (grp s t g).wait with
    | .attnw h' wd => if h' = h then some (g, wd) else none
    | _ => none)

/-- What a group waits for, as the list of waiters has it. -/
def attWaiter (s : State) (t h g : Nat) : Option (Nat × Nat) :=
  match (grp s t g).wait with
  | .attnw h' wd => if h' = h then some (g, wd) else none
  | _ => none

theorem attWaiters_eq (s : State) (t h : Nat) : attWaiters s t h = slots8.filterMap (attWaiter s t h) := rfl

theorem attWaiter_none {s : State} {t h g : Nat} (hno : ∀ wd, (grp s t g).wait ≠ .attnw h wd) : attWaiter s t h g = none := by
  rw [attWaiter]
  split
  · next h' wd hw => exact if_neg (fun e : h' = h => hno wd (e ▸ hw))
  · rfl

theorem attWaiter_some {s : State} {t h g wd : Nat} (hw : (grp s t g).wait = .attnw h wd) : attWaiter s t h g = some (g, wd) := by
  simp only [attWaiter, hw, if_true]

theorem attWaiters_of_none {s : State} {t h : Nat} (hno : ∀ g < 8, ∀ wd, (grp s t g).wait ≠ .attnw h wd) : attWaiters s t h = [] :=
  List.filterMap_eq_nil_iff.2 (fun g hg => attWaiter_none (hno g (List.mem_range.1 hg)))

theorem attWaiters_of_one {s : State} {t h g wd : Nat} (hg : g < 8) (hw : (grp s t g).wait = .attnw h wd)
    (hno : ∀ k < 8, k ≠ g → ∀ wd', (grp s t k).wait ≠ .attnw h wd') : attWaiters s t h = [(g, wd)] := by
  obtain ⟨l, r, hl⟩ := List.append_of_mem (List.mem_range.2 hg)
  have hnodup : (l ++ g :: r).Nodup := hl ▸ List.nodup_range
  have hrest (k : Nat) (hk : k ∈ l ++ r) : attWaiter s t h k = none := by
    have hmem : k ∈ List.range 8 := by
      rw [hl]
      rcases List.mem_append.1 hk with hk | hk <;> simp [hk]
    refine attWaiter_none (hno k (List.mem_range.1 hmem) ?_)
    rintro rfl
    exact (List.nodup_middle.1 hnodup).notMem hk
  rw [attWaiters_eq, slots8, hl, List.filterMap_append, List.filterMap_cons_some (attWaiter_some hw),
    List.filterMap_eq_nil_iff.2 (fun k hk => hrest k (List.mem_append_left r hk)),
    List.filterMap_eq_nil_iff.2 (fun k hk => hrest k (List.mem_append_right l hk)), List.nil_append]

theorem attWaiters_setLastSt (s : State) (t code h : Nat) : attWaiters (setLastSt s t code) t h = attWaiters s t h := by
  simp only [attWaiters, grp_setLastSt]

/-! ### A command is final (R132, R134) -/

/-- A final entry of the queue. -/
def finalEntry (st : BitVec 32) (c : AttCmd) : AttCmd := { c with phase := .final st, outs := [], devOuts := [] }

theorem attFinal_eq (s : State) (t h : Nat) (st : BitVec 32) : attFinal s t h st =
    let y := setLastSt s t (st.toNat / 2 ^ 28)
    let z := (attWaiters s t h).foldl (fun s w => updGroup s t w.1 (fun g => wake (rsetActive g w.2 st))) y
    if attWaiters s t h != [] || (attOf s t h).any (·.orphan) then updTile z t (fun x => { x with att := x.att.filter (fun c => c.h != h) })
    else updAtt z t h (finalEntry st) := by
  rw [attFinal, ← attOf_setLastSt s t (st.toNat / 2 ^ 28) t h, ← attWaiters_setLastSt s t (st.toNat / 2 ^ 28) h]
  rfl

/-- No group waits for the command, and its issuer has not ended. -/
theorem attFinal_quiet {s : State} {t h : Nat} {c : AttCmd} (hc : attOf s t h = some c) (hno : ∀ g < 8, ∀ wd, (grp s t g).wait ≠ .attnw h wd)
    (horphan : c.orphan = false) (st : BitVec 32) : attFinal s t h st = updAtt (setLastSt s t (st.toNat / 2 ^ 28)) t h (finalEntry st) := by
  rw [attFinal_eq, attWaiters_of_none hno, hc]
  simp only [List.foldl_nil, bne_self_eq_false, Option.any_some, horphan, Bool.or_self, Bool.false_eq_true, if_false]

/-- One group waits for the command. -/
theorem attFinal_one {s : State} {t h g wd : Nat} (hg : g < 8) (hw : (grp s t g).wait = .attnw h wd)
    (hno : ∀ k < 8, k ≠ g → ∀ wd', (grp s t k).wait ≠ .attnw h wd') (st : BitVec 32) :
    attFinal s t h st = updTile (updGroup (setLastSt s t (st.toNat / 2 ^ 28)) t g (fun y => wake (rsetActive y wd st))) t
      (fun x => { x with att := x.att.filter (fun c => c.h != h) }) := by
  rw [attFinal_eq, attWaiters_of_one hg hw hno]
  exact if_pos rfl

/-- What a final command leaves of its tile, where no group waits. -/
theorem attFinal_quiet_gives {s : State} {t h : Nat} {c : AttCmd} (hc : attOf s t h = some c)
    (hno : ∀ g < 8, ∀ wd, (grp s t g).wait ≠ .attnw h wd) (horphan : c.orphan = false) {st : BitVec 32} {s' : State}
    (hs' : attFinal s t h st = s') :
    LastCode s s' t st ∧ attOf s' t h = some (finalEntry st c) ∧ { tileOf s' t with att := (tileOf s t).att } = tileOf s t := by
  rw [attFinal_quiet hc hno horphan st] at hs'
  rw [← hs']
  refine ⟨(lastCode_setLastSt s t st).congr rfl (tilesOnly_updAtt _ t h _), ?_, ?_⟩
  · exact attOf_updAtt ((attOf_setLastSt s t _ t h).trans hc) (fun _ hh => hh)
  · rw [updAtt, tileOf_updTile_self, tileOf_setLastSt]

/-- What it leaves where one group waits. -/
theorem attFinal_one_gives {s : State} {t h g wd : Nat} (hg : g < 8) (hw : (grp s t g).wait = .attnw h wd) (hwd : wd < 128)
    (hno : ∀ k < 8, k ≠ g → ∀ wd', (grp s t k).wait ≠ .attnw h wd') {st : BitVec 32} {s' : State}
    (hs' : attFinal s t h st = s') :
    LastCode s s' t st ∧ attOf s' t h = none ∧ (tileOf s' t).mem = (tileOf s t).mem ∧ (grp s' t g).st = .ready ∧ (grp s' t g).wait = .none ∧
    (grp s' t g).pc = (grp s t g).pc ∧ ActiveGive (grp s t g) (grp s' t g) wd 1 (fun _ _ => st) ∧ ∀ k ≠ g, grp s' t k = grp s t k := by
  rw [attFinal_one hg hw hno st] at hs'
  generalize hf : (fun y => wake (rsetActive y wd st)) = f at hs'
  generalize hy : setLastSt s t (st.toNat / 2 ^ 28) = y at hs'
  have hygrp (k : Nat) : grp y t k = grp s t k := by rw [← hy, grp_setLastSt]
  have hkept (k : Nat) : grp s' t k = grp (updGroup y t g f) t k := (congrArg (fun z => grp z t k) hs'.symm).trans (grp_updTile rfl t k)
  have hself : grp s' t g = wake (rsetActive (grp s t g) wd st) := by rw [hkept, grp_updGroup_self, hygrp, ← hf]
  refine ⟨?_, ?_, ?_, by rw [hself]; rfl, by rw [hself]; rfl, ?_, ?_, fun k hk => ?_⟩
  · rw [← hs']
    exact (hy ▸ lastCode_setLastSt s t st).congr rfl ((tilesOnly_updTile y t _).trans (tilesOnly_updTile _ t _))
  · rw [← hs', attOf, tileOf_updTile_self]
    exact List.find?_eq_none.2 (fun c hc => by simpa using List.of_mem_filter hc)
  · rw [← hs', tileOf_updTile_self]
    exact (mem_setGroup y t g _).trans (by rw [← hy, tileOf_setLastSt])
  · rw [hself]
    exact pc_rsetActive _ _ _
  · rw [hself]
    exact (activeGive_rsetActive (grp s t g) wd st hwd).of_regs rfl rfl rfl
  · rw [hkept, grp_updGroup_slot _ _ _ hk, hygrp]

end Sys2Proof.Machine
end

section

/-! ## The end of an attention command (R132 to R134, R141, R147) -/

namespace Sys2Proof.Machine

/-! ### The output in tile memory -/

/-- Bytes are written to the memory of tile t from address a on, and nothing else changes. -/
def Wrote (s s' : State) (t a : Nat) (bs : List Byte) : Prop :=
  TilesOnly s s' ∧ { tileOf s' t with mem := (tileOf s t).mem } = tileOf s t ∧
  ∀ b, Mem.byte (tileOf s' t).mem b = if a ≤ b ∧ b < a + bs.length then bs.getD (b - a) 0 else Mem.byte (tileOf s t).mem b

theorem wrote_nil (s : State) (t a : Nat) : Wrote s s t a [] :=
  ⟨rfl, rfl, fun b => (if_neg (by rw [List.length_nil]; omega)).symm⟩

theorem wrote_tmWrite {s : State} {t : Nat} (src a : Nat) (bs : List Byte) (herr : (tileOf s t).memErr = []) :
    Wrote s (tmWrite s t src (Mem.lay a bs)) t a bs := by
  rw [tmWrite_lay src a bs herr]
  refine ⟨rfl, ?_, fun b => ?_⟩
  · rw [tileOf_updTile_self]
  · rw [tileOf_updTile_self]
    exact Mem.byte_write _ a bs b

theorem Wrote.grp {s s' : State} {t a : Nat} {bs : List Byte} (h : Wrote s s' t a bs) (k : Nat) : grp s' t k = grp s t k :=
  (congrArg (fun x : Tile => groupOf x k) h.2.1 :)

theorem Wrote.attOf {s s' : State} {t a : Nat} {bs : List Byte} (h : Wrote s s' t a bs) (k : Nat) : attOf s' t k = attOf s t k :=
  (congrArg (fun x : Tile => x.att.find? (fun c : AttCmd => c.h == k)) h.2.1 :)

theorem Wrote.sends {s s' : State} {t a : Nat} {bs : List Byte} (h : Wrote s s' t a bs) : (tileOf s' t).sends = (tileOf s t).sends :=
  (congrArg Tile.sends h.2.1 :)

/-- A command that holds one range for tile memory, or none, writes it. -/
theorem wrote_attWrite {s : State} {t a : Nat} {bs : List Byte} {c : AttCmd} (hdev : c.devOuts = [])
    (hout : c.outs = [(a, bs)] ∧ (tileOf s t).memErr = [] ∨ c.outs = [] ∧ bs = []) : Wrote s (attWrite s t c) t a bs := by
  rw [attWrite, hdev, List.foldl_nil]
  rcases hout with ⟨houts, herr⟩ | ⟨houts, rfl⟩
  · rw [houts, List.foldl_cons, List.foldl_nil]
    exact wrote_tmWrite 2 a bs herr
  · rw [houts, List.foldl_nil]
    exact wrote_nil s t a

/-! ### The command is final -/

section

variable {s : State} {t h : Nat} {c : AttCmd}

theorem execAttnCommandFinal_done {st : BitVec 32} (hc : attOf s t h = some c) (hph : c.phase = .done st) :
    exec (.attnCommandFinal t h) s = .next (whole s (attDone s t h c st)) := by
  rw [exec, execAttnCommandFinal]
  simp only [hc, hph]

theorem attDone_none {st : BitVec 32} (hmsg : c.msg = none) : attDone s t h c st = attFinal (attWrite s t c) t h st := by
  rw [attDone]
  simp only [hmsg]

theorem LastCode.stalled {s s' : State} {st : BitVec 32} (hl : LastCode s s' t st) : s'.stalled = s.stalled := (congrArg State.stalled hl.2.2 :)

/-- No group waits for the command, and its issuer has not ended: what a final entry leaves, as its own state and the one before say. -/
theorem final_quiet {y : State} (hc : attOf s t h = some c) (hno : ∀ g < 8, ∀ wd, (grp s t g).wait ≠ .attnw h wd) (horphan : c.orphan = false)
    (htiles : TilesOnly s y) (hgrp : ∀ k, grp y t k = grp s t k) (hatt : attOf y t h = attOf s t h) {st : BitVec 32} {s' : State}
    (hs' : attFinal y t h st = s') :
    LastCode s s' t st ∧ attOf s' t h = some (finalEntry st c) ∧ (∀ k, grp s' t k = grp s t k) ∧ (tileOf s' t).mem = (tileOf y t).mem ∧
    (tileOf s' t).sends = (tileOf y t).sends := by
  obtain ⟨hlast, hentry, htile⟩ := attFinal_quiet_gives (hatt.trans hc) (fun g hg wd hw => hno g hg wd (hgrp g ▸ hw)) horphan hs'
  exact ⟨hlast.congr htiles rfl, hentry, fun k => (congrArg (fun x : Tile => groupOf x k) htile :).trans (hgrp k), (congrArg Tile.mem htile :),
    (congrArg Tile.sends htile :)⟩

/-- The output written and the entry final, with no group waiting. -/
theorem done_quiet {st : BitVec 32} {a : Nat} {bs : List Byte} (hc : attOf s t h = some c) (hst : s.stalled = false) (hph : c.phase = .done st)
    (hmsg : c.msg = none) (hdev : c.devOuts = []) (houts : c.outs = [(a, bs)]) (herr : (tileOf s t).memErr = [])
    (hno : ∀ g < 8, ∀ wd, (grp s t g).wait ≠ .attnw h wd) (horphan : c.orphan = false) :
    ∃ s', exec (.attnCommandFinal t h) s = .next s' ∧ LastCode s s' t st ∧
      (∀ b, Mem.byte (tileOf s' t).mem b = if a ≤ b ∧ b < a + bs.length then bs.getD (b - a) 0 else Mem.byte (tileOf s t).mem b) ∧
      attOf s' t h = some { c with phase := .final st, outs := [] } ∧ ∀ k, grp s' t k = grp s t k := by
  have hwrote := wrote_attWrite (s := s) (t := t) hdev (.inl ⟨houts, herr⟩)
  generalize hs' : attFinal (attWrite s t c) t h st = s'
  obtain ⟨hlast, hentry, hgrp, hmem, -⟩ := final_quiet hc hno horphan hwrote.1 hwrote.grp (hwrote.attOf h) hs'
  have hentry' : finalEntry st c = { c with phase := .final st, outs := [] } := by rw [finalEntry, hdev]
  rw [execAttnCommandFinal_done hc hph, attDone_none hmsg, hs', whole_of_not_stalled (hlast.stalled.trans hst)]
  exact ⟨_, rfl, hlast, fun b => hmem ▸ hwrote.2.2 b, hentry' ▸ hentry, hgrp⟩

/-- The output written, and the status given to the group that waits. -/
theorem done_waited {st : BitVec 32} {a g wd : Nat} {bs : List Byte} (hc : attOf s t h = some c) (hst : s.stalled = false) (hph : c.phase = .done st)
    (hmsg : c.msg = none) (hdev : c.devOuts = []) (houts : c.outs = [(a, bs)]) (herr : (tileOf s t).memErr = []) (hg : g < 8)
    (hw : (grp s t g).wait = .attnw h wd) (hwd : wd < 128) (hno : ∀ k < 8, k ≠ g → ∀ wd', (grp s t k).wait ≠ .attnw h wd') :
    ∃ s', exec (.attnCommandFinal t h) s = .next s' ∧ LastCode s s' t st ∧
      (∀ b, Mem.byte (tileOf s' t).mem b = if a ≤ b ∧ b < a + bs.length then bs.getD (b - a) 0 else Mem.byte (tileOf s t).mem b) ∧
      attOf s' t h = none ∧ (grp s' t g).st = .ready ∧ (grp s' t g).wait = .none ∧ (grp s' t g).pc = (grp s t g).pc ∧
      ActiveGive (grp s t g) (grp s' t g) wd 1 (fun _ _ => st) ∧ ∀ k ≠ g, grp s' t k = grp s t k := by
  have hwrote := wrote_attWrite (s := s) (t := t) hdev (.inl ⟨houts, herr⟩)
  generalize hs' : attFinal (attWrite s t c) t h st = s'
  obtain ⟨hlast, hnone, hmem, hready, hwait, hpc, hgive, hothers⟩ := attFinal_one_gives hg ((congrArg Group.wait (hwrote.grp g)).trans hw) hwd
    (fun k hk hkg wd' hkw => hno k hk hkg wd' (hwrote.grp k ▸ hkw)) hs'
  have hlast' := hlast.congr hwrote.1 rfl
  rw [hwrote.grp] at hpc hgive
  rw [execAttnCommandFinal_done hc hph, attDone_none hmsg, hs', whole_of_not_stalled (hlast'.stalled.trans hst)]
  exact ⟨_, rfl, hlast', fun b => hmem ▸ hwrote.2.2 b, hnone, hready, hwait, hpc, hgive, fun k hk => (hothers k hk).trans (hwrote.grp k)⟩

/-! ### A partial sent as a message (R141) -/

/-- An entry whose partial is on its way under handle k. -/
def sendingEntry (k : Nat) (st : BitVec 32) (c : AttCmd) : AttCmd := { c with phase := .sending k st, outs := [], devOuts := [], msg := none }

/-- The partial as a message in the send list. -/
def withSend (s : State) (t h k : Nat) (c : AttCmd) (m : AttMsg) (st : BitVec 32) : State :=
  updAtt (updTile s t (fun x => { x with sends := x.sends ++ [attSend c m k] })) t h (sendingEntry k st)

theorem attDone_some {st : BitVec 32} {m : AttMsg} {k : Nat} (hmsg : c.msg = some m)
    (hpick : pick s 32 (handleFree (tileOf s t)) = some (k, { s with fresh := s.fresh + 1 })) :
    attDone s t h c st = withSend (attWrite { s with fresh := s.fresh + 1 } t c) t h k c m st := by
  rw [attDone]
  simp only [hmsg, hpick]
  rfl

theorem withSend_gives {y s' : State} (hc : attOf y t h = some c) {k : Nat} {m : AttMsg} {st : BitVec 32} (hs' : withSend y t h k c m st = s') :
    TilesOnly y s' ∧ attOf s' t h = some (sendingEntry k st c) ∧ (tileOf s' t).mem = (tileOf y t).mem ∧
    (tileOf s' t).sends = (tileOf y t).sends ++ [attSend c m k] := by
  have htile : tileOf s' t = { tileOf y t with
      sends := (tileOf y t).sends ++ [attSend c m k], att := updWhere (fun c => c.h == h) (sendingEntry k st) (tileOf y t).att } := by
    rw [← hs', withSend, updAtt, tileOf_updTile_self, tileOf_updTile_self]
  refine ⟨hs' ▸ (tilesOnly_updTile y t _).trans (tilesOnly_updAtt _ t h _), ?_, by rw [htile], by rw [htile]⟩
  rw [← hs']
  refine attOf_updAtt ?_ (fun _ hh => hh)
  rw [attOf, tileOf_updTile_self, ← attOf, hc]

theorem done_sends {st : BitVec 32} {m : AttMsg} {a : Nat} {bs : List Byte} (hc : attOf s t h = some c) (hst : s.stalled = false)
    (hph : c.phase = .done st) (hmsg : c.msg = some m) (hdev : c.devOuts = [])
    (hout : c.outs = [(a, bs)] ∧ (tileOf s t).memErr = [] ∨ c.outs = [] ∧ bs = []) (hfree : ∃ k < 32, ∀ y ∈ (tileOf s t).sends, y.h ≠ k) :
    ∃ s' k, exec (.attnCommandFinal t h) s = .next s' ∧ { s' with tiles := s.tiles, fresh := s.fresh } = s ∧ k < 32 ∧
      (∀ y ∈ (tileOf s t).sends, y.h ≠ k) ∧ attOf s' t h = some { c with phase := .sending k st, outs := [], msg := none } ∧
      (∀ b, Mem.byte (tileOf s' t).mem b = if a ≤ b ∧ b < a + bs.length then bs.getD (b - a) 0 else Mem.byte (tileOf s t).mem b) ∧
      (tileOf s' t).sends = (tileOf s t).sends ++ [attSend c m k] := by
  obtain ⟨k0, hk0, hfree0⟩ := hfree
  obtain ⟨k, hpick, hk, hkfree⟩ := pick_eq_some s ⟨k0, hk0, handleFree_iff.2 hfree0⟩
  have hwrote := wrote_attWrite (s := { s with fresh := s.fresh + 1 }) (t := t) hdev hout
  generalize hs' : withSend (attWrite { s with fresh := s.fresh + 1 } t c) t h k c m st = s'
  obtain ⟨htiles, hentry, hmem, hsends⟩ := withSend_gives ((hwrote.attOf h).trans hc) hs'
  have hall := hwrote.1.trans htiles
  have hentry' : sendingEntry k st c = { c with phase := .sending k st, outs := [], msg := none } := by rw [sendingEntry, hdev]
  have hgo : s'.stalled = false := (congrArg State.stalled hall :).trans hst
  rw [execAttnCommandFinal_done hc hph, attDone_some hmsg hpick, hs', whole_of_not_stalled hgo]
  refine ⟨s', k, rfl, (congrArg (fun y : State => { y with fresh := s.fresh }) hall :), hk, handleFree_iff.1 hkfree, hentry' ▸ hentry, fun b => ?_, ?_⟩
  · rw [hmem]
    exact hwrote.2.2 b
  · rw [hsends, hwrote.sends]
    rfl

/-- The status of a command whose message is final with status y: code 9 where it was not delivered. -/
def sentStatus (y : Nat) (st : BitVec 32) : BitVec 32 := if y = 0 then st else BitVec.ofNat 32 (9 * 2 ^ 28 + st.toNat % 2 ^ 28)

theorem sending_final {st : BitVec 32} {k y : Nat} {e : Send} (hc : attOf s t h = some c) (hph : c.phase = .sending k st)
    (he : sendOf s t k = some e) (hy : e.phase = .final y) (hno : ∀ g < 8, ∀ wd, (grp s t g).wait ≠ .attnw h wd) (horphan : c.orphan = false) :
    ∃ s', exec (.attnCommandFinal t h) s = .next s' ∧ LastCode s s' t (sentStatus y st) ∧
      attOf s' t h = some (finalEntry (sentStatus y st) c) ∧ sendOf s' t k = none := by
  generalize hz : updTile s t (fun x => { x with sends := x.sends.filter (fun m => m.h != k) }) = z
  generalize hs' : attFinal z t h (sentStatus y st) = s'
  have hexec : exec (.attnCommandFinal t h) s = .next s' := by
    rw [exec, execAttnCommandFinal, ← hs']
    simp only [hc, hph, he, hy, hz]
    rfl
  have htile : tileOf z t = { tileOf s t with sends := (tileOf s t).sends.filter (fun m => m.h != k) } := by rw [← hz, tileOf_updTile_self]
  obtain ⟨hlast, hentry, -, -, hsends⟩ := final_quiet hc hno horphan (hz ▸ tilesOnly_updTile s t _)
    (fun k => (congrArg (fun x : Tile => groupOf x k) htile :)) (congrArg (fun x : Tile => x.att.find? (fun c : AttCmd => c.h == h)) htile :) hs'
  refine ⟨s', hexec, hlast, hentry, ?_⟩
  rw [sendOf, hsends, htile]
  exact List.find?_eq_none.2 (fun m hm => by simpa using List.of_mem_filter hm)

/-! ### The pages released (R147) -/

theorem length_releasedBytes (l : List Nat) : (l.flatMap (fun n => leBytes 4 n)).length = 4 * l.length := by
  rw [List.length_flatMap]
  simp [leBytes_length, Nat.mul_comm]

theorem code_attStatus_zero (n : Nat) : (attStatus 0 0 n).toNat / 2 ^ 28 = 0 := by
  rw [attStatus, BitVec.toNat_ofNat]
  omega

theorem updating_final {st : BitVec 32} (hc : attOf s t h = some c) (hph : c.phase = .updating st) (hupds : ∀ u ∈ s.upds, ¬ (u.t = t ∧ u.h = h))
    (hno : ∀ g < 8, ∀ wd, (grp s t g).wait ≠ .attnw h wd) (horphan : c.orphan = false) (hcode : st.toNat / 2 ^ 28 = 0)
    (herr : (tileOf s t).memErr = []) :
    ∃ s', exec (.attnCommandFinal t h) s = .next s' ∧ { s' with tiles := s.tiles } = s ∧
      attOf s' t h = some (finalEntry (attStatus 0 0 c.released.length) c) ∧
      ∀ b, Mem.byte (tileOf s' t).mem b = if c.freeOut ≤ b ∧ b < c.freeOut + 4 * c.released.length then
        (c.released.flatMap (fun n => leBytes 4 n)).getD (b - c.freeOut) 0 else Mem.byte (tileOf s t).mem b := by
  generalize hout : c.released.flatMap (fun n => leBytes 4 n) = out
  generalize hy : (if (out != []) = true then tmWrite s t 2 (Mem.lay c.freeOut out) else s) = y
  have hwrote : Wrote s y t c.freeOut out := by
    rw [← hy]
    split
    · exact wrote_tmWrite 2 _ out herr
    · next hnil =>
      have hnil' : out = [] := by simpa using hnil
      rw [hnil']
      exact wrote_nil s t _
  have hnone : s.upds.any (fun u => u.t == t && u.h == h) = false := by
    rw [List.any_eq_false]
    intro u hu
    simpa using hupds u hu
  generalize hs' : attFinal y t h (attStatus 0 0 c.released.length) = s'
  have hexec : exec (.attnCommandFinal t h) s = .next s' := by
    rw [exec, execAttnCommandFinal, ← hs']
    simp only [hc, hph, hnone, hout, scoreStatus, hcode, decide_true, Bool.true_and, hy, Bool.false_eq_true, if_false, if_true]
  obtain ⟨-, hentry, -, hmem, -⟩ := final_quiet hc hno horphan hwrote.1 hwrote.grp (hwrote.attOf h) hs'
  have htiles : TilesOnly y s' := by
    rw [← hs', attFinal_quiet ((hwrote.attOf h).trans hc) (fun g hg wd hw => hno g hg wd (hwrote.grp g ▸ hw)) horphan, code_attStatus_zero, setLastSt_zero]
    exact tilesOnly_updAtt y t h _
  refine ⟨_, hexec, hwrote.1.trans htiles, hentry, fun b => ?_⟩
  rw [hmem, hwrote.2.2 b, ← hout, length_releasedBytes]

end

/-- Settles O25: the output is in tile memory before the entry is final, and a status goes to the waiting group or stays in the entry. -/
theorem attentionFinal : Obligations.AttentionFinal := by
  unfold Obligations.AttentionFinal
  intro t h c s hc hst x waits lastst
  refine ⟨?done, ?sends, ?sending, ?updating⟩
  case done =>
    intro st a bs hph hmsg hdev houts herr mem'
    refine ⟨fun hno horphan => ?_, fun g hg wd hw hwd hno => ?_⟩
    · exact done_quiet hc hst hph hmsg hdev houts herr hno horphan
    · exact done_waited hc hst hph hmsg hdev houts herr hg hw hwd hno
  case sends =>
    intro st m a bs hph hmsg hdev hout hfree
    obtain ⟨s', k, hexec, hframe, hk, hkfree, hentry, hmem, hsends⟩ := done_sends hc hst hph hmsg hdev hout hfree
    exact ⟨s', k, hexec, hframe, hk, hkfree, hentry, hmem, attSend c m k, hsends, rfl, rfl, rfl, rfl, rfl, rfl, rfl, rfl⟩
  case sending =>
    intro st k y e hph he hy hno horphan
    exact sending_final hc hph he hy hno horphan
  case updating =>
    intro st hph hupds hno horphan hcode herr
    exact updating_final hc hph hupds hno horphan hcode herr

end Sys2Proof.Machine
end

section

/-! ## The tiles of a batch (R152) -/

namespace Sys2Proof.Machine

/-! ### Queue 7 is opened -/

/-- Queue 7 of a tile under a batch. -/
def batchRing : Ring := { Ring.reset with base := ring7At, size := 4096 }

/-- Queue 7 of the tiles listed is opened, and nothing else changes. -/
def Opened (s s' : State) (ts : List Nat) : Prop :=
  TilesOnly s s' ∧ (∀ t ∈ ts, tileOf s' t = setRing (tileOf s t) 7 batchRing) ∧ ∀ t, t ∉ ts → tileOf s' t = tileOf s t

theorem Opened.setRing7 {s s' : State} {ts : List Nat} (h : Opened s s' ts) (t : Nat) : Opened s (setRing7 s' t true) (ts ++ [t]) := by
  obtain ⟨htiles, hin, hout⟩ := h
  have hring : Machine.setRing7 s' t true = updTile s' t (fun x => setRing x 7 batchRing) := rfl
  rw [hring]
  refine ⟨htiles.trans (tilesOnly_updTile s' t _), fun u hu => ?_, fun u hu => ?_⟩
  · by_cases hut : u = t
    · rw [hut, tileOf_updTile_self]
      by_cases ht : t ∈ ts
      · rw [hin t ht, setRing_setRing]
      · rw [hout t ht]
    · rw [tileOf_updTile_ne _ _ hut]
      exact hin u ((List.mem_append.1 hu).resolve_right (by simpa using hut))
  · rw [List.mem_append, not_or, List.mem_singleton] at hu
    rw [tileOf_updTile_ne _ _ hu.2, hout u hu.1]

theorem opened_foldl (s : State) (ts : List Nat) : Opened s (ts.foldl (fun s t => setRing7 s t true) s) ts := by
  induction ts using List.reverseRecOn with
  | nil => exact ⟨rfl, fun _ ht => absurd ht List.not_mem_nil, fun _ _ => rfl⟩
  | append_singleton ts t ih =>
    rw [List.foldl_append]
    exact ih.setRing7 t

/-! ### The tiles are released -/

/-- The lower half of a tile's memory, its groups and its arrays are as before. -/
def LowerSame (x y : Tile) : Prop :=
  (∀ a < 0x8_0000, Mem.byte y.mem a = Mem.byte x.mem a) ∧ y.groups = x.groups ∧ y.arrays = x.arrays

theorem LowerSame.refl (x : Tile) : LowerSame x x := ⟨fun _ _ => rfl, rfl, rfl⟩

theorem LowerSame.trans {x y z : Tile} (h : LowerSame x y) (h' : LowerSame y z) : LowerSame x z :=
  ⟨fun a ha => (h'.1 a ha).trans (h.1 a ha), h'.2.1.trans h.2.1, h'.2.2.trans h.2.2⟩

theorem lowerSame_setRing (x : Tile) (q : Nat) (r : Ring) : LowerSame x (setRing x q r) := ⟨fun _ _ => rfl, rfl, rfl⟩

/-- Queue 7 of the tiles listed is disabled and what R152 keeps of them is kept; free values may be drawn. -/
def Released (s s' : State) (ts : List Nat) : Prop :=
  { s' with tiles := s.tiles, fresh := s.fresh } = s ∧
  (∀ t ∈ ts, ringOf (tileOf s' t) 7 = Ring.reset ∧ LowerSame (tileOf s t) (tileOf s' t)) ∧ ∀ t, t ∉ ts → tileOf s' t = tileOf s t

/-- A tile as a batch leaves it, with the bytes b in the upper half of its memory. -/
def releasedTile (b : List Byte) (x : Tile) : Tile :=
  { setRing x 7 Ring.reset with mem := Mem.write x.mem 0x8_0000 b, memErr := x.memErr.filter (fun e => e.1 < 0x1_0000) }

/-- A tile changed, values drawn, and the tile changed again. -/
theorem updTile_fresh_updTile (s : State) (n t : Nat) (f g : Tile → Tile) :
    updTile { updTile s t f with fresh := n } t g = updTile { s with fresh := n } t (fun x => g (f x)) :=
  updTile_updTile { s with fresh := n } t f g

theorem undefineUpper_setRing7 (s : State) (t : Nat) : ∃ b, undefineUpper (setRing7 s t false) t =
    updTile { s with fresh := s.fresh + 0x1_0000 } t (releasedTile b) := by
  refine ⟨freeBytes s.fresh 0x8_0000, ?_⟩
  rw [undefineUpper, setRing7]
  exact updTile_fresh_updTile s (s.fresh + 0x1_0000) t (fun x => setRing x 7 Ring.reset) _

theorem releasedTile_gives (b : List Byte) (x : Tile) : ringOf (releasedTile b x) 7 = Ring.reset ∧ LowerSame x (releasedTile b x) :=
  ⟨ringOf_setRing_self x 7 Ring.reset, fun a ha => Mem.byte_write_out b x.mem 0x8_0000 a (.inl ha), rfl, rfl⟩

theorem Released.next {s s' : State} {ts : List Nat} (h : Released s s' ts) (t : Nat) :
    Released s (undefineUpper (setRing7 s' t false) t) (ts ++ [t]) := by
  obtain ⟨hframe, hin, hout⟩ := h
  obtain ⟨b, hb⟩ := undefineUpper_setRing7 s' t
  have hsame (u : Nat) : LowerSame (tileOf s u) (tileOf s' u) := by
    by_cases hu : u ∈ ts
    · exact (hin u hu).2
    · rw [hout u hu]
      exact LowerSame.refl _
  rw [hb]
  refine ⟨hframe, fun u hu => ?_, fun u hu => ?_⟩
  · by_cases hut : u = t
    · obtain ⟨hring, hlower⟩ := releasedTile_gives b (tileOf s' t)
      rw [hut, tileOf_updTile_self]
      exact ⟨hring, (hsame t).trans hlower⟩
    · rw [tileOf_updTile_ne _ _ hut]
      exact hin u ((List.mem_append.1 hu).resolve_right (by simpa using hut))
  · rw [List.mem_append, not_or, List.mem_singleton] at hu
    rw [tileOf_updTile_ne _ _ hu.2]
    exact hout u hu.1

theorem released_batchRelease (s : State) (ts : List Nat) : Released s (batchRelease s ts) ts := by
  rw [batchRelease]
  induction ts using List.reverseRecOn with
  | nil => exact ⟨rfl, fun _ ht => absurd ht List.not_mem_nil, fun _ _ => rfl⟩
  | append_singleton ts t ih =>
    rw [List.foldl_append]
    exact ih.next t

end Sys2Proof.Machine
end

section

/-! ## ATTN_BATCH (R150, R152, R155, R156) -/

namespace Sys2Proof.Machine

/-! ### A batch without sequences -/

theorem batchDone_zero (s : State) (p id : Nat) (ts : List Nat) (idx : Nat) : batchDone s p id ts 0 idx = complete (batchRelease s ts) p id 0 0 := if_pos rfl

theorem batchDone_code {code : Nat} (hcode : code ≠ 0) (s : State) (p id : Nat) (ts : List Nat) :
    batchDone s p id ts code 0 = complete (batchRelease s ts) p id 10 (code * 2 ^ 28) := by
  rw [batchDone, if_neg hcode, Nat.zero_mod, Nat.add_zero, batchEnd]

theorem readRecords_none {b : List Byte} (h : eNat b 12 4 = 0) (s : State) (p : Nat) : readRecords s p b = (s, [], []) := by
  simp only [readRecords, h, List.range_zero, List.foldl_nil]

theorem runPasses_none (s : State) (p : Nat) (b : List Byte) (ts : List Nat) : runPasses s p b ts [] = (s, []) := by
  have hb : buckets [] = [] := by decide
  simp only [runPasses, hb, batchPasses, List.length_nil, Nat.zero_le, if_true, List.range_zero, List.map_nil, List.foldl_cons, List.foldl_nil]

theorem ringSeqs_none {c : Cmd} (h : eNat c.args 12 4 = 0) : ringSeqs c = [] := by
  simp only [ringSeqs, h, List.range_zero, List.map_nil]

/-- A ring command at step r. -/
def atStep (r : Nat) (c : Cmd) : Cmd := { c with ring := some r }

/-- A step of a ring without sequences scans nothing and sends nothing. -/
theorem ringStep_none {c : Cmd} (h : eNat c.args 12 4 = 0) (s : State) (p r : Nat) :
    ringStep s p c r = updCmd s p c.id (atStep r) := by
  rw [ringStep, ringSeqs_none h]
  simp only [stepScans, List.foldl_nil, bne_self_eq_false, Bool.false_eq_true, if_false, ringSend, ringSeqs_none h, if_true, List.append_nil]
  rfl

theorem ringFinish_none {c : Cmd} (h : eNat c.args 12 4 = 0) (s : State) (p : Nat) :
    ringFinish s p c = complete (batchRelease s (entryRect c.entry 24)) p c.id 0 0 := by
  rw [ringFinish, ringSeqs_none h]
  exact batchDone_zero _ _ _ _ _

/-- No block is received for a ring without sequences. -/
theorem recvOpen_none {c : Cmd} (h : eNat c.args 12 4 = 0) (s : State) (r : Nat) : recvOpen s c r = false := by
  rw [recvOpen, ringSeqs_none h]
  refine List.any_eq_false.2 fun x _ => ?_
  simp [areaLen]

/-! ### The start of a batch -/

/-- What a batch does once its header h is read. -/
def headerGo (s : State) (p : Nat) (c : Cmd) (b : List Byte) : State :=
  let ts := entryRect c.entry 24
  if !hdrOk b then batchDone s p c.id ts 4 0
  else
    let q := readRecords s p b
    if hRing b then
      let f := firstFailure q.2.2
      if f.1 != 0 then batchDone q.1 p c.id ts f.1 f.2
      else
        let d := { c with ring := some 0, args := b ++ q.2.1.flatMap (·.record) }
        ringStep (updCmd q.1 p c.id (fun _ => d)) p d 0
    else
      let x := runPasses q.1 p b ts q.2.1
      let f := firstFailure (q.2.2 ++ x.2)
      batchDone x.1 p c.id ts f.1 f.2

theorem batchGo_read {y : State} {p : Nat} {c : Cmd} {h : State × List Byte × AccSt} (hok : batchEntryOk y p c.entry = true)
    (hh : devRead ((entryRect c.entry 24).foldl (fun s t => setRing7 s t true) y) (dispWho p) (eNat c.entry 16 6) 64 = h) (hst : h.2.2.st = .ok) :
    batchGo p y c = headerGo h.1 p c h.2.1 := by
  have hcode : accCode h.2.2 = 0 := by rw [accCode, hst]
  rw [batchGo]
  dsimp only
  rw [hh, hok, hcode]
  rfl

theorem headerGo_bad {b : List Byte} (hb : hdrOk b = false) (s : State) (p : Nat) (c : Cmd) :
    headerGo s p c b = complete (batchRelease s (entryRect c.entry 24)) p c.id 10 (4 * 2 ^ 28) := by
  rw [headerGo, hb]
  exact batchDone_code (code := 4) (by decide) s p c.id _

theorem headerGo_empty {b : List Byte} (hb : hdrOk b = true) (hn : eNat b 12 4 = 0) (hring : hRing b = false) (s : State) (p : Nat) (c : Cmd) :
    headerGo s p c b = complete (batchRelease s (entryRect c.entry 24)) p c.id 0 0 := by
  have hnone : firstFailure [] = (0, 0) := rfl
  rw [headerGo, hb, hring, readRecords_none hn]
  simp only [Bool.not_true, Bool.false_eq_true, if_false, runPasses_none, List.append_nil, hnone, batchDone_zero]

/-- The command of a batch on a ring, waiting for its steps. -/
def ringCommand (b : List Byte) (c : Cmd) : Cmd := { c with ring := some 0, args := b }

theorem headerGo_ring {b : List Byte} (hb : hdrOk b = true) (hn : eNat b 12 4 = 0) (hring : hRing b = true) (s : State) (p : Nat) (c : Cmd) :
    headerGo s p c b = updCmd (updCmd s p c.id (fun _ => ringCommand b c)) p c.id (atStep 0) := by
  have hnil : b ++ ([] : List BSeq).flatMap (·.record) = b := List.append_nil b
  rw [headerGo, hb, hring, readRecords_none hn]
  dsimp only
  rw [hnil]
  exact ringStep_none (c := ringCommand b c) hn _ p 0

end Sys2Proof.Machine
end

section

/-! ## Batches from their start to their end (R150, R152, R155, R156) -/

namespace Sys2Proof.Machine

/-! ### The start of a batch -/

/-- Queue 7 of the tiles listed is open, and the other tiles are as before. -/
def OpenedTiles (s z : State) (ts : List Nat) : Prop :=
  (∀ t ∈ ts, tileOf z t = setRing (tileOf s t) 7 batchRing) ∧ ∀ t, t ∉ ts → tileOf z t = tileOf s t

/-- What is as before of the tiles listed when a batch has released them (R152), and of the others. -/
def ReleasedTiles (s s' : State) (ts : List Nat) : Prop :=
  (∀ t ∈ ts, ringOf (tileOf s' t) 7 = Ring.reset ∧ LowerSame (tileOf s t) (tileOf s' t)) ∧ ∀ t, t ∉ ts → tileOf s' t = tileOf s t

theorem Released.tiles {s r : State} {ts : List Nat} (h : Released s r ts) : ReleasedTiles s r ts := ⟨h.2.1, h.2.2⟩

theorem ReleasedTiles.of_opened {s z r : State} {ts : List Nat} (hz : OpenedTiles s z ts) (h : ReleasedTiles z r ts) : ReleasedTiles s r ts := by
  obtain ⟨hin, hout⟩ := hz
  refine ⟨fun t ht => ?_, fun t ht => (h.2 t ht).trans (hout t ht)⟩
  obtain ⟨hring, hlower⟩ := h.1 t ht
  rw [hin t ht] at hlower
  exact ⟨hring, (lowerSame_setRing (tileOf s t) 7 batchRing).trans hlower⟩

theorem ReleasedTiles.congr {s r s' : State} {ts : List Nat} (h : ReleasedTiles s r ts) (htiles : s'.tiles = r.tiles) : ReleasedTiles s s' ts := by
  have htile (t : Nat) : tileOf s' t = tileOf r t := by rw [tileOf, htiles, tileOf]
  refine ⟨fun t ht => ?_, fun t ht => (htile t).trans (h.2 t ht)⟩
  rw [htile]
  exact h.1 t ht

/-- Tiles and free values are nothing that a command under way goes by. -/
theorem UnderWay.tileFrame {s y z : State} {p sq : Nat} {e : SqEntry} {c : Cmd} (h : UnderWay s y p sq e c)
    (hz : { z with tiles := y.tiles, fresh := y.fresh } = y) : UnderWay s z p sq e c :=
  h.frame (l := []) (fun o _ => (congrArg (fun x : State => reg x o) hz :)) (fun _ _ => List.not_mem_nil) (congrArg State.asm hz :) (congrArg State.irqs hz :)
    (congrArg State.parts hz :) (congrArg State.stalled hz :)

theorem TilesOnly.tileFrame {s y : State} (h : TilesOnly s y) : { y with tiles := s.tiles, fresh := s.fresh } = s :=
  (congrArg (fun x : State => { x with fresh := s.fresh }) h :)

/-- A valid batch that need not wait starts: queue 7 of its tiles is open and its header is read. -/
theorem CanStart.batch_begins {s : State} {p sq kh : Nat} {e : SqEntry} (hs : CanStart s p sq e) (h8 : p ≠ 8) (hop : eOp e.bytes = 3)
    (hok : batchEntryOk s p e.bytes = true) (hwait : batchWaits s e = false) (hr : HostRange s (some p) (eNat e.bytes 16 6) 64 kh) :
    ∃ z, exec (.attnBatch p sq) s = .next (whole s (advance (headerGo z p (startedCmd s p sq e) (Mem.read s.hostMem kh 64)) p)) ∧
      UnderWay s z p sq e (startedCmd s p sq e) ∧ z.hostMem = s.hostMem ∧ RegsBut s z (queueRegs s p sq) ∧
      OpenedTiles s z (entryRect e.bytes 24) := by
  obtain ⟨y, hstarting, hunder, hdev, hnoted⟩ := hs.starts h8 hop (by decide) (by simp [entryHeld, hop, hwait])
  have hexec : exec (.attnBatch p sq) s = .next (starting 3 s p sq (batchGo p)) := rfl
  have hopened := opened_foldl y (entryRect e.bytes 24)
  generalize hy1 : (entryRect e.bytes 24).foldl (fun s t => setRing7 s t true) y = y1 at hopened
  obtain ⟨htiles, hin, hout⟩ := hopened
  obtain ⟨hread, hun⟩ := (hunder.tileFrame htiles.tileFrame).dispRead hs h8 hr
  generalize hh : devRead y1 (dispWho p) (eNat e.bytes 16 6) 64 = h at hread hun
  obtain ⟨hro, hbytes, hst⟩ := hread
  have hmem : y1.hostMem = s.hostMem := (congrArg State.hostMem htiles :).trans (congrArg State.hostMem hdev.1 :)
  have htile (t : Nat) : tileOf y t = tileOf s t := by rw [tileOf, (congrArg State.tiles hdev.1 :), tileOf]
  have hread1 (t : Nat) : tileOf h.1 t = tileOf y1 t := by rw [tileOf, (congrArg State.tiles hro.1 :), tileOf]
  have hgo := batchGo_read (c := startedCmd s p sq e) ((hdev.batchEntryOk p e.bytes).trans hok) (hy1.symm ▸ hh) hst
  rw [hbytes, hmem] at hgo
  refine ⟨h.1, ?_, hun, hro.hostMem.trans hmem, fun o ho => ?_, fun t ht => ?_, fun t ht => ?_⟩
  · rw [hexec, hstarting, hgo]
  · have hcount : o ∉ [oBWRCNT p 3] := fun hm => ho (by simp [queueRegs, List.mem_singleton.1 hm])
    exact ((hro.2 o hcount).trans (htiles.reg o)).trans (hnoted.regsBut o ho)
  · rw [hread1, hin t ht, htile]
  · rw [hread1, hout t ht, htile]

/-- A batch that ends as its header is read (R150, R152): its completion, its tiles, and the registers it leaves alone. -/
theorem UnderWay.batch_completes {s z : State} {p sq key : Nat} {e : SqEntry} {c : Cmd} {ts : List Nat} (hs : CanStart s p sq e) (h8 : p ≠ 8)
    (hopen : CqOpen s p sq key) (hun : UnderWay s z p sq e c) (hmem : z.hostMem = s.hostMem) (hregs : RegsBut s z (queueRegs s p sq))
    (hz : OpenedTiles s z ts) (st det : Nat) {s' : State} (hs' : whole s (advance (complete (batchRelease z ts) p c.id st det) p) = s') :
    StartsAndCompletes s s' p sq key e st det [] ∧ ReleasedTiles s s' ts ∧ RegsBut s s' (queueRegs s p sq) := by
  have hrel := released_batchRelease z ts
  generalize batchRelease z ts = r at hrel hs'
  have hframe := hrel.1
  have hunr := hun.tileFrame hframe
  have hmemr : r.hostMem = s.hostMem := (congrArg State.hostMem hframe :).trans hmem
  obtain ⟨hdone, honly⟩ := hunr.completes (mem := s.hostMem) hs h8 hopen (fun a => by rw [hmemr]) st det
  rw [hs'] at hdone honly
  obtain ⟨hoframe, -, horegs⟩ := honly
  refine ⟨hdone, ((ReleasedTiles.of_opened hz hrel.tiles)).congr (congrArg State.tiles hoframe :), fun o ho => ?_⟩
  rw [queueRegs, hunr.1.cqOf, ← queueRegs] at horegs
  exact ((horegs o ho).trans (congrArg (fun x : State => reg x o) hframe :)).trans (hregs o ho)

/-- A batch on a ring without sequences waits for its ring steps. -/
theorem UnderWay.batch_waits {s z : State} {p sq : Nat} {e : SqEntry} {ts : List Nat} {b : List Byte} (hs : CanStart s p sq e) (h8 : p ≠ 8)
    (hun : UnderWay s z p sq e (startedCmd s p sq e)) (hregs : RegsBut s z (queueRegs s p sq)) (hz : OpenedTiles s z ts)
    (hb : hdrOk b = true) (hn : eNat b 12 4 = 0) (hring : hRing b = true) {s' : State}
    (hs' : whole s (advance (headerGo z p (startedCmd s p sq e) b) p) = s') :
    ∃ c, StartsAs s s' p sq e c ∧ c.ring = some 0 ∧ c.args = b ∧ OpenedTiles s s' ts ∧ RegsBut s s' (queueRegs s p sq) := by
  rw [headerGo_ring hb hn hring] at hs'
  have hun1 := hun.updCmd hs (f := fun _ => ringCommand b (startedCmd s p sq e)) ⟨rfl, rfl, rfl, rfl, rfl, rfl⟩
  have hun2 := hun1.updCmd hs (f := atStep 0) ⟨rfl, rfl, rfl, rfl, rfl, rfl⟩
  obtain ⟨hwhole, hstarts⟩ := hun2.stays hs h8 ⟨rfl, rfl⟩
  have hsame := hwhole.symm.trans hs'
  rw [← hsame]
  exact ⟨_, hstarts, rfl, rfl, hz, hregs⟩

/-! ### A ring command in flight -/

section

variable {s : State} {p r : Nat} {c : Cmd}

theorem ringCmd_some (hc : cmdOf s p c.id = some c) (hr : c.ring = some r) : ringCmd s p c.id = some (c, r) := by
  rw [ringCmd]
  simp only [hc, hr, Option.map_some]

/-- While the block is not whole or the Ebb sequence runs, no step ends. -/
theorem ringStepEnd_waits (hcmd : ringCmd s p c.id = some (c, r)) (hwait : recvOpen s c r = true ∨ ebbing s = true) :
    exec (.ringStepEnd p c.id) s = .next s := by
  have hor : (recvOpen s c r || ebbing s) = true := by simpa using hwait
  rw [exec, execRingStepEnd]
  simp only [hcmd, hor, if_true]

theorem ringStepEnd_next (hcmd : ringCmd s p c.id = some (c, r)) (hlt : r + 1 < hDevs c.args) (hn : eNat c.args 12 4 = 0) (hebb : ebbing s = false) :
    exec (.ringStepEnd p c.id) s = .next (whole s (updCmd s p c.id (atStep (r + 1)))) := by
  rw [exec, execRingStepEnd]
  simp only [hcmd, recvOpen_none hn, hebb, Bool.or_self, Bool.false_eq_true, if_false, hlt, if_true, ringStep_none hn]

theorem ringStepEnd_last (hcmd : ringCmd s p c.id = some (c, r)) (hle : hDevs c.args ≤ r + 1) (hn : eNat c.args 12 4 = 0) (hebb : ebbing s = false) :
    exec (.ringStepEnd p c.id) s = .next (whole s (complete (batchRelease s (entryRect c.entry 24)) p c.id 0 0)) := by
  rw [exec, execRingStepEnd]
  simp only [hcmd, recvOpen_none hn, hebb, Bool.or_self, Bool.false_eq_true, if_false, Nat.not_lt.2 hle, ringFinish_none hn]

/-- The successor's notice of a lost block (R156). -/
def noticed (s : State) (p : Nat) (c : Cmd) : State := { s with surf := { s.surf with notices := s.surf.notices ++ [(p, hNext c.args)] } }

theorem blockAbandon_ends (hcmd : ringCmd s p c.id = some (c, r)) :
    exec (.blockAbandon p c.id) s = .next (complete (batchRelease (noticed s p c) (entryRect c.entry 24)) p c.id 10 (6 * 2 ^ 28)) := by
  rw [exec, execBlockAbandon]
  simp only [hcmd]
  exact congrArg Host.Outcome.next (batchDone_code (code := 6) (by decide) (noticed s p c) p c.id _)

theorem ringStepEnd_gives (hc : cmdOf s p c.id = some c) (hr : c.ring = some r) (hst : s.stalled = false) (hlt : r + 1 < hDevs c.args)
    (hn : eNat c.args 12 4 = 0) (hebb : ebbing s = false) :
    ∃ s', exec (.ringStepEnd p c.id) s = .next s' ∧ cmdOf s' p c.id = some { c with ring := some (r + 1) } ∧ { s' with parts := s.parts } = s := by
  have hgo : (updCmd s p c.id (atStep (r + 1))).stalled = false := hst
  rw [ringStepEnd_next (ringCmd_some hc hr) hlt hn hebb, whole_of_not_stalled hgo]
  exact ⟨_, rfl, cmdOf_updCmd hc (f := atStep (r + 1)) (fun _ hid => hid), rfl⟩

/-- What a completion goes by stands where tiles, free values and the links' state change. -/
theorem sameQueue_of_frame {z : State} (sq : Nat) (hz : { z with tiles := s.tiles, fresh := s.fresh, surf := s.surf } = s) : SameQueue p sq s z := by
  have hreg (o : Nat) : reg z o = reg s o := (congrArg (fun x : State => reg x o) hz :)
  have hpart : partOf z p = partOf s p := (congrArg (fun x : State => partOf x p) hz :)
  have hfield (o hi lo : Nat) : regF z o hi lo = regF s o hi lo := by rw [regF, hreg, regF]
  refine ⟨(congrArg State.asm hz :), (congrArg State.irqs hz :), ⟨hreg _, hreg _, hreg _, hreg _⟩, hfield _ _ _, ⟨hfield _ _ _, hfield _ _ _⟩, ?_⟩
  rw [hpart]
  exact ⟨rfl, rfl, rfl, rfl⟩

/-- A command in flight completes after its tiles and the links' state have changed. -/
theorem InFlight.completes {key : Nat} {z s' : State} (hfl : InFlight s p c) (h8 : p ≠ 8) (hopen : CqOpen s p c.sq key)
    (hz : { z with tiles := s.tiles, fresh := s.fresh, surf := s.surf } = s) {st det : Nat} (hs' : complete z p c.id st det = s') :
    Ends s s' p key c st det [] ∧ RegsBut s s' (queueRegs s p c.sq) ∧ s'.tiles = z.tiles ∧ s'.surf = z.surf ∧ s'.stalled = s.stalled := by
  obtain ⟨-, hc, hrun, hent, hlen, hfence⟩ := hfl
  have hsame := sameQueue_of_frame (p := p) c.sq hz
  have hreg (o : Nat) : reg z o = reg s o := (congrArg (fun x : State => reg x o) hz :)
  have hpart : partOf z p = partOf s p := (congrArg (fun x : State => partOf x p) hz :)
  have hstate : pState z p = pState s p := by rw [pState, regF, hreg, ← regF, ← pState]
  have hc' : cmdOf z p c.id = some c := by rw [cmdOf, hpart]; exact hc
  have hent' (q : Nat) : entriesOf z p q = [] := by rw [entriesOf, hpart]; exact hent q
  have hfence' : NoFence z p c.id := by
    rw [NoFence, hpart]
    exact fun d hd _ => hfence d hd
  obtain ⟨hdone, ⟨hframe, -, hregs⟩, -, hcmds, -⟩ := complete_gives hc' (hopen.sameQueue hsame) hlen hfence' hent' (fun h => hstate.trans (hrun h)) st det
  rw [hs'] at hdone hframe hregs hcmds
  rw [cqEntry_congr (hreg oTGNOW)] at hdone
  rw [queueRegs, hsame.cqOf, ← queueRegs] at hregs
  have hmem : z.hostMem = s.hostMem := (congrArg State.hostMem hz :)
  refine ⟨⟨Completed.of_sameQueue hsame h8 (fun a => by rw [hmem]) hdone, hcmds.trans (by rw [hpart])⟩, fun o ho => (hregs o ho).trans (hreg o),
    (congrArg State.tiles hframe :), (congrArg State.surf hframe :), (congrArg State.stalled hframe :).trans (congrArg State.stalled hz :)⟩

/-- A batch in flight ends: its tiles are released, and nothing but its queue and the links' state changes. -/
theorem InFlight.batch_ends {key : Nat} {y s' : State} {ts : List Nat} (hfl : InFlight s p c) (h8 : p ≠ 8) (hopen : CqOpen s p c.sq key)
    (hy : { y with surf := s.surf } = s) {st det : Nat} (hs' : complete (batchRelease y ts) p c.id st det = s') :
    Ends s s' p key c st det [] ∧ ReleasedTiles s s' ts ∧ RegsBut s s' (queueRegs s p c.sq) ∧ s'.surf = y.surf ∧ s'.stalled = s.stalled := by
  have hrel := released_batchRelease y ts
  generalize batchRelease y ts = z at hrel hs'
  have hframe := hrel.1
  have hz : { z with tiles := s.tiles, fresh := s.fresh, surf := s.surf } = s :=
    (congrArg (fun x : State => { x with tiles := s.tiles, fresh := s.fresh, surf := s.surf }) hframe :).trans
      (congrArg (fun x : State => { x with tiles := s.tiles, fresh := s.fresh }) hy :)
  have htile (t : Nat) : tileOf y t = tileOf s t := (congrArg (fun x : State => tileOf x t) hy :)
  have htiles : ReleasedTiles s z ts := by
    obtain ⟨hin, hout⟩ := hrel.tiles
    exact ⟨fun t ht => htile t ▸ hin t ht, fun t ht => (hout t ht).trans (htile t)⟩
  obtain ⟨hends, hregs, htz, hsurf, hst⟩ := hfl.completes h8 hopen hz hs'
  exact ⟨hends, htiles.congr htz, hregs, hsurf.trans (congrArg State.surf hframe :), hst⟩

theorem ring_finishes {key : Nat} (hfl : InFlight s p c) (h8 : p ≠ 8) (hopen : CqOpen s p c.sq key) (hr : c.ring = some r) (hst : s.stalled = false)
    (hle : hDevs c.args ≤ r + 1) (hn : eNat c.args 12 4 = 0) (hebb : ebbing s = false) :
    ∃ s', exec (.ringStepEnd p c.id) s = .next s' ∧ Ends s s' p key c 0 0 [] ∧ ReleasedTiles s s' (entryRect c.entry 24) ∧
      RegsBut s s' (queueRegs s p c.sq) := by
  have hexec := ringStepEnd_last (ringCmd_some hfl.2.1 hr) hle hn hebb
  generalize hs' : complete (batchRelease s (entryRect c.entry 24)) p c.id 0 0 = s' at hexec
  obtain ⟨hends, htiles, hregs, -, hstall⟩ := hfl.batch_ends h8 hopen rfl hs'
  exact ⟨s', hexec.trans (congrArg Host.Outcome.next (whole_of_not_stalled (hstall.trans hst))), hends, htiles, hregs⟩

theorem ring_abandoned {key : Nat} (hfl : InFlight s p c) (h8 : p ≠ 8) (hopen : CqOpen s p c.sq key) (hr : c.ring = some r) :
    ∃ s', exec (.blockAbandon p c.id) s = .next s' ∧ Ends s s' p key c 10 (6 * 2 ^ 28) [] ∧ ReleasedTiles s s' (entryRect c.entry 24) ∧
      RegsBut s s' (queueRegs s p c.sq) ∧ s'.surf = { s.surf with notices := s.surf.notices ++ [(p, hNext c.args)] } := by
  have hexec := blockAbandon_ends (ringCmd_some hfl.2.1 hr)
  have hsurf' : (noticed s p c).surf = { s.surf with notices := s.surf.notices ++ [(p, hNext c.args)] } := rfl
  have hy : { noticed s p c with surf := s.surf } = s := rfl
  generalize noticed s p c = y at hexec hsurf' hy
  generalize hs' : complete (batchRelease y (entryRect c.entry 24)) p c.id 10 (6 * 2 ^ 28) = s' at hexec
  obtain ⟨hends, htiles, hregs, hsurf, -⟩ := hfl.batch_ends h8 hopen hy hs'
  exact ⟨s', hexec, hends, htiles, hregs, hsurf.trans hsurf'⟩

end

/-- Settles O48: a batch that ends releases its tiles and completes, and one on a ring goes from step to step in between. -/
theorem attentionBatches : Obligations.AttentionBatches := by
  unfold Obligations.AttentionBatches
  intro p sq key s h8 released
  refine ⟨?start, ?ring⟩
  case start =>
    intro e kh hs hopen hop hok hwait hr h ts
    obtain ⟨z, hexec, hun, hmem, hregs, hopened⟩ := hs.batch_begins h8 hop hok hwait hr
    refine ⟨fun hb => ?_, fun hb hn hring => ?_, fun hb hn hring => ?_⟩
    · rw [headerGo_bad hb] at hexec
      obtain ⟨hdone, htiles, hregs'⟩ := hun.batch_completes hs h8 hopen hmem hregs hopened 10 (4 * 2 ^ 28) rfl
      exact ⟨_, hexec, hdone, htiles, hregs'⟩
    · rw [headerGo_empty hb hn hring] at hexec
      obtain ⟨hdone, htiles, hregs'⟩ := hun.batch_completes hs h8 hopen hmem hregs hopened 0 0 rfl
      exact ⟨_, hexec, hdone, htiles, hregs'⟩
    · obtain ⟨c, hstarts, hcring, hargs, hopened', hregs'⟩ := hun.batch_waits hs h8 hregs hopened hb hn hring rfl
      refine ⟨_, c, hexec, hstarts, hcring, hargs, fun t ht => ?_, hopened'.2, hregs'⟩
      rw [hopened'.1 t ht]
      exact ringOf_setRing_self (tileOf s t) 7 batchRing
  case ring =>
    intro c r hc hr ts
    refine ⟨fun hst hlt hn hebb => ringStepEnd_gives hc hr hst hlt hn hebb, ringStepEnd_waits (ringCmd_some hc hr), fun hfl hopen => ?_⟩
    exact ⟨fun hst hle hn hebb => ring_finishes hfl h8 hopen hr hst hle hn hebb, ring_abandoned hfl h8 hopen hr⟩

end Sys2Proof.Machine
end
